-- ==== Sys2Proof/Word.lean ====
section
/-!
DEFINITION. The machine word, the byte, and the small vocabularies that name what an event of the device is about.
Sizes and byte order follow 00_scope.md R6 and 02_thread_state.md R35.
-/

namespace Sys2Proof

/-- A general register or memory doubleword (R35). -/
abbrev Word := BitVec 64

/-- The smallest addressable unit (R185). -/
abbrev Byte := BitVec 8

/-- A core coordinate: die in bits 8:7, row in 6:4, column in 3:0 (R15, R49). -/
abbrev Coord := BitVec 9

/-- A context identifier (R332). -/
abbrev CtxId := BitVec 16

/-- The registers of the configuration space that a write can name: a queue control block register (R249), a field of a
partition configuration block (R354, R355), an ownership entry (R336), an error counter (R396), the write index of an
error log (R398), the security status word (R363), an access-control entry (R260, R350), the binding of a virtual
function to a queue (R348). -/
inductive CfgReg where
  | queue (q : Nat) (off : Nat)
  | partition (p : BitVec 6) (off : Nat)
  | owner (granule : Nat)
  | errorCounter (unit : Nat) (row : Nat)
  | errorIndex (die : Nat)
  | securityStatus
  | peerAccess (entry : Nat)
  | vfQueue (q : Nat)
  | discardBase
  deriving DecidableEq, Repr

/-- What a peer device does with a hardware queue (R260): it writes one doubleword of the ring, or TAIL, or reads a status register of the control
block. -/
inductive PeerWrite where
  | packetWord (byteOff : Nat) (x : Word)
  | tail (x : BitVec 32)
  | status (off : Nat)
  deriving DecidableEq, Repr

/-- What a debugger asks for (R366). -/
inductive DebugOp where
  | enterFull
  | halt (t : Nat)
  | step (t : Nat)
  | resume (t : Nat)
  | readImage (t : Nat) (off : Nat)
  | writeImage (t : Nat) (off : Nat) (x : Word)
  | readCaddy (core : Coord) (off : Nat)
  | writeCaddy (core : Coord) (off : Nat) (x : Word)
  | readMem (ctx : CtxId) (va : Word)
  | writeMem (ctx : CtxId) (va : Word) (x : Word)
  | readPhys (pa : BitVec 52)
  | writePhys (pa : BitVec 52) (x : Word)
  | haltContext (ctx : CtxId)
  deriving DecidableEq, Repr

/-- The kinds of external link (R399). -/
inductive LinkKind where
  | host | pod | ucie
  deriving DecidableEq, Repr

/-- What a scrub finds at a protected unit (R395). -/
inductive ErrKind where
  | none | correctable | uncorrectable
  deriving DecidableEq, Repr, Inhabited

end Sys2Proof
end

