-- ==== Sys2Proof/Config.lean ====
section
/-!
DEFINITION. What the spec leaves to the implementation, to chance or to the world outside, as constants without a body: nothing can
be proved of their values. Those with a `fresh` argument are applied to the counter State.fresh, which each step advances, so that each
step sees values of its own; the further arguments say what the value is for. Log entry 4.
-/

namespace Sys2Proof.Config

/-- Core cycles that pass before a step (R14, R24: figures bound nothing). -/
opaque elapsedCycles : (fresh : Nat) → Nat

/-- Nanoseconds of device time that pass before a step (R30). -/
opaque elapsedNs : (fresh : Nat) → Nat

/-- Whether a not-owned L1 line, an L1 instruction line or a loop buffer is still present when an access comes to it (R189, R218). -/
opaque stillCached : (fresh addr : Nat) → Bool

/-- Whether a translation that a TLB holds is used, rather than a new walk (R345, R347). -/
opaque useTlb : (fresh va : Nat) → Bool

/-- Which of the lines or entries of a full cache gives its place to a new one: the spec names no replacement (R19, R22, R345). -/
opaque evict : (fresh addr : Nat) → Nat

/-- The set of an L2 slice in which a line stands (R22). -/
opaque l2Set : (line : Nat) → Nat

/-- The hash that chooses the slice whose share of the shared TLB is looked up, as a place in the list of slices (R345). -/
opaque tlbSlice : (slices : List Coord) → (ctx page : Nat) → Nat

/-- Whether a word that DISCARD gives up becomes zero; otherwise it keeps its prior value (R203). -/
opaque discardZero : (fresh word : Nat) → Bool

/-- The unpublished hash of a line over the slices of a partition, as a place in their list (R343). -/
opaque homeIndex : (slices : List Coord) → (line : Nat) → Nat

/-- Whether two free-mode partials that may be pre-combined are (R168). -/
opaque preCombines : (fresh i j : Nat) → Bool

/-- A byte of host memory (R348). -/
opaque hostByte : (fresh addr : Nat) → Byte

/-- A byte of a pod peer's memory (R350). -/
opaque podByte : (fresh addr : Nat) → Byte

/-- Whether the peer's access-control and ownership tables let an access through (R350). -/
opaque peerPermits : (fresh addr : Nat) → Bool

/-- Arrivals that peers have made at a POD barrier are events; this is whether a peer's reply is that its link is gone (R399). -/
opaque linkAnswers : (fresh port : Nat) → Bool

/-- Whether a thread other than the one whose turn it is moves next: the choice among enabled unit events (00_scope.md R12). -/
opaque pick : (fresh n : Nat) → Nat

/-- Where the images of a context's threads begin, in units of 1 KiB: the spec places them in pages of the context and gives no address (R33). -/
opaque imageBase : (ctx : Nat) → Nat

/-- The addresses that the image loaded for a context marks with .entry: the loader's, by whom the device is told (R72, R253). -/
opaque entryPoints : (fresh ctx : Nat) → List Nat

/-- A trap vector or delegation word of a template image that does not translate (R34). -/
opaque templateWord : (fresh i : Nat) → Word

/-- The CXL port, 0 to 3, of a logical device: the spec names both and gives no relation (R348, R399). -/
opaque hostPort : (ld : Nat) → Nat

/-- The physical address that the discard log gives for a held arrival at a POD barrier, by context and ID: the spec names none (R400, R403). -/
opaque arrivalAddress : (ctx id : Nat) → Nat

/-- SHA-384 of a byte string (R359, R360). -/
opaque sha384 : List Byte → List Byte

/-- The public key of the device key in certificate slot 0, as bytes (R360, R365). -/
opaque deviceKey : List Byte

/-- The certificate chain of slot 0 (R360). -/
opaque certificates : List Byte

/-- A signature by the device key (R360). -/
opaque deviceSign : List Byte → List Byte

/-- Whether a signature of 96 bytes over a message verifies under a key (R361, R365). -/
opaque verifies : (key message signature : List Byte) → Bool

/-- The image bytes' own signature and its check under Praevo's key (R361). -/
opaque imageVerifies : List Byte → Bool

/-- Praevo's debug authority key (R364). -/
opaque debugAuthority : List Byte

/-- The owner key that the hypervisor registers when it creates a partition (R364): the spec names no register for it. -/
opaque ownerKey : (fresh part : Nat) → List Byte

/-- A fresh partition key (R364). -/
opaque partitionKey : (fresh part : Nat) → Word

/-- The responder's share of a key exchange, and the session's transcript hash (R360, R365). -/
opaque exchange : (fresh : Nat) → Word → Word

/-- The transcript hash that the FINISH of a session covers (R365). -/
opaque transcript : Word → List Byte

/-- Whether a FINISH message authenticates (R360). -/
opaque finishVerifies : Word → Word → Bool

/-- The firmware of a start-up stage, as the firmware image gives it (R359). -/
opaque stageCode : (image : List Byte) → (stage : Nat) → List Byte

/-- The DMTF type of the value at a measurement index: the framing of SPDM 1.3 is not in the spec (R360). -/
opaque dmtfType : (index : Nat) → BitVec 7

/-- Device time as the firmware sets it during start-up (R30). -/
opaque startTime : (fresh : Nat) → Word

/-- The logical device of a virtual function, or of the physical function (R348). -/
opaque functionDevice : Option (BitVec 9) → Nat

end Sys2Proof.Config
end

