-- ==== Sys2Proof/Syntax.lean ====
section
/-!
DEFINITION. The abstract syntax: one constructor for each row of opcode_table.json, in its order.
The first 195 are the 32-bit words of 03_encoding.md R60, the next 15 the compact words of R61; their arguments are the
encoded fields. The rest are the operations and events of the device, which have no encoding; their arguments say what
they concern (a unit, a context, the place k of an item in the traffic in flight).
-/

namespace Sys2Proof

/-- Every instruction, compact word, operation and event of the opcode table. -/
inductive Instr where
  | add (g : BitVec 4) (d : BitVec 5) (a : BitVec 5) (b : BitVec 5)
  | sub (g : BitVec 4) (d : BitVec 5) (a : BitVec 5) (b : BitVec 5)
  | and (g : BitVec 4) (d : BitVec 5) (a : BitVec 5) (b : BitVec 5)
  | or (g : BitVec 4) (d : BitVec 5) (a : BitVec 5) (b : BitVec 5)
  | xor (g : BitVec 4) (d : BitVec 5) (a : BitVec 5) (b : BitVec 5)
  | andn (g : BitVec 4) (d : BitVec 5) (a : BitVec 5) (b : BitVec 5)
  | shl (g : BitVec 4) (d : BitVec 5) (a : BitVec 5) (b : BitVec 5)
  | shr (g : BitVec 4) (d : BitVec 5) (a : BitVec 5) (b : BitVec 5)
  | sra (g : BitVec 4) (d : BitVec 5) (a : BitVec 5) (b : BitVec 5)
  | rot (g : BitVec 4) (d : BitVec 5) (a : BitVec 5) (b : BitVec 5)
  | min (g : BitVec 4) (d : BitVec 5) (a : BitVec 5) (b : BitVec 5)
  | max (g : BitVec 4) (d : BitVec 5) (a : BitVec 5) (b : BitVec 5)
  | minn (g : BitVec 4) (d : BitVec 5) (a : BitVec 5) (b : BitVec 5)
  | maxn (g : BitVec 4) (d : BitVec 5) (a : BitVec 5) (b : BitVec 5)
  | mov (g : BitVec 4) (d : BitVec 5) (a : BitVec 5)
  | sel (g : BitVec 4) (d : BitVec 5) (a : BitVec 5) (b : BitVec 5) (p : BitVec 3)
  | addi (d : BitVec 5) (a : BitVec 5) (imm : BitVec 12)
  | andi (d : BitVec 5) (a : BitVec 5) (imm : BitVec 12)
  | ori (d : BitVec 5) (a : BitVec 5) (imm : BitVec 12)
  | xori (d : BitVec 5) (a : BitVec 5) (imm : BitVec 12)
  | shli (d : BitVec 5) (a : BitVec 5) (sh : BitVec 6)
  | shri (d : BitVec 5) (a : BitVec 5) (sh : BitVec 6)
  | srai (d : BitVec 5) (a : BitVec 5) (sh : BitVec 6)
  | movh (d : BitVec 5) (a : BitVec 5) (imm : BitVec 12) (sh : BitVec 2)
  | movh60 (d : BitVec 5) (a : BitVec 5) (imm : BitVec 4)
  | addpc (d : BitVec 5) (imm : BitVec 12) (sh : BitVec 3)
  | cmp (d : BitVec 3) (a : BitVec 5) (b : BitVec 5) (cc : BitVec 3)
  | cmpi (d : BitVec 3) (a : BitVec 5) (imm : BitVec 12) (cc : BitVec 3)
  | pand (d : BitVec 3) (a : BitVec 3) (b : BitVec 3)
  | por (d : BitVec 3) (a : BitVec 3) (b : BitVec 3)
  | pxor (d : BitVec 3) (a : BitVec 3) (b : BitVec 3)
  | pnot (d : BitVec 3) (a : BitVec 3)
  | pmov (d : BitVec 3) (a : BitVec 3)
  | bfx (g : BitVec 4) (d : BitVec 5) (a : BitVec 5) (b : BitVec 5)
  | bfxn (g : BitVec 4) (d : BitVec 5) (a : BitVec 5) (b : BitVec 5)
  | bfi (g : BitVec 4) (d : BitVec 5) (a : BitVec 5) (b : BitVec 5)
  | clz (g : BitVec 4) (d : BitVec 5) (a : BitVec 5)
  | ctz (g : BitVec 4) (d : BitVec 5) (a : BitVec 5)
  | popc (g : BitVec 4) (d : BitVec 5) (a : BitVec 5)
  | brev (g : BitVec 4) (d : BitVec 5) (a : BitVec 5)
  | mul (g : BitVec 4) (d : BitVec 5) (a : BitVec 5) (b : BitVec 5)
  | mulh (g : BitVec 4) (d : BitVec 5) (a : BitVec 5) (b : BitVec 5)
  | mulhn (g : BitVec 4) (d : BitVec 5) (a : BitVec 5) (b : BitVec 5)
  | div (g : BitVec 4) (d : BitVec 5) (a : BitVec 5) (b : BitVec 5)
  | divn (g : BitVec 4) (d : BitVec 5) (a : BitVec 5) (b : BitVec 5)
  | rem (g : BitVec 4) (d : BitVec 5) (a : BitVec 5) (b : BitVec 5)
  | remn (g : BitVec 4) (d : BitVec 5) (a : BitVec 5) (b : BitVec 5)
  | brp (p : BitVec 3) (off : BitVec 20) (neg : BitVec 1)
  | jal (off : BitVec 25)
  | jalr (a : BitVec 5) (imm : BitVec 12)
  | jmp (a : BitVec 5) (imm : BitVec 12)
  | ret
  | loop (a : BitVec 5) (imm : BitVec 12)
  | nop
  | ldB (t : BitVec 5) (a : BitVec 5) (imm : BitVec 12)
  | ldH (t : BitVec 5) (a : BitVec 5) (imm : BitVec 12)
  | ldW (t : BitVec 5) (a : BitVec 5) (imm : BitVec 12)
  | ldD (t : BitVec 5) (a : BitVec 5) (imm : BitVec 12)
  | ldBN (t : BitVec 5) (a : BitVec 5) (imm : BitVec 12)
  | ldHN (t : BitVec 5) (a : BitVec 5) (imm : BitVec 12)
  | ldWN (t : BitVec 5) (a : BitVec 5) (imm : BitVec 12)
  | stB (t : BitVec 5) (a : BitVec 5) (imm : BitVec 12)
  | stH (t : BitVec 5) (a : BitVec 5) (imm : BitVec 12)
  | stW (t : BitVec 5) (a : BitVec 5) (imm : BitVec 12)
  | stD (t : BitVec 5) (a : BitVec 5) (imm : BitVec 12)
  | ldAcq (t : BitVec 5) (a : BitVec 5) (zx : BitVec 1) (sz : BitVec 2) (sc : BitVec 3)
  | stRel (t : BitVec 5) (a : BitVec 5) (sz : BitVec 2) (sc : BitVec 3)
  | fenceRel (sc : BitVec 3)
  | fenceAcq (sc : BitVec 3)
  | fenceAr (sc : BitVec 3)
  | pref (a : BitVec 5) (imm : BitVec 12) (l2 : BitVec 1) (own : BitVec 1)
  | discard (a : BitVec 5) (imm : BitVec 12)
  | clean (a : BitVec 5) (imm : BitVec 12) (depth : BitVec 1)
  | invalD (a : BitVec 5) (imm : BitVec 12)
  | invalI (a : BitVec 5) (imm : BitVec 12)
  | amoAdd (g : BitVec 4) (d : BitVec 5) (a : BitVec 5) (b : BitVec 5) (ord : BitVec 2)
  | amoAnd (g : BitVec 4) (d : BitVec 5) (a : BitVec 5) (b : BitVec 5) (ord : BitVec 2)
  | amoOr (g : BitVec 4) (d : BitVec 5) (a : BitVec 5) (b : BitVec 5) (ord : BitVec 2)
  | amoXor (g : BitVec 4) (d : BitVec 5) (a : BitVec 5) (b : BitVec 5) (ord : BitVec 2)
  | amoMin (g : BitVec 4) (d : BitVec 5) (a : BitVec 5) (b : BitVec 5) (ord : BitVec 2)
  | amoMax (g : BitVec 4) (d : BitVec 5) (a : BitVec 5) (b : BitVec 5) (ord : BitVec 2)
  | amoMinn (g : BitVec 4) (d : BitVec 5) (a : BitVec 5) (b : BitVec 5) (ord : BitVec 2)
  | amoMaxn (g : BitVec 4) (d : BitVec 5) (a : BitVec 5) (b : BitVec 5) (ord : BitVec 2)
  | amoSwap (g : BitVec 4) (d : BitVec 5) (a : BitVec 5) (b : BitVec 5) (ord : BitVec 2)
  | amoCas (g : BitVec 4) (d : BitVec 5) (a : BitVec 5) (b : BitVec 5) (ord : BitVec 2)
  | amoFadd (g : BitVec 4) (d : BitVec 5) (a : BitVec 5) (b : BitVec 5) (ord : BitVec 2)
  | vld (t : BitVec 4) (a : BitVec 5) (off : BitVec 8) (tag : BitVec 4)
  | vst (t : BitVec 4) (a : BitVec 5) (imm : BitVec 12)
  | vadd (g : BitVec 4) (d : BitVec 4) (a : BitVec 4) (b : BitVec 4)
  | vsub (g : BitVec 4) (d : BitVec 4) (a : BitVec 4) (b : BitVec 4)
  | vmul (g : BitVec 4) (d : BitVec 4) (a : BitVec 4) (b : BitVec 4)
  | vdiv (g : BitVec 4) (d : BitVec 4) (a : BitVec 4) (b : BitVec 4)
  | vmin (g : BitVec 4) (d : BitVec 4) (a : BitVec 4) (b : BitVec 4)
  | vmax (g : BitVec 4) (d : BitVec 4) (a : BitVec 4) (b : BitVec 4)
  | vfma (g : BitVec 4) (d : BitVec 4) (a : BitVec 4) (b : BitVec 4)
  | vfms (g : BitVec 4) (d : BitVec 4) (a : BitVec 4) (b : BitVec 4)
  | vfnma (g : BitVec 4) (d : BitVec 4) (a : BitVec 4) (b : BitVec 4)
  | vfnms (g : BitVec 4) (d : BitVec 4) (a : BitVec 4) (b : BitVec 4)
  | vcmp (g : BitVec 4) (d : BitVec 5) (a : BitVec 4) (b : BitVec 4) (cc : BitVec 3)
  | vabs (g : BitVec 4) (d : BitVec 4) (a : BitVec 4)
  | vneg (g : BitVec 4) (d : BitVec 4) (a : BitVec 4)
  | vsqrt (g : BitVec 4) (d : BitVec 4) (a : BitVec 4)
  | vrcp (g : BitVec 4) (d : BitVec 4) (a : BitVec 4)
  | vrsq (g : BitVec 4) (d : BitVec 4) (a : BitVec 4)
  | vexp2 (g : BitVec 4) (d : BitVec 4) (a : BitVec 4)
  | vlog2 (g : BitVec 4) (d : BitVec 4) (a : BitVec 4)
  | viadd (g : BitVec 4) (d : BitVec 4) (a : BitVec 4) (b : BitVec 4)
  | visub (g : BitVec 4) (d : BitVec 4) (a : BitVec 4) (b : BitVec 4)
  | vimul (g : BitVec 4) (d : BitVec 4) (a : BitVec 4) (b : BitVec 4)
  | vimac (g : BitVec 4) (d : BitVec 4) (a : BitVec 4) (b : BitVec 4)
  | viaddS (g : BitVec 4) (d : BitVec 4) (a : BitVec 4) (b : BitVec 4)
  | visubS (g : BitVec 4) (d : BitVec 4) (a : BitVec 4) (b : BitVec 4)
  | vimulS (g : BitVec 4) (d : BitVec 4) (a : BitVec 4) (b : BitVec 4)
  | vimacS (g : BitVec 4) (d : BitVec 4) (a : BitVec 4) (b : BitVec 4)
  | vshl (g : BitVec 4) (d : BitVec 4) (a : BitVec 4) (b : BitVec 4)
  | vshr (g : BitVec 4) (d : BitVec 4) (a : BitVec 4) (b : BitVec 4)
  | vsra (g : BitVec 4) (d : BitVec 4) (a : BitVec 4) (b : BitVec 4)
  | vand (g : BitVec 4) (d : BitVec 4) (a : BitVec 4) (b : BitVec 4)
  | vor (g : BitVec 4) (d : BitVec 4) (a : BitVec 4) (b : BitVec 4)
  | vxor (g : BitVec 4) (d : BitVec 4) (a : BitVec 4) (b : BitVec 4)
  | vcvt (g : BitVec 4) (d : BitVec 4) (a : BitVec 4) (tag : BitVec 4) (sat : BitVec 1) (k : BitVec 3)
  | vqnt (g : BitVec 4) (d : BitVec 5) (a : BitVec 1) (b : BitVec 5) (f : BitVec 4)
  | vdeq (g : BitVec 4) (d : BitVec 2) (a : BitVec 5) (b : BitVec 5) (f : BitVec 4)
  | vdot (g : BitVec 4) (d : BitVec 4) (a : BitVec 4) (b : BitVec 4)
  | vsplat (g : BitVec 4) (d : BitVec 4) (a : BitVec 5) (tag : BitVec 4)
  | vmov (g : BitVec 4) (d : BitVec 4) (a : BitVec 4)
  | vsel (g : BitVec 4) (d : BitVec 4) (a : BitVec 4) (b : BitVec 5)
  | vshuf (g : BitVec 4) (d : BitVec 4) (a : BitVec 4) (b : BitVec 5)
  | vext (g : BitVec 4) (d : BitVec 5) (a : BitVec 4) (idx : BitVec 4)
  | vins (g : BitVec 4) (d : BitVec 4) (a : BitVec 5) (idx : BitVec 4)
  | vhsum (g : BitVec 4) (d : BitVec 4) (a : BitVec 4)
  | vhmax (g : BitVec 4) (d : BitVec 4) (a : BitVec 4)
  | mma (a : BitVec 5) (b : BitVec 5) (c : BitVec 5)
  | mmaL (a : BitVec 5) (b : BitVec 5) (c : BitVec 5)
  | mmaSp8 (a : BitVec 5) (b : BitVec 5) (c : BitVec 5)
  | mmaSp16 (a : BitVec 5) (b : BitVec 5) (c : BitVec 5)
  | mmaSp32 (a : BitVec 5) (b : BitVec 5) (c : BitVec 5)
  | accInit (a : BitVec 5) (b : BitVec 5)
  | accSettle (a : BitVec 5) (b : BitVec 5)
  | redV (a : BitVec 5) (b : BitVec 2) (c : BitVec 5)
  | detNext (a : BitVec 5) (b : BitVec 5)
  | drain (a : BitVec 5) (b : BitVec 5) (c : BitVec 5) (f : BitVec 5)
  | tmld (a : BitVec 5) (imm : BitVec 12) (tm : BitVec 4)
  | cpyTLd (a : BitVec 5) (b : BitVec 5) (c : BitVec 5) (tm : BitVec 4)
  | cpyTSt (a : BitVec 5) (b : BitVec 5) (c : BitVec 5) (tm : BitVec 4)
  | cpyLLd (a : BitVec 5) (b : BitVec 5) (c : BitVec 5)
  | cpyLSt (a : BitVec 5) (b : BitVec 5) (c : BitVec 5)
  | cpyWp (a : BitVec 5) (ch : BitVec 2)
  | cpyStop (a : BitVec 5) (ch : BitVec 2)
  | waitc (ms : BitVec 4) (mx : BitVec 4) (cp : BitVec 4) (st : BitVec 4) (ld : BitVec 4)
  | barInit (a : BitVec 5) (b : BitVec 5) (sc : BitVec 1)
  | barArr (d : BitVec 5) (a : BitVec 5)
  | barArrx (d : BitVec 5) (a : BitVec 5) (b : BitVec 5)
  | barWait (a : BitVec 5) (b : BitVec 5)
  | barTry (a : BitVec 5) (b : BitVec 5) (p : BitVec 3)
  | gbarArr (d : BitVec 5) (a : BitVec 5) (sc : BitVec 3)
  | gbarWait (a : BitVec 5) (b : BitVec 5) (sc : BitVec 3)
  | gbarTry (a : BitVec 5) (b : BitVec 5) (p : BitVec 3) (sc : BitVec 3)
  | evSig (a : BitVec 5)
  | evWait (a : BitVec 5)
  | evTry (a : BitVec 5) (p : BitVec 3)
  | cnvJoin (g : BitVec 4) (d : BitVec 5) (a : BitVec 5) (b : BitVec 5)
  | cnvTry (g : BitVec 4) (d : BitVec 5) (a : BitVec 5) (b : BitVec 5) (p : BitVec 3)
  | cnvLeave (g : BitVec 4)
  | spawn (g : BitVec 4) (a : BitVec 5) (b : BitVec 5)
  | spawnM (g : BitVec 4) (a : BitVec 5) (b : BitVec 5)
  | spawnTry (g : BitVec 4) (d : BitVec 5) (a : BitVec 5) (b : BitVec 5) (p : BitVec 3)
  | spawnMTry (g : BitVec 4) (d : BitVec 5) (a : BitVec 5) (b : BitVec 5) (p : BitVec 3)
  | migrate (g : BitVec 4) (a : BitVec 5)
  | migrateTry (g : BitVec 4) (d : BitVec 5) (a : BitVec 5)
  | suspend (g : BitVec 4) (a : BitVec 5)
  | yield (g : BitVec 4)
  | exit (g : BitVec 4)
  | msgApp (g : BitVec 4) (a : BitVec 5) (b : BitVec 5)
  | msgAppRel (g : BitVec 4) (a : BitVec 5) (b : BitVec 5)
  | msgTry (g : BitVec 4) (d : BitVec 5) (a : BitVec 5) (b : BitVec 5) (p : BitVec 3)
  | msgTryRel (g : BitVec 4) (d : BitVec 5) (a : BitVec 5) (b : BitVec 5) (p : BitVec 3)
  | msgPop (g : BitVec 4) (d : BitVec 5) (b : BitVec 5)
  | msgPoll (g : BitVec 4) (d : BitVec 5) (b : BitVec 5) (p : BitVec 3)
  | ringCfg (g : BitVec 4) (a : BitVec 5) (b : BitVec 5)
  | ringPut (g : BitVec 4) (a : BitVec 5) (b : BitVec 5)
  | ringGo (g : BitVec 4)
  | steepDone (g : BitVec 4)
  | ringTry (g : BitVec 4) (d : BitVec 5) (a : BitVec 5) (b : BitVec 5) (p : BitVec 3)
  | ringTake (g : BitVec 4) (d : BitVec 5) (p : BitVec 3)
  | mfsr (d : BitVec 5) (r : BitVec 12)
  | mtsr (a : BitVec 5) (r : BitVec 12)
  | trap (imm : BitVec 12)
  | tret
  | tlbinvVa (a : BitVec 5) (c : BitVec 5)
  | tlbinvCtx (a : BitVec 5) (c : BitVec 5)
  | tlbinvIpa (a : BitVec 5) (c : BitVec 5)
  | tlbinvPart (a : BitVec 5) (c : BitVec 5)
  | bkpt (imm : BitVec 12)
  | halt (imm : BitVec 12)
  | cMov (d : BitVec 5) (a : BitVec 5)
  | cAdd (d : BitVec 5) (a : BitVec 5)
  | cSub (d : BitVec 5) (a : BitVec 5)
  | cAnd (d : BitVec 5) (a : BitVec 5)
  | cOr (d : BitVec 5) (a : BitVec 5)
  | cXor (d : BitVec 5) (a : BitVec 5)
  | cAddi (d : BitVec 5) (imm : BitVec 6)
  | cLi (d : BitVec 5) (imm : BitVec 6)
  | cShli (d : BitVec 5) (sh : BitVec 6)
  | cLd (d : BitVec 5) (a : BitVec 5) (s : BitVec 1)
  | cSt (t : BitVec 5) (a : BitVec 5) (s : BitVec 1)
  | cBr (off : BitVec 11)
  | cRet
  | cWaitc
  | cNop
  | configRegisterWrite (pl : BitVec 2) (r : CfgReg) (x : Word)
  | qtailDoorbell (q : Nat) (tail : BitVec 32)
  | packetRead (q : Nat)
  | materialiseThread (qc : Nat)
  | pourComplete (ctx : CtxId) (pour : BitVec 32)
  | queueBalance (qc : Nat)
  | rotationBoundary (core : Coord)
  | instantiateContinuation (core : Coord)
  | fullThreadArrival (k : Nat)
  | registerCacheFill (t : Nat) (line : BitVec 4)
  | inboxAppend (k : Nat)
  | sendReply (k : Nat)
  | sendRetry (k : Nat)
  | holdLapse (core : Coord) (ctx : CtxId)
  | pendingTrapDeadline (t : Nat)
  | loadReply (k : Nat)
  | storeAck (k : Nat)
  | storeRefusal (k : Nat)
  | homeAccess (k : Nat)
  | atomicAtHome (k : Nat)
  | caddyAccessArrival (k : Nat)
  | regionMerge (base : Nat) (lg : Nat)
  | pageWalkComplete (t : Nat) (va : Word) (kind : BitVec 3)
  | copyLineTransfer (core : Coord) (ch : BitVec 2)
  | copyComplete (core : Coord) (ch : BitVec 2)
  | engineArbitration (core : Coord)
  | leaseIdleExpiry (core : Coord)
  | matrixCommandComplete (core : Coord)
  | infuserArrival (k : Nat)
  | reductionAck (k : Nat)
  | retryResend (core : Coord) (i : Nat)
  | accLineEvict (line : Nat)
  | beatBoundary (ctx : CtxId) (ring : BitVec 6)
  | steepTailDone (core : Coord) (i : Nat)
  | haltComplete (ctx : CtxId)
  | commit (part : BitVec 6) (pl : BitVec 2)
  | ccommit (part : BitVec 6) (slot : BitVec 6) (pl : BitVec 2)
  | plevel (part : BitVec 6) (level : BitVec 2)
  | powerGateCore (part : BitVec 6) (core : Coord)
  | powerWakeCore (part : BitVec 6) (core : Coord)
  | partitionSleep (part : BitVec 6)
  | partitionWake (part : BitVec 6)
  | switchOut (part : BitVec 6) (ctx : CtxId) (core : Coord)
  | switchIn (part : BitVec 6) (ctx : CtxId) (core : Coord)
  | haltreq (part : BitVec 6) (ctx : CtxId)
  | rankcmd (part : BitVec 6) (slot : BitVec 6) (rank : BitVec 16) (all : Bool)
  | refusalsClear (part : BitVec 6) (pl : BitVec 2)
  | contextTeardown (ctx : CtxId)
  | partitionReset (part : BitVec 6)
  | hbmPreservingReset
  | coldReset
  | recoveryImageWrite (image : List Byte)
  | fullServiceStart
  | vfReset (vf : BitVec 9)
  | cxlLinkDown (port : BitVec 5) (ld : BitVec 4) (restart : Bool)
  | podLinkDown (port : BitVec 5)
  | hostRequestTimeout (port : BitVec 5) (ld : BitVec 4)
  | podRequestTimeout (port : BitVec 5)
  | linkRetryExhausted (kind : LinkKind) (port : BitVec 5)
  | hostCxlMemAccess (ld : BitVec 4) (pa : BitVec 52) (write : Bool) (x : Word)
  | peerQueueWrite (node : BitVec 8) (q : Nat) (w : PeerWrite)
  | podMemoryAccess (node : BitVec 8) (part : BitVec 6) (pa : BitVec 52) (write : Bool) (x : Word)
  | thermalThrottle
  | coreClockGate (core : Coord)
  | d3hotEntry
  | scrub (row : Nat) (unit : Coord) (loc : Nat) (err : ErrKind)
  | debugRequest (op : DebugOp)
  | getVersion
  | getCapabilities
  | negotiateAlgorithms
  | getDigests
  | getCertificate (slot : Nat)
  | challenge (slot : Nat) (nonce : Word)
  | getMeasurements (index : Nat)
  | keyExchange (share : Word)
  | finish (mac : Word)
  | endSession
  | vendorDefinedRequest (inSession : Bool) (token : List Byte)
  | spdmUnsupportedRequest (code : Byte)
  | powerLoss (duringUpdate : Bool)
  | d3hotExit
  | enterDeployed
  | podGbarArrival (ctx : CtxId) (id : BitVec 6)
  | cxlCacheSnoop (line : BitVec 52) (invalidate : Bool)
  | linkUp (kind : LinkKind) (port : BitVec 5)
  deriving DecidableEq, Repr

end Sys2Proof
end

