-- ==== Sys2Proof/WellFormed.lean ====
section
/-!
DEFINITION. What 03_encoding.md R57 step 2 asks of an encoding beyond its reserved bits: the guard is not 0b1000 (R56), scopes
are not 6 or 7 (R27), and each combination that an entry lists as illegal is absent.
-/

namespace Sys2Proof

/-- A guard other than the reserved never-execute (R56). -/
def guardOk (g : BitVec 4) : Bool := g != 8

/-- A scope that names a level (R27). -/
def scopeOk (sc : BitVec 3) : Bool := sc.toNat ≤ 5

/-- A scope of the global barriers: DIE, PKG or POD (R236). -/
def globalScope (sc : BitVec 3) : Bool := 2 ≤ sc.toNat && sc.toNat ≤ 4

/-- A tag code with lanes, 1 to 11 (R36, R131, R136). -/
def laneTag (tag : BitVec 4) : Bool := 1 ≤ tag.toNat && tag.toNat ≤ 11

/-- A format code that DRAIN accepts (R174). -/
def drainOk (code : Nat) : Bool := code == 2 || code == 4 || (12 ≤ code && code ≤ 20)

/-- The register window of a pop: 1 ≤ d ≤ 24 and a header register outside it (R287). -/
def popWindow (d b : BitVec 5) : Bool :=
  1 ≤ d.toNat && d.toNat ≤ 24 && (b == 0 || b.toNat < d.toNat || d.toNat + 7 < b.toNat)

/-- The instruction is one an encoding can stand for; a device operation has no encoding to be illegal. -/
def wellFormed : Instr → Bool
  | .add g _ _ _ => guardOk g
  | .sub g _ _ _ => guardOk g
  | .and g _ _ _ => guardOk g
  | .or g _ _ _ => guardOk g
  | .xor g _ _ _ => guardOk g
  | .andn g _ _ _ => guardOk g
  | .shl g _ _ _ => guardOk g
  | .shr g _ _ _ => guardOk g
  | .sra g _ _ _ => guardOk g
  | .rot g _ _ _ => guardOk g
  | .min g _ _ _ => guardOk g
  | .max g _ _ _ => guardOk g
  | .minn g _ _ _ => guardOk g
  | .maxn g _ _ _ => guardOk g
  | .mov g _ _ => guardOk g
  | .sel g _ _ _ _ => guardOk g
  | .addi _ _ _ => true
  | .andi _ _ _ => true
  | .ori _ _ _ => true
  | .xori _ _ _ => true
  | .shli _ _ _ => true
  | .shri _ _ _ => true
  | .srai _ _ _ => true
  | .movh _ _ _ _ => true
  | .movh60 _ _ _ => true
  | .addpc _ _ sh => 5 ≤ sh.toNat
  | .cmp _ _ _ cc => cc.toNat ≤ 5
  | .cmpi _ _ _ cc => 1 ≤ cc.toNat && cc.toNat ≤ 6
  | .pand _ _ _ => true
  | .por _ _ _ => true
  | .pxor _ _ _ => true
  | .pnot _ _ => true
  | .pmov _ _ => true
  | .bfx g _ _ _ => guardOk g
  | .bfxn g _ _ _ => guardOk g
  | .bfi g _ _ _ => guardOk g
  | .clz g _ _ => guardOk g
  | .ctz g _ _ => guardOk g
  | .popc g _ _ => guardOk g
  | .brev g _ _ => guardOk g
  | .mul g _ _ _ => guardOk g
  | .mulh g _ _ _ => guardOk g
  | .mulhn g _ _ _ => guardOk g
  | .div g _ _ _ => guardOk g
  | .divn g _ _ _ => guardOk g
  | .rem g _ _ _ => guardOk g
  | .remn g _ _ _ => guardOk g
  | .brp p _ neg => !(p == 0 && neg == 1)
  | .jal _ => true
  | .jalr _ _ => true
  | .jmp _ _ => true
  | .ret => true
  | .loop _ imm => imm != 0
  | .nop => true
  | .ldB _ _ _ => true
  | .ldH _ _ _ => true
  | .ldW _ _ _ => true
  | .ldD _ _ _ => true
  | .ldBN _ _ _ => true
  | .ldHN _ _ _ => true
  | .ldWN _ _ _ => true
  | .stB _ _ _ => true
  | .stH _ _ _ => true
  | .stW _ _ _ => true
  | .stD _ _ _ => true
  | .ldAcq _ _ zx sz sc => scopeOk sc && !(sz == 3 && zx == 1)
  | .stRel _ _ _ sc => scopeOk sc
  | .fenceRel sc => scopeOk sc
  | .fenceAcq sc => scopeOk sc
  | .fenceAr sc => scopeOk sc
  | .pref _ _ _ _ => true
  | .discard _ _ => true
  | .clean _ _ _ => true
  | .invalD _ _ => true
  | .invalI _ _ => true
  | .amoAdd g _ _ _ _ => guardOk g
  | .amoAnd g _ _ _ _ => guardOk g
  | .amoOr g _ _ _ _ => guardOk g
  | .amoXor g _ _ _ _ => guardOk g
  | .amoMin g _ _ _ _ => guardOk g
  | .amoMax g _ _ _ _ => guardOk g
  | .amoMinn g _ _ _ _ => guardOk g
  | .amoMaxn g _ _ _ _ => guardOk g
  | .amoSwap g _ _ _ _ => guardOk g
  | .amoCas g _ _ _ _ => guardOk g
  | .amoFadd g _ _ _ _ => guardOk g
  | .vld _ _ _ tag => tag.toNat ≤ 11
  | .vst _ _ _ => true
  | .vadd g _ _ _ => guardOk g
  | .vsub g _ _ _ => guardOk g
  | .vmul g _ _ _ => guardOk g
  | .vdiv g _ _ _ => guardOk g
  | .vmin g _ _ _ => guardOk g
  | .vmax g _ _ _ => guardOk g
  | .vfma g _ _ _ => guardOk g
  | .vfms g _ _ _ => guardOk g
  | .vfnma g _ _ _ => guardOk g
  | .vfnms g _ _ _ => guardOk g
  | .vcmp g _ _ _ _ => guardOk g
  | .vabs g _ _ => guardOk g
  | .vneg g _ _ => guardOk g
  | .vsqrt g _ _ => guardOk g
  | .vrcp g _ _ => guardOk g
  | .vrsq g _ _ => guardOk g
  | .vexp2 g _ _ => guardOk g
  | .vlog2 g _ _ => guardOk g
  | .viadd g _ _ _ => guardOk g
  | .visub g _ _ _ => guardOk g
  | .vimul g _ _ _ => guardOk g
  | .vimac g _ _ _ => guardOk g
  | .viaddS g _ _ _ => guardOk g
  | .visubS g _ _ _ => guardOk g
  | .vimulS g _ _ _ => guardOk g
  | .vimacS g _ _ _ => guardOk g
  | .vshl g _ _ _ => guardOk g
  | .vshr g _ _ _ => guardOk g
  | .vsra g _ _ _ => guardOk g
  | .vand g _ _ _ => guardOk g
  | .vor g _ _ _ => guardOk g
  | .vxor g _ _ _ => guardOk g
  | .vcvt g _ _ tag sat _ => guardOk g && (laneTag tag && (sat == 0 || tag.toNat ≤ 6))
  | .vqnt g _ _ b f => guardOk g && (f.toNat ≤ 8 && (f.toNat ≤ 5 || b == 0))
  | .vdeq g d _ b f => guardOk g && f.toNat ≤ 8 && (if f.toNat ≤ 5 then d.getLsbD 0 == false else b == 0)
  | .vdot g _ _ _ => guardOk g
  | .vsplat g _ _ tag => guardOk g && laneTag tag
  | .vmov g _ _ => guardOk g
  | .vsel g _ _ _ => guardOk g
  | .vshuf g _ _ _ => guardOk g
  | .vext g _ _ _ => guardOk g
  | .vins g _ _ _ => guardOk g
  | .vhsum g _ _ => guardOk g
  | .vhmax g _ _ => guardOk g
  | .mma _ _ _ => true
  | .mmaL _ _ _ => true
  | .mmaSp8 _ _ _ => true
  | .mmaSp16 _ _ _ => true
  | .mmaSp32 _ _ _ => true
  | .accInit _ _ => true
  | .accSettle _ _ => true
  | .redV _ _ _ => true
  | .detNext _ _ => true
  | .drain _ b _ f => drainOk f.toNat && (!(12 ≤ f.toNat && f.toNat ≤ 17) || b.getLsbD 0 == false)
  | .tmld _ _ _ => true
  | .cpyTLd _ _ _ _ => true
  | .cpyTSt _ _ _ _ => true
  | .cpyLLd _ _ _ => true
  | .cpyLSt _ _ _ => true
  | .cpyWp _ _ => true
  | .cpyStop _ _ => true
  | .waitc _ _ _ _ _ => true
  | .barInit _ _ _ => true
  | .barArr _ _ => true
  | .barArrx _ _ _ => true
  | .barWait _ _ => true
  | .barTry _ _ _ => true
  | .gbarArr _ _ sc => globalScope sc
  | .gbarWait _ _ sc => globalScope sc
  | .gbarTry _ _ _ sc => globalScope sc
  | .evSig _ => true
  | .evWait _ => true
  | .evTry _ _ => true
  | .cnvJoin g _ _ _ => guardOk g
  | .cnvTry g _ _ _ _ => guardOk g
  | .cnvLeave g => guardOk g
  | .spawn g _ _ => guardOk g
  | .spawnM g _ _ => guardOk g
  | .spawnTry g _ _ _ _ => guardOk g
  | .spawnMTry g _ _ _ _ => guardOk g
  | .migrate g _ => guardOk g
  | .migrateTry g _ _ => guardOk g
  | .suspend g _ => guardOk g
  | .yield g => guardOk g
  | .exit g => guardOk g
  | .msgApp g _ _ => guardOk g
  | .msgAppRel g _ _ => guardOk g
  | .msgTry g _ _ _ _ => guardOk g
  | .msgTryRel g _ _ _ _ => guardOk g
  | .msgPop g d b => guardOk g && popWindow d b
  | .msgPoll g d b _ => guardOk g && popWindow d b
  | .ringCfg g _ _ => guardOk g
  | .ringPut g _ _ => guardOk g
  | .ringGo g => guardOk g
  | .steepDone g => guardOk g
  | .ringTry g _ _ _ _ => guardOk g
  | .ringTake g _ _ => guardOk g
  | .mfsr _ _ => true
  | .mtsr _ _ => true
  | .trap _ => true
  | .tret => true
  | .tlbinvVa _ _ => true
  | .tlbinvCtx _ _ => true
  | .tlbinvIpa _ _ => true
  | .tlbinvPart _ _ => true
  | .bkpt _ => true
  | .halt _ => true
  | .cMov _ _ => true
  | .cAdd _ _ => true
  | .cSub _ _ => true
  | .cAnd _ _ => true
  | .cOr _ _ => true
  | .cXor _ _ => true
  | .cAddi _ _ => true
  | .cLi _ _ => true
  | .cShli _ _ => true
  | .cLd _ _ _ => true
  | .cSt _ _ _ => true
  | .cBr _ => true
  | .cRet => true
  | .cWaitc => true
  | .cNop => true
  | .configRegisterWrite _ _ _ => true
  | .qtailDoorbell _ _ => true
  | .packetRead _ => true
  | .materialiseThread _ => true
  | .pourComplete _ _ => true
  | .queueBalance _ => true
  | .rotationBoundary _ => true
  | .instantiateContinuation _ => true
  | .fullThreadArrival _ => true
  | .registerCacheFill _ _ => true
  | .inboxAppend _ => true
  | .sendReply _ => true
  | .sendRetry _ => true
  | .holdLapse _ _ => true
  | .pendingTrapDeadline _ => true
  | .loadReply _ => true
  | .storeAck _ => true
  | .storeRefusal _ => true
  | .homeAccess _ => true
  | .atomicAtHome _ => true
  | .caddyAccessArrival _ => true
  | .regionMerge _ _ => true
  | .pageWalkComplete _ _ _ => true
  | .copyLineTransfer _ _ => true
  | .copyComplete _ _ => true
  | .engineArbitration _ => true
  | .leaseIdleExpiry _ => true
  | .matrixCommandComplete _ => true
  | .infuserArrival _ => true
  | .reductionAck _ => true
  | .retryResend _ _ => true
  | .accLineEvict _ => true
  | .beatBoundary _ _ => true
  | .steepTailDone _ _ => true
  | .haltComplete _ => true
  | .commit _ _ => true
  | .ccommit _ _ _ => true
  | .plevel _ _ => true
  | .powerGateCore _ _ => true
  | .powerWakeCore _ _ => true
  | .partitionSleep _ => true
  | .partitionWake _ => true
  | .switchOut _ _ _ => true
  | .switchIn _ _ _ => true
  | .haltreq _ _ => true
  | .rankcmd _ _ _ _ => true
  | .refusalsClear _ _ => true
  | .contextTeardown _ => true
  | .partitionReset _ => true
  | .hbmPreservingReset => true
  | .coldReset => true
  | .recoveryImageWrite _ => true
  | .fullServiceStart => true
  | .vfReset _ => true
  | .cxlLinkDown _ _ _ => true
  | .podLinkDown _ => true
  | .hostRequestTimeout _ _ => true
  | .podRequestTimeout _ => true
  | .linkRetryExhausted _ _ => true
  | .hostCxlMemAccess _ _ _ _ => true
  | .peerQueueWrite _ _ _ => true
  | .podMemoryAccess _ _ _ _ _ => true
  | .thermalThrottle => true
  | .coreClockGate _ => true
  | .d3hotEntry => true
  | .scrub _ _ _ _ => true
  | .debugRequest _ => true
  | .getVersion => true
  | .getCapabilities => true
  | .negotiateAlgorithms => true
  | .getDigests => true
  | .getCertificate _ => true
  | .challenge _ _ => true
  | .getMeasurements _ => true
  | .keyExchange _ => true
  | .finish _ => true
  | .endSession => true
  | .vendorDefinedRequest _ _ => true
  | .spdmUnsupportedRequest _ => true
  | .powerLoss _ => true
  | .d3hotExit => true
  | .enterDeployed => true
  | .podGbarArrival _ _ => true
  | .cxlCacheSnoop _ _ => true
  | .linkUp _ _ => true

end Sys2Proof
end

