-- ==== Sys2Proof/Decode.lean ====
section
/-!
DEFINITION. The decoder, total on any bits, and the encoder, both written from the formats of 03_encoding.md R54 and R61
and the minor maps of the chapters. A word is read by its major, then by its minor slices; every bit that a form reserves must
have the value the form gives it (R58), and what passes is kept only if it is well formed (R57 step 2).
-/

namespace Sys2Proof

/-- The bits of an instruction: a 32-bit word or a 16-bit compact word (R52); none for a device operation. -/
inductive Code where
  | word (w : BitVec 32)
  | half (h : BitVec 16)
  | none
  deriving DecidableEq, Repr

/-- Major 0x01: Integer register ALU, R100. -/
def decode01 (w : BitVec 32) : Option Instr :=
  match (w.extractLsb' 25 3).toNat with
  | 0 =>
    match (w.extractLsb' 22 3).toNat with
    | 0 =>
      some (.add (w.extractLsb' 28 4) (w.extractLsb' 7 5) (w.extractLsb' 12 5) (w.extractLsb' 17 5))
    | 1 =>
      some (.sub (w.extractLsb' 28 4) (w.extractLsb' 7 5) (w.extractLsb' 12 5) (w.extractLsb' 17 5))
    | 2 =>
      some (.and (w.extractLsb' 28 4) (w.extractLsb' 7 5) (w.extractLsb' 12 5) (w.extractLsb' 17 5))
    | 3 =>
      some (.or (w.extractLsb' 28 4) (w.extractLsb' 7 5) (w.extractLsb' 12 5) (w.extractLsb' 17 5))
    | 4 =>
      some (.xor (w.extractLsb' 28 4) (w.extractLsb' 7 5) (w.extractLsb' 12 5) (w.extractLsb' 17 5))
    | 5 =>
      some (.andn (w.extractLsb' 28 4) (w.extractLsb' 7 5) (w.extractLsb' 12 5) (w.extractLsb' 17 5))
    | 6 =>
      some (.shl (w.extractLsb' 28 4) (w.extractLsb' 7 5) (w.extractLsb' 12 5) (w.extractLsb' 17 5))
    | 7 =>
      some (.shr (w.extractLsb' 28 4) (w.extractLsb' 7 5) (w.extractLsb' 12 5) (w.extractLsb' 17 5))
    | _ => none
  | 1 =>
    match (w.extractLsb' 22 3).toNat with
    | 0 =>
      some (.sra (w.extractLsb' 28 4) (w.extractLsb' 7 5) (w.extractLsb' 12 5) (w.extractLsb' 17 5))
    | 1 =>
      some (.rot (w.extractLsb' 28 4) (w.extractLsb' 7 5) (w.extractLsb' 12 5) (w.extractLsb' 17 5))
    | 2 =>
      some (.min (w.extractLsb' 28 4) (w.extractLsb' 7 5) (w.extractLsb' 12 5) (w.extractLsb' 17 5))
    | 3 =>
      some (.max (w.extractLsb' 28 4) (w.extractLsb' 7 5) (w.extractLsb' 12 5) (w.extractLsb' 17 5))
    | 4 =>
      some (.minn (w.extractLsb' 28 4) (w.extractLsb' 7 5) (w.extractLsb' 12 5) (w.extractLsb' 17 5))
    | 5 =>
      some (.maxn (w.extractLsb' 28 4) (w.extractLsb' 7 5) (w.extractLsb' 12 5) (w.extractLsb' 17 5))
    | 6 =>
      if w.extractLsb' 17 5 = 0#5 then
        some (.mov (w.extractLsb' 28 4) (w.extractLsb' 7 5) (w.extractLsb' 12 5))
      else none
    | _ => none
  | 2 =>
    some (.sel (w.extractLsb' 28 4) (w.extractLsb' 7 5) (w.extractLsb' 12 5) (w.extractLsb' 17 5) (w.extractLsb' 22 3))
  | _ => none

/-- Major 0x02: Integer immediate ALU, R102. -/
def decode02 (w : BitVec 32) : Option Instr :=
  match (w.extractLsb' 17 3).toNat with
  | 0 =>
    some (.addi (w.extractLsb' 7 5) (w.extractLsb' 12 5) (w.extractLsb' 20 12))
  | 1 =>
    some (.andi (w.extractLsb' 7 5) (w.extractLsb' 12 5) (w.extractLsb' 20 12))
  | 2 =>
    some (.ori (w.extractLsb' 7 5) (w.extractLsb' 12 5) (w.extractLsb' 20 12))
  | 3 =>
    some (.xori (w.extractLsb' 7 5) (w.extractLsb' 12 5) (w.extractLsb' 20 12))
  | 4 =>
    if w.extractLsb' 26 6 = 0#6 then
      some (.shli (w.extractLsb' 7 5) (w.extractLsb' 12 5) (w.extractLsb' 20 6))
    else none
  | 5 =>
    if w.extractLsb' 26 6 = 0#6 then
      some (.shri (w.extractLsb' 7 5) (w.extractLsb' 12 5) (w.extractLsb' 20 6))
    else none
  | 6 =>
    if w.extractLsb' 26 6 = 0#6 then
      some (.srai (w.extractLsb' 7 5) (w.extractLsb' 12 5) (w.extractLsb' 20 6))
    else none
  | _ => none

/-- Major 0x03: MOVH and ADDPC, R104. -/
def decode03 (w : BitVec 32) : Option Instr :=
  match (w.extractLsb' 17 3).toNat with
  | 4 =>
    if w.extractLsb' 24 8 = 0#8 then
      some (.movh60 (w.extractLsb' 7 5) (w.extractLsb' 12 5) (w.extractLsb' 20 4))
    else none
  | 5 | 6 | 7 =>
    if w.extractLsb' 12 5 = 0#5 then
      some (.addpc (w.extractLsb' 7 5) (w.extractLsb' 20 12) (w.extractLsb' 17 3))
    else none
  | _ =>
    some (.movh (w.extractLsb' 7 5) (w.extractLsb' 12 5) (w.extractLsb' 20 12) (w.extractLsb' 17 2))

/-- Major 0x04: Compare and predicate, R106. -/
def decode04 (w : BitVec 32) : Option Instr :=
  match (w.extractLsb' 17 3).toNat with
  | 0 =>
    if w.extractLsb' 10 2 = 0#2 ∧ w.extractLsb' 28 4 = 0#4 then
      some (.cmp (w.extractLsb' 7 3) (w.extractLsb' 12 5) (w.extractLsb' 20 5) (w.extractLsb' 25 3))
    else none
  | 7 =>
    match (w.extractLsb' 25 3).toNat with
    | 0 =>
      if w.extractLsb' 10 2 = 0#2 ∧ w.extractLsb' 15 2 = 0#2 ∧ w.extractLsb' 23 2 = 0#2 ∧ w.extractLsb' 28 4 = 0#4 then
        some (.pand (w.extractLsb' 7 3) (w.extractLsb' 12 3) (w.extractLsb' 20 3))
      else none
    | 1 =>
      if w.extractLsb' 10 2 = 0#2 ∧ w.extractLsb' 15 2 = 0#2 ∧ w.extractLsb' 23 2 = 0#2 ∧ w.extractLsb' 28 4 = 0#4 then
        some (.por (w.extractLsb' 7 3) (w.extractLsb' 12 3) (w.extractLsb' 20 3))
      else none
    | 2 =>
      if w.extractLsb' 10 2 = 0#2 ∧ w.extractLsb' 15 2 = 0#2 ∧ w.extractLsb' 23 2 = 0#2 ∧ w.extractLsb' 28 4 = 0#4 then
        some (.pxor (w.extractLsb' 7 3) (w.extractLsb' 12 3) (w.extractLsb' 20 3))
      else none
    | 3 =>
      if w.extractLsb' 10 2 = 0#2 ∧ w.extractLsb' 15 2 = 0#2 ∧ w.extractLsb' 20 5 = 0#5 ∧ w.extractLsb' 28 4 = 0#4 then
        some (.pnot (w.extractLsb' 7 3) (w.extractLsb' 12 3))
      else none
    | 4 =>
      if w.extractLsb' 10 2 = 0#2 ∧ w.extractLsb' 15 2 = 0#2 ∧ w.extractLsb' 20 5 = 0#5 ∧ w.extractLsb' 28 4 = 0#4 then
        some (.pmov (w.extractLsb' 7 3) (w.extractLsb' 12 3))
      else none
    | _ => none
  | _ =>
    if w.extractLsb' 10 2 = 0#2 then
      some (.cmpi (w.extractLsb' 7 3) (w.extractLsb' 12 5) (w.extractLsb' 20 12) (w.extractLsb' 17 3))
    else none

/-- Major 0x05: Bit-field, R109. -/
def decode05 (w : BitVec 32) : Option Instr :=
  match (w.extractLsb' 25 3).toNat with
  | 0 =>
    match (w.extractLsb' 22 3).toNat with
    | 0 =>
      some (.bfx (w.extractLsb' 28 4) (w.extractLsb' 7 5) (w.extractLsb' 12 5) (w.extractLsb' 17 5))
    | 1 =>
      some (.bfxn (w.extractLsb' 28 4) (w.extractLsb' 7 5) (w.extractLsb' 12 5) (w.extractLsb' 17 5))
    | 2 =>
      some (.bfi (w.extractLsb' 28 4) (w.extractLsb' 7 5) (w.extractLsb' 12 5) (w.extractLsb' 17 5))
    | _ => none
  | 1 =>
    match (w.extractLsb' 22 3).toNat with
    | 0 =>
      if w.extractLsb' 17 5 = 0#5 then
        some (.clz (w.extractLsb' 28 4) (w.extractLsb' 7 5) (w.extractLsb' 12 5))
      else none
    | 1 =>
      if w.extractLsb' 17 5 = 0#5 then
        some (.ctz (w.extractLsb' 28 4) (w.extractLsb' 7 5) (w.extractLsb' 12 5))
      else none
    | 2 =>
      if w.extractLsb' 17 5 = 0#5 then
        some (.popc (w.extractLsb' 28 4) (w.extractLsb' 7 5) (w.extractLsb' 12 5))
      else none
    | 3 =>
      if w.extractLsb' 17 5 = 0#5 then
        some (.brev (w.extractLsb' 28 4) (w.extractLsb' 7 5) (w.extractLsb' 12 5))
      else none
    | _ => none
  | _ => none

/-- Major 0x06: Multiply and divide, R112. -/
def decode06 (w : BitVec 32) : Option Instr :=
  match (w.extractLsb' 25 3).toNat with
  | 0 =>
    match (w.extractLsb' 22 3).toNat with
    | 0 =>
      some (.mul (w.extractLsb' 28 4) (w.extractLsb' 7 5) (w.extractLsb' 12 5) (w.extractLsb' 17 5))
    | 1 =>
      some (.mulh (w.extractLsb' 28 4) (w.extractLsb' 7 5) (w.extractLsb' 12 5) (w.extractLsb' 17 5))
    | 2 =>
      some (.mulhn (w.extractLsb' 28 4) (w.extractLsb' 7 5) (w.extractLsb' 12 5) (w.extractLsb' 17 5))
    | 4 =>
      some (.div (w.extractLsb' 28 4) (w.extractLsb' 7 5) (w.extractLsb' 12 5) (w.extractLsb' 17 5))
    | 5 =>
      some (.divn (w.extractLsb' 28 4) (w.extractLsb' 7 5) (w.extractLsb' 12 5) (w.extractLsb' 17 5))
    | 6 =>
      some (.rem (w.extractLsb' 28 4) (w.extractLsb' 7 5) (w.extractLsb' 12 5) (w.extractLsb' 17 5))
    | 7 =>
      some (.remn (w.extractLsb' 28 4) (w.extractLsb' 7 5) (w.extractLsb' 12 5) (w.extractLsb' 17 5))
    | _ => none
  | _ => none

/-- Major 0x08: BR and BRP, R270. -/
def decode08 (w : BitVec 32) : Option Instr :=
  if w.extractLsb' 11 1 = 0#1 then
    some (.brp (w.extractLsb' 7 3) (w.extractLsb' 12 20) (w.extractLsb' 10 1))
  else none

/-- Major 0x09: JAL, R270. -/
def decode09 (w : BitVec 32) : Option Instr :=
  some (.jal (w.extractLsb' 7 25))

/-- Major 0x0A: JALR, JMP, RET, LOOP, NOP, R270. -/
def decode0A (w : BitVec 32) : Option Instr :=
  match (w.extractLsb' 17 3).toNat with
  | 0 =>
    if w.extractLsb' 7 5 = 0#5 then
      some (.jalr (w.extractLsb' 12 5) (w.extractLsb' 20 12))
    else none
  | 1 =>
    if w.extractLsb' 7 5 = 0#5 then
      some (.jmp (w.extractLsb' 12 5) (w.extractLsb' 20 12))
    else none
  | 2 =>
    if w.extractLsb' 7 10 = 0#10 ∧ w.extractLsb' 20 12 = 0#12 then
      some (.ret)
    else none
  | 3 =>
    if w.extractLsb' 7 5 = 0#5 then
      some (.loop (w.extractLsb' 12 5) (w.extractLsb' 20 12))
    else none
  | 4 =>
    if w.extractLsb' 7 10 = 0#10 ∧ w.extractLsb' 20 12 = 0#12 then
      some (.nop)
    else none
  | _ => none

/-- Major 0x0C: Loads, R206. -/
def decode0C (w : BitVec 32) : Option Instr :=
  match (w.extractLsb' 17 3).toNat with
  | 0 =>
    some (.ldB (w.extractLsb' 7 5) (w.extractLsb' 12 5) (w.extractLsb' 20 12))
  | 1 =>
    some (.ldH (w.extractLsb' 7 5) (w.extractLsb' 12 5) (w.extractLsb' 20 12))
  | 2 =>
    some (.ldW (w.extractLsb' 7 5) (w.extractLsb' 12 5) (w.extractLsb' 20 12))
  | 3 =>
    some (.ldD (w.extractLsb' 7 5) (w.extractLsb' 12 5) (w.extractLsb' 20 12))
  | 4 =>
    some (.ldBN (w.extractLsb' 7 5) (w.extractLsb' 12 5) (w.extractLsb' 20 12))
  | 5 =>
    some (.ldHN (w.extractLsb' 7 5) (w.extractLsb' 12 5) (w.extractLsb' 20 12))
  | 6 =>
    some (.ldWN (w.extractLsb' 7 5) (w.extractLsb' 12 5) (w.extractLsb' 20 12))
  | _ => none

/-- Major 0x0D: Stores, R208. -/
def decode0D (w : BitVec 32) : Option Instr :=
  match (w.extractLsb' 17 3).toNat with
  | 0 =>
    some (.stB (w.extractLsb' 7 5) (w.extractLsb' 12 5) (w.extractLsb' 20 12))
  | 1 =>
    some (.stH (w.extractLsb' 7 5) (w.extractLsb' 12 5) (w.extractLsb' 20 12))
  | 2 =>
    some (.stW (w.extractLsb' 7 5) (w.extractLsb' 12 5) (w.extractLsb' 20 12))
  | 3 =>
    some (.stD (w.extractLsb' 7 5) (w.extractLsb' 12 5) (w.extractLsb' 20 12))
  | _ => none

/-- Major 0x0E: Ordered accesses, fences and cache operations, R211. -/
def decode0E (w : BitVec 32) : Option Instr :=
  match (w.extractLsb' 17 3).toNat with
  | 0 =>
    if w.extractLsb' 26 6 = 0#6 then
      some (.ldAcq (w.extractLsb' 7 5) (w.extractLsb' 12 5) (w.extractLsb' 25 1) (w.extractLsb' 23 2) (w.extractLsb' 20 3))
    else none
  | 1 =>
    if w.extractLsb' 25 7 = 0#7 then
      some (.stRel (w.extractLsb' 7 5) (w.extractLsb' 12 5) (w.extractLsb' 23 2) (w.extractLsb' 20 3))
    else none
  | 2 =>
    match (w.extractLsb' 23 2).toNat with
    | 0 =>
      match (w.extractLsb' 7 1).toNat with
      | 0 =>
        if w.extractLsb' 8 9 = 0#9 ∧ w.extractLsb' 25 7 = 0#7 then
          some (.fenceRel (w.extractLsb' 20 3))
        else none
      | _ => none
    | 1 =>
      match (w.extractLsb' 7 1).toNat with
      | 0 =>
        if w.extractLsb' 8 9 = 0#9 ∧ w.extractLsb' 25 7 = 0#7 then
          some (.fenceAcq (w.extractLsb' 20 3))
        else none
      | _ => none
    | 2 =>
      match (w.extractLsb' 7 1).toNat with
      | 0 =>
        if w.extractLsb' 8 9 = 0#9 ∧ w.extractLsb' 25 7 = 0#7 then
          some (.fenceAr (w.extractLsb' 20 3))
        else none
      | _ => none
    | _ => none
  | 3 =>
    if w.extractLsb' 9 3 = 0#3 then
      some (.pref (w.extractLsb' 12 5) (w.extractLsb' 20 12) (w.extractLsb' 8 1) (w.extractLsb' 7 1))
    else none
  | 4 =>
    match (w.extractLsb' 7 1).toNat with
    | 0 =>
      if w.extractLsb' 8 4 = 0#4 then
        some (.discard (w.extractLsb' 12 5) (w.extractLsb' 20 12))
      else none
    | _ => none
  | 5 =>
    if w.extractLsb' 8 4 = 0#4 then
      some (.clean (w.extractLsb' 12 5) (w.extractLsb' 20 12) (w.extractLsb' 7 1))
    else none
  | 6 =>
    match (w.extractLsb' 7 1).toNat with
    | 0 =>
      if w.extractLsb' 8 4 = 0#4 then
        some (.invalD (w.extractLsb' 12 5) (w.extractLsb' 20 12))
      else none
    | 1 =>
      if w.extractLsb' 8 4 = 0#4 then
        some (.invalI (w.extractLsb' 12 5) (w.extractLsb' 20 12))
      else none
    | _ => none
  | _ => none

/-- Major 0x0F: Atomics, R219. -/
def decode0F (w : BitVec 32) : Option Instr :=
  match (w.extractLsb' 22 4).toNat with
  | 0 =>
    some (.amoAdd (w.extractLsb' 28 4) (w.extractLsb' 7 5) (w.extractLsb' 12 5) (w.extractLsb' 17 5) (w.extractLsb' 26 2))
  | 1 =>
    some (.amoAnd (w.extractLsb' 28 4) (w.extractLsb' 7 5) (w.extractLsb' 12 5) (w.extractLsb' 17 5) (w.extractLsb' 26 2))
  | 2 =>
    some (.amoOr (w.extractLsb' 28 4) (w.extractLsb' 7 5) (w.extractLsb' 12 5) (w.extractLsb' 17 5) (w.extractLsb' 26 2))
  | 3 =>
    some (.amoXor (w.extractLsb' 28 4) (w.extractLsb' 7 5) (w.extractLsb' 12 5) (w.extractLsb' 17 5) (w.extractLsb' 26 2))
  | 4 =>
    some (.amoMin (w.extractLsb' 28 4) (w.extractLsb' 7 5) (w.extractLsb' 12 5) (w.extractLsb' 17 5) (w.extractLsb' 26 2))
  | 5 =>
    some (.amoMax (w.extractLsb' 28 4) (w.extractLsb' 7 5) (w.extractLsb' 12 5) (w.extractLsb' 17 5) (w.extractLsb' 26 2))
  | 6 =>
    some (.amoMinn (w.extractLsb' 28 4) (w.extractLsb' 7 5) (w.extractLsb' 12 5) (w.extractLsb' 17 5) (w.extractLsb' 26 2))
  | 7 =>
    some (.amoMaxn (w.extractLsb' 28 4) (w.extractLsb' 7 5) (w.extractLsb' 12 5) (w.extractLsb' 17 5) (w.extractLsb' 26 2))
  | 8 =>
    some (.amoSwap (w.extractLsb' 28 4) (w.extractLsb' 7 5) (w.extractLsb' 12 5) (w.extractLsb' 17 5) (w.extractLsb' 26 2))
  | 9 =>
    some (.amoCas (w.extractLsb' 28 4) (w.extractLsb' 7 5) (w.extractLsb' 12 5) (w.extractLsb' 17 5) (w.extractLsb' 26 2))
  | 10 =>
    some (.amoFadd (w.extractLsb' 28 4) (w.extractLsb' 7 5) (w.extractLsb' 12 5) (w.extractLsb' 17 5) (w.extractLsb' 26 2))
  | _ => none

/-- Major 0x10: VLD and VST, R116. -/
def decode10 (w : BitVec 32) : Option Instr :=
  match (w.extractLsb' 17 3).toNat with
  | 0 =>
    if w.extractLsb' 11 1 = 0#1 then
      some (.vld (w.extractLsb' 7 4) (w.extractLsb' 12 5) (w.extractLsb' 24 8) (w.extractLsb' 20 4))
    else none
  | 1 =>
    if w.extractLsb' 11 1 = 0#1 then
      some (.vst (w.extractLsb' 7 4) (w.extractLsb' 12 5) (w.extractLsb' 20 12))
    else none
  | _ => none

/-- Major 0x11: Vector FP arithmetic, R119. -/
def decode11 (w : BitVec 32) : Option Instr :=
  match (w.extractLsb' 25 3).toNat with
  | 0 =>
    match (w.extractLsb' 22 3).toNat with
    | 0 =>
      if w.extractLsb' 11 1 = 0#1 ∧ w.extractLsb' 16 1 = 0#1 ∧ w.extractLsb' 21 1 = 0#1 then
        some (.vadd (w.extractLsb' 28 4) (w.extractLsb' 7 4) (w.extractLsb' 12 4) (w.extractLsb' 17 4))
      else none
    | 1 =>
      if w.extractLsb' 11 1 = 0#1 ∧ w.extractLsb' 16 1 = 0#1 ∧ w.extractLsb' 21 1 = 0#1 then
        some (.vsub (w.extractLsb' 28 4) (w.extractLsb' 7 4) (w.extractLsb' 12 4) (w.extractLsb' 17 4))
      else none
    | 2 =>
      if w.extractLsb' 11 1 = 0#1 ∧ w.extractLsb' 16 1 = 0#1 ∧ w.extractLsb' 21 1 = 0#1 then
        some (.vmul (w.extractLsb' 28 4) (w.extractLsb' 7 4) (w.extractLsb' 12 4) (w.extractLsb' 17 4))
      else none
    | 3 =>
      if w.extractLsb' 11 1 = 0#1 ∧ w.extractLsb' 16 1 = 0#1 ∧ w.extractLsb' 21 1 = 0#1 then
        some (.vdiv (w.extractLsb' 28 4) (w.extractLsb' 7 4) (w.extractLsb' 12 4) (w.extractLsb' 17 4))
      else none
    | 4 =>
      if w.extractLsb' 11 1 = 0#1 ∧ w.extractLsb' 16 1 = 0#1 ∧ w.extractLsb' 21 1 = 0#1 then
        some (.vmin (w.extractLsb' 28 4) (w.extractLsb' 7 4) (w.extractLsb' 12 4) (w.extractLsb' 17 4))
      else none
    | 5 =>
      if w.extractLsb' 11 1 = 0#1 ∧ w.extractLsb' 16 1 = 0#1 ∧ w.extractLsb' 21 1 = 0#1 then
        some (.vmax (w.extractLsb' 28 4) (w.extractLsb' 7 4) (w.extractLsb' 12 4) (w.extractLsb' 17 4))
      else none
    | _ => none
  | 1 =>
    match (w.extractLsb' 22 3).toNat with
    | 0 =>
      if w.extractLsb' 11 1 = 0#1 ∧ w.extractLsb' 16 1 = 0#1 ∧ w.extractLsb' 21 1 = 0#1 then
        some (.vfma (w.extractLsb' 28 4) (w.extractLsb' 7 4) (w.extractLsb' 12 4) (w.extractLsb' 17 4))
      else none
    | 1 =>
      if w.extractLsb' 11 1 = 0#1 ∧ w.extractLsb' 16 1 = 0#1 ∧ w.extractLsb' 21 1 = 0#1 then
        some (.vfms (w.extractLsb' 28 4) (w.extractLsb' 7 4) (w.extractLsb' 12 4) (w.extractLsb' 17 4))
      else none
    | 2 =>
      if w.extractLsb' 11 1 = 0#1 ∧ w.extractLsb' 16 1 = 0#1 ∧ w.extractLsb' 21 1 = 0#1 then
        some (.vfnma (w.extractLsb' 28 4) (w.extractLsb' 7 4) (w.extractLsb' 12 4) (w.extractLsb' 17 4))
      else none
    | 3 =>
      if w.extractLsb' 11 1 = 0#1 ∧ w.extractLsb' 16 1 = 0#1 ∧ w.extractLsb' 21 1 = 0#1 then
        some (.vfnms (w.extractLsb' 28 4) (w.extractLsb' 7 4) (w.extractLsb' 12 4) (w.extractLsb' 17 4))
      else none
    | _ => none
  | 2 =>
    if w.extractLsb' 16 1 = 0#1 ∧ w.extractLsb' 21 1 = 0#1 then
      some (.vcmp (w.extractLsb' 28 4) (w.extractLsb' 7 5) (w.extractLsb' 12 4) (w.extractLsb' 17 4) (w.extractLsb' 22 3))
    else none
  | _ => none

/-- Major 0x12: Vector FP unary and estimates, R124. -/
def decode12 (w : BitVec 32) : Option Instr :=
  match (w.extractLsb' 25 3).toNat with
  | 0 =>
    match (w.extractLsb' 22 3).toNat with
    | 0 =>
      if w.extractLsb' 11 1 = 0#1 ∧ w.extractLsb' 16 6 = 0#6 then
        some (.vabs (w.extractLsb' 28 4) (w.extractLsb' 7 4) (w.extractLsb' 12 4))
      else none
    | 1 =>
      if w.extractLsb' 11 1 = 0#1 ∧ w.extractLsb' 16 6 = 0#6 then
        some (.vneg (w.extractLsb' 28 4) (w.extractLsb' 7 4) (w.extractLsb' 12 4))
      else none
    | 2 =>
      if w.extractLsb' 11 1 = 0#1 ∧ w.extractLsb' 16 6 = 0#6 then
        some (.vsqrt (w.extractLsb' 28 4) (w.extractLsb' 7 4) (w.extractLsb' 12 4))
      else none
    | _ => none
  | 1 =>
    match (w.extractLsb' 22 3).toNat with
    | 0 =>
      if w.extractLsb' 11 1 = 0#1 ∧ w.extractLsb' 16 6 = 0#6 then
        some (.vrcp (w.extractLsb' 28 4) (w.extractLsb' 7 4) (w.extractLsb' 12 4))
      else none
    | 1 =>
      if w.extractLsb' 11 1 = 0#1 ∧ w.extractLsb' 16 6 = 0#6 then
        some (.vrsq (w.extractLsb' 28 4) (w.extractLsb' 7 4) (w.extractLsb' 12 4))
      else none
    | 2 =>
      if w.extractLsb' 11 1 = 0#1 ∧ w.extractLsb' 16 6 = 0#6 then
        some (.vexp2 (w.extractLsb' 28 4) (w.extractLsb' 7 4) (w.extractLsb' 12 4))
      else none
    | 3 =>
      if w.extractLsb' 11 1 = 0#1 ∧ w.extractLsb' 16 6 = 0#6 then
        some (.vlog2 (w.extractLsb' 28 4) (w.extractLsb' 7 4) (w.extractLsb' 12 4))
      else none
    | _ => none
  | _ => none

/-- Major 0x13: Vector integer, R127. -/
def decode13 (w : BitVec 32) : Option Instr :=
  match (w.extractLsb' 25 3).toNat with
  | 0 =>
    match (w.extractLsb' 22 3).toNat with
    | 0 =>
      if w.extractLsb' 11 1 = 0#1 ∧ w.extractLsb' 16 1 = 0#1 ∧ w.extractLsb' 21 1 = 0#1 then
        some (.viadd (w.extractLsb' 28 4) (w.extractLsb' 7 4) (w.extractLsb' 12 4) (w.extractLsb' 17 4))
      else none
    | 1 =>
      if w.extractLsb' 11 1 = 0#1 ∧ w.extractLsb' 16 1 = 0#1 ∧ w.extractLsb' 21 1 = 0#1 then
        some (.visub (w.extractLsb' 28 4) (w.extractLsb' 7 4) (w.extractLsb' 12 4) (w.extractLsb' 17 4))
      else none
    | 2 =>
      if w.extractLsb' 11 1 = 0#1 ∧ w.extractLsb' 16 1 = 0#1 ∧ w.extractLsb' 21 1 = 0#1 then
        some (.vimul (w.extractLsb' 28 4) (w.extractLsb' 7 4) (w.extractLsb' 12 4) (w.extractLsb' 17 4))
      else none
    | 3 =>
      if w.extractLsb' 11 1 = 0#1 ∧ w.extractLsb' 16 1 = 0#1 ∧ w.extractLsb' 21 1 = 0#1 then
        some (.vimac (w.extractLsb' 28 4) (w.extractLsb' 7 4) (w.extractLsb' 12 4) (w.extractLsb' 17 4))
      else none
    | 4 =>
      if w.extractLsb' 11 1 = 0#1 ∧ w.extractLsb' 16 1 = 0#1 ∧ w.extractLsb' 21 1 = 0#1 then
        some (.viaddS (w.extractLsb' 28 4) (w.extractLsb' 7 4) (w.extractLsb' 12 4) (w.extractLsb' 17 4))
      else none
    | 5 =>
      if w.extractLsb' 11 1 = 0#1 ∧ w.extractLsb' 16 1 = 0#1 ∧ w.extractLsb' 21 1 = 0#1 then
        some (.visubS (w.extractLsb' 28 4) (w.extractLsb' 7 4) (w.extractLsb' 12 4) (w.extractLsb' 17 4))
      else none
    | 6 =>
      if w.extractLsb' 11 1 = 0#1 ∧ w.extractLsb' 16 1 = 0#1 ∧ w.extractLsb' 21 1 = 0#1 then
        some (.vimulS (w.extractLsb' 28 4) (w.extractLsb' 7 4) (w.extractLsb' 12 4) (w.extractLsb' 17 4))
      else none
    | 7 =>
      if w.extractLsb' 11 1 = 0#1 ∧ w.extractLsb' 16 1 = 0#1 ∧ w.extractLsb' 21 1 = 0#1 then
        some (.vimacS (w.extractLsb' 28 4) (w.extractLsb' 7 4) (w.extractLsb' 12 4) (w.extractLsb' 17 4))
      else none
    | _ => none
  | 1 =>
    match (w.extractLsb' 22 3).toNat with
    | 0 =>
      if w.extractLsb' 11 1 = 0#1 ∧ w.extractLsb' 16 1 = 0#1 ∧ w.extractLsb' 21 1 = 0#1 then
        some (.vshl (w.extractLsb' 28 4) (w.extractLsb' 7 4) (w.extractLsb' 12 4) (w.extractLsb' 17 4))
      else none
    | 1 =>
      if w.extractLsb' 11 1 = 0#1 ∧ w.extractLsb' 16 1 = 0#1 ∧ w.extractLsb' 21 1 = 0#1 then
        some (.vshr (w.extractLsb' 28 4) (w.extractLsb' 7 4) (w.extractLsb' 12 4) (w.extractLsb' 17 4))
      else none
    | 2 =>
      if w.extractLsb' 11 1 = 0#1 ∧ w.extractLsb' 16 1 = 0#1 ∧ w.extractLsb' 21 1 = 0#1 then
        some (.vsra (w.extractLsb' 28 4) (w.extractLsb' 7 4) (w.extractLsb' 12 4) (w.extractLsb' 17 4))
      else none
    | 4 =>
      if w.extractLsb' 11 1 = 0#1 ∧ w.extractLsb' 16 1 = 0#1 ∧ w.extractLsb' 21 1 = 0#1 then
        some (.vand (w.extractLsb' 28 4) (w.extractLsb' 7 4) (w.extractLsb' 12 4) (w.extractLsb' 17 4))
      else none
    | 5 =>
      if w.extractLsb' 11 1 = 0#1 ∧ w.extractLsb' 16 1 = 0#1 ∧ w.extractLsb' 21 1 = 0#1 then
        some (.vor (w.extractLsb' 28 4) (w.extractLsb' 7 4) (w.extractLsb' 12 4) (w.extractLsb' 17 4))
      else none
    | 6 =>
      if w.extractLsb' 11 1 = 0#1 ∧ w.extractLsb' 16 1 = 0#1 ∧ w.extractLsb' 21 1 = 0#1 then
        some (.vxor (w.extractLsb' 28 4) (w.extractLsb' 7 4) (w.extractLsb' 12 4) (w.extractLsb' 17 4))
      else none
    | _ => none
  | _ => none

/-- Major 0x14: Convert, quantise, dequantise, R130. -/
def decode14 (w : BitVec 32) : Option Instr :=
  match (w.extractLsb' 26 2).toNat with
  | 0 =>
    if w.extractLsb' 11 1 = 0#1 ∧ w.extractLsb' 16 1 = 0#1 ∧ w.extractLsb' 21 1 = 0#1 then
      some (.vcvt (w.extractLsb' 28 4) (w.extractLsb' 7 4) (w.extractLsb' 12 4) (w.extractLsb' 22 4) (w.extractLsb' 20 1) (w.extractLsb' 17 3))
    else none
  | 1 =>
    if w.extractLsb' 12 3 = 0#3 ∧ w.extractLsb' 16 1 = 0#1 then
      some (.vqnt (w.extractLsb' 28 4) (w.extractLsb' 7 5) (w.extractLsb' 15 1) (w.extractLsb' 17 5) (w.extractLsb' 22 4))
    else none
  | 2 =>
    if w.extractLsb' 7 2 = 0#2 ∧ w.extractLsb' 11 1 = 0#1 then
      some (.vdeq (w.extractLsb' 28 4) (w.extractLsb' 9 2) (w.extractLsb' 12 5) (w.extractLsb' 17 5) (w.extractLsb' 22 4))
    else none
  | 3 =>
    match (w.extractLsb' 22 4).toNat with
    | 0 =>
      if w.extractLsb' 11 1 = 0#1 ∧ w.extractLsb' 16 1 = 0#1 ∧ w.extractLsb' 21 1 = 0#1 then
        some (.vdot (w.extractLsb' 28 4) (w.extractLsb' 7 4) (w.extractLsb' 12 4) (w.extractLsb' 17 4))
      else none
    | _ => none
  | _ => none

/-- Major 0x15: Vector move, permute, horizontal, R135. -/
def decode15 (w : BitVec 32) : Option Instr :=
  match (w.extractLsb' 26 2).toNat with
  | 0 =>
    if w.extractLsb' 11 1 = 0#1 ∧ w.extractLsb' 17 5 = 0#5 then
      some (.vsplat (w.extractLsb' 28 4) (w.extractLsb' 7 4) (w.extractLsb' 12 5) (w.extractLsb' 22 4))
    else none
  | 1 =>
    match (w.extractLsb' 22 4).toNat with
    | 0 =>
      if w.extractLsb' 11 1 = 0#1 ∧ w.extractLsb' 16 6 = 0#6 then
        some (.vmov (w.extractLsb' 28 4) (w.extractLsb' 7 4) (w.extractLsb' 12 4))
      else none
    | 1 =>
      if w.extractLsb' 11 1 = 0#1 ∧ w.extractLsb' 16 1 = 0#1 then
        some (.vsel (w.extractLsb' 28 4) (w.extractLsb' 7 4) (w.extractLsb' 12 4) (w.extractLsb' 17 5))
      else none
    | 2 =>
      if w.extractLsb' 11 1 = 0#1 ∧ w.extractLsb' 16 1 = 0#1 then
        some (.vshuf (w.extractLsb' 28 4) (w.extractLsb' 7 4) (w.extractLsb' 12 4) (w.extractLsb' 17 5))
      else none
    | 3 =>
      if w.extractLsb' 16 1 = 0#1 ∧ w.extractLsb' 21 1 = 0#1 then
        some (.vext (w.extractLsb' 28 4) (w.extractLsb' 7 5) (w.extractLsb' 12 4) (w.extractLsb' 17 4))
      else none
    | 4 =>
      if w.extractLsb' 11 1 = 0#1 ∧ w.extractLsb' 21 1 = 0#1 then
        some (.vins (w.extractLsb' 28 4) (w.extractLsb' 7 4) (w.extractLsb' 12 5) (w.extractLsb' 17 4))
      else none
    | 8 =>
      if w.extractLsb' 11 1 = 0#1 ∧ w.extractLsb' 16 6 = 0#6 then
        some (.vhsum (w.extractLsb' 28 4) (w.extractLsb' 7 4) (w.extractLsb' 12 4))
      else none
    | 9 =>
      if w.extractLsb' 11 1 = 0#1 ∧ w.extractLsb' 16 6 = 0#6 then
        some (.vhmax (w.extractLsb' 28 4) (w.extractLsb' 7 4) (w.extractLsb' 12 4))
      else none
    | _ => none
  | _ => none

/-- Major 0x18: Matrix, R143. -/
def decode18 (w : BitVec 32) : Option Instr :=
  match (w.extractLsb' 26 6).toNat with
  | 0 =>
    if w.extractLsb' 22 4 = 0#4 then
      some (.mma (w.extractLsb' 7 5) (w.extractLsb' 12 5) (w.extractLsb' 17 5))
    else none
  | 1 =>
    if w.extractLsb' 22 4 = 0#4 then
      some (.mmaL (w.extractLsb' 7 5) (w.extractLsb' 12 5) (w.extractLsb' 17 5))
    else none
  | 2 =>
    if w.extractLsb' 22 4 = 0#4 then
      some (.mmaSp8 (w.extractLsb' 7 5) (w.extractLsb' 12 5) (w.extractLsb' 17 5))
    else none
  | 3 =>
    if w.extractLsb' 22 4 = 0#4 then
      some (.mmaSp16 (w.extractLsb' 7 5) (w.extractLsb' 12 5) (w.extractLsb' 17 5))
    else none
  | 4 =>
    if w.extractLsb' 22 4 = 0#4 then
      some (.mmaSp32 (w.extractLsb' 7 5) (w.extractLsb' 12 5) (w.extractLsb' 17 5))
    else none
  | _ => none

/-- Major 0x19: Accumulator, reduction, drain, R174. -/
def decode19 (w : BitVec 32) : Option Instr :=
  match (w.extractLsb' 31 1).toNat with
  | 0 =>
    match (w.extractLsb' 26 5).toNat with
    | 0 =>
      if w.extractLsb' 17 9 = 0#9 then
        some (.accInit (w.extractLsb' 7 5) (w.extractLsb' 12 5))
      else none
    | 1 =>
      if w.extractLsb' 17 9 = 0#9 then
        some (.accSettle (w.extractLsb' 7 5) (w.extractLsb' 12 5))
      else none
    | 2 =>
      if w.extractLsb' 12 2 = 0#2 ∧ w.extractLsb' 16 1 = 0#1 ∧ w.extractLsb' 22 4 = 0#4 then
        some (.redV (w.extractLsb' 7 5) (w.extractLsb' 14 2) (w.extractLsb' 17 5))
      else none
    | 3 =>
      if w.extractLsb' 17 9 = 0#9 then
        some (.detNext (w.extractLsb' 7 5) (w.extractLsb' 12 5))
      else none
    | _ => none
  | 1 =>
    if w.extractLsb' 22 4 = 0#4 then
      some (.drain (w.extractLsb' 7 5) (w.extractLsb' 12 5) (w.extractLsb' 17 5) (w.extractLsb' 26 5))
    else none
  | _ => none

/-- Major 0x1A: TMLD, R151. -/
def decode1A (w : BitVec 32) : Option Instr :=
  match (w.extractLsb' 17 3).toNat with
  | 0 =>
    if w.extractLsb' 11 1 = 0#1 then
      some (.tmld (w.extractLsb' 12 5) (w.extractLsb' 20 12) (w.extractLsb' 7 4))
    else none
  | _ => none

/-- Major 0x1C: Copy, R226. -/
def decode1C (w : BitVec 32) : Option Instr :=
  match (w.extractLsb' 26 6).toNat with
  | 0 =>
    some (.cpyTLd (w.extractLsb' 7 5) (w.extractLsb' 12 5) (w.extractLsb' 17 5) (w.extractLsb' 22 4))
  | 1 =>
    some (.cpyTSt (w.extractLsb' 7 5) (w.extractLsb' 12 5) (w.extractLsb' 17 5) (w.extractLsb' 22 4))
  | 4 =>
    if w.extractLsb' 22 4 = 0#4 then
      some (.cpyLLd (w.extractLsb' 7 5) (w.extractLsb' 12 5) (w.extractLsb' 17 5))
    else none
  | 5 =>
    if w.extractLsb' 22 4 = 0#4 then
      some (.cpyLSt (w.extractLsb' 7 5) (w.extractLsb' 12 5) (w.extractLsb' 17 5))
    else none
  | 8 =>
    if w.extractLsb' 14 12 = 0#12 then
      some (.cpyWp (w.extractLsb' 7 5) (w.extractLsb' 12 2))
    else none
  | 9 =>
    if w.extractLsb' 14 12 = 0#12 then
      some (.cpyStop (w.extractLsb' 7 5) (w.extractLsb' 12 2))
    else none
  | _ => none

/-- Major 0x1D: Barriers, events, WAITC, R236. -/
def decode1D (w : BitVec 32) : Option Instr :=
  match (w.extractLsb' 27 5).toNat with
  | 0 =>
    some (.waitc (w.extractLsb' 23 4) (w.extractLsb' 19 4) (w.extractLsb' 15 4) (w.extractLsb' 11 4) (w.extractLsb' 7 4))
  | 1 =>
    if w.extractLsb' 17 5 = 0#5 ∧ w.extractLsb' 23 4 = 0#4 then
      some (.barInit (w.extractLsb' 7 5) (w.extractLsb' 12 5) (w.extractLsb' 22 1))
    else none
  | 2 =>
    if w.extractLsb' 12 5 = 0#5 ∧ w.extractLsb' 22 5 = 0#5 then
      some (.barArr (w.extractLsb' 17 5) (w.extractLsb' 7 5))
    else none
  | 3 =>
    if w.extractLsb' 22 5 = 0#5 then
      some (.barArrx (w.extractLsb' 17 5) (w.extractLsb' 7 5) (w.extractLsb' 12 5))
    else none
  | 4 =>
    if w.extractLsb' 17 10 = 0#10 then
      some (.barWait (w.extractLsb' 7 5) (w.extractLsb' 12 5))
    else none
  | 5 =>
    if w.extractLsb' 17 5 = 0#5 ∧ w.extractLsb' 25 2 = 0#2 then
      some (.barTry (w.extractLsb' 7 5) (w.extractLsb' 12 5) (w.extractLsb' 22 3))
    else none
  | 8 =>
    if w.extractLsb' 12 5 = 0#5 ∧ w.extractLsb' 25 2 = 0#2 then
      some (.gbarArr (w.extractLsb' 17 5) (w.extractLsb' 7 5) (w.extractLsb' 22 3))
    else none
  | 9 =>
    if w.extractLsb' 17 5 = 0#5 ∧ w.extractLsb' 25 2 = 0#2 then
      some (.gbarWait (w.extractLsb' 7 5) (w.extractLsb' 12 5) (w.extractLsb' 22 3))
    else none
  | 10 =>
    if w.extractLsb' 20 2 = 0#2 ∧ w.extractLsb' 25 2 = 0#2 then
      some (.gbarTry (w.extractLsb' 7 5) (w.extractLsb' 12 5) (w.extractLsb' 17 3) (w.extractLsb' 22 3))
    else none
  | 12 =>
    if w.extractLsb' 12 15 = 0#15 then
      some (.evSig (w.extractLsb' 7 5))
    else none
  | 13 =>
    if w.extractLsb' 12 15 = 0#15 then
      some (.evWait (w.extractLsb' 7 5))
    else none
  | 14 =>
    if w.extractLsb' 12 10 = 0#10 ∧ w.extractLsb' 25 2 = 0#2 then
      some (.evTry (w.extractLsb' 7 5) (w.extractLsb' 22 3))
    else none
  | _ => none

/-- Major 0x1E: Convene, R154. -/
def decode1E (w : BitVec 32) : Option Instr :=
  match (w.extractLsb' 25 3).toNat with
  | 0 =>
    match (w.extractLsb' 22 3).toNat with
    | 0 =>
      some (.cnvJoin (w.extractLsb' 28 4) (w.extractLsb' 7 5) (w.extractLsb' 12 5) (w.extractLsb' 17 5))
    | _ => none
  | 1 =>
    some (.cnvTry (w.extractLsb' 28 4) (w.extractLsb' 7 5) (w.extractLsb' 12 5) (w.extractLsb' 17 5) (w.extractLsb' 22 3))
  | 2 =>
    match (w.extractLsb' 22 3).toNat with
    | 0 =>
      if w.extractLsb' 7 15 = 0#15 then
        some (.cnvLeave (w.extractLsb' 28 4))
      else none
    | _ => none
  | _ => none

/-- Major 0x20: Thread, R281. -/
def decode20 (w : BitVec 32) : Option Instr :=
  match (w.extractLsb' 25 3).toNat with
  | 0 =>
    match (w.extractLsb' 22 3).toNat with
    | 0 =>
      if w.extractLsb' 7 5 = 0#5 then
        some (.spawn (w.extractLsb' 28 4) (w.extractLsb' 12 5) (w.extractLsb' 17 5))
      else none
    | 1 =>
      if w.extractLsb' 7 5 = 0#5 then
        some (.spawnM (w.extractLsb' 28 4) (w.extractLsb' 12 5) (w.extractLsb' 17 5))
      else none
    | _ => none
  | 1 =>
    some (.spawnTry (w.extractLsb' 28 4) (w.extractLsb' 7 5) (w.extractLsb' 12 5) (w.extractLsb' 17 5) (w.extractLsb' 22 3))
  | 2 =>
    some (.spawnMTry (w.extractLsb' 28 4) (w.extractLsb' 7 5) (w.extractLsb' 12 5) (w.extractLsb' 17 5) (w.extractLsb' 22 3))
  | 4 =>
    match (w.extractLsb' 22 3).toNat with
    | 0 =>
      if w.extractLsb' 7 5 = 0#5 ∧ w.extractLsb' 17 5 = 0#5 then
        some (.migrate (w.extractLsb' 28 4) (w.extractLsb' 12 5))
      else none
    | _ => none
  | 5 =>
    match (w.extractLsb' 22 3).toNat with
    | 0 =>
      if w.extractLsb' 17 5 = 0#5 then
        some (.migrateTry (w.extractLsb' 28 4) (w.extractLsb' 7 5) (w.extractLsb' 12 5))
      else none
    | _ => none
  | 6 =>
    match (w.extractLsb' 22 3).toNat with
    | 0 =>
      if w.extractLsb' 7 5 = 0#5 ∧ w.extractLsb' 17 5 = 0#5 then
        some (.suspend (w.extractLsb' 28 4) (w.extractLsb' 12 5))
      else none
    | 1 =>
      if w.extractLsb' 7 15 = 0#15 then
        some (.yield (w.extractLsb' 28 4))
      else none
    | 2 =>
      if w.extractLsb' 7 15 = 0#15 then
        some (.exit (w.extractLsb' 28 4))
      else none
    | _ => none
  | _ => none

/-- Major 0x21: Message, R287. -/
def decode21 (w : BitVec 32) : Option Instr :=
  match (w.extractLsb' 25 3).toNat with
  | 0 =>
    match (w.extractLsb' 22 3).toNat with
    | 0 =>
      if w.extractLsb' 7 5 = 0#5 then
        some (.msgApp (w.extractLsb' 28 4) (w.extractLsb' 12 5) (w.extractLsb' 17 5))
      else none
    | 1 =>
      if w.extractLsb' 7 5 = 0#5 then
        some (.msgAppRel (w.extractLsb' 28 4) (w.extractLsb' 12 5) (w.extractLsb' 17 5))
      else none
    | _ => none
  | 1 =>
    some (.msgTry (w.extractLsb' 28 4) (w.extractLsb' 7 5) (w.extractLsb' 12 5) (w.extractLsb' 17 5) (w.extractLsb' 22 3))
  | 2 =>
    some (.msgTryRel (w.extractLsb' 28 4) (w.extractLsb' 7 5) (w.extractLsb' 12 5) (w.extractLsb' 17 5) (w.extractLsb' 22 3))
  | 4 =>
    match (w.extractLsb' 22 3).toNat with
    | 0 =>
      if w.extractLsb' 12 5 = 0#5 then
        some (.msgPop (w.extractLsb' 28 4) (w.extractLsb' 7 5) (w.extractLsb' 17 5))
      else none
    | _ => none
  | 5 =>
    if w.extractLsb' 12 5 = 0#5 then
      some (.msgPoll (w.extractLsb' 28 4) (w.extractLsb' 7 5) (w.extractLsb' 17 5) (w.extractLsb' 22 3))
    else none
  | _ => none

/-- Major 0x24: Ring and steep, R313. -/
def decode24 (w : BitVec 32) : Option Instr :=
  match (w.extractLsb' 25 3).toNat with
  | 0 =>
    match (w.extractLsb' 22 3).toNat with
    | 0 =>
      if w.extractLsb' 7 5 = 0#5 then
        some (.ringCfg (w.extractLsb' 28 4) (w.extractLsb' 12 5) (w.extractLsb' 17 5))
      else none
    | 1 =>
      if w.extractLsb' 7 5 = 0#5 then
        some (.ringPut (w.extractLsb' 28 4) (w.extractLsb' 12 5) (w.extractLsb' 17 5))
      else none
    | 2 =>
      if w.extractLsb' 7 15 = 0#15 then
        some (.ringGo (w.extractLsb' 28 4))
      else none
    | 3 =>
      if w.extractLsb' 7 15 = 0#15 then
        some (.steepDone (w.extractLsb' 28 4))
      else none
    | _ => none
  | 1 =>
    some (.ringTry (w.extractLsb' 28 4) (w.extractLsb' 7 5) (w.extractLsb' 12 5) (w.extractLsb' 17 5) (w.extractLsb' 22 3))
  | 2 =>
    if w.extractLsb' 12 10 = 0#10 then
      some (.ringTake (w.extractLsb' 28 4) (w.extractLsb' 7 5) (w.extractLsb' 22 3))
    else none
  | _ => none

/-- Major 0x30: System, R375. -/
def decode30 (w : BitVec 32) : Option Instr :=
  match (w.extractLsb' 29 3).toNat with
  | 0 =>
    if w.extractLsb' 12 5 = 0#5 then
      some (.mfsr (w.extractLsb' 7 5) (w.extractLsb' 17 12))
    else none
  | 1 =>
    if w.extractLsb' 7 5 = 0#5 then
      some (.mtsr (w.extractLsb' 12 5) (w.extractLsb' 17 12))
    else none
  | 2 =>
    if w.extractLsb' 7 10 = 0#10 then
      some (.trap (w.extractLsb' 17 12))
    else none
  | 3 =>
    match (w.extractLsb' 17 2).toNat with
    | 0 =>
      if w.extractLsb' 7 10 = 0#10 ∧ w.extractLsb' 19 10 = 0#10 then
        some (.tret)
      else none
    | _ => none
  | 4 =>
    match (w.extractLsb' 17 2).toNat with
    | 0 =>
      if w.extractLsb' 19 10 = 0#10 then
        some (.tlbinvVa (w.extractLsb' 12 5) (w.extractLsb' 7 5))
      else none
    | 1 =>
      if w.extractLsb' 19 10 = 0#10 then
        some (.tlbinvCtx (w.extractLsb' 12 5) (w.extractLsb' 7 5))
      else none
    | 2 =>
      if w.extractLsb' 19 10 = 0#10 then
        some (.tlbinvIpa (w.extractLsb' 12 5) (w.extractLsb' 7 5))
      else none
    | 3 =>
      if w.extractLsb' 19 10 = 0#10 then
        some (.tlbinvPart (w.extractLsb' 12 5) (w.extractLsb' 7 5))
      else none
    | _ => none
  | 5 =>
    if w.extractLsb' 7 10 = 0#10 then
      some (.bkpt (w.extractLsb' 17 12))
    else none
  | 6 =>
    if w.extractLsb' 7 10 = 0#10 then
      some (.halt (w.extractLsb' 17 12))
    else none
  | _ => none

/-- A 32-bit word read by its major (R60); a major not listed is reserved. -/
def parseWord (w : BitVec 32) : Option Instr :=
  if w.extractLsb' 0 1 = 1#1 then
    match (w.extractLsb' 1 6).toNat with
    | 0x01 => decode01 w
    | 0x02 => decode02 w
    | 0x03 => decode03 w
    | 0x04 => decode04 w
    | 0x05 => decode05 w
    | 0x06 => decode06 w
    | 0x08 => decode08 w
    | 0x09 => decode09 w
    | 0x0A => decode0A w
    | 0x0C => decode0C w
    | 0x0D => decode0D w
    | 0x0E => decode0E w
    | 0x0F => decode0F w
    | 0x10 => decode10 w
    | 0x11 => decode11 w
    | 0x12 => decode12 w
    | 0x13 => decode13 w
    | 0x14 => decode14 w
    | 0x15 => decode15 w
    | 0x18 => decode18 w
    | 0x19 => decode19 w
    | 0x1A => decode1A w
    | 0x1C => decode1C w
    | 0x1D => decode1D w
    | 0x1E => decode1E w
    | 0x20 => decode20 w
    | 0x21 => decode21 w
    | 0x24 => decode24 w
    | 0x30 => decode30 w
    | _ => none
  else none

/-- A compact word read by its compact opcode (R61); opcode 0 is reserved. -/
def parseHalf (w : BitVec 16) : Option Instr :=
  if w.extractLsb' 0 1 = 0#1 then
    match (w.extractLsb' 1 4).toNat with
    | 1 =>
      if w.extractLsb' 15 1 = 0#1 then
        some (.cMov (w.extractLsb' 5 5) (w.extractLsb' 10 5))
      else none
    | 2 =>
      if w.extractLsb' 15 1 = 0#1 then
        some (.cAdd (w.extractLsb' 5 5) (w.extractLsb' 10 5))
      else none
    | 3 =>
      if w.extractLsb' 15 1 = 0#1 then
        some (.cSub (w.extractLsb' 5 5) (w.extractLsb' 10 5))
      else none
    | 4 =>
      if w.extractLsb' 15 1 = 0#1 then
        some (.cAnd (w.extractLsb' 5 5) (w.extractLsb' 10 5))
      else none
    | 5 =>
      if w.extractLsb' 15 1 = 0#1 then
        some (.cOr (w.extractLsb' 5 5) (w.extractLsb' 10 5))
      else none
    | 6 =>
      if w.extractLsb' 15 1 = 0#1 then
        some (.cXor (w.extractLsb' 5 5) (w.extractLsb' 10 5))
      else none
    | 7 =>
      some (.cAddi (w.extractLsb' 5 5) (w.extractLsb' 10 6))
    | 8 =>
      some (.cLi (w.extractLsb' 5 5) (w.extractLsb' 10 6))
    | 9 =>
      some (.cShli (w.extractLsb' 5 5) (w.extractLsb' 10 6))
    | 10 =>
      some (.cLd (w.extractLsb' 5 5) (w.extractLsb' 10 5) (w.extractLsb' 15 1))
    | 11 =>
      some (.cSt (w.extractLsb' 5 5) (w.extractLsb' 10 5) (w.extractLsb' 15 1))
    | 12 =>
      some (.cBr (w.extractLsb' 5 11))
    | 13 =>
      if w.extractLsb' 5 11 = 0#11 then
        some (.cRet)
      else none
    | 14 =>
      if w.extractLsb' 5 11 = 0#11 then
        some (.cWaitc)
      else none
    | 15 =>
      if w.extractLsb' 5 11 = 0#11 then
        some (.cNop)
      else none
    | _ => none
  else none

/-- The decoder (R57 step 2): an assigned encoding whose fields the form admits. -/
def decode : Code → Option Instr
  | .word w => (parseWord w).filter wellFormed
  | .half h => (parseHalf h).filter wellFormed
  | .none => none

/-- The encoder, from the same formats: the bits of an instruction, high field first. -/
def encode : Instr → Code
  | .add g d a b => .word (g ++ 0#6 ++ b ++ a ++ d ++ 1#6 ++ 1#1)
  | .sub g d a b => .word (g ++ 1#6 ++ b ++ a ++ d ++ 1#6 ++ 1#1)
  | .and g d a b => .word (g ++ 2#6 ++ b ++ a ++ d ++ 1#6 ++ 1#1)
  | .or g d a b => .word (g ++ 3#6 ++ b ++ a ++ d ++ 1#6 ++ 1#1)
  | .xor g d a b => .word (g ++ 4#6 ++ b ++ a ++ d ++ 1#6 ++ 1#1)
  | .andn g d a b => .word (g ++ 5#6 ++ b ++ a ++ d ++ 1#6 ++ 1#1)
  | .shl g d a b => .word (g ++ 6#6 ++ b ++ a ++ d ++ 1#6 ++ 1#1)
  | .shr g d a b => .word (g ++ 7#6 ++ b ++ a ++ d ++ 1#6 ++ 1#1)
  | .sra g d a b => .word (g ++ 8#6 ++ b ++ a ++ d ++ 1#6 ++ 1#1)
  | .rot g d a b => .word (g ++ 9#6 ++ b ++ a ++ d ++ 1#6 ++ 1#1)
  | .min g d a b => .word (g ++ 10#6 ++ b ++ a ++ d ++ 1#6 ++ 1#1)
  | .max g d a b => .word (g ++ 11#6 ++ b ++ a ++ d ++ 1#6 ++ 1#1)
  | .minn g d a b => .word (g ++ 12#6 ++ b ++ a ++ d ++ 1#6 ++ 1#1)
  | .maxn g d a b => .word (g ++ 13#6 ++ b ++ a ++ d ++ 1#6 ++ 1#1)
  | .mov g d a => .word (g ++ 448#11 ++ a ++ d ++ 1#6 ++ 1#1)
  | .sel g d a b p => .word (g ++ 2#3 ++ p ++ b ++ a ++ d ++ 1#6 ++ 1#1)
  | .addi d a imm => .word (imm ++ 0#3 ++ a ++ d ++ 2#6 ++ 1#1)
  | .andi d a imm => .word (imm ++ 1#3 ++ a ++ d ++ 2#6 ++ 1#1)
  | .ori d a imm => .word (imm ++ 2#3 ++ a ++ d ++ 2#6 ++ 1#1)
  | .xori d a imm => .word (imm ++ 3#3 ++ a ++ d ++ 2#6 ++ 1#1)
  | .shli d a sh => .word (0#6 ++ sh ++ 4#3 ++ a ++ d ++ 2#6 ++ 1#1)
  | .shri d a sh => .word (0#6 ++ sh ++ 5#3 ++ a ++ d ++ 2#6 ++ 1#1)
  | .srai d a sh => .word (0#6 ++ sh ++ 6#3 ++ a ++ d ++ 2#6 ++ 1#1)
  | .movh d a imm sh => .word (imm ++ 0#1 ++ sh ++ a ++ d ++ 3#6 ++ 1#1)
  | .movh60 d a imm => .word (0#8 ++ imm ++ 4#3 ++ a ++ d ++ 3#6 ++ 1#1)
  | .addpc d imm sh => .word (imm ++ sh ++ 0#5 ++ d ++ 3#6 ++ 1#1)
  | .cmp d a b cc => .word (0#4 ++ cc ++ b ++ 0#3 ++ a ++ 0#2 ++ d ++ 4#6 ++ 1#1)
  | .cmpi d a imm cc => .word (imm ++ cc ++ a ++ 0#2 ++ d ++ 4#6 ++ 1#1)
  | .pand d a b => .word (0#9 ++ b ++ 28#5 ++ a ++ 0#2 ++ d ++ 4#6 ++ 1#1)
  | .por d a b => .word (4#9 ++ b ++ 28#5 ++ a ++ 0#2 ++ d ++ 4#6 ++ 1#1)
  | .pxor d a b => .word (8#9 ++ b ++ 28#5 ++ a ++ 0#2 ++ d ++ 4#6 ++ 1#1)
  | .pnot d a => .word (3100#17 ++ a ++ 0#2 ++ d ++ 4#6 ++ 1#1)
  | .pmov d a => .word (4124#17 ++ a ++ 0#2 ++ d ++ 4#6 ++ 1#1)
  | .bfx g d a b => .word (g ++ 0#6 ++ b ++ a ++ d ++ 5#6 ++ 1#1)
  | .bfxn g d a b => .word (g ++ 1#6 ++ b ++ a ++ d ++ 5#6 ++ 1#1)
  | .bfi g d a b => .word (g ++ 2#6 ++ b ++ a ++ d ++ 5#6 ++ 1#1)
  | .clz g d a => .word (g ++ 256#11 ++ a ++ d ++ 5#6 ++ 1#1)
  | .ctz g d a => .word (g ++ 288#11 ++ a ++ d ++ 5#6 ++ 1#1)
  | .popc g d a => .word (g ++ 320#11 ++ a ++ d ++ 5#6 ++ 1#1)
  | .brev g d a => .word (g ++ 352#11 ++ a ++ d ++ 5#6 ++ 1#1)
  | .mul g d a b => .word (g ++ 0#6 ++ b ++ a ++ d ++ 6#6 ++ 1#1)
  | .mulh g d a b => .word (g ++ 1#6 ++ b ++ a ++ d ++ 6#6 ++ 1#1)
  | .mulhn g d a b => .word (g ++ 2#6 ++ b ++ a ++ d ++ 6#6 ++ 1#1)
  | .div g d a b => .word (g ++ 4#6 ++ b ++ a ++ d ++ 6#6 ++ 1#1)
  | .divn g d a b => .word (g ++ 5#6 ++ b ++ a ++ d ++ 6#6 ++ 1#1)
  | .rem g d a b => .word (g ++ 6#6 ++ b ++ a ++ d ++ 6#6 ++ 1#1)
  | .remn g d a b => .word (g ++ 7#6 ++ b ++ a ++ d ++ 6#6 ++ 1#1)
  | .brp p off neg => .word (off ++ 0#1 ++ neg ++ p ++ 8#6 ++ 1#1)
  | .jal off => .word (off ++ 9#6 ++ 1#1)
  | .jalr a imm => .word (imm ++ 0#3 ++ a ++ 0#5 ++ 10#6 ++ 1#1)
  | .jmp a imm => .word (imm ++ 1#3 ++ a ++ 0#5 ++ 10#6 ++ 1#1)
  | .ret => .word (2048#25 ++ 10#6 ++ 1#1)
  | .loop a imm => .word (imm ++ 3#3 ++ a ++ 0#5 ++ 10#6 ++ 1#1)
  | .nop => .word (4096#25 ++ 10#6 ++ 1#1)
  | .ldB t a imm => .word (imm ++ 0#3 ++ a ++ t ++ 12#6 ++ 1#1)
  | .ldH t a imm => .word (imm ++ 1#3 ++ a ++ t ++ 12#6 ++ 1#1)
  | .ldW t a imm => .word (imm ++ 2#3 ++ a ++ t ++ 12#6 ++ 1#1)
  | .ldD t a imm => .word (imm ++ 3#3 ++ a ++ t ++ 12#6 ++ 1#1)
  | .ldBN t a imm => .word (imm ++ 4#3 ++ a ++ t ++ 12#6 ++ 1#1)
  | .ldHN t a imm => .word (imm ++ 5#3 ++ a ++ t ++ 12#6 ++ 1#1)
  | .ldWN t a imm => .word (imm ++ 6#3 ++ a ++ t ++ 12#6 ++ 1#1)
  | .stB t a imm => .word (imm ++ 0#3 ++ a ++ t ++ 13#6 ++ 1#1)
  | .stH t a imm => .word (imm ++ 1#3 ++ a ++ t ++ 13#6 ++ 1#1)
  | .stW t a imm => .word (imm ++ 2#3 ++ a ++ t ++ 13#6 ++ 1#1)
  | .stD t a imm => .word (imm ++ 3#3 ++ a ++ t ++ 13#6 ++ 1#1)
  | .ldAcq t a zx sz sc => .word (0#6 ++ zx ++ sz ++ sc ++ 0#3 ++ a ++ t ++ 14#6 ++ 1#1)
  | .stRel t a sz sc => .word (0#7 ++ sz ++ sc ++ 1#3 ++ a ++ t ++ 14#6 ++ 1#1)
  | .fenceRel sc => .word (0#9 ++ sc ++ 2048#13 ++ 14#6 ++ 1#1)
  | .fenceAcq sc => .word (1#9 ++ sc ++ 2048#13 ++ 14#6 ++ 1#1)
  | .fenceAr sc => .word (2#9 ++ sc ++ 2048#13 ++ 14#6 ++ 1#1)
  | .pref a imm l2 own => .word (imm ++ 3#3 ++ a ++ 0#3 ++ l2 ++ own ++ 14#6 ++ 1#1)
  | .discard a imm => .word (imm ++ 4#3 ++ a ++ 0#5 ++ 14#6 ++ 1#1)
  | .clean a imm depth => .word (imm ++ 5#3 ++ a ++ 0#4 ++ depth ++ 14#6 ++ 1#1)
  | .invalD a imm => .word (imm ++ 6#3 ++ a ++ 0#5 ++ 14#6 ++ 1#1)
  | .invalI a imm => .word (imm ++ 6#3 ++ a ++ 1#5 ++ 14#6 ++ 1#1)
  | .amoAdd g d a b ord => .word (g ++ ord ++ 0#4 ++ b ++ a ++ d ++ 15#6 ++ 1#1)
  | .amoAnd g d a b ord => .word (g ++ ord ++ 1#4 ++ b ++ a ++ d ++ 15#6 ++ 1#1)
  | .amoOr g d a b ord => .word (g ++ ord ++ 2#4 ++ b ++ a ++ d ++ 15#6 ++ 1#1)
  | .amoXor g d a b ord => .word (g ++ ord ++ 3#4 ++ b ++ a ++ d ++ 15#6 ++ 1#1)
  | .amoMin g d a b ord => .word (g ++ ord ++ 4#4 ++ b ++ a ++ d ++ 15#6 ++ 1#1)
  | .amoMax g d a b ord => .word (g ++ ord ++ 5#4 ++ b ++ a ++ d ++ 15#6 ++ 1#1)
  | .amoMinn g d a b ord => .word (g ++ ord ++ 6#4 ++ b ++ a ++ d ++ 15#6 ++ 1#1)
  | .amoMaxn g d a b ord => .word (g ++ ord ++ 7#4 ++ b ++ a ++ d ++ 15#6 ++ 1#1)
  | .amoSwap g d a b ord => .word (g ++ ord ++ 8#4 ++ b ++ a ++ d ++ 15#6 ++ 1#1)
  | .amoCas g d a b ord => .word (g ++ ord ++ 9#4 ++ b ++ a ++ d ++ 15#6 ++ 1#1)
  | .amoFadd g d a b ord => .word (g ++ ord ++ 10#4 ++ b ++ a ++ d ++ 15#6 ++ 1#1)
  | .vld t a off tag => .word (off ++ tag ++ 0#3 ++ a ++ 0#1 ++ t ++ 16#6 ++ 1#1)
  | .vst t a imm => .word (imm ++ 1#3 ++ a ++ 0#1 ++ t ++ 16#6 ++ 1#1)
  | .vadd g d a b => .word (g ++ 0#7 ++ b ++ 0#1 ++ a ++ 0#1 ++ d ++ 17#6 ++ 1#1)
  | .vsub g d a b => .word (g ++ 2#7 ++ b ++ 0#1 ++ a ++ 0#1 ++ d ++ 17#6 ++ 1#1)
  | .vmul g d a b => .word (g ++ 4#7 ++ b ++ 0#1 ++ a ++ 0#1 ++ d ++ 17#6 ++ 1#1)
  | .vdiv g d a b => .word (g ++ 6#7 ++ b ++ 0#1 ++ a ++ 0#1 ++ d ++ 17#6 ++ 1#1)
  | .vmin g d a b => .word (g ++ 8#7 ++ b ++ 0#1 ++ a ++ 0#1 ++ d ++ 17#6 ++ 1#1)
  | .vmax g d a b => .word (g ++ 10#7 ++ b ++ 0#1 ++ a ++ 0#1 ++ d ++ 17#6 ++ 1#1)
  | .vfma g d a b => .word (g ++ 16#7 ++ b ++ 0#1 ++ a ++ 0#1 ++ d ++ 17#6 ++ 1#1)
  | .vfms g d a b => .word (g ++ 18#7 ++ b ++ 0#1 ++ a ++ 0#1 ++ d ++ 17#6 ++ 1#1)
  | .vfnma g d a b => .word (g ++ 20#7 ++ b ++ 0#1 ++ a ++ 0#1 ++ d ++ 17#6 ++ 1#1)
  | .vfnms g d a b => .word (g ++ 22#7 ++ b ++ 0#1 ++ a ++ 0#1 ++ d ++ 17#6 ++ 1#1)
  | .vcmp g d a b cc => .word (g ++ 2#3 ++ cc ++ 0#1 ++ b ++ 0#1 ++ a ++ d ++ 17#6 ++ 1#1)
  | .vabs g d a => .word (g ++ 0#12 ++ a ++ 0#1 ++ d ++ 18#6 ++ 1#1)
  | .vneg g d a => .word (g ++ 64#12 ++ a ++ 0#1 ++ d ++ 18#6 ++ 1#1)
  | .vsqrt g d a => .word (g ++ 128#12 ++ a ++ 0#1 ++ d ++ 18#6 ++ 1#1)
  | .vrcp g d a => .word (g ++ 512#12 ++ a ++ 0#1 ++ d ++ 18#6 ++ 1#1)
  | .vrsq g d a => .word (g ++ 576#12 ++ a ++ 0#1 ++ d ++ 18#6 ++ 1#1)
  | .vexp2 g d a => .word (g ++ 640#12 ++ a ++ 0#1 ++ d ++ 18#6 ++ 1#1)
  | .vlog2 g d a => .word (g ++ 704#12 ++ a ++ 0#1 ++ d ++ 18#6 ++ 1#1)
  | .viadd g d a b => .word (g ++ 0#7 ++ b ++ 0#1 ++ a ++ 0#1 ++ d ++ 19#6 ++ 1#1)
  | .visub g d a b => .word (g ++ 2#7 ++ b ++ 0#1 ++ a ++ 0#1 ++ d ++ 19#6 ++ 1#1)
  | .vimul g d a b => .word (g ++ 4#7 ++ b ++ 0#1 ++ a ++ 0#1 ++ d ++ 19#6 ++ 1#1)
  | .vimac g d a b => .word (g ++ 6#7 ++ b ++ 0#1 ++ a ++ 0#1 ++ d ++ 19#6 ++ 1#1)
  | .viaddS g d a b => .word (g ++ 8#7 ++ b ++ 0#1 ++ a ++ 0#1 ++ d ++ 19#6 ++ 1#1)
  | .visubS g d a b => .word (g ++ 10#7 ++ b ++ 0#1 ++ a ++ 0#1 ++ d ++ 19#6 ++ 1#1)
  | .vimulS g d a b => .word (g ++ 12#7 ++ b ++ 0#1 ++ a ++ 0#1 ++ d ++ 19#6 ++ 1#1)
  | .vimacS g d a b => .word (g ++ 14#7 ++ b ++ 0#1 ++ a ++ 0#1 ++ d ++ 19#6 ++ 1#1)
  | .vshl g d a b => .word (g ++ 16#7 ++ b ++ 0#1 ++ a ++ 0#1 ++ d ++ 19#6 ++ 1#1)
  | .vshr g d a b => .word (g ++ 18#7 ++ b ++ 0#1 ++ a ++ 0#1 ++ d ++ 19#6 ++ 1#1)
  | .vsra g d a b => .word (g ++ 20#7 ++ b ++ 0#1 ++ a ++ 0#1 ++ d ++ 19#6 ++ 1#1)
  | .vand g d a b => .word (g ++ 24#7 ++ b ++ 0#1 ++ a ++ 0#1 ++ d ++ 19#6 ++ 1#1)
  | .vor g d a b => .word (g ++ 26#7 ++ b ++ 0#1 ++ a ++ 0#1 ++ d ++ 19#6 ++ 1#1)
  | .vxor g d a b => .word (g ++ 28#7 ++ b ++ 0#1 ++ a ++ 0#1 ++ d ++ 19#6 ++ 1#1)
  | .vcvt g d a tag sat k => .word (g ++ 0#2 ++ tag ++ 0#1 ++ sat ++ k ++ 0#1 ++ a ++ 0#1 ++ d ++ 20#6 ++ 1#1)
  | .vqnt g d a b f => .word (g ++ 1#2 ++ f ++ b ++ 0#1 ++ a ++ 0#3 ++ d ++ 20#6 ++ 1#1)
  | .vdeq g d a b f => .word (g ++ 2#2 ++ f ++ b ++ a ++ 0#1 ++ d ++ 0#2 ++ 20#6 ++ 1#1)
  | .vdot g d a b => .word (g ++ 96#7 ++ b ++ 0#1 ++ a ++ 0#1 ++ d ++ 20#6 ++ 1#1)
  | .vsplat g d a tag => .word (g ++ 0#2 ++ tag ++ 0#5 ++ a ++ 0#1 ++ d ++ 21#6 ++ 1#1)
  | .vmov g d a => .word (g ++ 1024#12 ++ a ++ 0#1 ++ d ++ 21#6 ++ 1#1)
  | .vsel g d a b => .word (g ++ 17#6 ++ b ++ 0#1 ++ a ++ 0#1 ++ d ++ 21#6 ++ 1#1)
  | .vshuf g d a b => .word (g ++ 18#6 ++ b ++ 0#1 ++ a ++ 0#1 ++ d ++ 21#6 ++ 1#1)
  | .vext g d a idx => .word (g ++ 38#7 ++ idx ++ 0#1 ++ a ++ d ++ 21#6 ++ 1#1)
  | .vins g d a idx => .word (g ++ 40#7 ++ idx ++ a ++ 0#1 ++ d ++ 21#6 ++ 1#1)
  | .vhsum g d a => .word (g ++ 1536#12 ++ a ++ 0#1 ++ d ++ 21#6 ++ 1#1)
  | .vhmax g d a => .word (g ++ 1600#12 ++ a ++ 0#1 ++ d ++ 21#6 ++ 1#1)
  | .mma a b c => .word (0#10 ++ c ++ b ++ a ++ 24#6 ++ 1#1)
  | .mmaL a b c => .word (16#10 ++ c ++ b ++ a ++ 24#6 ++ 1#1)
  | .mmaSp8 a b c => .word (32#10 ++ c ++ b ++ a ++ 24#6 ++ 1#1)
  | .mmaSp16 a b c => .word (48#10 ++ c ++ b ++ a ++ 24#6 ++ 1#1)
  | .mmaSp32 a b c => .word (64#10 ++ c ++ b ++ a ++ 24#6 ++ 1#1)
  | .accInit a b => .word (0#15 ++ b ++ a ++ 25#6 ++ 1#1)
  | .accSettle a b => .word (512#15 ++ b ++ a ++ 25#6 ++ 1#1)
  | .redV a b c => .word (32#10 ++ c ++ 0#1 ++ b ++ 0#2 ++ a ++ 25#6 ++ 1#1)
  | .detNext a b => .word (1536#15 ++ b ++ a ++ 25#6 ++ 1#1)
  | .drain a b c f => .word (1#1 ++ f ++ 0#4 ++ c ++ b ++ a ++ 25#6 ++ 1#1)
  | .tmld a imm tm => .word (imm ++ 0#3 ++ a ++ 0#1 ++ tm ++ 26#6 ++ 1#1)
  | .cpyTLd a b c tm => .word (0#6 ++ tm ++ c ++ b ++ a ++ 28#6 ++ 1#1)
  | .cpyTSt a b c tm => .word (1#6 ++ tm ++ c ++ b ++ a ++ 28#6 ++ 1#1)
  | .cpyLLd a b c => .word (64#10 ++ c ++ b ++ a ++ 28#6 ++ 1#1)
  | .cpyLSt a b c => .word (80#10 ++ c ++ b ++ a ++ 28#6 ++ 1#1)
  | .cpyWp a ch => .word (32768#18 ++ ch ++ a ++ 28#6 ++ 1#1)
  | .cpyStop a ch => .word (36864#18 ++ ch ++ a ++ 28#6 ++ 1#1)
  | .waitc ms mx cp st ld => .word (0#5 ++ ms ++ mx ++ cp ++ st ++ ld ++ 29#6 ++ 1#1)
  | .barInit a b sc => .word (16#9 ++ sc ++ 0#5 ++ b ++ a ++ 29#6 ++ 1#1)
  | .barArr d a => .word (64#10 ++ d ++ 0#5 ++ a ++ 29#6 ++ 1#1)
  | .barArrx d a b => .word (96#10 ++ d ++ b ++ a ++ 29#6 ++ 1#1)
  | .barWait a b => .word (4096#15 ++ b ++ a ++ 29#6 ++ 1#1)
  | .barTry a b p => .word (20#7 ++ p ++ 0#5 ++ b ++ a ++ 29#6 ++ 1#1)
  | .gbarArr d a sc => .word (32#7 ++ sc ++ d ++ 0#5 ++ a ++ 29#6 ++ 1#1)
  | .gbarWait a b sc => .word (36#7 ++ sc ++ 0#5 ++ b ++ a ++ 29#6 ++ 1#1)
  | .gbarTry a b p sc => .word (40#7 ++ sc ++ 0#2 ++ p ++ b ++ a ++ 29#6 ++ 1#1)
  | .evSig a => .word (393216#20 ++ a ++ 29#6 ++ 1#1)
  | .evWait a => .word (425984#20 ++ a ++ 29#6 ++ 1#1)
  | .evTry a p => .word (56#7 ++ p ++ 0#10 ++ a ++ 29#6 ++ 1#1)
  | .cnvJoin g d a b => .word (g ++ 0#6 ++ b ++ a ++ d ++ 30#6 ++ 1#1)
  | .cnvTry g d a b p => .word (g ++ 1#3 ++ p ++ b ++ a ++ d ++ 30#6 ++ 1#1)
  | .cnvLeave g => .word (g ++ 524288#21 ++ 30#6 ++ 1#1)
  | .spawn g a b => .word (g ++ 0#6 ++ b ++ a ++ 0#5 ++ 32#6 ++ 1#1)
  | .spawnM g a b => .word (g ++ 1#6 ++ b ++ a ++ 0#5 ++ 32#6 ++ 1#1)
  | .spawnTry g d a b p => .word (g ++ 1#3 ++ p ++ b ++ a ++ d ++ 32#6 ++ 1#1)
  | .spawnMTry g d a b p => .word (g ++ 2#3 ++ p ++ b ++ a ++ d ++ 32#6 ++ 1#1)
  | .migrate g a => .word (g ++ 1024#11 ++ a ++ 0#5 ++ 32#6 ++ 1#1)
  | .migrateTry g d a => .word (g ++ 1280#11 ++ a ++ d ++ 32#6 ++ 1#1)
  | .suspend g a => .word (g ++ 1536#11 ++ a ++ 0#5 ++ 32#6 ++ 1#1)
  | .yield g => .word (g ++ 1605632#21 ++ 32#6 ++ 1#1)
  | .exit g => .word (g ++ 1638400#21 ++ 32#6 ++ 1#1)
  | .msgApp g a b => .word (g ++ 0#6 ++ b ++ a ++ 0#5 ++ 33#6 ++ 1#1)
  | .msgAppRel g a b => .word (g ++ 1#6 ++ b ++ a ++ 0#5 ++ 33#6 ++ 1#1)
  | .msgTry g d a b p => .word (g ++ 1#3 ++ p ++ b ++ a ++ d ++ 33#6 ++ 1#1)
  | .msgTryRel g d a b p => .word (g ++ 2#3 ++ p ++ b ++ a ++ d ++ 33#6 ++ 1#1)
  | .msgPop g d b => .word (g ++ 32#6 ++ b ++ 0#5 ++ d ++ 33#6 ++ 1#1)
  | .msgPoll g d b p => .word (g ++ 5#3 ++ p ++ b ++ 0#5 ++ d ++ 33#6 ++ 1#1)
  | .ringCfg g a b => .word (g ++ 0#6 ++ b ++ a ++ 0#5 ++ 36#6 ++ 1#1)
  | .ringPut g a b => .word (g ++ 1#6 ++ b ++ a ++ 0#5 ++ 36#6 ++ 1#1)
  | .ringGo g => .word (g ++ 65536#21 ++ 36#6 ++ 1#1)
  | .steepDone g => .word (g ++ 98304#21 ++ 36#6 ++ 1#1)
  | .ringTry g d a b p => .word (g ++ 1#3 ++ p ++ b ++ a ++ d ++ 36#6 ++ 1#1)
  | .ringTake g d p => .word (g ++ 2#3 ++ p ++ 0#10 ++ d ++ 36#6 ++ 1#1)
  | .mfsr d r => .word (0#3 ++ r ++ 0#5 ++ d ++ 48#6 ++ 1#1)
  | .mtsr a r => .word (1#3 ++ r ++ a ++ 0#5 ++ 48#6 ++ 1#1)
  | .trap imm => .word (2#3 ++ imm ++ 0#10 ++ 48#6 ++ 1#1)
  | .tret => .word (12582912#25 ++ 48#6 ++ 1#1)
  | .tlbinvVa a c => .word (16384#15 ++ a ++ c ++ 48#6 ++ 1#1)
  | .tlbinvCtx a c => .word (16385#15 ++ a ++ c ++ 48#6 ++ 1#1)
  | .tlbinvIpa a c => .word (16386#15 ++ a ++ c ++ 48#6 ++ 1#1)
  | .tlbinvPart a c => .word (16387#15 ++ a ++ c ++ 48#6 ++ 1#1)
  | .bkpt imm => .word (5#3 ++ imm ++ 0#10 ++ 48#6 ++ 1#1)
  | .halt imm => .word (6#3 ++ imm ++ 0#10 ++ 48#6 ++ 1#1)
  | .cMov d a => .half (0#1 ++ a ++ d ++ 2#5)
  | .cAdd d a => .half (0#1 ++ a ++ d ++ 4#5)
  | .cSub d a => .half (0#1 ++ a ++ d ++ 6#5)
  | .cAnd d a => .half (0#1 ++ a ++ d ++ 8#5)
  | .cOr d a => .half (0#1 ++ a ++ d ++ 10#5)
  | .cXor d a => .half (0#1 ++ a ++ d ++ 12#5)
  | .cAddi d imm => .half (imm ++ d ++ 14#5)
  | .cLi d imm => .half (imm ++ d ++ 16#5)
  | .cShli d sh => .half (sh ++ d ++ 18#5)
  | .cLd d a s => .half (s ++ a ++ d ++ 20#5)
  | .cSt t a s => .half (s ++ a ++ t ++ 22#5)
  | .cBr off => .half (off ++ 24#5)
  | .cRet => .half (0#11 ++ 26#5)
  | .cWaitc => .half (0#11 ++ 28#5)
  | .cNop => .half (0#11 ++ 30#5)
  | .configRegisterWrite _ _ _ => .none
  | .qtailDoorbell _ _ => .none
  | .packetRead _ => .none
  | .materialiseThread _ => .none
  | .pourComplete _ _ => .none
  | .queueBalance _ => .none
  | .rotationBoundary _ => .none
  | .instantiateContinuation _ => .none
  | .fullThreadArrival _ => .none
  | .registerCacheFill _ _ => .none
  | .inboxAppend _ => .none
  | .sendReply _ => .none
  | .sendRetry _ => .none
  | .holdLapse _ _ => .none
  | .pendingTrapDeadline _ => .none
  | .loadReply _ => .none
  | .storeAck _ => .none
  | .storeRefusal _ => .none
  | .homeAccess _ => .none
  | .atomicAtHome _ => .none
  | .caddyAccessArrival _ => .none
  | .regionMerge _ _ => .none
  | .pageWalkComplete _ _ _ => .none
  | .copyLineTransfer _ _ => .none
  | .copyComplete _ _ => .none
  | .engineArbitration _ => .none
  | .leaseIdleExpiry _ => .none
  | .matrixCommandComplete _ => .none
  | .infuserArrival _ => .none
  | .reductionAck _ => .none
  | .retryResend _ _ => .none
  | .accLineEvict _ => .none
  | .beatBoundary _ _ => .none
  | .steepTailDone _ _ => .none
  | .haltComplete _ => .none
  | .commit _ _ => .none
  | .ccommit _ _ _ => .none
  | .plevel _ _ => .none
  | .powerGateCore _ _ => .none
  | .powerWakeCore _ _ => .none
  | .partitionSleep _ => .none
  | .partitionWake _ => .none
  | .switchOut _ _ _ => .none
  | .switchIn _ _ _ => .none
  | .haltreq _ _ => .none
  | .rankcmd _ _ _ _ => .none
  | .refusalsClear _ _ => .none
  | .contextTeardown _ => .none
  | .partitionReset _ => .none
  | .hbmPreservingReset => .none
  | .coldReset => .none
  | .recoveryImageWrite _ => .none
  | .fullServiceStart => .none
  | .vfReset _ => .none
  | .cxlLinkDown _ _ _ => .none
  | .podLinkDown _ => .none
  | .hostRequestTimeout _ _ => .none
  | .podRequestTimeout _ => .none
  | .linkRetryExhausted _ _ => .none
  | .hostCxlMemAccess _ _ _ _ => .none
  | .peerQueueWrite _ _ _ => .none
  | .podMemoryAccess _ _ _ _ _ => .none
  | .thermalThrottle => .none
  | .coreClockGate _ => .none
  | .d3hotEntry => .none
  | .scrub _ _ _ _ => .none
  | .debugRequest _ => .none
  | .getVersion => .none
  | .getCapabilities => .none
  | .negotiateAlgorithms => .none
  | .getDigests => .none
  | .getCertificate _ => .none
  | .challenge _ _ => .none
  | .getMeasurements _ => .none
  | .keyExchange _ => .none
  | .finish _ => .none
  | .endSession => .none
  | .vendorDefinedRequest _ _ => .none
  | .spdmUnsupportedRequest _ => .none
  | .powerLoss _ => .none
  | .d3hotExit => .none
  | .enterDeployed => .none
  | .podGbarArrival _ _ => .none
  | .cxlCacheSnoop _ _ => .none
  | .linkUp _ _ => .none

/-- Bytes an encoded instruction takes: the PC advances by them (R52, R62). -/
def Code.size : Code → Nat
  | .word _ => 4
  | .half _ => 2
  | .none => 0

/-- The instruction word, zero-extended, as a trap names it in sr.tval (R57, R62). -/
def Code.bits : Code → Word
  | .word w => w.setWidth 64
  | .half h => h.setWidth 64
  | .none => 0

/-- The bytes of an instruction in memory order, little-endian (R6, R52). -/
def Code.bytes : Code → List Byte
  | .word w => [w.extractLsb' 0 8, w.extractLsb' 8 8, w.extractLsb' 16 8, w.extractLsb' 24 8]
  | .half h => [h.extractLsb' 0 8, h.extractLsb' 8 8]
  | .none => []

/-- The instruction that stands at the head of a list of bytes, framed by bit 0 of its first halfword (R52). -/
def frame : List Byte → Code
  | b0 :: b1 :: rest =>
    if b0.getLsbD 0 then
      match rest with
      | b2 :: b3 :: _ => .word (b3 ++ b2 ++ b1 ++ b0)
      | _ => .none
    else .half (b1 ++ b0)
  | _ => .none

/-- Decoding from bytes. -/
def decodeBytes (bs : List Byte) : Option Instr := decode (frame bs)

/-- The instruction the decoder reads from a row of opcode_table.json whose bits are `w`, bit 0 first; `nbits` below 32 is a
compact word, since only those rows are shorter. The bits above `nbits` are zero. -/
def decodeTableWord (nbits w : Nat) : Option Instr :=
  decodeBytes ((Code.word (BitVec.ofNat 32 (w % 2 ^ nbits))).bytes)

end Sys2Proof
end

