-- ==== Sys2Proof/Machine/Tab.lean ====
section
/-!
DEFINITION. Sparse data by key: a list of pairs with keys strictly rising, so that equal tables are equal data.
-/

namespace Sys2Proof

/-- A table from numbers to data; a key that is not listed has the reader's default. -/
abbrev Tab (α : Type) := List (Nat × α)

/-- The entry at a key, if listed. -/
def Tab.find {α : Type} : Tab α → Nat → Option α
  | [], _ => none
  | (k, x) :: t, i => if i = k then some x else Tab.find t i

/-- The entry at a key, or a default. -/
def Tab.get {α : Type} (t : Tab α) (d : α) (i : Nat) : α := (Tab.find t i).getD d

/-- The table with one entry replaced or added in its place. -/
def Tab.set {α : Type} : Tab α → Nat → α → Tab α
  | [], i, x => [(i, x)]
  | (k, y) :: t, i, x =>
    if i < k then (i, x) :: (k, y) :: t
    else if i = k then (i, x) :: t
    else (k, y) :: Tab.set t i x

/-- The table without a key. -/
def Tab.erase {α : Type} : Tab α → Nat → Tab α
  | [], _ => []
  | (k, y) :: t, i => if i = k then t else (k, y) :: Tab.erase t i

/-- Every entry changed by a function of its key. -/
def Tab.mapVals {α : Type} (f : Nat → α → α) (t : Tab α) : Tab α := t.map fun e => (e.1, f e.1 e.2)

/-- The entries kept by a test of key and value. -/
def Tab.keep {α : Type} (f : Nat → α → Bool) (t : Tab α) : Tab α := t.filter fun e => f e.1 e.2

/-- Keys strictly rising. -/
def Tab.wf {α : Type} : Tab α → Bool
  | [] => true
  | [_] => true
  | (k, _) :: (k', y) :: t => k < k' && Tab.wf ((k', y) :: t)

end Sys2Proof
end

