-- ==== Sys2Proof/Machine/State.lean ====
section
/-!
DEFINITION. The state of the whole device as plain data: threads, cores, memory, traffic in flight, the I/O die, and the events that wait
to be given to it. Every piece is named after the manual; the rules that name it stand in its docstring.
-/

namespace Sys2Proof.Machine

/-- The machine stops. The spec makes every outcome of a legal state definite (R4), so no meaning raises one; the constructor
exists for the interface. Raised by nobody; safe. -/
inductive Fault where
  | impossible
  deriving DecidableEq, Repr

/-- No meaning for what was asked. `notModelled` stands for an instruction without a meaning yet; safe. -/
inductive Refusal where
  | notModelled (mnemonic : String)
  deriving DecidableEq, Repr

/-! ## Threads -/

/-- The class of the place an access goes to: the page classes of R164, and the places without one. -/
inductive Cls where
  | trk | unt | acc | det | caddy | config | host | pod
  deriving DecidableEq, Repr

/-- A trap frame of one level: tcause, tepc, tval, sstat (R43, R371). -/
structure Frame where
  cause : Word := 0
  epc : Word := 0
  val : Word := 0
  stat : Word := 0
  deriving DecidableEq, Repr

/-- A pending asynchronous trap: its cause code, its value, and the core cycle from which its 4,096 cycles count; `due` once
the thread has been stopped and resumed with it; `seq` is the issue of the store that it names, and `group` its group, if it has one (R209, R210,
R386). -/
structure Pend where
  cause : Nat
  val : Word
  since : Nat
  due : Bool := false
  seq : Nat := 0
  group : Nat := 0
  deriving DecidableEq, Repr

/-- How a trap that sends its thread to a service core is undone where the thread is stopped before it arrives: its instruction raises it again, it is
pending again, or neither, its instruction having completed (R374). -/
inductive Undo where
  | again
  | pending (p : Pend)
  | done
  deriving DecidableEq, Repr

/-- Where a thread is (R263, R302, R374, R387). -/
inductive Place where
  /-- exited, or collapsed into a continuation -/
  | none
  /-- in the run list of its queue -/
  | waiting
  /-- in a barrel slot -/
  | slot (n : Nat)
  /-- parked, its slot given up -/
  | parkedOut
  /-- on its way between cores -/
  | moving
  /-- on a service core -/
  | service (n : Nat)
  /-- in its image: switched out or halted -/
  | saved
  deriving DecidableEq, Repr

/-- What a parked thread waits for (R225, R244, R289, R316). -/
inductive Park where
  /-- a barrier object, the address that names it, and the parity waited on -/
  | barrier (key : Nat) (ga : Word) (parity : Bool)
  | gbar (key : Nat)
  | event (n : Nat)
  | counters
  | channel (ch : Nat)
  | inbox
  | ring
  deriving DecidableEq, Repr

/-- Where a load's bytes go (R207, R117, R133, R47). -/
inductive Dest where
  | g (d : BitVec 5) (bytes : Nat) (signed : Bool)
  | v (d : BitVec 4) (tag : BitVec 4)
  /-- a VDEQ, with sr.fcsr.RM as it stood at its issue (R133) -/
  | deq (d : BitVec 2) (f : BitVec 4) (rm : BitVec 3)
  /-- the refill of a RET: the bytes are the return address (R47) -/
  | ret
  deriving DecidableEq, Repr

/-- A register load under way: its bytes so far and the words still owed (R38, R205). `acq` is the scope of an acquire that completes
with it; `held` says that the thread waits for it at its instruction of `size` bytes (R39, R47). -/
structure PendLoad where
  id : Nat
  dest : Dest
  buf : List Byte
  left : Nat
  words : Nat
  acq : Option (BitVec 3) := none
  held : Option Nat := none
  deriving DecidableEq, Repr

/-- What a thread that has issued an instruction waits for before it issues anything younger, or, for `acq` and `ack`, before it issues
anything younger that makes an access. -/
inductive Hold where
  /-- a load's reply (R39, R47) -/
  | load (id : Nat)
  /-- the reply to a load or value-returning atomic that acquires (R212, R192) -/
  | acq (id : Nat)
  /-- the acknowledgement of a no-return atomic with .ACQ or .AR; `held` says that the thread waits at the instruction (R221, R224) -/
  | ack (id : Nat) (held : Bool := false)
  /-- the reply to a TRY form: status register, predicate, size; for MIGRATE.TRY the thread leaves on acceptance (R282, R283, R288) -/
  | send (id : Nat) (d : BitVec 5) (p : Option (BitVec 3)) (size : Nat) (leaves : Bool)
  deriving DecidableEq, Repr

/-- What an instruction found when it issued, for the wait that it then makes: its checks are not made again (R155, R277, R282, R284). `since` is the
step in which the wait began; `rank` the rank that its destination word names, `record` the record that it read, `pa`, `cls` and `home` the place that
it translated, and `gen` the generation of the full group that it found. -/
structure Found where
  since : Nat
  rank : BitVec 16 := 0xFFFF
  record : Vector Word 8 := Vector.replicate 8 0
  pa : Nat := 0
  cls : Cls := .trk
  home : Coord := 0
  gen : Option (BitVec 16) := none
  deriving DecidableEq, Repr

/-- A thread: its registers, its special registers and its place (02_thread_state.md). `osThread` marks a thread of a service core's own (R25);
`imagePa` and `rosterPa` say where its image and its roster entry were written while it is stopped (R385, R388); `deferred` says that its next
instruction has been tried and does not issue yet (R48, R188), `found` what an instruction that waits found at its issue; `fetchMiss` marks the lines
of its image that are not in the register cache, and `evicted` holds what was written back of them (R32); `undo` belongs to a thread on its way to a
service core; the fields from `parkedAt` on are what the slot arbiter and the debugger keep of it. -/
structure Thread where
  g : Vector Word 32 := Vector.replicate 32 0
  v : Vector (BitVec 128) 16 := Vector.replicate 16 0
  tag : Vector (BitVec 4) 16 := Vector.replicate 16 0
  p : BitVec 8 := 1
  ras : List Word := []
  pc : BitVec 48 := 0
  status : Word := 0
  fcsr : Word := 0
  rsp : Word := 0
  rspb : Word := 0
  detid : Word := 0
  lc : Word := 0
  lbeg : Word := 0
  lend : Word := 0
  tid : BitVec 32 := 0
  pour : BitVec 32 := 0
  cnv : Word := 0
  tm : Vector Word 16 := Vector.replicate 16 0
  tmDesc : Vector (Option (List Byte)) 16 := Vector.replicate 16 none
  frames : Vector Frame 4 := Vector.replicate 4 {}
  tvec : Vector Word 2 := Vector.replicate 2 0
  tdeleg : Vector Word 2 := Vector.replicate 2 0
  ld : Nat := 0
  st : Nat := 0
  cp : Nat := 0
  mx : Nat := 0
  ms : Nat := 0
  pendG : BitVec 32 := 0
  pendV : BitVec 16 := 0
  loads : List PendLoad := []
  hold : Option Hold := none
  refusal : Option Pend := none
  copyFault : Option Pend := none
  msgGone : Option Pend := none
  fetchMiss : BitVec 16 := 0
  evicted : Tab (List Byte) := []
  image : Word := 0
  imagePa : Option Nat := none
  rosterPa : Option Nat := none
  ctx : CtxId := 0
  core : Coord := 0
  queue : Nat := 0
  pinned : Bool := false
  osThread : Bool := false
  place : Place := .none
  undo : Undo := .done
  park : Option Park := none
  parkedAt : Nat := 0
  woken : Bool := false
  stalled : Bool := false
  deferred : Bool := false
  found : Option Found := none
  lastIssue : Nat := 0
  joinedAt : Nat := 0
  issuedNow : Bool := false
  debugHalt : Bool := false
  debugStep : Bool := false
  deriving DecidableEq, Repr

/-! ## Memory accesses and traffic -/

/-- The placement that a leaf gives a page (R343). -/
inductive Placement where
  | hall
  | hdie (die : BitVec 2)
  | pin (core : Coord)
  deriving DecidableEq, Repr

/-- A complete translation: page, output, rights, class, placement (R345). `ipa` is its stage-2 input page, `s2en` whether stage 2
applied, and `via` the stage-2 pages, base and size, that its walk went through. -/
structure Xlat where
  ctx : CtxId
  vbase : Nat
  size : Nat
  pbase : Nat
  ipa : Nat
  r : Bool
  w : Bool
  x : Bool
  minpl : BitVec 2
  r2 : Bool
  w2 : Bool
  x2 : Bool
  cls : Cls
  place : Placement
  mon : Bool
  s2en : Bool := false
  via : List (Nat × Nat) := []
  deriving DecidableEq, Repr

/-- A stage-2 output: address, page size, rights (R337). -/
structure S2 where
  pa : Nat
  size : Nat
  r : Bool := true
  w : Bool := true
  x : Bool := true
  deriving DecidableEq, Repr

/-- A stage-2 translation that the shared TLB holds for a partition: input page, and its output (R345). -/
structure S2Entry where
  part : Nat
  ipa : Nat
  out : S2
  deriving DecidableEq, Repr

/-- The share of the shared TLB at one slice: complete translations and stage-2 ones, 512 together (R22, R345). -/
structure Share where
  full : List Xlat := []
  two : List S2Entry := []
  deriving DecidableEq, Repr

/-- A walk in a walker of a die: the thread whose access needs it, its context and partition, the address, and the access kind as a code (R346). -/
structure Walk where
  thread : Nat
  ctx : CtxId
  part : Nat
  die : Nat
  va : Word
  kind : BitVec 3
  deriving DecidableEq, Repr

/-- A line in an L2 slice, and whether it differs from HBM (R22, R216). -/
structure L2Line where
  line : Nat
  dirty : Bool
  deriving DecidableEq, Repr

/-- One access on its way: who makes it, where to, and how many bytes (R185, R205). `pa` is the key of its first byte in State.mem. `svc` says
that it comes from a service core, `sunit` from which; `bypass` that it goes to the home past every L1; `words` how often a counter counts it;
`rel` that it is the own write of a release, so that every younger access of its thread comes after it (R191); `seq` is the step of its issue. -/
structure Access where
  thread : Nat
  ctx : CtxId
  core : Coord
  svc : Bool
  pl : BitVec 2
  va : Word
  pa : Nat
  n : Nat
  cls : Cls
  home : Coord
  id : Nat := 0
  off : Nat := 0
  detid : BitVec 32 := 0
  fresh : Bool := false
  sunit : Nat := 0
  bypass : Bool := false
  words : Nat := 1
  rel : Bool := false
  seq : Nat := 0
  deriving DecidableEq, Repr

/-- The operations of the atomics (R219). -/
inductive Amo where
  | add | and | or | xor | min | max | minn | maxn | swap | cas | fadd
  deriving DecidableEq, Repr

/-- A reduction line: destination, sixteen words, key, mode, scope, issuing core, and the counts that its acknowledgement
lowers (R149, R168, R169); `slot` is its place in the park buffer or in the retry area while it is held there (R169, R170), and `by_` names the
threads whose RED.V it is, each with the step of its issue (R178, R188). -/
structure RedLine where
  ctx : CtxId
  pa : Nat
  home : Coord
  words : List (BitVec 32)
  key : BitVec 16
  ord : Bool
  scope : BitVec 3
  cores : List Coord
  groups : List Nat
  slot : Nat := 0
  by_ : List (Nat × Nat) := []
  deriving DecidableEq, Repr

/-- A message or continuation on its way to an inbox, from a thread of context `sctx` to context `ctx` (R277 to R280). `blocking` is false for TRY
forms; `seq` is the step of its issue. -/
structure Send where
  id : Nat
  thread : Nat
  sctx : CtxId
  src : Coord
  rank : BitVec 16
  anyCore : Bool := false
  dst : Coord
  ctx : CtxId
  kind : Nat
  payload : Vector Word 8
  hdr : Word
  queue : Nat
  scope : Nat := 0
  pinned : Bool := false
  blocking : Bool
  counted : Bool
  seq : Nat := 0
  deriving DecidableEq, Repr

/-- What is on its way in the mesh, oldest first in State.net. -/
inductive Packet where
  | load (a : Access)
  | store (a : Access) (data : List Byte)
  | discard (a : Access)
  | clean (a : Access) (hbm : Bool)
  | atomic (a : Access) (op : Amo) (b d : Word) (ret : Bool)
  | accInit (a : Access) (value : BitVec 32) (key : BitVec 16)
  | detNext (a : Access) (place : Placement)
  | drainRow (lines : List Access) (fmt : BitVec 5) (clr : Bool) (elems scale : List Access)
  | loadReply (thread id off : Nat) (data : List Byte)
  | loadRefused (thread id : Nat) (cause : Nat) (va : Word)
  | ack (thread group : Nat)
  | storeRefused (thread group : Nat) (cause : Nat) (va : Word) (seq : Nat)
  | red (r : RedLine)
  | redAck (group : Nat)
  | send (m : Send)
  | held (m : Send)
  | sendReply (m : Send) (status : Nat)
  | move (t : Nat) (target : Coord) (svc : Option Nat) (front : Bool)
  deriving DecidableEq, Repr

/-- The five outstanding-operation counters (R48). -/
inductive Ctr where
  | ld | st | cp | mx | ms
  deriving DecidableEq, Repr

/-- An operation that is counted once and acknowledged in several parts: the parts still owed, the counter and the threads
that it counts for (R149, R176, R179). `pour` is the pour whose live count falls with the last part, that of a SUSPEND (R286). -/
structure Group where
  left : Nat
  ctr : Ctr
  threads : List Nat
  pour : Option (CtxId × BitVec 32) := none
  deriving DecidableEq, Repr

/-! ## Cores -/

/-- A line of an L1 data cache: owned, its bytes being those of State.mem; or not owned, with the bytes it keeps (R189). `home` is its home slice,
and `dirty` marks the aligned words of an owned line that have not been written there (R189, R216). -/
structure L1Line where
  line : Nat
  ctx : CtxId
  owned : Bool
  bytes : List Byte
  home : Coord := 0
  dirty : BitVec 8 := 0
  deriving DecidableEq, Repr

/-- A line of an L1 instruction cache, and the step in which it came there (R217, R218). -/
structure ILine where
  ctx : CtxId
  line : Nat
  bytes : List Byte
  since : Nat
  deriving DecidableEq, Repr

/-- A loop buffer: its key, the halfwords it holds by address, and the lines of memory and the pages, base and size, that they came from (R268, R217,
R380). -/
structure LoopBuf where
  ctx : CtxId
  beg : Word
  fin : Word
  bytes : List Host.Cell
  lines : List Nat
  pages : List (Nat × Nat) := []
  used : Nat
  deriving DecidableEq, Repr

/-- One copy of a channel (R226 to R231). `done` counts the bytes of the region dealt with; `id` names the copy, `seq` is the step of its issue,
`pages` are the translations of the pages that it has touched, and `buf` holds what it has read ahead of `done`, byte by byte, so that no word of its
source is read in two parts (R186). -/
structure Copy where
  thread : Nat
  ctx : CtxId
  pl : BitVec 2
  core : Coord
  word : Word
  caddy : Word
  tile : Bool
  load : Bool
  mem : Word
  desc : List Byte
  coords : List Word
  iword : BitVec 32
  dst : Coord
  off : Nat
  region : Nat
  done : Nat := 0
  id : Nat := 0
  seq : Nat := 0
  pages : List Xlat := []
  buf : List (Option Byte) := []
  deriving DecidableEq, Repr

/-- A copy channel: its copies, the active one first, the write pointer, and whether the newest copy still moves it (R225). -/
structure Channel where
  copies : List Copy := []
  w : BitVec 18 := 0
  newest : Bool := false
  deriving DecidableEq, Repr

/-- A matrix command: its three words, its form, the destination tile as translated at issue with the page that translated it, base and size, its
issuers; of an MMA.L the steep slot and the core cycle of its issue (R144, R149, R161, R380). -/
structure Cmd where
  ctx : CtxId
  form : BitVec 6
  a : Word
  b : Word
  c : Word
  pa : Nat
  place : Placement
  page : Nat × Nat := (0, 0)
  issuers : List Nat
  group : Nat
  slot : Option Nat := none
  cycle : Nat := 0
  deriving DecidableEq, Repr

/-- A live convened group (R152, R153). -/
structure Convene where
  off : Nat
  ctx : CtxId
  count : Nat
  present : BitVec 32 := 0
  formed : Bool := false
  leased : Bool := false
  broken : Bool := false
  gen : BitVec 16 := 0
  cmds : Nat := 0
  pending : Option Cmd := none
  issued : BitVec 32 := 0
  deriving DecidableEq, Repr

/-- The matrix engine and its arbiter (R161). `queue` holds the commands accepted, the one in execution first; `out` are the lines of that command
that are still to be sent, once it has been read; `failed` says that its read has failed (R397). `last` begins at entry 0 (log entry 68). -/
structure Engine where
  holder : Option Nat := none
  last : Nat := 0
  run : Nat := 0
  idle : Nat := 0
  steepQ : List Cmd := []
  queue : List Cmd := []
  out : List RedLine := []
  failed : Bool := false
  deriving DecidableEq, Repr

/-- An inbox entry: kind 0 LO message, 1 HI message, 2 continuation (R278); `scope` is that of a .REL form's release (R289), `rank` the rank of the
table of `sctx` that it was sent to, 0xFFFF for none, and `age` the step of its append (R275, R279). -/
structure Entry where
  kind : Nat
  payload : Vector Word 8
  hdr : Word
  queue : Nat
  scope : Nat := 0
  pinned : Bool
  sram : Bool
  rank : BitVec 16 := 0xFFFF
  sctx : CtxId := 0
  age : Nat := 0
  deriving DecidableEq, Repr

/-- The inbox of one context on one core: its entries in append order, the refused sends in refusal order, and those for which a
place is held, oldest hold first (R278 to R280). -/
structure Inbox where
  entries : List Entry := []
  refused : List Nat := []
  holds : List Nat := []
  deriving DecidableEq, Repr

/-- A tile on a ring or in a latch (R309 to R311). -/
structure Tile where
  tag : BitVec 16
  keep : Bool
  life : Nat
  age : Nat
  home : Nat
  origin : Nat
  bytes : List Byte
  deriving DecidableEq, Repr

/-- A tile waiting to be injected: its tile word, its caddy offset, the thread that put it (R310). -/
structure Inject where
  word : Word
  off : Nat
  thread : Nat
  deriving DecidableEq, Repr

/-- A steep-table entry as its four words (R297). -/
structure SteepEnt where
  w0 : Word
  w1 : Word
  routine : Word
  param : Word
  deriving DecidableEq, Repr

/-- A meeting of a beat: tags, entry and miss cause (R301, R307). -/
structure Meeting where
  ltag : BitVec 16
  wtag : BitVec 16
  ent : Nat
  cause : Nat
  beat : Nat
  deriving DecidableEq, Repr

/-- A defer area: a deferred pair that waits, or a steep that binds it (R306). -/
inductive Defer where
  | free
  | pair (m : Meeting)
  | bound (slot : Nat)
  deriving DecidableEq, Repr

/-- A running steep: its slot, its thread, its entry, and what it binds: a defer area, or the latch buffers `bindL` and `bindW` with the bytes
of their tiles (R302, R305). -/
structure Steep where
  slot : Nat
  thread : Nat
  ent : Nat
  area : Option Nat
  bindL : Nat
  bindW : Nat
  leaf : List Byte
  water : List Byte
  deriving DecidableEq, Repr

/-- A steep that has ended with reductions still unacknowledged: the thread whose MX count is its tail, and the caddy offset of its entry's
DONE word (R318). -/
structure Tail where
  thread : Nat
  off : Nat
  deriving DecidableEq, Repr

/-- The ring interface of a core, bound to one position of one ring (R293 to R318). The descriptor is kept as its words; `curL` and `curW` are the
tiles of the current buffers, and `latchL` and `latchW` say which buffer of each family is current. Receiving buffers hold nothing between
beats. `held` is a meeting that keeps its beat from ending (R304); `owed` says that the meeting of the beat is still to be evaluated (R319), and
`logging` is a logged miss with its index whose entry is not written yet (R307). `submitted` holds the MMA.L commands that wait with their steeps
while the interface is saved (R150). -/
structure RingIf where
  ctx : CtxId
  ring : Nat
  pos : Nat
  size : Nat
  desc : Vector Word 8
  table : List SteepEnt
  pour : BitVec 32
  queue : Nat
  curL : Option Tile := none
  curW : Option Tile := none
  latchL : Nat := 0
  latchW : Nat := 0
  injL : List Inject := []
  injW : List Inject := []
  retire : List Word := []
  held : Option Meeting := none
  owed : Bool := false
  logging : Option (Meeting × Nat) := none
  area0 : Defer := .free
  area1 : Defer := .free
  steeps : List Steep := []
  submitted : List Cmd := []
  tails : List Tail := []
  deriving DecidableEq, Repr

/-- A compute core (R19): the contexts switched in to it, its primary context (R332, R387), the threads, owners and last issues of its slots (R265,
R266). -/
structure Core where
  ctxs : List CtxId := []
  primary : Option CtxId := none
  slots : Tab Nat := []
  owners : Tab Nat := []
  lists : Tab (List Nat) := []
  issuedAt : Tab Nat := []
  ptr : Nat := 0
  winRange : Vector Word 8 := Vector.replicate 8 0
  winAccess : Vector Word 8 := Vector.replicate 8 0
  l1 : List L1Line := []
  icache : List ILine := []
  loops : List LoopBuf := []
  tlb : List Xlat := []
  chans : Vector Channel 4 := Vector.replicate 4 {}
  convene : Vector (Option Convene) 8 := Vector.replicate 8 none
  savedConv : List Convene := []
  engine : Engine := {}
  retry : List RedLine := []
  inboxes : Tab Inbox := []
  events : Tab (BitVec 32) := []
  ring : Option RingIf := none
  savedCaddy : List CtxId := []
  clockGated : Bool := false
  powerGated : Bool := false
  deriving DecidableEq, Repr

/-! ## The package -/

/-- A region of lines that one core owns: first line, size 2^lg lines, owner, and when another core last asked for a line of it (R190). -/
structure Region where
  base : Nat
  lg : Nat
  core : Coord
  since : Nat
  deriving DecidableEq, Repr

/-- A partition: its configuration block, staged and active, by byte offset, and its registers (R353 to R356). `commitReq` is a commit in progress: of
the whole block, or of one slot. -/
structure Part where
  staged : Tab Word := []
  active : Tab Word := []
  seq : BitVec 32 := 0
  status : Nat := 0
  refusals : BitVec 32 := 0
  tvec : Vector Word 2 := Vector.replicate 2 0
  tdeleg : Vector Word 2 := Vector.replicate 2 0
  powerReq : Option Word := none
  switchReq : Option Word := none
  resetReq : Option Word := none
  rankReq : Option Word := none
  commitReq : Option (Option Nat) := none
  asleep : Bool := false
  key : Option Word := none
  ownerKey : List Byte := []
  deriving DecidableEq, Repr

/-- A context-wide halt: its cause, the unit that raised it, and the words that FATAL_TRAP and HALT_INSN record (R381, R383). -/
structure Halt where
  cause : Nat
  unit : Option Coord
  kind : Nat
  image : Word := 0
  pc : Word := 0
  tcause : Word := 0
  val : Word := 0
  complete : Bool := false
  deriving DecidableEq, Repr

/-- What the device keeps for a context beside its slot in the partition configuration: the pours it has had, the `.entry` addresses of its
loaded image, its rank table as the interfaces hold it, and whether they still have to read it, its halt, and whether it is torn down (R254, R253, R274,
R368, R381, R393). -/
structure Ctx where
  poured : Nat := 0
  entries : List Nat := []
  ranks : Tab Word := []
  ranksOwed : Bool := false
  halt : Option Halt := none
  gone : Bool := false
  deriving DecidableEq, Repr

/-- A queue control block and the state of its queue core's service of it (R249). -/
structure Queue where
  base : Word := 0
  cfg : Word := 0
  tail : BitVec 32 := 0
  head : BitVec 32 := 0
  late : BitVec 32 := 0
  rej : BitVec 32 := 0
  vf : Option (BitVec 9) := none
  served : Nat := 0
  deriving DecidableEq, Repr

/-- A dependence edge: the producer's pour number and its regions (R252). -/
structure Edge where
  pour : BitVec 32
  regions : List (Word × Word)
  deriving DecidableEq, Repr

/-- A pour that has not completed (R254, R255, R262, R286). -/
structure Pour where
  ctx : CtxId
  num : BitVec 32
  queue : Nat
  entry : Word
  count : Nat
  made : Nat := 0
  live : Nat := 0
  aff : Nat
  affarg : Word
  cls : Bool
  deadline : Word
  args : Vector Word 7
  compl : Word
  edges : List Edge
  edgesReady : Bool := false
  late : Bool := false
  demoted : Bool := false
  reduced : Bool := false
  deriving DecidableEq, Repr

/-- A ring of a context: whether it runs, its beat, the positions whose RING.GO is recorded with the descriptor of the first, whether it is
stopped at a beat boundary, and the interfaces of its switched-out positions by core (R299, R315, R319). -/
structure Ring where
  running : Bool := false
  beat : Nat := 0
  started : List Nat := []
  first : Vector Word 8 := Vector.replicate 8 0
  stopped : Bool := false
  saved : Tab RingIf := []
  deriving DecidableEq, Repr

/-- A global barrier ID: arrivals of the phase and the phase bit (R241). -/
structure GBar where
  arrived : Nat := 0
  phase : Bool := false
  deriving DecidableEq, Repr

/-- Lifecycle, debug, recovery, power level and the SPDM session (R359 to R369). `tokens` are accepted debug tokens, as target and partition, that wait
for a partition reset to complete (R364). -/
structure Security where
  lifecycle : BitVec 2 := 0
  debugState : BitVec 2 := 0
  dpart : BitVec 6 := 0
  firstLight : Bool := true
  recovery : Bool := false
  plevel : BitVec 2 := 3
  throttle : Bool := false
  session : Option Word := none
  sessionOpen : Bool := false
  measured : Tab (List Byte) := []
  image : List Byte := []
  imageValid : Bool := true
  d3hot : Bool := false
  tokens : List (Nat × Nat) := []
  deriving DecidableEq, Repr

/-- A soft error that strikes in the step numbered `step`: the row of the table Protection, the unit, the location in its structure, and whether it
cannot be corrected (R395). -/
structure Strike where
  step : Nat
  row : Nat
  unit : Coord
  loc : Nat
  ue : Bool
  deriving DecidableEq, Repr

/-- The error log of a die: entries of two words, and the write index (R398). -/
structure ErrLog where
  entries : Tab (Word × Word) := []
  index : Nat := 0
  deriving DecidableEq, Repr

/-- An external write that is held while the device is viral, which its counter counts `words` times (R400). -/
structure HeldWrite where
  pa : Nat
  ctx : CtxId
  thread : Nat
  ctr : Ctr
  group : Nat
  data : List Byte
  words : Nat := 1
  deriving DecidableEq, Repr

/-- Viral state and the discard log (R400, R401, R403). `arrivals` are the arrivals at POD barriers that are held, as context and ID. -/
structure Viral where
  on : Bool := false
  src : Nat := 0
  port : BitVec 5 := 0
  ld : BitVec 4 := 0
  multi : Bool := false
  held : List HeldWrite := []
  arrivals : List (CtxId × Nat) := []
  discardBase : Word := 0
  discarded : Nat := 0
  down : List (LinkKind × BitVec 5) := []
  deriving DecidableEq, Repr

/-- The algorithms that the responder names (R360). -/
inductive SpdmAlg where
  | ecdsaP384 | sha384 | secp384r1 | aes256Gcm | spdm13KeySchedule
  deriving DecidableEq, Repr

/-- What the device answers to an agent outside it. -/
inductive Answer where
  | hostRead (x : Word) (viral : Bool)
  | hostWritten (viral : Bool)
  | peerAck
  | peerNack
  | peerRead (x : Word)
  | snoop (bytes : List Byte)
  | spdmVersion (major minor : Nat)
  | spdmCapabilities (mutualAuth psk : Bool)
  | spdmAlgorithms (algs : List SpdmAlg)
  | spdm (request : Nat) (bytes : List Byte)
  | spdmError (code : Nat)
  | debugDone (x : Word)
  | debugRefused
  | debugGated
  | halted (ctx : CtxId)
  deriving DecidableEq, Repr

/-- The whole machine. `badUnits` and `softUnits` are the protected units in which an error stands that cannot, or can, be corrected, as row,
structure and number (R395, R397). `inputs` are the events given from outside, `strikes` the soft errors that are still to strike, and `sources` says
of the SPDM requests among them which peer each comes from, if not a host; all are the model's own, as are `cur`, `turn`, `group`, `nextThread`,
`nextId`, `answers`, `fresh` and `cycle` (log entry 2). -/
structure State where
  threads : Tab Thread := []
  nextThread : Nat := 0
  cores : Tab Core := []
  svcs : Tab (List Nat) := []
  mem : List Host.Cell := []
  net : List Packet := []
  groups : Tab Group := []
  nextId : Nat := 1
  regions : List Region := []
  nextKey : Tab (BitVec 16) := []
  detRec : Tab (BitVec 32) := []
  parks : List RedLine := []
  hostLines : List Nat := []
  hostDirty : List (Nat × CtxId) := []
  stlb : Tab Share := []
  walks : List Walk := []
  l2 : Tab (List L2Line) := []
  ownership : Tab (BitVec 16) := []
  parts : Tab Part := []
  ctxs : Tab Ctx := []
  gbars : Tab GBar := []
  rings : Tab Ring := []
  queues : Tab Queue := []
  pours : List Pour := []
  peerAcl : Tab Word := []
  ldRefusals : Tab Nat := []
  errCounts : Tab (BitVec 32) := []
  errLogs : Tab ErrLog := []
  badUnits : List (Nat × Nat × Nat) := []
  softUnits : List (Nat × Nat × Nat) := []
  strikes : List Strike := []
  sec : Security := {}
  viral : Viral := {}
  time : Word := 0
  devReset : Bool := false
  answers : List Answer := []
  cur : Nat := 0
  turn : Bool := false
  group : List Nat := []
  inputs : List Instr := []
  sources : List (Option Byte) := []
  fresh : Nat := 0
  cycle : Nat := 0
  deriving DecidableEq, Repr

/-- The measurements that start-up writes: at indices 1 to 4 the digest of each stage of a firmware image (R359). -/
def startMeasured (image : List Byte) : Tab (List Byte) := (List.range 4).map fun i => (i + 1, Config.sha384 (Config.stageCode image (i + 1)))

/-- The state after reset: a cold reset has cleared the device (R402), start-up has measured its stages (R359), and no program is loaded.
The security status word has PLEVEL 3 and FIRSTLIGHT 1 (R363). -/
def State.reset : State := { sec := { measured := startMeasured [] } }

end Sys2Proof.Machine
end

