-- ==== Sys2Proof/Machine/Ops.lean ====
section
/-!
DEFINITION. The named operations over memory, registers, threads and cores; the results of an instruction's body; taking an exception and
returning from one.
-/

namespace Sys2Proof.Machine

/-! ## Memory (R185, R6)

State.mem holds every byte of the package that is not zero, by key: a physical address stands for itself, and offset `o` of the caddy of
core `c` has the key caddyKey c o. A byte that is not listed reads zero (log entry 1). -/

/-- The key of a caddy byte: its address in caddy space (R49). -/
def caddyKey (c : Coord) (off : Nat) : Nat := 0x1FF * 2 ^ 48 + c.toNat * 2 ^ 18 + off

/-- One byte of a canonical memory. -/
def Memory.read : List Host.Cell → Nat → Byte
  | [], _ => 0
  | (k, b) :: m, a => if a = k then b else if a < k then 0 else Memory.read m a

/-- One byte written; a zero byte is not listed. -/
def Memory.write : List Host.Cell → Nat → Byte → List Host.Cell
  | [], a, x => if x = 0 then [] else [(a, x)]
  | (k, b) :: m, a, x =>
    if a < k then (if x = 0 then (k, b) :: m else (a, x) :: (k, b) :: m)
    else if a = k then (if x = 0 then m else (a, x) :: m)
    else (k, b) :: Memory.write m a x

/-- The canonical form: keys strictly rising, and no zero byte listed. -/
def Memory.wf : List Host.Cell → Bool
  | [] => true
  | [(_, b)] => b != 0
  | (k, b) :: (k', b') :: m => k < k' && b != 0 && Memory.wf ((k', b') :: m)

/-- Bytes written in order from an address. -/
def Memory.writeList (m : List Host.Cell) (a : Nat) : List Byte → List Host.Cell
  | [] => m
  | b :: bs => Memory.writeList (Memory.write m a b) (a + 1) bs

/-- `n` bytes read in order from an address. -/
def Memory.readList (m : List Host.Cell) (a : Nat) : Nat → List Byte
  | 0 => []
  | n + 1 => Memory.read m a :: Memory.readList m (a + 1) n

/-- The bytes of a range of addresses removed: they read zero. -/
def Memory.clear (m : List Host.Cell) (lo hi : Nat) : List Host.Cell :=
  m.filter fun c => !(lo ≤ c.1 && c.1 < hi)

/-- The listed bytes of a range moved to another base, over what stands there. -/
def Memory.copyRange (m : List Host.Cell) (src dst len : Nat) : List Host.Cell :=
  (m.filter fun c => src ≤ c.1 && c.1 < src + len).foldl
    (fun acc c => Memory.write acc (dst + (c.1 - src)) c.2) (Memory.clear m dst (dst + len))

/-- The number that bytes stand for, the first byte least significant (R6). -/
def leNat : List Byte → Nat
  | [] => 0
  | b :: bs => b.toNat + 256 * leNat bs

/-- The `n` low bytes of a number, least significant first (R6). -/
def leBytes : Nat → Nat → List Byte
  | 0, _ => []
  | n + 1, x => BitVec.ofNat 8 x :: leBytes n (x / 256)

/-- One byte of the device's memory. -/
def State.byte (s : State) (a : Nat) : Byte := Memory.read s.mem a

/-- `n` bytes of memory. -/
def State.bytes (s : State) (a n : Nat) : List Byte := Memory.readList s.mem a n

/-- Bytes of memory replaced. -/
def State.putBytes (s : State) (a : Nat) (bs : List Byte) : State := { s with mem := Memory.writeList s.mem a bs }

/-- An aligned doubleword of memory. -/
def State.word (s : State) (a : Nat) : Word := BitVec.ofNat 64 (leNat (s.bytes a 8))

/-- A doubleword of memory replaced. -/
def State.putWord (s : State) (a : Nat) (x : Word) : State := s.putBytes a (leBytes 8 x.toNat)

/-! ## Bits -/

/-- `n` bits of a word from bit `lo`, as a number. -/
def Word.field (x : Word) (lo n : Nat) : Nat := x.toNat / 2 ^ lo % 2 ^ n

/-- A word with `n` bits from `lo` replaced. -/
def Word.setField (x : Word) (lo n v : Nat) : Word :=
  BitVec.ofNat 64 (x.toNat - Word.field x lo n * 2 ^ lo + v % 2 ^ n * 2 ^ lo)

/-- SignExt(imm12, 12) (R11). -/
def sext12 (i : BitVec 12) : Word := i.signExtend 64

/-! ## Threads and cores -/

/-- The thread with a key; a key without a thread has the cleared record of R34. -/
def State.thread (s : State) (t : Nat) : Thread := Tab.get s.threads {} t

/-- A thread replaced. -/
def State.setThread (s : State) (t : Nat) (x : Thread) : State := { s with threads := Tab.set s.threads t x }

/-- A thread changed. -/
def State.modThread (s : State) (t : Nat) (f : Thread → Thread) : State := s.setThread t (f (s.thread t))

/-- The core at a coordinate. -/
def State.coreAt (s : State) (c : Coord) : Core := Tab.get s.cores {} c.toNat

/-- A core replaced. -/
def State.setCore (s : State) (c : Coord) (x : Core) : State := { s with cores := Tab.set s.cores c.toNat x }

/-- A core changed. -/
def State.modCore (s : State) (c : Coord) (f : Core → Core) : State := s.setCore c (f (s.coreAt c))

/-- What the device keeps for a context. -/
def State.ctxOf (s : State) (c : CtxId) : Ctx := Tab.get s.ctxs {} c.toNat

/-- A context's record changed. -/
def State.modCtx (s : State) (c : CtxId) (f : Ctx → Ctx) : State :=
  { s with ctxs := Tab.set s.ctxs c.toNat (f (s.ctxOf c)) }

/-- A partition. -/
def State.part (s : State) (p : Nat) : Part := Tab.get s.parts {} p

/-- A partition changed. -/
def State.modPart (s : State) (p : Nat) (f : Part → Part) : State := { s with parts := Tab.set s.parts p (f (s.part p)) }

/-- A queue. -/
def State.queue (s : State) (q : Nat) : Queue := Tab.get s.queues {} q

/-- A queue changed. -/
def State.modQueue (s : State) (q : Nat) (f : Queue → Queue) : State :=
  { s with queues := Tab.set s.queues q (f (s.queue q)) }

/-- The thread whose instruction is being executed. -/
def State.self (s : State) : Thread := s.thread s.cur

/-- The executing thread changed. -/
def State.modSelf (s : State) (f : Thread → Thread) : State := s.modThread s.cur f

/-- The core on which the executing thread stands; for a thread on a service core, the one it left (R374). -/
def State.myCore (s : State) : Core := s.coreAt s.self.core

/-- The executing thread's core changed. -/
def State.modMyCore (s : State) (f : Core → Core) : State := s.modCore s.self.core f

/-- A general register; g0 reads zero (R35). -/
def Thread.getG (t : Thread) (r : BitVec 5) : Word := if r = 0 then 0 else t.g[r.toNat]

/-- A general register written; a write to g0 is discarded (R35). -/
def Thread.setG (t : Thread) (r : BitVec 5) (x : Word) : Thread :=
  if r = 0 then t else { t with g := t.g.set r.toNat x }

/-- A predicate; p0 reads true (R35). -/
def Thread.getP (t : Thread) (r : BitVec 3) : Bool := r = 0 || t.p.getLsbD r.toNat

/-- A predicate written; a write to p0 is discarded (R35). -/
def Thread.setP (t : Thread) (r : BitVec 3) (b : Bool) : Thread :=
  if r = 0 then t
  else { t with p := if b then t.p ||| BitVec.twoPow 8 r.toNat else t.p &&& ~~~ BitVec.twoPow 8 r.toNat }

/-- A packed register and its tag written (R35). -/
def Thread.setV (t : Thread) (r : BitVec 4) (x : BitVec 128) (tag : BitVec 4) : Thread :=
  { t with v := t.v.set r.toNat x, tag := t.tag.set r.toNat tag }

/-- What the wait in which the thread stands found when its instruction issued. -/
def Thread.foundNow (t : Thread) : Option Found :=
  match t.found with
  | some f => if t.stalled && f.since == t.parkedAt then some f else none
  | none => none

/-- What the executing thread's instruction has found is noted for the wait that it now makes, or that it stands in. -/
def State.setFound (s : State) (f : Found) : State :=
  s.modSelf fun t => { t with found := some { f with since := if t.stalled then t.parkedAt else s.fresh } }

/-- The executing thread's instruction waits, and keeps what it found at its issue; what an earlier try of it found stands. -/
def State.keepFound (s : State) (f : Found) : State :=
  if s.self.foundNow.isSome then s else s.setFound f

/-- Read a general register of the executing thread. -/
def State.g (s : State) (r : BitVec 5) : Word := s.self.getG r

/-- Write a general register of the executing thread. -/
def State.setG (s : State) (r : BitVec 5) (x : Word) : State := s.modSelf (·.setG r x)

/-- Write a predicate of the executing thread. -/
def State.setP (s : State) (r : BitVec 3) (b : Bool) : State := s.modSelf (·.setP r b)

/-- The current privilege level of a thread, 0 USER to 3 MON (R41). -/
def Thread.pl (t : Thread) : Nat := Word.field t.status 0 2

/-- sr.status.SSTEP (R41). -/
def Thread.sstep (t : Thread) : Bool := t.status.getLsbD 2

/-- sr.status.CONV (R41). -/
def Thread.conv (t : Thread) : Bool := t.status.getLsbD 3

/-- sr.status.STEEP (R41). -/
def Thread.steep (t : Thread) : Bool := t.status.getLsbD 4

/-- The thread stands on a service core (R374). -/
def Thread.onService (t : Thread) : Option Nat :=
  match t.place with
  | .service n => some n
  | _ => none

/-- The trap frame of a level. -/
def Thread.frame (t : Thread) (l : Nat) : Frame := t.frames[l]?.getD {}

/-- The trap frame of a level replaced. -/
def Thread.setFrame (t : Thread) (l : Nat) (f : Frame) : Thread := { t with frames := t.frames.setIfInBounds l f }

/-- The place of a service core's L1 caches and TLB among those of the cores: coordinates of column 15 name no core (R15, R25; log entry 65). -/
def svcUnit (n : Nat) : Coord := BitVec.ofNat 9 (16 * (n % 8) + 15)

/-- The place of what no core's L1 or TLB serves: the queue cores and the hardware's own accesses to a context's areas (R15, R26). -/
def hwUnit : Coord := 14

/-- The core, or service core, whose L1 caches and TLB the thread uses (R25). -/
def Thread.unit (t : Thread) : Coord :=
  match t.onService with
  | some n => svcUnit n
  | none => t.core

/-- A thread holds a slot, steep slots included. -/
def Thread.inSlot (t : Thread) : Option Nat :=
  match t.place with
  | .slot n => some n
  | _ => none

/-! ## Counters (R48) -/

/-- A counter's value. -/
def Thread.ctr (t : Thread) : Ctr → Nat
  | .ld => t.ld
  | .st => t.st
  | .cp => t.cp
  | .mx => t.mx
  | .ms => t.ms

/-- A counter set. -/
def Thread.setCtr (t : Thread) (c : Ctr) (n : Nat) : Thread :=
  match c with
  | .ld => { t with ld := n }
  | .st => { t with st := n }
  | .cp => { t with cp := n }
  | .mx => { t with mx := n }
  | .ms => { t with ms := n }

/-- CounterInc(c), `n` times; the counter saturates at 63. -/
def State.count (s : State) (c : Ctr) (n : Nat) : State :=
  s.modSelf fun t => t.setCtr c (min 63 (t.ctr c + n))

/-- The five counters are zero. -/
def Thread.drained (t : Thread) : Bool := t.ld == 0 && t.st == 0 && t.cp == 0 && t.mx == 0 && t.ms == 0

/-! ## Slots and run lists (R263, R265) -/

/-- The run list of a queue on a core. -/
def Core.list (c : Core) (q : Nat) : List Nat := Tab.get c.lists [] q

/-- A run list replaced; an empty one is not listed. -/
def Core.setList (c : Core) (q : Nat) (l : List Nat) : Core :=
  { c with lists := if l.isEmpty then Tab.erase c.lists q else Tab.set c.lists q l }

/-- A thread takes a slot of its core: it leaves its run list. -/
def State.takeSlot (s : State) (c : Coord) (n t : Nat) : State :=
  let s := s.modCore c fun k =>
    { k with slots := Tab.set k.slots n t, lists := Tab.keep (fun _ l => !l.isEmpty) (Tab.mapVals (fun _ l => l.filter (· != t)) k.lists) }
  s.modThread t fun x => { x with place := .slot n, issuedNow := false }

/-- The thread that has waited longest in any run list of a core, the lower key on a tie. -/
def State.longestListed (s : State) (k : Core) : Option Nat :=
  (k.lists.flatMap (·.2)).foldl (fun b t => match b with
    | none => some t
    | some u => if (s.thread t).joinedAt < (s.thread u).joinedAt then some t else some u) none

/-- The thread that an empty general slot takes between boundaries: the head of its owner's list, or, unassigned, the thread that
has waited longest (R265). -/
def State.nextFor (s : State) (k : Core) (n : Nat) : Option Nat :=
  match Tab.find k.owners n with
  | some q => (k.list q).head?
  | none => s.longestListed k

/-- Every empty general slot of a core takes the thread it is due (R265). -/
def State.fillSlots (s : State) (c : Coord) : State :=
  if (s.coreAt c).lists.isEmpty then s
  else (List.range 60).foldl (fun s n =>
    let k := s.coreAt c
    if (Tab.find k.slots n).isSome then s
    else match s.nextFor k n with
      | some t => s.takeSlot c n t
      | none => s) s

/-- A thread joins the end of its queue's run list on its core (R263). -/
def State.joinList (s : State) (t : Nat) : State :=
  let x := s.thread t
  let s := s.setThread t { x with place := .waiting, joinedAt := s.fresh }
  s.modCore x.core fun k => { k.setList x.queue (k.list x.queue ++ [t]) with clockGated := false }

/-- The queue whose slot a thread holds: the slot's owner, or, where none owns it, the thread's own queue (R282, R285). -/
def State.slotQueue (s : State) (t : Nat) : Nat :=
  let x := s.thread t
  match x.place with
  | .slot n => (Tab.find (s.coreAt x.core).owners n).getD x.queue
  | _ => x.queue

/-- A parked thread wakes: it tries its instruction again, and, without a slot, joins the end of its queue's list (R263). -/
def State.wakeThread (s : State) (t : Nat) : State :=
  let x := s.thread t
  match x.park with
  | none => s
  | some _ =>
    match x.place with
    | .parkedOut => ((s.setThread t { x with park := none }).joinList t).fillSlots x.core
    | _ => s.setThread t { x with park := none }

/-- Every parked thread that a test names wakes. -/
def State.wake (s : State) (f : Thread → Bool) : State :=
  (s.threads.filter fun e => e.2.park.isSome && f e.2).foldl (fun s e => s.wakeThread e.1) s

/-- The place of a counter's byte in a context image (R43). -/
def Ctr.imageOff : Ctr → Nat
  | .ld => 0x380
  | .st => 0x381
  | .cp => 0x382
  | .mx => 0x383
  | .ms => 0x384

/-- The live count of a context's pour changed by a function (R286). -/
def State.modLive (s : State) (ctx : CtxId) (num : BitVec 32) (f : Nat → Nat) : State :=
  { s with pours := s.pours.map fun p => if p.ctx == ctx && p.num == num then { p with live := f p.live } else p }

/-! ## The partition configuration (R353 to R355) -/

/-- A field of the active copy of a partition's block. -/
def Part.field (p : Part) (off : Nat) : Word := Tab.get p.active 0 off

/-- The offset of a context slot. -/
def slotBase (c : Nat) : Nat := 0x10000 + 0x2000 * c

/-- The context slots of a partition that are enabled: slot number and TREC0 (R341, R355). -/
def Part.slots (p : Part) : List (Nat × Word) :=
  p.active.filterMap fun e =>
    if slotBase 0 ≤ e.1 && (e.1 - slotBase 0) % 0x2000 == 0 && (e.1 - slotBase 0) / 0x2000 < 64 && e.2.getLsbD 22 then
      some ((e.1 - slotBase 0) / 0x2000, e.2) else none

/-- The partition and the slot of a context. -/
def State.slotOf (s : State) (ctx : CtxId) : Option (Nat × Nat) :=
  s.parts.findSome? fun e =>
    (e.2.slots.find? fun sl => Word.field sl.2 0 16 == ctx.toNat).map fun sl => (e.1, sl.1)

/-- The partition of a context; 0 when no slot names it. -/
def State.partOf (s : State) (ctx : CtxId) : Nat := ((s.slotOf ctx).map (·.1)).getD 0

/-- A field of a context's slot, active copy. -/
def State.ctxField (s : State) (ctx : CtxId) (off : Nat) : Word :=
  match s.slotOf ctx with
  | some (p, c) => (s.part p).field (slotBase c + off)
  | none => 0

/-- The number of a core in the order of the stop area: 96 × die + 12 × row + column (R383). -/
def unitOf (c : Coord) : Nat := 96 * (c.toNat / 128) + 12 * (c.toNat / 16 % 8) + c.toNat % 16

/-- The core of a unit number. -/
def coreOfUnit (i : Nat) : Coord := BitVec.ofNat 9 (128 * (i / 96) + 16 * (i / 12 % 8) + i % 12)

/-- The granule of a core (R330). -/
def granuleOf (c : Coord) : Nat := 16 * (c.toNat / 128) + 2 * (c.toNat / 16 % 8) + (if 6 ≤ c.toNat % 16 then 1 else 0)

/-- The coordinate names a core (R15). -/
def coreExists (c : Coord) : Bool := c.toNat % 16 < 12

/-- The core lies in the partition (R330, R354). -/
def State.coreIn (s : State) (p : Nat) (c : Coord) : Bool :=
  coreExists c && ((s.part p).field 0x8).getLsbD (granuleOf c)

/-- The cores of a partition, in unit order. -/
def State.partCores (s : State) (p : Nat) : List Coord :=
  ((List.range 384).map coreOfUnit).filter (s.coreIn p)

/-- Package row and column (R15). -/
def packageRow (c : Coord) : Nat := c.toNat / 16 % 8 + 8 * (c.toNat / 256 % 2)
/-- Package column (R15). -/
def packageCol (c : Coord) : Nat := c.toNat % 16 + 12 * (c.toNat / 128 % 2)

/-- The cluster of a core in a context's map, one byte per unit (R28, R355). -/
def State.clusterOf (s : State) (ctx : CtxId) (c : Coord) : Nat :=
  let i := unitOf c
  Word.field (s.ctxField ctx (0x100 + 8 * (i / 8))) (8 * (i % 8)) 8

/-- Whether the context is the primary context of a core (R332). -/
def State.primary (s : State) (ctx : CtxId) (c : Coord) : Bool := (s.coreAt c).primary == some ctx

/-- A switch request for a context and a core is pending in the given direction (R354, R387). -/
def State.switching (s : State) (ctx : CtxId) (c : Coord) (into : Bool) : Bool :=
  s.parts.any fun e => match e.2.switchReq with
    | some x => Word.field x 0 16 == ctx.toNat && Word.field x 16 9 == c.toNat && x.getLsbD 25 == into
    | none => false

/-- The device runs programs: neither recovery mode nor D3hot (R361, R368). -/
def State.awake (s : State) : Bool := !s.sec.recovery && !s.sec.d3hot

/-! ## What an instruction's body comes to -/

/-- The ways in which an instruction's body ends other than by completing in sequence. -/
inductive Stop where
  /-- a precise trap: cause, value, floor (R372) -/
  | trap (cause : Nat) (val : Word) (floor : Nat)
  /-- control transfers (R271) -/
  | jump (s : State) (target : BitVec 48)
  /-- the thread waits at the instruction, parked or not; nothing else has been done but what `s` holds (R244) -/
  | wait (park : Option Park) (s : State)
  /-- the instruction does not issue yet: a counter has no room, or an older access of the thread has to come first (R48, R188) -/
  | later
  /-- issued; nothing younger issues until a reply (R39) -/
  | held (s : State)
  /-- the thread has gone, or its PC has been set by the body -/
  | left (s : State)
  /-- completes, then raises cause 5 (R377) -/
  | trapAfter (s : State) (imm : Word)
  /-- a pending asynchronous trap is delivered at the instruction (R210) -/
  | deliverPending (p : Pend) (s : State)
  /-- a context-wide halt (R378) -/
  | halt (h : Halt)

/-- An instruction's body: the state it leaves if it completes in sequence, or how it ends otherwise. -/
abbrev Body := Except Stop State

/-- Trap(cause, value). -/
def trap {α : Type} (cause : Nat) (val : Word) (floor : Nat := 0) : Except Stop α := .error (.trap cause val floor)

/-- The cause codes of R372. -/
def cILLEGAL : Nat := 1
def cPRIV : Nat := 2
def cBADPC : Nat := 3
def cBKPT : Nat := 4
def cTRAP : Nat := 5
def cRAS : Nat := 6
def cMISALIGN : Nat := 7
def cPAGE : Nat := 8
def cPERM : Nat := 9
def cBADCLASS : Nat := 10
def cSTAGE2 : Nat := 11
def cOWNER : Nat := 12
def cCADDYADDR : Nat := 13
def cREFUSED : Nat := 14
def cPOD : Nat := 15
def cBADTAG : Nat := 16
def cBADTMAP : Nat := 17
def cBADMMA : Nat := 18
def cBADACC : Nat := 19
def cENGINE : Nat := 20
def cCONVENE : Nat := 21
def cBADCOPY : Nat := 22
def cCOPYFAULT : Nat := 23
def cBADBAR : Nat := 24
def cBARFAULT : Nat := 25
def cBADSEND : Nat := 26
def cGONE : Nat := 27
def cBADRING : Nat := 28
def cBADSTAT : Nat := 29

/-! ## Halts -/

/-- A context-wide halt begins (R381): the context's halt line is asserted. A context that is already halting or halted keeps its
record. -/
def State.haltCtx (s : State) (ctx : CtxId) (h : Halt) : State :=
  s.modCtx ctx fun c => if c.halt.isSome then c else { c with halt := some h }

/-- The context is halting or halted (R381). -/
def State.halted (s : State) (ctx : CtxId) : Bool := (s.ctxOf ctx).halt.isSome

/-! ## Taking an exception (R373, R374) -/

/-- The vector of a level: of USER and DRV the thread's own, of HYP and MON the partition's (R40). -/
def State.tvecOf (s : State) (t : Thread) (l : Nat) : Word :=
  match l with
  | 0 => t.tvec[0]
  | 1 => t.tvec[1]
  | 2 => (s.part (s.partOf t.ctx)).tvec[0]
  | _ => (s.part (s.partOf t.ctx)).tvec[1]

/-- The delegation register of a level (R40). -/
def State.tdelegOf (s : State) (t : Thread) (l : Nat) : Word :=
  match l with
  | 0 => t.tdeleg[0]
  | 1 => t.tdeleg[1]
  | 2 => (s.part (s.partOf t.ctx)).tdeleg[0]
  | _ => (s.part (s.partOf t.ctx)).tdeleg[1]

/-- A frame is in use (R371). -/
def Frame.act (f : Frame) : Bool := f.cause.getLsbD 63

/-- sr.tcause of a delivery (R371). -/
def causeWord (c : Nat) (async step : Bool) (src orig : Nat) (tpend : Option (BitVec 12)) : Word :=
  BitVec.ofNat 64 (c + (if async then 2 ^ 8 else 0) + (if step then 2 ^ 9 else 0) + src % 4 * 2 ^ 10 + orig % 256 * 2 ^ 16 +
    (match tpend with
      | some i => 2 ^ 24 + i.toNat * 2 ^ 25
      | none => 0) + 2 ^ 63)

/-- An address that a PC cannot hold (R44). -/
def badPc (x : Word) : Bool := Word.field x 48 16 != 0 || x.getLsbD 0

/-- The lowest level from `lo` to 3 that accepts the cause, its frame free; MON accepts everything (R373). -/
def State.levelFor (s : State) (t : Thread) (c lo : Nat) : Nat :=
  ([0, 1, 2, 3].find? fun l => lo ≤ l && ((!(t.frame l).act && (s.tdelegOf t l).getLsbD c) || l == 3)).getD 3

/-- What one delivery asks for. -/
structure Exc where
  cause : Nat
  val : Word
  epc : Word
  async : Bool := false
  step : Bool := false
  orig : Nat := 0
  floor : Nat := 0
  tpend : Option (BitVec 12) := none
  undo : Undo := .again

/-- The unit that a thread stands on, as stop records name it, and the kind of its record: its core, or its service core (R383). -/
def Thread.haltUnit (t : Thread) : Coord × Nat :=
  match t.onService with
  | some n => (BitVec.ofNat 9 n, 6)
  | none => (t.core, 1)

/-- The halt of a trap that no level can take: it records sr.tcause of the level at which the thread runs, with CODE set to the fatal cause
(R373, R383; log entry 87). -/
def fatalHalt (t : Thread) (e : Exc) : Halt :=
  { cause := 1, unit := some t.haltUnit.1, kind := t.haltUnit.2, image := t.image, pc := e.epc,
    tcause := Word.setField (t.frame t.pl).cause 0 8 e.cause, val := e.val }

/-- The thread leaves its slot: the slot takes the next thread; a run list forgets it. -/
def State.unplace (s : State) (t : Nat) : State :=
  let x := s.thread t
  match x.place with
  | .slot n => (s.modCore x.core fun c => { c with slots := Tab.erase c.slots n }).fillSlots x.core
  | .waiting => s.modCore x.core fun c =>
      { c with lists := Tab.keep (fun _ l => !l.isEmpty) (Tab.mapVals (fun _ l => l.filter (· != t)) c.lists) }
  | .service n => { s with svcs := Tab.set s.svcs n ((Tab.get s.svcs [] n).filter (· != t)) }
  | _ => s

/-- A thread on a compute core that enters PL.HYP sets out for a service core, where it enters the vector (R374). A steep keeps its
slot and its binding. -/
def State.toService (s : State) (t : Nat) (u : Undo) : State :=
  let x := s.thread t
  let s := if x.steep then s else s.unplace t
  { s.setThread t { x with place := .moving, park := none, undo := u } with net := s.net ++ [.move t x.core (some (t % 8)) false] }

/-- Deliver: choose the level, write its frame and enter its vector, or halt the context (R373). A vector that is no address raises
BADPC one level up; the three levels below MON bound the attempts. -/
def State.deliverAt (s : State) (t : Nat) (e : Exc) : Nat → State
  | 0 => s.haltCtx (s.thread t).ctx (fatalHalt (s.thread t) e)
  | fuel + 1 =>
    let x := s.thread t
    if x.pl = 3 || (x.frames[3]).act then s.haltCtx x.ctx (fatalHalt x e)
    else
      let l := s.levelFor x e.cause (max x.pl e.floor)
      let vec := s.tvecOf x l
      if badPc vec then
        if l = 3 || (x.frame 3).act then s.haltCtx x.ctx (fatalHalt x e)
        else s.deliverAt t { cause := cBADPC, val := vec, epc := e.epc, async := e.async, orig := e.cause, floor := l + 1, undo := e.undo } fuel
      else
        let f : Frame := { cause := causeWord e.cause e.async e.step x.pl e.orig e.tpend, epc := e.epc, val := e.val, stat := x.status }
        let x' := { x.setFrame l f with
          status := Word.setField (Word.setField x.status 0 2 l) 2 1 0
          pc := vec.setWidth 48
          park := none, stalled := false, deferred := false, hold := none, woken := false }
        let s := s.setThread t x'
        if l = 2 && x.onService.isNone then s.toService t e.undo else s

/-- Taking an exception. -/
def State.deliver (s : State) (t : Nat) (e : Exc) : State := s.deliverAt t e 4

/-- A trap raised precisely at the executing thread's instruction (R373). While an acquire of the thread is under way the instruction waits with it:
the acquire completes first (R224). -/
def State.raise (s : State) (cause : Nat) (val : Word) (floor : Nat := 0) : State :=
  if s.self.hold.isSome then s.modSelf fun t => { t with deferred := true }
  else s.deliver s.cur { cause, val, epc := s.self.pc.setWidth 64, floor }

/-! ## Completion (R266, R273, R377) -/

/-- The loop check on the sequential next address: the next PC and the thread with sr.lc reduced (R273). -/
def loopCheck (t : Thread) (next : Word) : Thread × Word :=
  if next == (t.lend &&& 0xFFFFFFFFFFFE) && Word.field t.lend 48 2 == t.pl && t.lc != 0 then
    if 2 ≤ t.lc.toNat then ({ t with lc := t.lc - 1 }, t.lbeg) else ({ t with lc := 0 }, next)
  else (t, next)

/-- The thread has issued: it is no longer stalled, and it is the most recent to issue (R266). -/
def Thread.issued (t : Thread) (now : Nat) : Thread :=
  { t with stalled := false, deferred := false, lastIssue := now, issuedNow := true, woken := false }

/-- The SSTEP trap after a completed instruction at `pc`, the thread's PC being the next one (R377). -/
def State.stepTrap (s : State) (t : Nat) (pc : BitVec 48) (tpend : Option (BitVec 12)) : State :=
  s.deliver t { cause := cBKPT, val := pc.setWidth 64, epc := (s.thread t).pc.setWidth 64, step := true, tpend, undo := .done }

/-- The instruction of `size` bytes of thread `t` completes in sequence; `step` asks for the trap of SSTEP. The sequential next address of the last
instruction below 2^48 is 0: the spec gives none (log entry 87). -/
def State.completeFor (s : State) (t : Nat) (size : Nat) (step : Bool) : State :=
  let x := s.thread t
  let (x', n) := loopCheck x (x.pc.setWidth 64 + BitVec.ofNat 64 size)
  let s := s.setThread t ({ x' with pc := n.setWidth 48 }.issued s.fresh)
  if step then s.stepTrap t x.pc none else s

/-- What happens at the end of a wait: the instruction issued when it began, in whose rotation that counts (R210, R265). -/
def State.issuedBefore (s : State) (t : Nat) (s' : State) : State := s'.modThread t fun x => { x with issuedNow := (s.thread t).issuedNow }

/-- The executing thread's instruction completes in sequence; `step` is SSTEP as it stood when the instruction began (R376). -/
def State.complete (s : State) (size : Nat) (step : Bool) : State := s.completeFor s.cur size step

/-- The instruction of a thread completes with a transfer of control. -/
def State.jumpFor (s : State) (t : Nat) (target : BitVec 48) : State :=
  let pc := (s.thread t).pc
  let s := s.modThread t fun x => { x with pc := target }.issued s.fresh
  if (s.thread t).sstep then s.stepTrap t pc none else s

/-- The executing thread's instruction completes with a transfer of control. -/
def State.jumpTo (s : State) (target : BitVec 48) : State := s.jumpFor s.cur target

/-- TRAP completes, making the loop check, and its cause 5 is delivered; under SSTEP the step trap comes first and its frame keeps
the immediate (R377). -/
def State.trapAfter (s : State) (imm : Word) : State :=
  let x := s.self
  let (x', n) := loopCheck x (x.pc.setWidth 64 + 4)
  let s := s.setThread s.cur ({ x' with pc := n.setWidth 48 }.issued s.fresh)
  if x.sstep then s.stepTrap s.cur x.pc (some (imm.setWidth 12))
  else s.deliver s.cur { cause := cTRAP, val := imm, epc := (n.setWidth 48).setWidth 64, undo := .done }

/-- An ASYNC delivery at the instruction that the thread would execute (R210, R373). -/
def State.raiseAsync (s : State) (t : Nat) (p : Pend) : State :=
  s.deliver t { cause := p.cause, val := p.val, epc := (s.thread t).pc.setWidth 64, async := true, undo := .pending { p with since := s.cycle, due := true } }

/-- The next state of an instruction of `size` bytes whose body is `b`: traps are taken on the state before it (R57, R370). -/
def finish (size : Nat) (s : State) (b : Body) : Host.Outcome State Fault Refusal :=
  match b with
  | .ok s' => .next (s'.complete size s.self.sstep)
  | .error (.trap c v f) => .next (s.raise c v f)
  | .error (.jump s' t) => .next (s'.jumpTo t)
  | .error (.wait p s') =>
    .next (s'.modSelf fun t => { t with park := p, parkedAt := if t.stalled then t.parkedAt else s.fresh, stalled := true, deferred := false, lastIssue := s.fresh })
  | .error .later => .next (s.modSelf fun t => { t with deferred := true })
  | .error (.held s') => .next (s'.modSelf (·.issued s.fresh))
  | .error (.left s') => .next s'
  | .error (.trapAfter s' i) => .next (s'.trapAfter i)
  | .error (.deliverPending p s') => .next (s'.raiseAsync s.cur p)
  | .error (.halt h) => .next (s.haltCtx s.self.ctx h)

/-- The guard of F-R lets the instruction execute (R56). -/
def guardTrue (t : Thread) (g : BitVec 4) : Bool := t.getP (g.extractLsb' 0 3) != g.getLsbD 3

/-- A guarded instruction: with a false guard it completes with no effect (R56). -/
def guarded (g : BitVec 4) (s : State) (b : Body) : Host.Outcome State Fault Refusal :=
  if guardTrue s.self g then finish 4 s b else .next (s.complete 4 s.self.sstep)

/-- An instruction of a major that service cores do not execute: ILLEGAL there, before the guard (R25). -/
def onCompute (i : Instr) (s : State) (k : Host.Outcome State Fault Refusal) : Host.Outcome State Fault Refusal :=
  if s.self.onService.isSome then .next (s.raise cILLEGAL (encode i).bits) else k

/-- A thread of a secondary context may not use the engines of its core (R333). -/
def primaryOnly (s : State) : Except Stop Unit :=
  if s.primary s.self.ctx s.self.core then .ok () else trap cENGINE 4

/-! ## Returning from an exception (R379) -/

/-- A thread that had moved to a service core and restores a level below PL.HYP goes back to the core it left, ahead of every other
arrival; a thread of the service core itself stays (R374). -/
def State.backFromService (s : State) (t : Nat) : State :=
  let x := s.thread t
  let s := s.unplace t
  { s.setThread t { x with place := .moving } with net := s.net ++ [.move t x.core none true] }

/-- A saved status that a thread at its level cannot take back: reserved bits, a higher level, another CONV or STEEP (R379, R43). -/
def Thread.refusesStatus (t : Thread) (st : Word) : Bool :=
  Word.field st 5 59 != 0 || t.pl < Word.field st 0 2 || st.getLsbD 3 != t.conv || st.getLsbD 4 != t.steep

/-- A thread that a return leaves at PL.HYP on a compute core sets out for a service core: PL.HYP runs on the service cores alone (R334, R374). -/
def State.leaveForHyp (s : State) (t : Nat) : State :=
  let x := s.thread t
  if x.pl = 2 && x.onService.isNone && x.place != .moving then s.toService t .done else s

/-- TRET of the executing thread; `word` is the instruction word. -/
def State.tret (s : State) (word : Word) : State :=
  let x := s.self
  let l := x.pl
  let f := x.frame l
  if !f.act then
    if l = 0 then s.raise cPRIV word
    else
      -- taken at level L itself, whose frame is free (R379)
      let vec := s.tvecOf x l
      if l = 3 || (x.frame 3).act then s.haltCtx x.ctx (fatalHalt x { cause := cILLEGAL, val := word, epc := x.pc.setWidth 64 })
      else if badPc vec then
        s.deliver s.cur { cause := cBADPC, val := vec, epc := x.pc.setWidth 64, orig := cILLEGAL, floor := l + 1 }
      else
        let f' : Frame := { cause := causeWord cILLEGAL false false l 0 none, epc := x.pc.setWidth 64, val := word, stat := x.status }
        s.setThread s.cur { x.setFrame l f' with
          status := Word.setField x.status 2 1 0
          pc := vec.setWidth 48 }
  else
    let st := f.stat
    if x.refusesStatus st then
      s.deliver s.cur { cause := cBADSTAT, val := st, epc := x.pc.setWidth 64, floor := l + 1 }
    else if badPc f.epc then s.raise cBADPC f.epc
    else
      let pc := x.pc
      let s := s.setThread s.cur ({ x.setFrame l { f with cause := Word.setField f.cause 63 1 0 } with
          status := st
          pc := f.epc.setWidth 48 }.issued s.fresh)
      let s :=
        if f.cause.getLsbD 24 then
          s.deliver s.cur { cause := cTRAP, val := BitVec.ofNat 64 (Word.field f.cause 25 12), epc := f.epc, undo := .done }
        else if x.sstep then s.stepTrap s.cur pc none
        else s
      if x.onService.isSome && !x.osThread && s.self.pl < 2 then s.backFromService s.cur else s.leaveForHyp s.cur

end Sys2Proof.Machine
end

