-- ==== Sys2Proof/Machine/Place.lean ====
section
/-!
DEFINITION. How one instruction comes to stand where the device fetches next: the load of a program that the spec leaves to a host, made in
one move (log entry 6): a partition with one context, its page tables, and one thread in slot 0 of core 0; and the load of a thread of a service
core's own.
-/

namespace Sys2Proof.Machine

/-- Where the loaded instruction stands. -/
def placeBase : Nat := 0x10000

/-- The partition of the loaded program: granule 0, one context slot with context 1, stage 1 from 0x1000, no stage 2 (R341, R354, R355). -/
def placePart : Part := { active := [(0x8, 1), (0x10000, 0x400001), (0x10008, 0x1000)] }

/-- Its page tables: one page of 1 GiB from address zero, readable, writable and executable, class TRK, pinned to core 0 (R337, R338). -/
def placeTables : List (Nat × Word) := [(0x1000, 0x2003), (0x2000, 0x3003), (0x3000, 0x41D)]

/-- Its thread: in slot 0 of core 0, at the instruction. -/
def placeThread : Thread := { pc := BitVec.ofNat 48 placeBase, ctx := 1, place := .slot 0 }

/-- The state with a program of one instruction loaded and nothing else waiting to happen. -/
def State.placeWord (s : State) (nbits w : Nat) : State :=
  let code := leBytes 16 (w % 2 ^ nbits)
  let s := placeTables.foldl (fun s e => s.putWord e.1 e.2) s
  let s := s.putBytes placeBase code
  { s with
    threads := [(0, placeThread)]
    cores := [(0, { ctxs := [1], primary := some 1, slots := [(0, 0)] })]
    ctxs := Tab.set s.ctxs 1 {}
    parts := [(0, placePart)]
    ownership := Tab.set s.ownership 0 0x100
    sec := { s.sec with recovery := false, d3hot := false }
    badUnits := []
    stlb := []
    walks := []
    l2 := []
    group := []
    svcs := []
    inputs := []
    turn := true }

/-- A thread of the device operating system is loaded on service core `n`, at the given level and address (R25, log entry 6). Its registers are
those of a thread in its first state. -/
def State.placeNative (s : State) (n : Nat) (pl : Nat) (ctx : CtxId) (pc : BitVec 48) : State :=
  let t := s.nextThread
  let x : Thread := { pc, ctx, core := svcUnit n, status := BitVec.ofNat 64 (pl % 4), place := .service n, osThread := true }
  { s with threads := Tab.set s.threads t x, nextThread := t + 1, svcs := Tab.set s.svcs n (Tab.get s.svcs [] n ++ [t]) }

end Sys2Proof.Machine
end

