-- ==== Sys2Proof/Machine/Errors.lean ====
section
/-!
DEFINITION. Soft errors (22_errors_and_resets.md R395 to R398): what a read meets, counters, logs and halts.
-/

namespace Sys2Proof.Machine

/-- The HBM4 stack of an HBM address (R17, R335). -/
def stackOf (pa : Nat) : Nat := pa / (48 * 2 ^ 30)

/-- The die to which a stack belongs (R17). -/
def stackDie (stack : Nat) : Nat := stack / 2

/-- The routers at which the controller of a stack joins the mesh: four rows of its die's outer column (R17). -/
def stackRouters (stack : Nat) : List Coord :=
  (List.range 4).map fun r =>
    BitVec.ofNat 9 (128 * stackDie stack + 16 * (4 * (stack % 2) + r) + (if stackDie stack % 2 = 0 then 0 else 11))

/-- The router core that stands for an HBM controller in counters and logs: the first where the controller joins the mesh (R17; log entry 66). -/
def hbmUnit (pa : Nat) : Coord := (stackRouters (stackOf pa)).headD 0

/-- An error counter's key; R396 numbers the counters of the compute cores, and those of the service cores stand behind them. -/
def counterKey (unit row : Nat) : Nat := unit * 16 + row

/-- The number under which a unit's errors are counted: that of a compute core, or 384 and more for a service core's place (R25, R396). -/
def errUnit (c : Coord) : Nat := if coreExists c then unitOf c else 384 + c.toNat

/-- The bytes that one check code covers, by row of the table Protection: a symbol code of 32 bytes, SECDED or parity over 8, a tag or line of
64 bytes, and from row 8 one entry or flit, by its number (R395). -/
def unitBytes (row : Nat) : Nat := if row = 1 then 32 else if row = 3 || row = 7 then 64 else if 8 ≤ row then 1 else 8

/-- Where the locations of the latches and of the register cache begin among those of row 4, behind the caddy's (log entry 41). -/
def latchLoc : Nat := 2 ^ 18
def regLoc : Nat := 2 ^ 19

/-- Where, among the locations of row 2, the metadata of the ACC and DET words begin, each behind the address of its word, and the park buffers, 64
entries for each slice (log entry 41). -/
def metaLoc : Nat := 2 ^ 52
def parkLoc : Nat := 2 ^ 53

/-- The location of an entry of the park buffer of a slice. -/
def parkAt (home : Coord) (i : Nat) : Nat := parkLoc + 64 * (64 * home.toNat + i)

/-- The location of the image of a thread in a register cache, at the place of a thread of its number (R43; log entry 41). -/
def regAt (t : Nat) : Nat := regLoc + 1024 * (t % 128)

/-- The location of a latch buffer of a position: two of 24 KiB for each family (R294). -/
def latchAt (leaf : Bool) (b : Nat) : Nat := latchLoc + 24576 * ((if leaf then 0 else 2) + b)

/-- ADDR of a log entry: the physical address of the protected unit, or its offset within the caddy, the latches or the register cache (R398). -/
def logAddr (row loc : Nat) : Nat :=
  if row ≠ 4 then loc % metaLoc else if regLoc ≤ loc then loc - regLoc else if latchLoc ≤ loc then loc - latchLoc else loc

/-- The die in whose log an error stands: for HBM the die of the stack that the address names; for the links of row 10 and the service cores the
I/O die, as die 4; else that of the unit (R17, R25, R398). -/
def logDie (row : Nat) (unit : Coord) (addr : Nat) : Nat :=
  if row = 1 then stackDie (stackOf addr) else if row = 10 || !coreExists unit then 4 else unit.toNat / 128

/-- An entry in a die's error log, with OVER if an unread entry is overwritten; UNIT is zero on the I/O die (R398). -/
def State.logError (s : State) (die row : Nat) (unit : Coord) (ue halted : Bool) (ctx : CtxId) (addr : Nat) : State :=
  let l := Tab.get s.errLogs {} die
  let lost := (Tab.find l.entries l.index).isSome
  let w0 := BitVec.ofNat 64 (row + (if ue then 2 ^ 8 else 0) + (if lost then 2 ^ 9 else 0) + (if die = 4 then 0 else unit.toNat * 2 ^ 10) +
    (if halted then 2 ^ 19 else 0) + (if halted then ctx.toNat * 2 ^ 20 else 0))
  { s with errLogs := Tab.set s.errLogs die {
      entries := Tab.set l.entries l.index (w0, BitVec.ofNat 64 (logAddr row addr % 2 ^ 52)), index := (l.index + 1) % 64 } }

/-- A correctable error: counted, and logged when the counter is saturated (R396, R398). -/
def State.correctable (s : State) (row : Nat) (unit : Coord) (addr : Nat) : State :=
  let k := counterKey (errUnit unit) row
  let n := Tab.get s.errCounts 0 k
  if n = BitVec.allOnes 32 then s.logError (logDie row unit addr) row unit false false 0 addr
  else { s with errCounts := Tab.set s.errCounts k (n + 1) }

/-- The structure of a location: HBM and the L2 are addressed by physical address alone. -/
def unitKey (row : Nat) (unit : Coord) : Nat := if row ≤ 3 then 0 else unit.toNat

/-- The protected unit at a location: row, structure, number. -/
def unitAt (row : Nat) (unit : Coord) (loc : Nat) : Nat × Nat × Nat := (row, unitKey row unit, loc / unitBytes row)

/-- The unit at a location is marked as one whose every read finds the error again (R397). -/
def State.markBad (s : State) (row : Nat) (unit : Coord) (loc : Nat) : State :=
  if s.badUnits.contains (unitAt row unit loc) then s else { s with badUnits := s.badUnits ++ [unitAt row unit loc] }

/-- A protected unit overlaps a range of a structure. -/
def unitIn (row : Nat) (unit : Coord) (loc n : Nat) (u : Nat × Nat × Nat) : Bool :=
  u.1 == row && u.2.1 == unitKey row unit && loc / unitBytes row ≤ u.2.2 && u.2.2 ≤ (loc + n - 1) / unitBytes row

/-- Some unit of a range of a structure is bad. -/
def State.badIn (s : State) (row : Nat) (unit : Coord) (loc n : Nat) : Bool := s.badUnits.any (unitIn row unit loc n)

/-- The contexts of the partition in which a unit stands. -/
def State.unitContexts (s : State) (unit : Coord) : List CtxId :=
  (s.parts.filter fun e => s.coreIn e.1 unit).flatMap fun e => e.2.slots.map fun sl => BitVec.ofNat 16 (Word.field sl.2 0 16)

/-- A structure that serves a whole partition: the tags and ownership state of a slice, and the header of a flit in a router, which location 1 stands
for (R395, R397; log entry 41). -/
def wholePartition (u : Nat × Nat × Nat) : Bool := u.1 == 3 || (u.1 == 9 && u.2.2 == 1)

/-- An uncorrectable error at a location, found on behalf of a context: logged, and the context halts, with every other of the partition where the
structure serves it whole (R397). -/
def State.uncorrectable (s : State) (row : Nat) (unit : Coord) (loc : Nat) (ctx : CtxId) (kind : Nat) : State :=
  let h : Halt := { cause := 3, unit := some unit, kind }
  let s := ((s.markBad row unit loc).logError (logDie row unit loc) row unit true true ctx loc).haltCtx ctx h
  if wholePartition (unitAt row unit loc) then (s.unitContexts unit).foldl (fun s c => s.haltCtx c h) s else s

/-- A known unit that a read reaches: a correctable error is corrected and counted, an uncorrectable one halts (R396, R397). A flit that has been read
has left its router. -/
def State.meetUnit (s : State) (unit : Coord) (ctx : CtxId) (kind : Nat) (u : Nat × Nat × Nat) : State :=
  let loc := u.2.2 * unitBytes u.1
  let soft := s.softUnits.contains u
  let s := if soft then State.correctable { s with softUnits := s.softUnits.erase u } u.1 unit loc else s
  let s := if s.badUnits.contains u then s.uncorrectable u.1 unit loc ctx kind else s
  if u.1 = 9 then { s with badUnits := s.badUnits.erase u } else s

/-- A read of `n` bytes at a location of a structure, on behalf of a context, meets the errors that stand there (R396, R397). -/
def State.meetErrors (s : State) (row : Nat) (unit : Coord) (loc n : Nat) (ctx : CtxId) (kind : Nat) : State :=
  ((s.softUnits ++ s.badUnits).filter (unitIn row unit loc n)).dedup.foldl (fun s u => s.meetUnit unit ctx kind u) s

/-- No error stands in any protected unit. -/
def State.errorFree (s : State) : Bool := s.badUnits.isEmpty && s.softUnits.isEmpty

/-- A read on behalf of no context finds the errors of a range: they are corrected and counted, or logged (R396, R397). -/
def State.noticeErrors (s : State) (row : Nat) (unit : Coord) (loc n : Nat) : State :=
  ((s.softUnits ++ s.badUnits).filter (unitIn row unit loc n)).dedup.foldl (fun s u =>
    let at_ := u.2.2 * unitBytes row
    let s := if s.softUnits.contains u then State.correctable { s with softUnits := s.softUnits.erase u } row unit at_ else s
    if s.badUnits.contains u then s.logError (logDie row unit at_) row unit true false 0 at_ else s) s

/-- A read on behalf of a context, or of none. -/
def State.meetFor (s : State) (ctx : Option CtxId) (row : Nat) (unit : Coord) (loc n : Nat) (kind : Nat := 1) : State :=
  match ctx with
  | some c => s.meetErrors row unit loc n c kind
  | none => s.noticeErrors row unit loc n

/-- The errors of the units that a predicate names are gone: other bits stand there. -/
def State.mendWhere (s : State) (f : Nat × Nat × Nat → Bool) : State :=
  { s with badUnits := s.badUnits.filter fun u => !f u, softUnits := s.softUnits.filter fun u => !f u }

/-- A range of a structure covers a unit whole. -/
def unitCovered (row : Nat) (unit : Coord) (loc n : Nat) (u : Nat × Nat × Nat) : Bool :=
  u.1 == row && u.2.1 == unitKey row unit && loc ≤ u.2.2 * unitBytes row && (u.2.2 + 1) * unitBytes row ≤ loc + n

/-- A write of `n` bytes replaces every unit that it covers whole (R397). -/
def State.mend (s : State) (row : Nat) (unit : Coord) (loc n : Nat) : State := s.mendWhere (unitCovered row unit loc n)

/-- The general and packed registers of a thread that masks name hold new bits in the register cache (R43, R397). -/
def State.mendMarks (s : State) (t : Nat) (g : BitVec 32) (v : BitVec 16) : State :=
  s.mendWhere fun u =>
    let off := 8 * u.2.2 - regAt t
    u.1 == 4 && u.2.1 == (s.thread t).unit.toNat && regAt t ≤ 8 * u.2.2 &&
      ((8 ≤ off && off < 0x100 && g.getLsbD (off / 8)) || (0x100 ≤ off && off < 0x200 && v.getLsbD ((off - 0x100) / 16)))

/-- What parity finds wrong in a cache is discarded: the copy that an L1 does not own, or the lines and translations that a location names; the next
use fetches or walks again (rows 6 and 7 of the table Protection; log entry 41). -/
def State.spoil (s : State) (row : Nat) (unit : Coord) (loc : Nat) : State :=
  let off (x : Xlat) : Bool := !(x.pbase ≤ loc && loc < x.pbase + x.size)
  if row = 6 then s.modCore unit fun k => { k with l1 := k.l1.filter fun l => l.owned || l.line != loc / 64 }
  else
    let s := s.modCore unit fun k =>
      { k with icache := k.icache.filter (·.line != loc / 64), loops := k.loops.filter (!·.lines.contains (loc / 64)), tlb := k.tlb.filter off }
    match Tab.find s.stlb unit.toNat with
    | some h => { s with stlb := Tab.set s.stlb unit.toNat { h with full := h.full.filter off } }
    | none => s

/-- A soft error strikes: it stands in its unit until a read or a write comes to it; parity and the links' retries deal with it as it strikes (R395,
log entry 41). -/
def State.strike (s : State) (x : Strike) : State :=
  if x.row = 0 || 10 < x.row then s
  else if x.row = 6 || x.row = 7 then (s.spoil x.row x.unit x.loc).correctable x.row x.unit x.loc
  else if x.row = 10 then s.correctable x.row x.unit x.loc
  else if x.ue then s.markBad x.row x.unit x.loc
  else if s.softUnits.contains (unitAt x.row x.unit x.loc) then s
  else { s with softUnits := s.softUnits ++ [unitAt x.row x.unit x.loc] }

/-- The soft errors whose step has come strike (R395). -/
def State.landStrikes (s : State) : State :=
  (s.strikes.filter (·.step ≤ s.fresh)).foldl State.strike { s with strikes := s.strikes.filter fun x => s.fresh < x.step }

end Sys2Proof.Machine
end

