-- ==== Sys2Proof/Machine/Xlate.lean ====
section
/-!
DEFINITION. Address translation (19_isolation_translation.md R335 to R347): the physical map, the ownership check, the two-stage walk, the
TLBs, placement, and the caddy addresses that bypass it all (R49).
-/

namespace Sys2Proof.Machine

/-- The access kinds of R11 and R164. -/
inductive Kind where
  | load | store | atomic | exec | copy | reduce
  deriving DecidableEq, Repr

/-- A failed translation: cause, sr.tval, floor. -/
structure Fail where
  cause : Nat
  val : Word
  floor : Nat := 0
  deriving DecidableEq, Repr

/-- Where one access goes. -/
structure Target where
  pa : Nat
  cls : Cls
  home : Coord
  deriving DecidableEq, Repr

/-- Bytes of one HBM4 stack: 48 GiB (R17, R31). -/
def stackBytes : Nat := 48 * 2 ^ 30
/-- HBM: eight stacks (R31, R335). -/
def isHbm (pa : Nat) : Bool := pa < 8 * stackBytes
/-- The configuration space (R335). -/
def isConfig (pa : Nat) : Bool := 0x10000000000 ≤ pa && pa < 0x20000000000
/-- Host memory (R335). -/
def isHost (pa : Nat) : Bool := 2 ^ 50 ≤ pa && pa < 2 ^ 51
/-- Memory of pod nodes (R335). -/
def isPod (pa : Nat) : Bool := 2 ^ 51 ≤ pa && pa < 2 ^ 52

/-- The ownership entry of the granule of an HBM address (R336). -/
def State.ownerEntry (s : State) (pa : Nat) : BitVec 16 := Tab.get s.ownership 0 (pa / 2 ^ 21)

/-- OwnerCheck: the failure, if any (R336). -/
def State.ownerCheck (s : State) (part : Nat) (pl : Nat) (pa : Nat) : Except Fail Unit :=
  let e := s.ownerEntry pa
  if e.getLsbD 9 then
    if pl < 3 then .error { cause := cOWNER, val := BitVec.ofNat 64 pa, floor := 3 } else .ok ()
  else if e.getLsbD 8 && (e.extractLsb' 0 6).toNat == part then .ok ()
  else .error { cause := cOWNER, val := BitVec.ofNat 64 pa, floor := 2 }

/-- A table entry's or leaf's reserved bits and alignment, at a level of a stage; `none` is an invalid entry (R337, R338). The answer is
the page size of a leaf, or 0 for a table entry. A CONTIG leaf whose group is not `uniform` is taken as a page of the smaller size (R339). -/
def entryShape (e : Word) (lvl : Nat) (stage2 : Bool) (uniform : Bool) : Option Nat :=
  if !e.getLsbD 0 then none
  else if e.getLsbD 1 then
    if lvl = 0 || Word.field e 2 10 != 0 || Word.field e 52 12 != 0 then none else some 0
  else
    let contig := e.getLsbD 11
    let size := 2 ^ (12 + 9 * lvl + (if contig && uniform then 4 else 0))
    if 2 < lvl || (lvl = 2 && contig) then none
    else if Word.field e 61 3 != 0 then none
    else if stage2 && (Word.field e 5 6 != 0 || Word.field e 52 9 != 0) then none
    else if !stage2 && (Word.field e 9 2 == 3 || (Word.field e 9 2 == 0 && Word.field e 52 9 != 0) ||
        (Word.field e 9 2 == 1 && Word.field e 54 7 != 0)) then none
    else if Word.field e 12 40 * 2 ^ 12 % size != 0 then none
    else some size

/-- The sixteen entries of the group of a CONTIG leaf hold one value (R339). -/
def State.uniformGroup (s : State) (ea : Nat) (e : Word) : Bool :=
  !e.getLsbD 11 || (List.range 16).all fun i => s.word (ea / 128 * 128 + 8 * i) == e

/-- The stage-2 walk from level `lvl` down (R337, R342). -/
def State.s2Walk (s : State) (part pl : Nat) (ipa : Nat) (ta : Nat) : Nat → Except Fail S2
  | 0 => .error { cause := cSTAGE2, val := BitVec.ofNat 64 ipa, floor := 2 }
  | lvl + 1 => do
    let idx := if lvl = 4 then ipa / 2 ^ 48 % 16 else ipa / 2 ^ (12 + 9 * lvl) % 512
    let ea := ta + 8 * idx
    if !isHbm ea then throw { cause := cSTAGE2, val := BitVec.ofNat 64 ipa, floor := 2 }
    s.ownerCheck part pl ea
    let e := s.word ea
    match entryShape e lvl true (s.uniformGroup ea e) with
    | none => throw { cause := cSTAGE2, val := BitVec.ofNat 64 ipa, floor := 2 }
    | some 0 => s.s2Walk part pl ipa (Word.field e 12 40 * 2 ^ 12) lvl
    | some size =>
      pure { pa := Word.field e 12 40 * 2 ^ 12 + ipa % size, size, r := e.getLsbD 2, w := e.getLsbD 3, x := e.getLsbD 4 }

/-- A physical address that a translation may yield for a requester: HBM; the configuration space from a service core at PL.DRV and above;
host memory of the partition's own logical device; a pod peer through stage 2 only (R335, R342, R348, R350). -/
def State.paAllowed (s : State) (part pl : Nat) (svc stage2 : Bool) (pa : Nat) : Bool :=
  isHbm pa || (isConfig pa && svc && 1 ≤ pl) ||
  (isHost pa && pa / 2 ^ 46 % 16 == Word.field ((s.part part).field 0x18) 0 4) || (isPod pa && stage2)

/-- A stage-2 entry covers an input address of a partition (R345). -/
def S2Entry.covers (e : S2Entry) (part ipa : Nat) : Bool := e.part == part && e.ipa ≤ ipa && ipa < e.ipa + e.out.size

/-- The stage-2 output for an address: by an entry that one of the shares in `held` keeps, or by a walk; where both are possible the choice is
open (R345, R347). -/
def State.s2Held (s : State) (held : List S2Entry) (part pl ipa : Nat) : Except Fail S2 :=
  let root := Word.field ((s.part part).field 0x10) 12 40 * 2 ^ 12
  match held.find? (·.covers part ipa) with
  | some e =>
    if Config.useTlb s.fresh ipa then .ok { e.out with pa := e.out.pa + (ipa - e.ipa) } else s.s2Walk part pl ipa root 5
  | none => s.s2Walk part pl ipa root 5

/-- S2(x, k) without the rights: the output, checked to be a physical address that exists for the requester (R342). -/
def State.s2 (s : State) (held : List S2Entry) (part pl : Nat) (svc s2en : Bool) (ipa : Nat) : Except Fail S2 :=
  if s2en then do
    let o ← s.s2Held held part pl ipa
    if s.paAllowed part pl svc true o.pa then pure o
    else throw { cause := cSTAGE2, val := BitVec.ofNat 64 ipa, floor := 2 }
  else .ok { pa := ipa, size := 2 ^ 30 }

/-- The rights that a kind needs (R340). -/
def rightsOk (k : Kind) (r w x : Bool) : Bool :=
  match k with
  | .load => r
  | .store | .copy | .reduce => w
  | .atomic => r && w
  | .exec => x

/-- The class that a leaf names (R338). -/
def classOf (e : Word) : Cls :=
  match Word.field e 7 2 with
  | 0 => .trk
  | 1 => .unt
  | 2 => .acc
  | _ => .det

/-- Whether a class permits a kind (R164). -/
def classOk (c : Cls) (k : Kind) : Bool :=
  match c, k with
  | .acc, .atomic | .acc, .exec | .acc, .copy => false
  | .det, .atomic | .det, .exec | .det, .copy | .det, .reduce => false
  | .trk, .reduce | .unt, .reduce | .host, .reduce | .pod, .reduce | .config, .reduce | .caddy, .reduce => false
  | _, _ => true

/-- The placement that a leaf names (R343). -/
def placeOf (e : Word) : Placement :=
  match Word.field e 9 2 with
  | 0 => .hall
  | 1 => .hdie (BitVec.ofNat 2 (Word.field e 52 2))
  | _ => .pin (BitVec.ofNat 9 (Word.field e 52 9))

/-- The slices among which a placement hashes (R343). -/
def State.slicesFor (s : State) (part : Nat) : Placement → List Coord
  | .hall => s.partCores part
  | .hdie d => (s.partCores part).filter fun c => c.extractLsb' 7 2 == d
  | .pin c => [c]

/-- The placement names a slice or a die of the partition (R342). -/
def State.placeOk (s : State) (part : Nat) : Placement → Bool
  | .hall => true
  | .hdie d => !(s.slicesFor part (.hdie d)).isEmpty
  | .pin c => s.coreIn part c

/-- HomeSlice(pa) (R343). -/
def State.homeSlice (s : State) (part : Nat) (pl : Placement) (pa : Nat) : Coord :=
  match pl with
  | .pin c => c
  | p =>
    let sl := s.slicesFor part p
    sl.getD (Config.homeIndex sl (pa / 64) % sl.length) 0

/-- The outcome of the ownership check of a translation that yields an HBM address, its class against the granule's KIND included (R336).
Host and pod memory have no granule and take no ACC or DET page. -/
def State.granuleCheck (s : State) (part pl : Nat) (c : Cls) (pa : Nat) (va : Word) : Except Fail Unit :=
  if isHbm pa then do
    s.ownerCheck part pl pa
    let e := s.ownerEntry pa
    let kind := (e.extractLsb' 6 2).toNat
    let ok := match c with
      | .acc => !e.getLsbD 9 && kind == 1
      | .det => !e.getLsbD 9 && kind == 2
      | _ => e.getLsbD 9 || kind == 0
    if ok then pure () else throw { cause := cBADCLASS, val := va }
  else match c with
    | .acc | .det => .error { cause := cBADCLASS, val := va }
    | _ => .ok ()

/-- The class of an access by where its address lies. -/
def effectiveCls (c : Cls) (pa : Nat) : Cls :=
  if isHbm pa then c else if isConfig pa then .config else if isHost pa then .host else .pod

/-- What translation needs to know of a requester; `unit` is the core or service core whose L1 TLB it uses. -/
structure Who where
  ctx : CtxId
  core : Coord
  svc : Bool
  pl : Nat
  unit : Coord := core

/-- The slice of the shared TLB that is looked up for an address: one of the partition's slices on the requester's die, by a hash of the context
and VA[56:21] (R345). A service core uses the die of the compute core that its thread left (log entry 65). -/
def State.tlbSliceOf (s : State) (q : Who) (part : Nat) (va : Word) : Option Coord :=
  let sl := s.slicesFor part (.hdie (q.core.extractLsb' 7 2))
  sl[Config.tlbSlice sl q.ctx.toNat (va.toNat / 2 ^ 21) % sl.length]?

/-- The share of the shared TLB that is looked up for an address. -/
def State.shareFor (s : State) (q : Who) (part : Nat) (va : Word) : Share :=
  if s.stlb.isEmpty then {} else ((s.tlbSliceOf q part va).map fun c => Tab.get s.stlb {} c.toNat).getD {}

/-- The stage-2 page of an output, base and size; an empty one where stage 2 does not apply. -/
def s2Page (s2en : Bool) (ipa : Nat) (o : S2) : Nat × Nat := if s2en then (ipa / o.size * o.size, o.size) else (0, 0)

/-- The nested walk for an access of a kind (R342), from level `lvl` down; `held` are the stage-2 entries that it may use. -/
def State.walkFrom (s : State) (q : Who) (held : List S2Entry) (part : Nat) (s2en : Bool) (va : Word) (k : Kind) (ta : Nat) : Nat → Except Fail Xlat
  | 0 => .error { cause := cPAGE, val := va }
  | lvl + 1 => do
    let fault : Fail := { cause := cPAGE, val := va }
    let idx := va.toNat / 2 ^ (12 + 9 * lvl) % 512
    let eipa := ta + 8 * idx
    let t ← s.s2 held part q.pl q.svc s2en eipa
    if !t.r then throw { cause := cSTAGE2, val := BitVec.ofNat 64 eipa, floor := 2 }
    if !isHbm t.pa then throw (if s2en then { cause := cSTAGE2, val := BitVec.ofNat 64 eipa, floor := 2 } else fault)
    s.ownerCheck part q.pl t.pa
    let e := s.word t.pa
    match entryShape e lvl false (s.uniformGroup t.pa e) with
    | none => throw fault
    | some 0 => do
      let x ← s.walkFrom q held part s2en va k (Word.field e 12 40 * 2 ^ 12) lvl
      pure { x with via := s2Page s2en eipa t :: x.via }
    | some size =>
      if !rightsOk k (e.getLsbD 2) (e.getLsbD 3) (e.getLsbD 4) || q.pl < Word.field e 5 2 then
        throw { cause := cPERM, val := va }
      if !classOk (classOf e) k then throw { cause := cBADCLASS, val := va }
      if !s.placeOk part (placeOf e) then throw fault
      let ipa := Word.field e 12 40 * 2 ^ 12 + va.toNat % size
      let o ← s.s2 held part q.pl q.svc s2en ipa
      if !rightsOk k o.r o.w o.x then throw { cause := cSTAGE2, val := BitVec.ofNat 64 ipa, floor := 2 }
      if !s2en && !s.paAllowed part q.pl q.svc false o.pa then throw fault
      s.granuleCheck part q.pl (classOf e) o.pa va
      let span := min size o.size
      pure { ctx := q.ctx, vbase := va.toNat / span * span, size := span, pbase := o.pa - va.toNat % span,
             ipa := ipa - va.toNat % span, r := e.getLsbD 2, w := e.getLsbD 3, x := e.getLsbD 4,
             minpl := BitVec.ofNat 2 (Word.field e 5 2), r2 := o.r, w2 := o.w, x2 := o.x,
             cls := effectiveCls (classOf e) o.pa, place := placeOf e, mon := isHbm o.pa && (s.ownerEntry o.pa).getLsbD 9, s2en,
             via := [s2Page s2en eipa t, s2Page s2en ipa o] }

/-- A walk for an access (R342). A context without an enabled slot has no tables: PAGE_FAULT. -/
def State.walk (s : State) (q : Who) (va : Word) (k : Kind) : Except Fail Xlat :=
  match s.slotOf q.ctx with
  | none => .error { cause := cPAGE, val := va }
  | some (p, c) =>
    if Word.field va 57 7 != 0 then .error { cause := cPAGE, val := va }
    else
      let t0 := (s.part p).field (slotBase c)
      let t1 := (s.part p).field (slotBase c + 8)
      s.walkFrom q (s.shareFor q p va).two p (t0.getLsbD 23) va k (Word.field t1 12 40 * 2 ^ 12) 5

/-- A translation covers an address of a context. -/
def Xlat.covers (x : Xlat) (ctx : CtxId) (va : Word) : Bool :=
  x.ctx == ctx && x.vbase ≤ va.toNat && va.toNat < x.vbase + x.size

/-- The checks of an access against a translation that a TLB holds (R345). -/
def Xlat.check (x : Xlat) (q : Who) (va : Word) (k : Kind) : Except Fail Xlat :=
  if !rightsOk k x.r x.w x.x || q.pl < x.minpl.toNat then .error { cause := cPERM, val := va }
  else if !classOk x.cls k then .error { cause := cBADCLASS, val := va }
  else if !rightsOk k x.r2 x.w2 x.x2 then
    .error { cause := cSTAGE2, val := BitVec.ofNat 64 (x.ipa + (va.toNat - x.vbase)), floor := 2 }
  else if x.mon && q.pl < 3 then
    .error { cause := cOWNER, val := BitVec.ofNat 64 (x.pbase + (va.toNat - x.vbase)), floor := 3 }
  else if x.cls == .config && !(q.svc && 1 ≤ q.pl) then
    (if x.s2en then .error { cause := cSTAGE2, val := BitVec.ofNat 64 (x.ipa + (va.toNat - x.vbase)), floor := 2 }
     else .error { cause := cPAGE, val := va })
  else .ok x

/-- The translation that the L1 TLB of a core, or else the shared TLB, holds for an address (R345). -/
def State.tlbFind (s : State) (q : Who) (va : Word) : Option Xlat :=
  match (s.coreAt q.unit).tlb.find? (·.covers q.ctx va) with
  | some x => some x
  | none => (s.shareFor q (s.partOf q.ctx) va).full.find? (·.covers q.ctx va)

/-- Translate(va, kind): by a translation that a TLB holds, or by a walk; which of the two, when both are possible, is open (R347). -/
def State.xlate (s : State) (q : Who) (va : Word) (k : Kind) : Except Fail Xlat :=
  match s.tlbFind q va with
  | some x => if Config.useTlb s.fresh va.toNat then x.check q va k else s.walk q va k
  | none => s.walk q va k

/-- The place that an address of a translation names. -/
def State.targetOf (s : State) (x : Xlat) (va : Word) : Target :=
  let pa := x.pbase + (va.toNat - x.vbase)
  { pa, cls := x.cls, home := s.homeSlice (s.partOf x.ctx) x.place pa }

/-- Translate, giving the place. -/
def State.translate (s : State) (q : Who) (va : Word) (k : Kind) : Except Fail Target := do
  let x ← s.xlate q va k
  pure (s.targetOf x va)

/-! ## Caddy addresses (R49) -/

/-- Bits [56:48] of an address: 0x1FF caddy space, 0x1FE the own-caddy alias; with bits [63:57] zero. -/
def space (va : Word) : Nat := Word.field va 48 16

/-- The address names a caddy (R49). -/
def isCaddy (va : Word) : Bool := space va == 0x1FF || space va == 0x1FE

/-- The core and offset that a caddy address names for an access of `n` bytes, or its failure (R49, R25, R333). A malformed own-caddy address where the
alias is refused too is CADDY_ADDR: no rule orders the two (DESIGN CHOICE, log entry 88). -/
def State.caddyPlace (s : State) (q : Who) (va : Word) (n : Nat) : Except Fail (Coord × Nat) :=
  let off := Word.field va 0 18
  let bad : Fail := { cause := cCADDYADDR, val := va }
  if space va == 0x1FF then
    let c := BitVec.ofNat 9 (Word.field va 18 9)
    if Word.field va 27 21 != 0 || !s.coreIn (s.partOf q.ctx) c || 2 ^ 18 < off + n then .error bad else .ok (c, off)
  else if Word.field va 18 30 != 0 || 2 ^ 18 < off + n then .error bad
  else if q.svc || !s.primary q.ctx q.core then .error { cause := cREFUSED, val := va }
  else .ok (q.core, off)

/-- Who the executing thread is, to translation. -/
def Thread.who (t : Thread) : Who := { ctx := t.ctx, core := t.core, svc := t.onService.isSome, pl := t.pl, unit := t.unit }

/-- A failed translation as a trap. -/
def lift {α : Type} : Except Fail α → Except Stop α
  | .ok a => .ok a
  | .error f => trap f.cause f.val f.floor

/-- Where an access of `n` bytes at `va` goes: a caddy, or a place that translation gives. -/
def State.locate (s : State) (q : Who) (va : Word) (n : Nat) (k : Kind) : Except Fail Target :=
  if isCaddy va then do
    let (c, off) ← s.caddyPlace q va n
    pure { pa := caddyKey c off, cls := .caddy, home := c }
  else s.translate q va k

end Sys2Proof.Machine
end

