-- ==== Sys2Proof/Machine/Mem.lean ====
section
/-!
DEFINITION. Accesses at their homes: L1 copies and ownership (R189, R190, R202), caddies and their windows (R50, R51), counted
operations and their acknowledgements (R48), releases, acquires and pending traps (R191, R192, R210).
-/

namespace Sys2Proof.Machine

/-! ## The L2 slices (R22)

A slice holds lines, each in one of the sixteen ways of its set. Their bytes are those of State.mem: presence decides only where an access finds
an error (R395). While no error stands, an access to a slice changes nothing else than what the slices hold. -/

/-- Ways of a set and lines of a slice: 1.5 MiB in 16 ways of 64-byte lines, 1,536 sets (R22). -/
def l2Ways : Nat := 16
def l2Sets : Nat := 1536

/-- The state after an access to the slices, worked out as `t`. -/
def State.slices (s t : State) : State := if s.errorFree then { s with l2 := t.l2 } else t

/-- A whole line is written to the HBM stack that its address names: what stood there is replaced (R17, R397). -/
def State.writeBack (s : State) (line : Nat) : State := s.mend 1 0 (64 * line) 64

/-- The line that gives its way to another: none while the set has a free one, else one without an uncorrectable error, which of them is open; where
every way holds such a line there is none to take (R22, R397). -/
def State.l2Victim (s : State) (line : Nat) (ls : List L2Line) : Option (Option L2Line) :=
  if ls.length < l2Ways then some none
  else
    let set := ls.filter fun l => Config.l2Set l.line % l2Sets == Config.l2Set line % l2Sets
    if set.length < l2Ways then some none
    else
      let free := set.filter fun l => !s.badIn 2 0 (64 * l.line) 64
      (free[Config.evict s.fresh line % max 1 free.length]?).map some

/-- A line takes a way of its set in a slice, if there is one: a dirty line that gives its way up is read, which corrects what can be corrected in it,
and written to HBM (R17, R22, R397). -/
def State.l2Take (s : State) (home : Coord) (l : L2Line) : State :=
  let ls := Tab.get s.l2 [] home.toNat
  match s.l2Victim l.line ls with
  | none => s
  | some none => { s with l2 := Tab.set s.l2 home.toNat (ls ++ [l]) }
  | some (some v) =>
    let s := if v.dirty then (s.noticeErrors 2 home (64 * v.line) 64).writeBack v.line else s
    State.mend { s with l2 := Tab.set s.l2 home.toNat (ls.erase v ++ [l]) } 2 home (64 * v.line) 64

/-- A line comes into its home slice, unless it is there: from the HBM stack that its address names, where the fill meets the stack's errors (R17,
R22, R395). A line in which one is uncorrectable takes no way, so that the next read finds it again (R397). -/
def State.l2Fill (s : State) (home : Coord) (pa : Nat) (ctx : Option CtxId) (write : Bool) (kind : Nat := 1) : State :=
  let line := pa / 64
  let ls := Tab.get s.l2 [] home.toNat
  if ls.any (·.line == line) then
    if write then { s with l2 := Tab.set s.l2 home.toNat (ls.map fun l => if l.line == line then { l with dirty := true } else l) } else s
  else if isHbm pa then
    let bad := s.badIn 1 (hbmUnit pa) (64 * line) 64
    let s := if write then s else s.meetFor ctx 1 (hbmUnit pa) (64 * line) 64 kind
    if bad then s else s.l2Take home { line, dirty := write }
  else s.l2Take home { line, dirty := write }

/-- A line is brought to its home slice (R22, R214). -/
def State.l2Bring (s : State) (home : Coord) (pa : Nat) (ctx : Option CtxId) : State := s.slices (s.l2Fill home pa ctx false)

/-- A read of `n` bytes at a home slice, on behalf of a context or of none: the line comes there, and the tag and the data show what errors they have
(R22, R395, R397). -/
def State.sliceLook (s : State) (home : Coord) (pa n : Nat) (ctx : Option CtxId) (kind : Nat := 1) : State :=
  s.slices (((s.meetFor ctx 3 home pa n kind).l2Fill home pa ctx false kind).meetFor ctx 2 home pa n kind)

/-- A write of `n` bytes at a home slice: the units that it covers whole have their bits replaced (R22, R397). -/
def State.slicePut (s : State) (home : Coord) (pa n : Nat) (ctx : Option CtxId) (kind : Nat := 1) : State :=
  s.slices ((((s.meetFor ctx 3 home pa n kind).l2Fill home pa ctx true kind).mend 2 home pa n).mend 1 home pa n)

/-- A read at a home slice for a context, by an agent of the given kind (R397). -/
def State.sliceRead (s : State) (home : Coord) (pa n : Nat) (ctx : CtxId) (kind : Nat) : State := s.sliceLook home pa n (some ctx) kind

/-- A write at a home slice for a context. -/
def State.sliceWrite (s : State) (home : Coord) (pa n : Nat) (ctx : CtxId) (kind : Nat) : State := s.slicePut home pa n (some ctx) kind

/-- A line leaves every slice, and the errors of its ways with it (R172, R215). -/
def State.l2Gone (s : State) (line : Nat) : State :=
  State.mend { s with l2 := Tab.mapVals (fun _ ls => ls.filter (·.line != line)) s.l2 } 2 0 (64 * line) 64

/-- A dirty line is written to HBM and stays clean; one with an uncorrectable error is not: the error is logged (R216, R397). -/
def State.l2Clean (s : State) (home : Coord) (line : Nat) : State :=
  let bad := s.badIn 2 home (64 * line) 64
  let clean (l : L2Line) : L2Line := if l.line == line && !bad then { l with dirty := false } else l
  let t : State := { s with l2 := Tab.mapVals (fun _ ls => ls.map clean) s.l2 }
  s.slices (if !(s.l2.any fun e => e.2.any fun l => l.line == line && l.dirty) then s
    else if bad then s.noticeErrors 2 home (64 * line) 64
    else (t.noticeErrors 2 home (64 * line) 64).writeBack line)

/-! ## Ownership of TRK lines (R189, R190)

A line that a core owns is held in its L1; every other agent's access to it is forwarded there, so its bytes are those of State.mem
(log entry 5). The words that it has changed stand dirty in its L1 until they are written to the home slice. -/

/-- A region holds a line. -/
def Region.covers (r : Region) (line : Nat) : Bool := r.base ≤ line && line < r.base + 2 ^ r.lg

/-- The core that owns a line. -/
def State.lineOwner (s : State) (line : Nat) : Option Coord := (s.regions.find? (·.covers line)).map (·.core)

/-- The aligned words of its line that an access of `n` bytes touches. -/
def wordMask (pa n : Nat) : BitVec 8 :=
  BitVec.ofNat 8 (2 ^ ((pa % 64 + n + 7) / 8) - 2 ^ (pa % 64 / 8))

/-- A word of a line, by the number of its protected unit in L1 or L2, is one that a mask names. -/
def wordOf (line : Nat) (mask : BitVec 8) (u : Nat × Nat × Nat) : Bool := u.2.2 / 8 == line && mask.getLsbD (u.2.2 % 8)

/-- The changed words of a line reach its home slice, where they replace what stood there; an error that stands in one, which the write finds, is logged
and goes with the word (R189, R216, R397; log entry 41). -/
def State.writeHome (s : State) (c : Coord) (l : L1Line) : State :=
  if l.dirty = 0 then s
  else
    let s := s.noticeErrors 5 c (64 * l.line) 64
    let put := ((s.noticeErrors 3 l.home (64 * l.line) 64).l2Fill l.home (64 * l.line) none true).mendWhere fun u => u.1 == 2 && wordOf l.line l.dirty u
    let gone (u : Nat × Nat × Nat) : Bool := u.1 == 5 && u.2.1 == c.toNat && u.2.2 / 8 == l.line
    let bad := (s.badUnits.filter fun u => gone u && wordOf l.line l.dirty u).map fun u => (2, 0, u.2.2)
    s.slices { put.mendWhere gone with badUnits := (put.mendWhere gone).badUnits ++ bad }

/-- The changed words of the owned lines that a predicate names reach their homes; the lines stay owned, and are clean (R201, R216). -/
def State.writeBackLines (s : State) (c : Coord) (f : L1Line → Bool) : State :=
  let out := (s.coreAt c).l1.filter fun l => l.owned && l.dirty != 0 && f l
  if out.isEmpty then s
  else (out.foldl (·.writeHome c) s).modCore c fun k => { k with l1 := k.l1.map fun l => if l.owned && f l then { l with dirty := 0 } else l }

/-- A core's copies of the lines of a region become not owned, with the bytes they have now, their changed words having reached their homes (R189). -/
def State.loseLines (s : State) (c : Coord) (r : Region) : State :=
  let lose (l : L1Line) : L1Line :=
    if l.owned && r.covers l.line then { l with owned := false, bytes := s.bytes (64 * l.line) 64, dirty := 0 } else l
  (s.writeBackLines c fun l => r.covers l.line).modCore c fun k => { k with l1 := k.l1.map lose }

/-- The half of a region that holds a line, and the other half; a single line has no other half, and its quiet cycles start anew (R190). -/
def Region.halves (r : Region) (line now : Nat) : Region × List Region :=
  match r.lg with
  | 0 => ({ r with since := now }, [])
  | lg + 1 =>
    let lo : Region := { r with lg := lg, since := now }
    let hi : Region := { r with base := r.base + 2 ^ lg, lg := lg, since := now }
    if lo.covers line then (lo, [hi]) else (hi, [lo])

/-- Another agent's request for a line that a core owns: the line is read in its owner's L1, on behalf of a context or of none, which meets the errors
that stand there; the region splits in halves; with `take`, its owner gives up the half that holds the line (R189, R190, R397). -/
def State.requestLine (s : State) (line : Nat) (by_ : Option Coord) (take : Bool) (ctx : Option CtxId := none) : State :=
  match s.regions.find? (·.covers line) with
  | none => s
  | some r =>
    if by_ = some r.core then s
    else
      let s := if (s.coreAt r.core).l1.any fun l => l.owned && l.line == line then s.meetFor ctx 5 r.core (64 * line) 64 else s
      let (h, rest) := r.halves line s.cycle
      let others := s.regions.filter (· != r) ++ rest
      if take then ({ s with regions := others }).loseLines r.core h
      else { s with regions := others ++ [h] }

/-- Ownership of a line is granted to a core or service core: the region about it, if none is tracked there yet, is 64 KiB, else the line (R190). -/
def State.grantLine (s : State) (line : Nat) (c : Coord) (ctx : Option CtxId := none) : State :=
  if s.lineOwner line = some c then s
  else
    let half := (s.regions.find? (·.covers line)).map fun r => (r.halves line s.cycle).1
    let s := s.requestLine line (some c) true ctx
    let r : Region := match half with
      | some h => { h with core := c, since := s.cycle }
      | none =>
        let base := line / 1024 * 1024
        if s.regions.any fun r => r.base < base + 1024 && base < r.base + 2 ^ r.lg then
          { base := line, lg := 0, core := c, since := s.cycle }
        else { base, lg := 10, core := c, since := s.cycle }
    { s with regions := s.regions ++ [r] }

/-- A core's copy of a line, of one context. -/
def Core.l1Find (k : Core) (ctx : CtxId) (line : Nat) : Option L1Line := k.l1.find? fun l => l.line == line && l.ctx == ctx

/-- A list with the entry at a place removed. -/
def dropAt {α : Type} (l : List α) (k : Nat) : List α := l.take k ++ l.drop (k + 1)

/-- Room for one more among `n` places: a full list gives up one of its entries, which of them is open. -/
def makeRoom {α : Type} (n now addr : Nat) (l : List α) : List α :=
  if l.length < n then l else dropAt l (Config.evict now addr % l.length)

/-- Lines of an L1 cache, of data and of instructions: 64 KiB (R19). -/
def l1Lines : Nat := 1024

/-- A core's copy of a line replaced or put in, where a full cache gives up another line, whose changed words reach their home (R19, R189). -/
def State.l1Put (s : State) (c : Coord) (l : L1Line) : State :=
  let rest := (s.coreAt c).l1.filter fun x => !(x.line == l.line && x.ctx == l.ctx)
  if rest.length < l1Lines then s.modCore c fun k => { k with l1 := rest ++ [l] }
  else
    let i := Config.evict s.fresh l.line % rest.length
    (((rest[i]?).toList.filter (·.owned)).foldl (·.writeHome c) s).modCore c fun k => { k with l1 := dropAt rest i ++ [l] }

/-- Every copy of a line on a core dropped. -/
def Core.l1Drop (k : Core) (line : Nat) : Core := { k with l1 := k.l1.filter fun x => x.line != line }

/-- A core's copies of a line dropped, where it has any. -/
def State.dropCopies (s : State) (c : Coord) (line : Nat) : State :=
  if (s.coreAt c).l1.any (·.line == line) then s.modCore c (·.l1Drop line) else s

/-- A host line comes into the device; its bytes are the host's until then (R348, R204). -/
def State.fetchHost (s : State) (line : Nat) : State :=
  if s.hostLines.contains line then s
  else
    let bs := (List.range 64).map fun i => Config.hostByte s.fresh (64 * line + i)
    { s.putBytes (64 * line) bs with hostLines := s.hostLines ++ [line] }

/-- The link to the host whose memory an address names has failed: a read of that memory answers ones, whatever the device caches of it (R31, R400). -/
def State.hostDown (s : State) (pa : Nat) : Bool :=
  s.viral.on && s.viral.down.contains (.host, BitVec.ofNat 5 (Config.hostPort (pa / 2 ^ 46 % 16) % 4))

/-- The link to the peer whose memory an address names has failed: a load there answers ones (R399, R400). -/
def State.podDown (s : State) (pa : Nat) : Bool :=
  s.viral.on && s.viral.down.any (·.1 == .pod) && !Config.linkAnswers s.fresh (pa / 2 ^ 43 % 256)

/-- The core or service core whose L1 an access comes through (R25). -/
def Access.unit (a : Access) : Coord := if a.svc then svcUnit a.sunit else a.core

/-- The access may be performed in its L1: TRK, and host memory, which behaves as TRK (R189, R202, R204); a copy channel, the ALU of a home and the
hardware's own reads go past it (R187, R197). -/
def Access.cached (a : Access) : Bool := (a.cls == .trk || a.cls == .host) && !a.bypass

/-- A load is satisfied by the not-owned copy of the issuing core's L1 (R189); LD.ACQ never is (R207). -/
def State.staleHit (s : State) (a : Access) : Option L1Line :=
  if a.cached && !a.fresh && s.lineOwner (a.pa / 64) != some a.unit then
    match (s.coreAt a.unit).l1Find a.ctx (a.pa / 64) with
    | some l => if Config.stillCached s.fresh (a.pa / 64) then some l else none
    | none => none
  else none

/-- The L1 holds the line of an access as owned (R189). -/
def State.ownedHit (s : State) (a : Access) : Bool :=
  a.cached && s.lineOwner (a.pa / 64) == some a.unit && ((s.coreAt a.unit).l1Find a.ctx (a.pa / 64)).any (·.owned)

/-! ## What the hardware itself reads and writes (R32, R347, R383, R388)

Images, rosters, records, templates, tables and program text: line by line at their home slices, and a core that owns a line gives it up first. -/

/-- The parts of a range of bytes, line by line: address and length. -/
def lineParts (pa n : Nat) : List (Nat × Nat) :=
  if n = 0 then []
  else (List.range ((pa + n - 1) / 64 - pa / 64 + 1)).map fun i =>
    let a := max pa (64 * (pa / 64 + i))
    (a, min (pa + n) (64 * (pa / 64 + i + 1)) - a)

/-- The lines of a range are asked for at their homes, so that no core owns one (R202). -/
def State.recallLines (s : State) (ctx : Option CtxId) (pa n : Nat) : State :=
  if s.regions.isEmpty then s else (lineParts pa n).foldl (fun s r => s.requestLine (r.1 / 64) none true ctx) s

/-- The hardware reads a range of bytes of a partition's memory, which a placement spreads over the slices, on behalf of a context or of none. -/
def State.unitRead (s : State) (part : Nat) (pl : Placement) (ctx : Option CtxId) (pa n : Nat) : State :=
  let s := s.recallLines ctx pa n
  s.slices ((lineParts pa n).foldl (fun s r => s.sliceLook (s.homeSlice part pl r.1) r.1 r.2 ctx) s)

/-- The slices take the hardware's write of a range of bytes of a partition's memory. -/
def State.unitPut (s : State) (part : Nat) (pl : Placement) (ctx : Option CtxId) (pa n : Nat) : State :=
  let s := s.recallLines ctx pa n
  s.slices ((lineParts pa n).foldl (fun s r => s.slicePut (s.homeSlice part pl r.1) r.1 r.2 ctx) s)

/-- The hardware writes a range of bytes of a partition's memory. -/
def State.unitWrite (s : State) (part : Nat) (pl : Placement) (ctx : Option CtxId) (pa : Nat) (bs : List Byte) : State :=
  (s.unitPut part pl ctx pa bs.length).putBytes pa bs

/-- A record that the hardware keeps of a context in its partition's memory is written (R383, R388). -/
def State.putRecordBytes (s : State) (ctx : CtxId) (pa : Nat) (bs : List Byte) : State := s.unitWrite (s.partOf ctx) .hall none pa bs

/-- A record that the hardware keeps of a context is read. -/
def State.readRecord (s : State) (ctx : CtxId) (pa n : Nat) : State := s.unitRead (s.partOf ctx) .hall none pa n

/-! ## Reads and writes of lines (R189, R190, R202) -/

/-- A read of a line that an L1 may keep: by its not-owned copy, its owned line, or the home, which leaves a copy; a read past the L1s recalls the
line first (R189, R190, R202). -/
def State.readLine (s : State) (a : Access) : List Byte × State :=
  let line := a.pa / 64
  let check (s : State) : State := s.sliceRead a.home a.pa a.n a.ctx 1
  if a.bypass then (s.bytes a.pa a.n, check (s.requestLine line none true (some a.ctx)))
  else match s.staleHit a with
    | some l => ((l.bytes.drop (a.pa % 64)).take a.n, s)
    | none =>
      if s.ownedHit a then (s.bytes a.pa a.n, s.meetErrors 5 a.unit a.pa a.n a.ctx 1)
      else
        let s' := s.requestLine line (some a.unit) false (some a.ctx)
        let new : L1Line := {
          line, ctx := a.ctx, owned := s.lineOwner line == some a.unit, bytes := s.bytes (64 * line) 64, home := a.home }
        (s.bytes a.pa a.n, check (s'.l1Put a.unit new))

/-- A read is performed: its bytes, and the state with what the read leaves in caches (R189, R202) and what it finds wrong (R397). A not-owned
copy that meets an error is refetched (R395). -/
def State.readAt (s : State) (a : Access) : List Byte × State :=
  let line := a.pa / 64
  let check (s : State) : State := s.sliceRead a.home a.pa a.n a.ctx 1
  match a.cls with
  | .trk => s.readLine a
  | .unt => (s.bytes a.pa a.n, check ((s.requestLine line none true (some a.ctx)).dropCopies a.unit line))
  | .host => if s.hostDown a.pa then (List.replicate a.n 0xFF, s) else (s.fetchHost line).readLine a
  | .pod =>
    if s.podDown a.pa then (List.replicate a.n 0xFF, s)
    else ((List.range a.n).map fun i => Config.podByte s.fresh (a.pa + i), s)
  | .acc | .det => (s.bytes a.pa a.n, check s)
  | _ => (s.bytes a.pa a.n, s)

/-- Bytes of a DET word are written, and its identity record with them (R173). -/
def State.putDet (s : State) (pa : Nat) (bs : List Byte) (w : Nat) (id : BitVec 32) : State :=
  State.mend { s.putBytes pa bs with detRec := Tab.set s.detRec w id } 2 0 (metaLoc + 8 * w) 8

/-- StoreDET: the bytes of each aligned 8-byte word are written or dropped by its identity record (R173). -/
def State.storeDet (s : State) (pa : Nat) (bs : List Byte) (id : BitVec 32) : Nat → State
  | 0 => s
  | fuel + 1 =>
    if bs = [] then s
    else
      let w := pa / 8
      let k := 8 * (w + 1) - pa
      let s := match Tab.find s.detRec w with
        | some r => if r ≤ id then s.putDet pa (bs.take k) w id else s
        | none => s.putDet pa (bs.take k) w id
      s.storeDet (8 * (w + 1)) (bs.drop k) id fuel

/-- The core's copy of the line of a store as it is after it: owned, with the words that it has changed (R190). -/
def State.ownLine (s : State) (a : Access) : L1Line :=
  let line := a.pa / 64
  let old := match (s.coreAt a.unit).l1Find a.ctx line with
    | some l => if l.owned then l.dirty else 0
    | none => 0
  { line, ctx := a.ctx, owned := true, bytes := [], home := a.home, dirty := old ||| wordMask a.pa a.n }

/-- A write of a line that an L1 may hold: the core takes ownership and the store goes into its L1; a write past the L1s recalls the line first, and
the core for which it is made keeps no older copy (R188, R190, R197). -/
def State.writeLine (s : State) (a : Access) (bs : List Byte) : State :=
  let line := a.pa / 64
  if a.bypass then
    (((s.requestLine line none true (some a.ctx)).putBytes a.pa bs).dropCopies a.unit line).sliceWrite a.home a.pa a.n a.ctx 1
  else
    let own := s.ownLine a
    let s := if s.ownedHit a || 64 ≤ a.n then s else s.sliceRead a.home (64 * line) 64 a.ctx 1
    (((s.grantLine line a.unit (some a.ctx)).putBytes a.pa bs).mend 5 a.unit a.pa a.n).l1Put a.unit own

/-- A write is performed (R190, R202). -/
def State.writeAt (s : State) (a : Access) (bs : List Byte) : State :=
  let line := a.pa / 64
  let fill (s : State) : State := s.sliceWrite a.home a.pa a.n a.ctx 1
  match a.cls with
  | .trk => s.writeLine a bs
  | .unt => fill (((s.requestLine line none true (some a.ctx)).putBytes a.pa bs).dropCopies a.unit line)
  | .det => fill ((s.meetErrors 2 a.home (metaLoc + a.pa) a.n a.ctx 1).storeDet a.pa bs a.detid (bs.length + 1))
  | .host =>
    let s := (s.fetchHost line).writeLine a bs
    if s.hostDirty.any (·.1 == line) then s else { s with hostDirty := s.hostDirty ++ [(line, a.ctx)] }
  | .pod => s
  | .caddy | .config => s.putBytes a.pa bs
  | .acc => fill (s.putBytes a.pa bs)

/-! ## Counted operations -/

/-- An operation of a thread completes: its counter falls by `n`, in the register or, when the thread is stopped, in its image
(R48, R385). A thread that waits on counters tries again (R243); one that has ended has none. -/
def State.countDown (s : State) (t : Nat) (c : Ctr) (n : Nat) : State :=
  if (Tab.find s.threads t).isNone then s
  else
    let s := match (s.thread t).imagePa with
      | some pa => s.putRecordBytes (s.thread t).ctx (pa + c.imageOff) [BitVec.ofNat 8 ((s.byte (pa + c.imageOff)).toNat - n)]
      | none => s
    let s := s.modThread t fun x => x.setCtr c (x.ctr c - n)
    if (s.thread t).park = some .counters then s.wakeThread t else s

/-- A new identifier. -/
def State.newId (s : State) : Nat × State := (s.nextId, { s with nextId := s.nextId + 1 })

/-- A group of `left` parts that counts once for each of its threads. -/
def State.newGroup (s : State) (ctr : Ctr) (threads : List Nat) (left : Nat) : Nat × State :=
  (s.nextId, { s with nextId := s.nextId + 1, groups := Tab.set s.groups s.nextId { left, ctr, threads } })

/-- Parts of a group are acknowledged; with the last, its counter falls at each of its threads. -/
def State.groupAck (s : State) (id n : Nat) : State :=
  match Tab.find s.groups id with
  | none => s
  | some g =>
    if g.left ≤ n then
      let s := g.threads.foldl (fun s t => s.countDown t g.ctr 1) { s with groups := Tab.erase s.groups id }
      match g.pour with
      | some (ctx, num) => s.modLive ctx num (· - 1)
      | none => s
    else { s with groups := Tab.set s.groups id { g with left := g.left - n } }

/-- The counter has room for `n` more; otherwise the instruction does not issue yet (R48). -/
def roomFor (s : State) (c : Ctr) (n : Nat) : Except Stop Unit :=
  if s.self.ctr c + n ≤ 63 then .ok () else .error .later

/-! ## Caddies (R49 to R51, R153, R389) -/

/-- The rights of a caddy window. -/
inductive Right where
  | rd | wr | at | cp
  deriving DecidableEq, Repr

/-- The core save area of a context for a core (R388). -/
def State.saveArea (s : State) (ctx : CtxId) (c : Coord) : Nat :=
  (s.ctxField ctx 0x20).toNat + (s.ctxField ctx 0x28).toNat * unitOf c

/-- The key of a byte of a context's caddy on a core: the caddy, or its image in the core save area while it is switched out (R389). -/
def State.caddyAt (s : State) (ctx : CtxId) (c : Coord) (off : Nat) : Nat :=
  if (s.coreAt c).savedCaddy.contains ctx then s.saveArea ctx c + 0x400 + off
  else caddyKey c off

/-- A window's range and access words, the saved ones while the caddy is switched out (R389). -/
def State.window (s : State) (ctx : CtxId) (c : Coord) (w : Nat) : Word × Word :=
  if (s.coreAt c).savedCaddy.contains ctx then
    let a := s.saveArea ctx c + 0x40 + 16 * w
    (s.word a, s.word (a + 8))
  else ((s.coreAt c).winRange[w]?.getD 0, (s.coreAt c).winAccess[w]?.getD 0)

/-- One window permits an access of `n` bytes at an offset by a requester (R50). -/
def windowOk (rg ac : Word) (off n : Nat) (req : Coord) (svc : Bool) (r : Right) : Bool :=
  rg.getLsbD 63 && Word.field rg 0 12 * 64 ≤ off && off + n ≤ Word.field rg 16 12 * 64 + 64 &&
  (if svc then ac.getLsbD 28
   else Word.field ac 0 4 ≤ packageRow req && packageRow req ≤ Word.field ac 4 4 &&
     Word.field ac 8 5 ≤ packageCol req && packageCol req ≤ Word.field ac 13 5) &&
  ac.getLsbD (match r with
    | .rd => 24
    | .wr => 25
    | .at => 26
    | .cp => 27)

/-- An access to a caddy is permitted: by a thread of the primary context to its own core's caddy always, otherwise by a single window
of the owner; a requester of another context never (R50, R51). A caddy that is held in its image serves the other cores of the context; on its own
core the context is a secondary one, which is refused (R333, R389). -/
def State.caddyOk (s : State) (ctx : CtxId) (req : Coord) (svc : Bool) (c : Coord) (off n : Nat) (r : Right) : Bool :=
  (s.primary ctx c || ((s.coreAt c).savedCaddy.contains ctx && (svc || req != c))) &&
  ((req == c && !svc && s.primary ctx c) ||
    (List.range 8).any fun w => let (rg, ac) := s.window ctx c w; windowOk rg ac off n req svc r)

/-- Entry `i` of a core's convene table. -/
def State.conv (s : State) (c : Coord) (i : Nat) : Option Convene := (s.coreAt c).convene[i]?.getD none

/-- Bytes of a caddy of a context are written: in the caddy, or at the home of its image (R389). -/
def State.putCaddy (s : State) (ctx : CtxId) (c : Coord) (off : Nat) (bs : List Byte) : State :=
  if (s.coreAt c).savedCaddy.contains ctx then s.unitWrite (s.partOf ctx) .hall (some ctx) (s.caddyAt ctx c off) bs
  else (s.putBytes (caddyKey c off) bs).mend 4 c off bs.length

/-- The core rewrites an object (R152, R153). -/
def State.putObject (s : State) (ctx : CtxId) (c : Coord) (off : Nat) (ws : List Word) : State :=
  s.putCaddy ctx c off (ws.flatMap fun w => leBytes 8 w.toNat)

/-- A group without a member and without an unaccepted command: it dissolves (R157). -/
def Convene.over (g : Convene) : Bool := g.present == 0 && g.pending.isNone

/-- What a group that has dissolved leaves of its object: zero but for GEN, which advances (R157). -/
def State.clearObject (s : State) (c : Coord) (g : Convene) : State :=
  s.putObject g.ctx c g.off (BitVec.ofNat 64 ((g.gen + 1).toNat * 2 ^ 16) :: List.replicate 7 0)

/-- A group with no member and no unaccepted command dissolves: its object is zero but for GEN, which advances, and a lease that it holds ends with it
(R157; log entry 68). -/
def State.dissolve (s : State) (c : Coord) (i : Nat) : State :=
  match s.conv c i with
  | none => s
  | some g =>
    if g.over then
      let s := s.modCore c fun k => { k with
        convene := k.convene.setIfInBounds i none
        engine := if k.engine.holder == some i then { k.engine with holder := none, idle := 0 } else k.engine }
      s.clearObject c g
    else s

/-- A write has reached the 64 bytes of a live convene object, in the table or saved with its context: the group is broken, and its pending command
is discarded (R153, R160), with which a group without members dissolves (R157). The bytes stay as they are written until the core rewrites the object
(DESIGN CHOICE, log entry 69). -/
def State.breakConvene (s : State) (ctx : CtxId) (c : Coord) (off n : Nat) : State :=
  let hit (g : Convene) : Bool := g.ctx == ctx && g.off < off + n && off < g.off + 64
  let k := s.coreAt c
  let gs := (k.convene.toList.filterMap id ++ k.savedConv).filter hit
  if gs.isEmpty then s
  else
    let brk (g : Convene) : Convene := if hit g then { g with broken := true, pending := none, issued := 0 } else g
    let saved := k.savedConv.map brk
    let s := s.setCore c { k with convene := k.convene.map (Option.map brk), savedConv := saved.filter fun g => !(hit g && g.over) }
    let s := (gs.filterMap (·.pending)).foldl (fun s cmd => s.groupAck cmd.group 16) s
    let s := (List.range 8).foldl (fun s i => if (s.conv c i).any hit then s.dissolve c i else s) s
    (saved.filter fun g => hit g && g.over).foldl (fun s g => s.clearObject c g) s

/-- Software's write to a caddy of its context (R153, R389). -/
def State.caddyWrite (s : State) (ctx : CtxId) (c : Coord) (off : Nat) (bs : List Byte) : State :=
  (s.putCaddy ctx c off bs).breakConvene ctx c off bs.length

/-- A read of `n` bytes of a caddy of a context meets the errors that stand there: in the caddy, or at the home of its image (R389, R397). -/
def State.meetCaddy (s : State) (ctx : CtxId) (c : Coord) (off n : Nat) (kind : Nat) : State :=
  if (s.coreAt c).savedCaddy.contains ctx then s.unitRead (s.partOf ctx) .hall (some ctx) (s.caddyAt ctx c off) n
  else s.meetErrors 4 c off n ctx kind

/-- The bytes that a read of a caddy of a context gives. -/
def State.caddyRead (s : State) (ctx : CtxId) (c : Coord) (off n : Nat) : List Byte := s.bytes (s.caddyAt ctx c off) n

/-- A core's caddy is zeroed: no error stands there any more (R397). -/
def State.clearCaddy (s : State) (c : Coord) : State :=
  State.mend { s with mem := Memory.clear s.mem (caddyKey c 0) (caddyKey c 0 + 2 ^ 18) } 4 c 0 (2 ^ 18)

/-! ## The configuration space (R353, R354) -/

/-- A refused store to a block (R354). -/
def State.refuseCfg (s : State) (p : Nat) : State :=
  s.modPart p fun b => { b with refusals := if b.refusals = BitVec.allOnes 32 then b.refusals else b.refusals + 1 }

/-- The partition whose configuration block holds an address of the configuration space (R353). -/
def cfgBlock (pa : Nat) : Option Nat :=
  if 0x10010000000 ≤ pa && pa < 0x10010000000 + 0x100000 * 64 then some ((pa - 0x10010000000) / 0x100000) else none

/-- An access to the configuration space that is not an aligned 8-byte load or store: a refused store where it names a block (R353). -/
def State.cfgMisuse (s : State) (pa : Nat) : State :=
  match cfgBlock pa with
  | some p => s.refuseCfg p
  | none => s

/-! ## Pending asynchronous traps (R209, R210, R386) -/

/-- A refused store, issued at `seq`, joins the thread's pending refusal, which names the oldest of them; two parts of one store are one refused store,
which its lower address names (R209, R386). The two stores of a VQNT are told apart by their groups (R132). -/
def Thread.addRefusal (t : Thread) (cause : Nat) (va : Word) (seq group now : Nat) : Thread :=
  let new := va &&& 0x1FFFFFFFFFFFFFF
  { t with refusal := some (match t.refusal with
      | none => { cause, val := new, since := now, seq, group }
      | some p =>
        if seq = p.seq && group = p.group then { p with val := if new.toNat < Word.field p.val 0 57 then new ||| (p.val &&& BitVec.twoPow 64 63) else p.val }
        else if seq < p.seq || (seq = p.seq && group < p.group) then
          { p with cause := cause, val := new ||| BitVec.twoPow 64 63, seq := seq, group := group }
        else { p with val := p.val ||| BitVec.twoPow 64 63 }) }

/-- A faulted copy joins the thread's pending COPY_FAULT (R231). -/
def Thread.addCopyFault (t : Thread) (va : Word) (now : Nat) : Thread :=
  { t with copyFault := some (match t.copyFault with
      | none => { cause := cCOPYFAULT, val := va &&& 0x1FFFFFFFFFFFFFF, since := now }
      | some p => { p with val := p.val ||| BitVec.twoPow 64 63 }) }

/-- A discarded send, issued at `seq`, joins the thread's pending MSG_GONE, which names the oldest of them (R280). -/
def Thread.addGone (t : Thread) (rank : BitVec 16) (seq now : Nat) : Thread :=
  { t with msgGone := some (match t.msgGone with
      | none => { cause := cGONE, val := rank.setWidth 64, since := now, seq }
      | some p =>
        if seq < p.seq then { p with val := rank.setWidth 64 ||| BitVec.twoPow 64 63, seq := seq }
        else { p with val := p.val ||| BitVec.twoPow 64 63 }) }

/-- Words 1 to 4 of a thread's roster entry: its queue, its park state, whether it stands on a service core, and its pending traps with their
values (R388). -/
def Thread.rosterWords (t : Thread) (parked away : Bool) : List Word :=
  let bit (b : Bool) (n : Nat) : Nat := if b then 2 ^ n else 0
  let val (p : Option Pend) : Word := (p.map (·.val)).getD 0
  [BitVec.ofNat 64 (t.queue % 512 + bit parked 9 + bit away 10 + bit t.refusal.isSome 11 +
      bit (t.refusal.any (·.cause == cPOD)) 12 + bit t.copyFault.isSome 13 + bit t.msgGone.isSome 14),
    val t.refusal, val t.copyFault, val t.msgGone]

/-- A trap becomes pending at a thread, in its roster entry too while it is stopped (R385). A thread that has ended takes none. -/
def State.pend (s : State) (t : Nat) (f : Thread → Thread) : State :=
  if (Tab.find s.threads t).isNone then s
  else
    let s := s.modThread t f
    let x := s.thread t
    match x.rosterPa with
    | some a =>
      let w := s.word (a + 8)
      s.putRecordBytes x.ctx (a + 8) ((x.rosterWords (w.getLsbD 9) (w.getLsbD 10)).flatMap fun w => leBytes 8 w.toNat)
    | none => s

/-- The first of the pending traps due at a point that delivers the named kinds, with the thread without it (R386). -/
def Thread.firstPending (t : Thread) (st cp ms : Bool) : Option (Pend × Thread) :=
  match t.refusal, t.copyFault, t.msgGone with
  | some p, c, m =>
    if st then some (p, { t with refusal := none })
    else match c, m with
      | some p, m => if cp then some (p, { t with copyFault := none }) else
          (match m with
            | some p => if ms then some (p, { t with msgGone := none }) else none
            | none => none)
      | none, some p => if ms then some (p, { t with msgGone := none }) else none
      | none, none => none
  | none, some p, m =>
    if cp then some (p, { t with copyFault := none })
    else match m with
      | some p => if ms then some (p, { t with msgGone := none }) else none
      | none => none
  | none, none, some p => if ms then some (p, { t with msgGone := none }) else none
  | none, none, none => none

/-- A pending trap is due: its 4,096 core cycles have passed, or the thread has been stopped with it (R210, R386). -/
def Pend.ripe (p : Pend) (now : Nat) : Bool := p.due || p.since + 4096 ≤ now

/-- The first of a thread's pending traps that is due at an instruction boundary, with the thread without it (R210, R386). -/
def Thread.duePending (t : Thread) (now : Nat) : Option (Pend × Thread) :=
  let ripe (p : Option Pend) : Bool := p.any (·.ripe now)
  t.firstPending (ripe t.refusal) (ripe t.copyFault) (ripe t.msgGone)

/-- A wait that is a delivery point: a pending trap is taken instead of completing, at once when the instruction issues with it, or at
the end of the wait (R210). `done` says that the wait is over; `park` that a waiting thread parks. -/
def deliveryWait (s : State) (st cp ms done : Bool) (park : Option Park) : Except Stop Unit :=
  match (if done || !s.self.stalled then s.self.firstPending st cp ms else none) with
  | some (p, t) => .error (.deliverPending p (s.setThread s.cur t))
  | none => if done then .ok () else .error (.wait park s)

/-! ## Releases, acquires and counter waits -/

/-- A write of the context to host memory is still on its way or held (R204, R400). -/
def State.hostWritesOut (s : State) (ctx : CtxId) : Bool :=
  (s.net.any fun p => match p with
    | .store a _ | .atomic a _ _ _ _ | .discard a => a.ctx == ctx && a.cls == .host
    | .drainRow _ _ _ es sc => (es ++ sc).any fun a => a.ctx == ctx && a.cls == .host
    | _ => false) ||
  s.viral.held.any fun h => h.ctx == ctx && isHost h.pa

/-- The wait of a release at a scope, a delivery point for a pending refusal (R191, R204, R210). -/
def releaseWait (s : State) (scope : Nat) : Except Stop Unit :=
  deliveryWait s true false false (s.self.loads.isEmpty && s.self.st == 0 && !(scope == 5 && s.hostWritesOut s.self.ctx)) none

/-- The acquire of a thread on a core at a scope: at CLUS or wider the core's not-owned lines go (R192). -/
def State.acquire (s : State) (c : Coord) (scope : Nat) : State :=
  if scope = 0 then s else s.modCore c fun k => { k with l1 := k.l1.filter (·.owned) }

/-- The acquire of the executing thread. -/
def State.acquireSelf (s : State) (scope : Nat) : State := s.acquire s.self.unit scope

/-- The wait until all five counters are zero, a delivery point for all three kinds (R46, R210, R280). -/
def counterWait (s : State) : Except Stop Unit :=
  deliveryWait s true true true (s.self.drained && s.self.loads.isEmpty) none

/-! ## Order on the way (R188, R191, R195) -/

/-- The accesses that a packet still has to perform. -/
def Packet.accesses : Packet → List Access
  | .load a => [a]
  | .store a _ => [a]
  | .discard a => [{ a with n := 64 }]
  | .atomic a _ _ _ _ => [a]
  | .accInit a _ _ => [{ a with n := 64 }]
  | .detNext a _ => [a]
  | .drainRow ls _ _ es sc => ls ++ es ++ sc
  | _ => []

/-- A plain load or store: those that R195 orders; DET stores travel on another plane. -/
def Packet.plain : Packet → Option Access
  | .load a => some a
  | .store a _ => if a.cls == .det then none else some a
  | _ => none

/-- Two accesses touch one aligned 8-byte word at one home; through different homes they are unordered (R188, R344). -/
def sameWord (a b : Access) : Bool := a.home == b.home && a.pa / 8 ≤ (b.pa + b.n - 1) / 8 && b.pa / 8 ≤ (a.pa + a.n - 1) / 8

/-- The access is served by the issuing core's own L1 (R189, R195). -/
def State.local_ (s : State) (a : Access) (isLoad : Bool) : Bool := s.ownedHit a || (isLoad && (s.staleHit a).isSome)

/-- A packet is a load. -/
def Packet.isLoad : Packet → Bool
  | .load _ => true
  | _ => false

/-- The thread whose MSG.APP.REL or MSG.TRY.REL has not been appended yet: the append is its release, in a context of its own (R191, R200, R288). -/
def Packet.releases : Packet → Option Nat
  | .send m | .held m => if m.hdr.getLsbD 20 && m.kind != 2 && m.sctx == m.ctx then some m.thread else none
  | .sendReply m st => if st == 1 && m.blocking && m.hdr.getLsbD 20 && m.kind != 2 && m.sctx == m.ctx then some m.thread else none
  | _ => none

/-- An older packet of the same thread holds a younger one back: a word that both touch, the own write of a release, a release that is still to be
appended, or the order of plain accesses at one home, from which a younger one that its core's own L1 serves at once is free (R188, R191, R195). Two
rows of a DRAIN that touch one word are performed in their order, so that a byte of both holds the later row's: R179 leaves open which (DESIGN CHOICE,
log entry 87). -/
def State.holdsBack (s : State) (old young : Packet) : Bool :=
  (young.accesses.any fun b => old.releases == some b.thread) || (old.accesses.any fun a => young.accesses.any fun b => a.thread == b.thread && (a.rel || sameWord a b)) ||
    (match old.plain, young.plain with
      | some a, some b =>
        a.thread == b.thread && a.home == b.home && (a.cls == .caddy) == (b.cls == .caddy) && !s.local_ b young.isLoad
      | _, _ => false)

/-- The slices and caddies of a sleeping partition serve no access (R368). -/
def State.homeAsleep (s : State) (c : Coord) : Bool := s.parts.any fun e => e.2.asleep && s.coreIn e.1 c

/-- The place of an access does not serve it: it lies in a partition that sleeps. Configuration space, and the memory of peers, lie in none (R335,
R368). -/
def State.placeAsleep (s : State) (a : Access) : Bool := s.homeAsleep a.home && a.cls != .config && a.cls != .pod

/-- The line of a RED.V and an access of the thread that issued it touch one line, and the RED.V was issued first, or, with `later`, the access was
(R188). -/
def RedLine.meets (r : RedLine) (a : Access) (later : Bool) : Bool :=
  r.home == a.home && r.pa / 64 == a.pa / 64 && r.by_.any fun t => t.1 == a.thread && (if later then a.seq < t.2 else t.2 < a.seq)

/-- The RED.V lines that have not been applied: on their way, parked, or held in a retry store. -/
def State.redsOut (s : State) : List RedLine :=
  (s.net.filterMap fun p => match p with
    | .red r => some r
    | _ => none) ++ s.parks ++ s.cores.flatMap (·.2.retry)

/-- Program order of one thread between a RED.V and its other accesses to the line: a load or store waits until an older RED.V is applied, a RED.V until
every older access is performed, and what travels with it on the reduction plane does not pass it there (R188, R195). A load or store of a context that
halts or leaves the core, of which no line is applied any more, does not wait (DESIGN CHOICE, log entry 88). -/
def State.redWaits (s : State) (k : Nat) (p : Packet) : Bool :=
  match p with
  | .red r => s.net.any fun o => o.accesses.any fun a => r.meets a true
  | .load a | .store a _ => !s.halted a.ctx && !s.switching a.ctx a.core false && s.redsOut.any fun r => r.meets a false
  | _ => (s.net.take k).any fun o => match o with
    | .red r => p.accesses.any fun a => r.meets a false
    | _ => false

/-- The packet at place `k` may be performed now. -/
def State.ready (s : State) (k : Nat) : Bool :=
  match s.net[k]? with
  | none => false
  | some p => !((s.net.take k).any fun o => s.holdsBack o p) && !(p.accesses.any s.placeAsleep) && !s.redWaits k p

/-- The own write of a release of the executing thread is still on its way: what the thread does in another way has to wait for it (R191). -/
def relGate (s : State) : Except Stop Unit :=
  if s.net.any fun p => p.releases == some s.cur || p.accesses.any fun a => a.rel && a.thread == s.cur then .error .later else .ok ()

/-! ## The reads of a walk (R347) -/

/-- The ownership check lets a walk read an entry of a table (R336, R342). -/
def State.mayReadEntry (s : State) (part pl ea : Nat) : Bool :=
  isHbm ea && (match s.ownerCheck part pl ea with
    | .ok _ => true
    | .error _ => false)

/-- The entries that a stage-2 walk reads (R342). -/
def State.s2Reads (s : State) (part pl : Nat) (ipa ta : Nat) : Nat → List Nat
  | 0 => []
  | lvl + 1 =>
    let idx := if lvl = 4 then ipa / 2 ^ 48 % 16 else ipa / 2 ^ (12 + 9 * lvl) % 512
    let ea := ta + 8 * idx
    if !s.mayReadEntry part pl ea then []
    else ea :: (match entryShape (s.word ea) lvl true (s.uniformGroup ea (s.word ea)) with
      | some 0 => s.s2Reads part pl ipa (Word.field (s.word ea) 12 40 * 2 ^ 12) lvl
      | _ => [])

/-- The entries that a walk at a level reads, both stages together; it ends at one that it may not read (R342). -/
def State.walkReads (s : State) (part pl : Nat) (s2en : Bool) (va : Word) (ta : Nat) : Nat → List Nat
  | 0 => []
  | lvl + 1 =>
    let root := Word.field ((s.part part).field 0x10) 12 40 * 2 ^ 12
    let two (ipa : Nat) : List Nat := if s2en then s.s2Reads part pl ipa root 5 else []
    let eipa := ta + 8 * (va.toNat / 2 ^ (12 + 9 * lvl) % 512)
    two eipa ++ (match s.s2 [] part pl false s2en eipa with
      | .error _ => []
      | .ok t =>
        if !t.r || !s.mayReadEntry part pl t.pa then []
        else
          let e := s.word t.pa
          t.pa :: (match entryShape e lvl false (s.uniformGroup t.pa e) with
            | none => []
            | some 0 => s.walkReads part pl s2en va (Word.field e 12 40 * 2 ^ 12) lvl
            | some size => two (Word.field e 12 40 * 2 ^ 12 + va.toNat % size)))

/-- The entries behind an address of a requester's context. -/
def State.tableReads (s : State) (q : Who) (va : Word) : List Nat :=
  match s.slotOf q.ctx with
  | none => []
  | some (p, c) =>
    if Word.field va 57 7 != 0 then []
    else s.walkReads p q.pl (((s.part p).field (slotBase c)).getLsbD 23) va (Word.field ((s.part p).field (slotBase c + 8)) 12 40 * 2 ^ 12) 5

/-- An access to an address walks: it is no caddy address, and no TLB gives its translation. -/
def State.needsWalk (s : State) (q : Who) (va : Word) : Bool := !isCaddy va && !((s.tlbFind q va).isSome && Config.useTlb s.fresh va.toNat)

/-- Entries of translation tables are read as UNT loads at their homes: a core that owns the line of one gives it up first, the line comes to the slice,
and an error in it is met (R22, R347, R397). -/
def State.readEntries (s : State) (q : Who) (es : List Nat) : State :=
  let s := if s.regions.isEmpty then s else es.foldl (fun s ea => s.requestLine (ea / 64) none true (some q.ctx)) s
  s.slices (es.foldl (fun s ea => s.sliceRead (s.homeSlice (s.partOf q.ctx) .hall ea) ea 8 q.ctx 1) s)

/-- The entries that an access to an address reads, if it walks. -/
def State.walkEntries (s : State) (q : Who) (va : Word) : List Nat := if s.needsWalk q va then s.tableReads q va else []

/-- A walk for an access reads its entries (R347). -/
def State.walkTouch (s : State) (q : Who) (va : Word) : State := s.readEntries q (s.walkEntries q va)

/-- The first address of each page that a range of bytes touches, from its own first on. -/
def pagesOf (r : Word × Nat) : List Word :=
  if r.2 = 0 then []
  else (List.range ((r.1.toNat % 4096 + r.2 - 1) / 4096 + 1)).map fun i =>
    if i = 0 then r.1 else BitVec.ofNat 64 ((r.1.toNat / 4096 + i) * 4096)

/-- The walks for a range of bytes, page by page (R205, R347). -/
def State.walkRange (s : State) (q : Who) (r : Word × Nat) : State := s.readEntries q ((pagesOf r).flatMap (s.walkEntries q))

/-- The slices of the partition of a requester sleep, and an access to an address would have to read its tables there (R347, R368). -/
def State.walkAsleep (s : State) (q : Who) (va : Word) : Bool := (s.part (s.partOf q.ctx)).asleep && s.needsWalk q va

/-! ## Issue -/

/-- The pieces of an access of `n` bytes: one for each aligned unit that it touches (R205, R118). -/
def pieces (va : Word) (unit : Nat) : Nat → Nat → List (Word × Nat)
  | _, 0 => []
  | 0, _ => []
  | fuel + 1, n =>
    let k := min n (unit - va.toNat % unit)
    (va, k) :: pieces (va + BitVec.ofNat 64 k) unit fuel (n - k)

/-- The caddy cases over a whole access, before its pieces are located (R49). -/
def State.wholeCaddy (s : State) (q : Who) (va : Word) (n : Nat) : Except Fail Unit :=
  if isCaddy va then do
    let _ ← s.caddyPlace q va n
    pure ()
  else .ok ()

/-- The translation of an address: that of the piece before it where both lie in one page, so that each page is translated once (R205). -/
def State.xlateNext (s : State) (q : Who) (k : Kind) (last : Option Xlat) (va : Word) : Except Fail Xlat :=
  match last with
  | some x => if x.covers q.ctx va then .ok x else s.xlate q va k
  | none => s.xlate q va k

/-- Every piece of an access located, in increasing address order; `last` is the translation of the page before (R205). -/
def State.locateAll (s : State) (q : Who) (k : Kind) (last : Option Xlat) : List (Word × Nat) → Except Fail (List (Word × Nat × Target))
  | [] => .ok []
  | (va, n) :: ps =>
    if isCaddy va then do
      let (c, off) ← s.caddyPlace q va n
      let r ← s.locateAll q k last ps
      pure ((va, n, { pa := caddyKey c off, cls := .caddy, home := c }) :: r)
    else do
      let x ← s.xlateNext q k last va
      let r ← s.locateAll q k (some x) ps
      pure ((va, n, s.targetOf x va) :: r)

/-- Every piece of a range located (R205). -/
def State.locateRange (s : State) (q : Who) (k : Kind) (va : Word) (n unit : Nat) : Except Fail (List (Word × Nat × Target)) := do
  s.wholeCaddy q va n
  s.locateAll q k none (pieces va unit n n)

/-- What is performed as one: a place, its bytes, and how often a counter counts it. -/
structure Unit8 where
  va : Word
  n : Nat
  t : Target
  words : Nat
  deriving DecidableEq, Repr

/-- Two pieces of one access that are performed together: in a caddy, where one window has to hold every byte (R50), in one ACC line, which every
application of a partial precedes or follows whole (R166), in the configuration space and in a peer's memory, where the access is taken or refused
whole (R350, R353). -/
def together (a b : Target) : Bool :=
  a.cls == b.cls && (a.cls == .config || a.cls == .pod || (a.home == b.home && (a.cls == .caddy || (a.cls == .acc && a.pa / 64 == b.pa / 64))))

/-- The pieces of an access with those performed together joined, each counted (R205, R50, R166). -/
def gather : List (Word × Nat × Target) → List Unit8
  | [] => []
  | (va, n, t) :: ps =>
    match gather ps with
    | u :: us => if together t u.t && t.pa + n == u.t.pa then { va, n := n + u.n, t, words := u.words + 1 } :: us else { va, n, t, words := 1 } :: u :: us
    | [] => [{ va, n, t, words := 1 }]

/-- What an access of the executing thread comes to: its pieces located and joined. -/
def State.locateUnits (s : State) (k : Kind) (va : Word) (n unit : Nat) : Except Fail (List Unit8) := do
  let ls ← s.locateRange s.self.who k va n unit
  pure (gather ls)

/-- How often a counter counts the units of an access (R205). -/
def countOf (us : List Unit8) : Nat := us.foldl (fun n u => n + u.words) 0

/-- The access of the executing thread to one piece. -/
def State.accessOf (s : State) (va : Word) (n : Nat) (t : Target) : Access :=
  let x := s.self
  { thread := s.cur, ctx := x.ctx, core := x.core, svc := x.onService.isSome, pl := BitVec.ofNat 2 x.pl, va, pa := t.pa, n,
    cls := t.cls, home := t.home, detid := x.detid.setWidth 32, sunit := x.onService.getD 0, seq := s.fresh }

/-- The access of the executing thread to one unit. -/
def State.accessTo (s : State) (u : Unit8) : Access := { s.accessOf u.va u.n u.t with words := u.words }

/-- A place in the caddy of the executing thread's own core, which it reaches without a window (R50). -/
def State.ownCaddy (s : State) (t : Target) : Bool :=
  t.cls == .caddy && t.home == s.self.core && s.self.onService.isNone && s.primary s.self.ctx s.self.core

/-- What the executing thread does at once to these units waits for its older accesses that are on their way to the same bytes, and for the own
write of a release (R188, R191, R195). -/
def gate (s : State) (us : List Unit8) : Except Stop Unit :=
  if us.any fun u => s.net.any fun o => s.holdsBack o (.load (s.accessTo u)) then .error .later else .ok ()

/-- The offset of a caddy key. -/
def keyOff (k : Nat) : Nat := k % 2 ^ 18

/-- A place whose permission is decided elsewhere, so that the thread waits for the reply (R39). -/
def remoteJudged (t : Target) : Bool := t.cls == .caddy || t.cls == .pod

end Sys2Proof.Machine
end

