-- ==== Sys2Proof/Machine/Image.lean ====
section
/-!
DEFINITION. The context image of a thread, as bytes (02_thread_state.md R43), and its writing and reading when a thread stops and restarts
(21_traps_preemption.md R385, R388, R390), and the register cache (R32).
-/

namespace Sys2Proof.Machine

/-- The bytes of words. -/
def wordBytes (ws : List Word) : List Byte := ws.flatMap fun w => leBytes 8 w.toNat

/-- A list of bytes brought to a length with zeros. -/
def padTo (n : Nat) (bs : List Byte) : List Byte := bs ++ List.replicate (n - bs.length) 0

/-- The image of a thread; reserved bytes are zero (R43). -/
def Thread.imageBytes (t : Thread) : List Byte :=
  let tags := (List.range 16).foldl (fun n i => n + (t.tag[i]?.getD 0).toNat * 16 ^ i) 0
  wordBytes ((0 : Word) :: t.g.toList.drop 1) ++
  (t.v.toList.flatMap fun x => leBytes 16 x.toNat) ++
  leBytes 8 tags ++ [(t.p ||| 1 : Byte), BitVec.ofNat 8 t.ras.length] ++ List.replicate 6 (0 : Byte) ++
  wordBytes [t.pc.setWidth 64, t.status, BitVec.ofNat 64 (t.tid.toNat + t.pour.toNat * 2 ^ 32), t.cnv, 0, 0] ++
  padTo 64 (wordBytes t.ras) ++ wordBytes t.tm.toList ++
  (t.frames.toList.flatMap fun f => wordBytes [f.cause, f.epc, f.val, f.stat]) ++
  [BitVec.ofNat 8 t.ld, BitVec.ofNat 8 t.st, BitVec.ofNat 8 t.cp, BitVec.ofNat 8 t.mx, BitVec.ofNat 8 t.ms, (0 : Byte), 0, 0] ++
  wordBytes [t.fcsr, t.rsp, t.rspb, t.detid, t.lc, t.lbeg, t.lend, t.tvec[0], t.tdeleg[0], t.tvec[1], t.tdeleg[1], 0, 0, 0, 0]

/-- A doubleword of an image. -/
def imgWord (bs : List Byte) (off : Nat) : Word := BitVec.ofNat 64 (leNat ((bs.drop off).take 8))

/-- A byte of an image. -/
def imgByte (bs : List Byte) (off : Nat) : Byte := (bs.drop off).headD 0

/-- A thread with the registers of an image. A format tag from 12 to 15 reads RAW (R36); counters and depth keep to their ranges; reserved and
hard-wired bits read as the spec says (R2, R35, R40, R42, R43, R47, R371). A status that TRET would refuse is not taken (R43); a descriptor is kept
for a slot whose pointer is the same (R37). A pointer with non-zero bits [5:0], which TMLD never leaves, is kept, and its descriptor is fetched from
that address (DESIGN CHOICE, log entry 87). Bit 0 of the saved PC, which the spec gives no meaning, is cleared (DESIGN CHOICE, log entry 88). -/
def Thread.ofImage (t : Thread) (bs : List Byte) : Thread :=
  let w := imgWord bs
  { t with
    g := Vector.ofFn fun i => if i.val = 0 then 0 else w (8 * i.val)
    v := Vector.ofFn fun i => BitVec.ofNat 128 (leNat ((bs.drop (0x100 + 16 * i.val)).take 16))
    tag := Vector.ofFn fun i =>
      let x := Word.field (w 0x200) (4 * i.val) 4
      if 12 ≤ x then 0 else BitVec.ofNat 4 x
    p := imgByte bs 0x208 ||| 1
    ras := (List.range (min 8 (imgByte bs 0x209).toNat)).map fun i => w (0x240 + 8 * i)
    pc := (w 0x210).setWidth 48 &&& ~~~ 1
    status := if t.refusesStatus (w 0x218) then t.status else w 0x218
    tid := (w 0x220).setWidth 32
    pour := BitVec.ofNat 32 (Word.field (w 0x220) 32 32)
    cnv := w 0x228
    tm := Vector.ofFn fun i => w (0x280 + 8 * i.val)
    tmDesc := Vector.ofFn fun i => if t.tm[i] = w (0x280 + 8 * i.val) then t.tmDesc[i] else none
    frames := Vector.ofFn fun i =>
      { cause := w (0x300 + 32 * i.val) &&& 0x8000001FFFFF0FFF, epc := w (0x308 + 32 * i.val) &&& 0xFFFFFFFFFFFF
        val := w (0x310 + 32 * i.val), stat := w (0x318 + 32 * i.val) }
    ld := (imgByte bs 0x380).toNat % 64
    st := (imgByte bs 0x381).toNat % 64
    cp := (imgByte bs 0x382).toNat % 64
    mx := (imgByte bs 0x383).toNat % 64
    ms := (imgByte bs 0x384).toNat % 64
    fcsr := w 0x388 &&& 0x1F7
    rsp := w 0x390 &&& ~~~ 7
    rspb := w 0x398 &&& ~~~ 7
    detid := w 0x3A0 &&& 0xFFFFFFFF
    lc := w 0x3A8
    lbeg := w 0x3B0 &&& 0xFFFFFFFFFFFE
    lend := w 0x3B8 &&& 0x3FFFFFFFFFFFE
    tvec := #v[w 0x3C0, w 0x3D0]
    tdeleg := #v[w 0x3C8, w 0x3D8] }

/-- Who the hardware is when it goes to the image of a thread. -/
def imageWho (x : Thread) : Who := { ctx := x.ctx, core := x.core, svc := true, pl := 3, unit := hwUnit }

/-- The physical address of a thread's image: where it translates for the hardware, at a 1 KiB-aligned address of a page of class TRK whose minimum
level is PL.HYP or higher (R33, R43). An image placed otherwise is not written and not read (log entry 70). -/
def State.imagePlace (s : State) (x : Thread) : Option Nat :=
  match s.walk (imageWho x) x.image .store with
  | .ok e =>
    let pa := (s.targetOf e x.image).pa
    if isHbm pa && x.image.toNat % 1024 == 0 && e.cls == .trk && 2 ≤ e.minpl.toNat then some pa else none
  | .error _ => none

/-- The placement of a thread's image, as its leaf names it (R343). -/
def State.imagePlacement (s : State) (x : Thread) : Placement :=
  match s.walk (imageWho x) x.image .store with
  | .ok e => e.place
  | .error _ => .hall

/-- The walk for a thread's image reads its entries (R347). -/
def State.imageWalk (s : State) (x : Thread) : State := s.walkTouch (imageWho x) x.image

/-- Bytes of the image of a thread, whose place is `a`, are written at their homes: what an eviction writes is written for no context (R32, R397). -/
def State.writeImage (s : State) (x : Thread) (a off : Nat) (bs : List Byte) : State :=
  (s.imageWalk x).unitWrite (s.partOf x.ctx) (s.imagePlacement x) none (a + off) bs

/-- Bytes of the image of a thread are read at their homes, on its behalf (R32, R397). -/
def State.readImage (s : State) (x : Thread) (a off n : Nat) : State :=
  (s.imageWalk x).unitRead (s.partOf x.ctx) (s.imagePlacement x) (some x.ctx) (a + off) n

/-- The register cache of a core gives up lines of a thread's image: an error that stands in one is found and logged, and the bits that come there next
replace it (R32, R397; log entry 41). -/
def State.leaveRegs (s : State) (t : Nat) (x : Thread) (off n : Nat) : State :=
  (s.noticeErrors 4 x.unit (regAt t + off) n).mend 4 x.unit (regAt t + off) n

/-- A stopped thread's image is written (R382, R387), and the thread is in its image. Software that has changed the image of a thread before it is
stopped has it overwritten here (R33, log entry 71). -/
def State.saveImage (s : State) (t : Nat) : State :=
  let x := s.thread t
  let pa := s.imagePlace x
  let s := match pa with
    | some a => (s.leaveRegs t x 0 1024).writeImage x a 0 x.imageBytes
    | none => s
  s.setThread t { x with place := .saved, imagePa := pa, park := none, stalled := false, woken := false, evicted := [] }

/-- The sixteen lines of an image. -/
def imageLines (bs : List Byte) : Tab (List Byte) := (List.range 16).map fun i => (i, (bs.drop (64 * i)).take 64)

/-- A thread that leaves its core as a full thread has its image written back, and its lines, and its descriptors, are fetched where it arrives (R32,
R37, R156). -/
def State.sendImage (s : State) (t : Nat) : State :=
  let x := s.thread t
  match s.imagePlace x with
  | none => s
  | some a =>
    ((s.leaveRegs t x 0 1024).writeImage x a 0 x.imageBytes).setThread t
      { x with fetchMiss := BitVec.allOnes 16, evicted := imageLines x.imageBytes, tmDesc := Vector.replicate 16 none }

/-- A stopped thread's registers come back from its image (R384, R390); its register-cache lines are to be fetched (R32), and its descriptors too
(R37). -/
def State.loadImage (s : State) (t : Nat) : State :=
  let x := s.thread t
  let y := match x.imagePa with
    | some a => x.ofImage (s.bytes a 1024)
    | none => x
  let lines := match x.imagePa with
    | some a => imageLines (s.bytes a 1024)
    | none => []
  let s := match x.imagePa with
    | some a => s.readImage x a 0 1024
    | none => s
  s.setThread t { y with
    imagePa := none, rosterPa := none, tmDesc := Vector.replicate 16 none, fetchMiss := BitVec.allOnes 16, evicted := lines }

/-- The status of the image of a stopped thread, where it refuses it (R43). -/
def State.badStatus (s : State) (t : Nat) : Option Word :=
  match (s.thread t).imagePa with
  | some a => let st := s.word (a + 0x218); if (s.thread t).refusesStatus st then some st else none
  | none => none

/-! ## The register cache (R19, R32) -/

/-- The words of a line of an image in memory that differ from what was written there come into the registers (R32, R33). -/
def Thread.takeLine (x : Thread) (i : Nat) (old new : List Byte) : Thread :=
  let bs := x.imageBytes
  let pick (j : Nat) : List Byte :=
    let part (l : List Byte) : List Byte := (l.drop (8 * j)).take 8
    if part old == part new then part (bs.drop (64 * i)) else part new
  if old == new then x
  else x.ofImage (bs.take (64 * i) ++ (List.range 8).flatMap pick ++ bs.drop (64 * i + 64))

/-- A line of a thread's image leaves the register cache: it is written back, and a later use fetches it (R32). An image without a place is kept as it was
when its line left (log entry 70). -/
def State.evictLine (s : State) (t i : Nat) : State :=
  let x := s.thread t
  let bs := (x.imageBytes.drop (64 * i)).take 64
  let s := s.leaveRegs t x (64 * i) 64
  let s := match s.imagePlace x with
    | none => s
    | some a => s.writeImage x a (64 * i) bs
  s.setThread t { x with fetchMiss := x.fetchMiss ||| BitVec.twoPow 16 i, evicted := Tab.set x.evicted i bs }

/-- A thread stands on a core and has register-cache lines there. -/
def Thread.warm (x : Thread) : Bool :=
  match x.place with
  | .slot _ | .waiting | .parkedOut => true
  | _ => false

/-- The lines of a core's register cache that are in use, by thread and line. -/
def State.cachedLines (s : State) (c : Coord) : List (Nat × Nat) :=
  (s.threads.filter fun e => e.2.core == c && e.2.warm).flatMap fun e =>
    ((List.range 16).filter fun i => !e.2.fetchMiss.getLsbD i).map fun i => (e.1, i)

/-- Lines leave the register cache of a core until it holds no more than `room`: 128 images, less what is to come (R19, R32). -/
def State.trimCache (s : State) (c : Coord) (room : Nat) : Nat → State
  | 0 => s
  | n + 1 =>
    let ls := s.cachedLines c
    if ls.length ≤ room then s
    else match ls[Config.evict s.fresh (n + 1) % max 1 ls.length]? with
      | some l => (s.evictLine l.1 l.2).trimCache c room n
      | none => s

/-- The lines of 128 images (R19, R32). -/
def cacheLines : Nat := 2048

/-- A line of an image arrives in the register cache (R32). -/
def registerCacheFill (s : State) (t : Nat) (line : Nat) : State :=
  let x := s.thread t
  if (Tab.find s.threads t).isNone || !x.fetchMiss.getLsbD line then s
  else
    let s := if x.warm then s.trimCache x.core (cacheLines - 1) 1 else s
    let x := s.thread t
    let new := match s.imagePlace x with
      | some a => s.bytes (a + 64 * line) 64
      | none => Tab.get x.evicted [] line
    let s := (match s.imagePlace x with
      | some a => s.readImage x a (64 * line) 64
      | none => s).mend 4 x.unit (regAt t + 64 * line) 64
    s.setThread t { x.takeLine line (Tab.get x.evicted new line) new with
      fetchMiss := x.fetchMiss &&& ~~~ BitVec.twoPow 16 line, evicted := Tab.erase x.evicted line }

/-- A line of a warm thread's image is evicted, one or another (R32). -/
def registerCacheEvict (s : State) (t : Nat) : State :=
  let i := Config.evict s.fresh t % 16
  if (s.thread t).warm && !(s.thread t).fetchMiss.getLsbD i then s.evictLine t i else s

/-- REGISTER_CACHE_FILL (R32). -/
def execRegisterCacheFill (t : Nat) (line : BitVec 4) (s : State) : Host.Outcome State Fault Refusal :=
  .next (registerCacheFill s t line.toNat)

/-- The image of a thread that begins is built in memory, and its registers come into the register cache (R32, R34). -/
def State.buildImage (s : State) (t : Nat) : State :=
  let x := s.thread t
  let s := match s.imagePlace x with
    | some a => s.writeImage x a 0 x.imageBytes
    | none => s
  (s.mend 4 x.unit (regAt t) 1024).trimCache x.core cacheLines 16

end Sys2Proof.Machine
end

