-- ==== Sys2Proof/Machine/Fp.lean ====
section
/-!
DEFINITION. Numbers (04_number_formats.md R78 to R97): exact values, decoding, the one rounding with its flags, the exact operations, the
estimates' functions, and the block quantisers.
-/

namespace Sys2Proof.Machine

/-- A floating-point element format (R78): exponent bits, fraction bits, bias, whether it has infinities, and whether it has a NaN. -/
structure Fmt where
  x : Nat
  f : Nat
  bias : Nat
  hasInf : Bool
  hasNan : Bool
  deriving DecidableEq, Repr

def fmtF64 : Fmt := { x := 11, f := 52, bias := 1023, hasInf := true, hasNan := true }
def fmtF32 : Fmt := { x := 8, f := 23, bias := 127, hasInf := true, hasNan := true }
def fmtF16 : Fmt := { x := 5, f := 10, bias := 15, hasInf := true, hasNan := true }
def fmtBF16 : Fmt := { x := 8, f := 7, bias := 127, hasInf := true, hasNan := true }
def fmtE4M3 : Fmt := { x := 4, f := 3, bias := 7, hasInf := false, hasNan := true }
def fmtE5M2 : Fmt := { x := 5, f := 2, bias := 15, hasInf := true, hasNan := true }
def fmtE2M3 : Fmt := { x := 2, f := 3, bias := 1, hasInf := false, hasNan := false }
def fmtE3M2 : Fmt := { x := 3, f := 2, bias := 3, hasInf := false, hasNan := false }
def fmtE2M1 : Fmt := { x := 2, f := 1, bias := 1, hasInf := false, hasNan := false }

/-- An exact value: a NaN, signalling or quiet; an infinity; or ±m × 2^e (R79, R80). -/
inductive FVal where
  | nan (sig : Bool)
  | inf (neg : Bool)
  | fin (neg : Bool) (m : Nat) (e : Int)
  deriving DecidableEq, Repr

/-- The exponent of the least significant bit of the smallest subnormal: 1 − bias − F (R79). -/
def Fmt.lsb (k : Fmt) : Int := 1 - (k.bias : Int) - (k.f : Int)

/-- Bits of an encoding. -/
def Fmt.bits (k : Fmt) : Nat := 1 + k.x + k.f

/-- The magnitude code of the max finite value (R78). -/
def Fmt.maxCode (k : Fmt) : Nat :=
  if k.hasInf then (2 ^ k.x - 1) * 2 ^ k.f - 1 else if k.hasNan then 2 ^ (k.x + k.f) - 2 else 2 ^ (k.x + k.f) - 1

/-- Decode (R79). -/
def Fmt.decode (k : Fmt) (b : Nat) : FVal :=
  let s := b / 2 ^ (k.x + k.f) % 2 == 1
  let e := b / 2 ^ k.f % 2 ^ k.x
  let f := b % 2 ^ k.f
  if k.hasInf && e == 2 ^ k.x - 1 then (if f = 0 then .inf s else .nan (f < 2 ^ (k.f - 1)))
  else if k.hasNan && !k.hasInf && e == 2 ^ k.x - 1 && f == 2 ^ k.f - 1 then .nan false
  else if e = 0 then .fin s f k.lsb
  else .fin s (2 ^ k.f + f) (k.lsb + (e - 1 : Nat))

/-- The canonical NaN (R80). -/
def Fmt.nanBits (k : Fmt) : Nat :=
  if k.hasInf then (2 ^ k.x - 1) * 2 ^ k.f + 2 ^ (k.f - 1) else 2 ^ (k.x + k.f) - 1

/-- The sticky flags as bits 8:4 of sr.fcsr, shifted down by 4 (R42). -/
abbrev Flags := BitVec 5

def fNV : Flags := 1
def fDZ : Flags := 2
def fOF : Flags := 4
def fUF : Flags := 8
def fNX : Flags := 16

/-- A flag under a condition. -/
def flagIf (c : Bool) (f : Flags) : Flags := if c then f else 0

/-- The rounding modes of sr.fcsr.RM (R42). -/
inductive RMode where
  | rne | rtz | rdn | rup | rna
  deriving DecidableEq, Repr

/-- The mode that a value of RM names. MTSR refuses the values 5 to 7 (R42); where an image or a debugger has brought one, RNA is taken
(DESIGN CHOICE, log entry 67). -/
def rmOf (n : Nat) : RMode :=
  match n with
  | 0 => .rne
  | 1 => .rtz
  | 2 => .rdn
  | 3 => .rup
  | _ => .rna

/-- m / 2^k rounded to an integer (R82). -/
def roundMag (mode : RMode) (neg : Bool) (m k : Nat) : Nat :=
  let q := m / 2 ^ k
  let r := m % 2 ^ k
  let up := match mode with
    | .rne => 2 ^ k < 2 * r || (2 ^ k == 2 * r && q % 2 == 1)
    | .rna => 2 ^ k ≤ 2 * r
    | .rtz => false
    | .rdn => neg && r != 0
    | .rup => !neg && r != 0
  if r = 0 then q else if up then q + 1 else q

/-- Number of bits of a number. -/
def bitLen (m : Nat) : Nat := if m = 0 then 0 else Nat.log2 m + 1

/-- m × 2^e as a multiple of 2^t, rounded; the Bool says that it is inexact. -/
def roundAt (mode : RMode) (neg : Bool) (m : Nat) (e t : Int) : Nat × Bool :=
  if t ≤ e then (m * 2 ^ (e - t).toNat, false)
  else (roundMag mode neg m (t - e).toNat, m % 2 ^ (t - e).toNat != 0)

/-- The signed encoding of a magnitude code. -/
def Fmt.signed (k : Fmt) (neg : Bool) (code : Nat) : Nat := (if neg then 2 ^ (k.x + k.f) else 0) + code

/-- The result of an overflow (R83). -/
def Fmt.overflow (k : Fmt) (mode : RMode) (sat neg : Bool) : Nat :=
  let toInf := match mode with
    | .rne | .rna => true
    | .rtz => false
    | .rdn => neg
    | .rup => !neg
  if sat || !toInf then k.signed neg k.maxCode
  else if k.hasInf then k.signed neg ((2 ^ k.x - 1) * 2 ^ k.f) else k.nanBits

/-- Round of a finite value, with its flags (R82, R83, R85). -/
def Fmt.roundFin (k : Fmt) (mode : RMode) (sat neg : Bool) (m : Nat) (e : Int) : Nat × Flags :=
  if m = 0 then (k.signed neg 0, 0)
  else
    let t' := e + bitLen m - (k.f + 1)
    let t := max k.lsb t'
    let (mag, inexact) := roundAt mode neg m e t
    let (mag', _) := roundAt mode neg m e t'
    let code := (t - k.lsb).toNat * 2 ^ k.f + mag
    if k.maxCode < code then (k.overflow mode sat neg, fOF ||| fNX)
    else
      let tiny := t' < k.lsb && !(mag' == 2 ^ (k.f + 1) && t' + 1 == k.lsb)
      (k.signed neg code, flagIf inexact fNX ||| flagIf (inexact && tiny) fUF)

/-- Round(x, fmt, mode), saturating or not (R82, R83, R85). A saturating VCVT of an infinity to its own tag is no exception here: it gives the largest
finite value with NX, though R131 says that such a conversion changes nothing but NaNs (DESIGN CHOICE, log entry 87). -/
def Fmt.round (k : Fmt) (mode : RMode) (sat : Bool) (x : FVal) : Nat × Flags :=
  match x with
  | .nan sig => (k.nanBits, flagIf sig fNV)
  | .inf neg =>
    if sat then (k.signed neg k.maxCode, fNX)
    else if k.hasInf then (k.signed neg ((2 ^ k.x - 1) * 2 ^ k.f), 0)
    else (k.nanBits, fNV)
  | .fin neg m e => k.roundFin mode sat neg m e

/-! ## Exact operations (R81, R120 to R122) -/

/-- The value negated; a NaN stays as it is. -/
def FVal.neg : FVal → FVal
  | .nan s => .nan s
  | .inf n => .inf (!n)
  | .fin n m e => .fin (!n) m e

/-- The value is a NaN. -/
def FVal.isNan : FVal → Bool
  | .nan _ => true
  | _ => false

/-- The value is a signalling NaN. -/
def FVal.isSig : FVal → Bool
  | .nan s => s
  | _ => false

/-- ±m × 2^e as a multiple of 2^t with t at or below e. -/
def scaled (neg : Bool) (m : Nat) (e t : Int) : Int :=
  let x : Int := (m * 2 ^ (e - t).toNat : Nat)
  if neg then -x else x

/-- x + y, exact; the sign of an exact zero by R81. -/
def FVal.add (mode : RMode) (x y : FVal) : FVal × Flags :=
  match x, y with
  | .nan a, .nan b => (.nan false, flagIf (a || b) fNV)
  | .nan a, _ => (.nan false, flagIf a fNV)
  | _, .nan b => (.nan false, flagIf b fNV)
  | .inf a, .inf b => if a == b then (.inf a, 0) else (.nan false, fNV)
  | .inf a, .fin _ _ _ => (.inf a, 0)
  | .fin _ _ _, .inf b => (.inf b, 0)
  | .fin a m e, .fin b n f =>
    let t := min e f
    let z := scaled a m e t + scaled b n f t
    if z = 0 then
      if m = 0 && n = 0 && a == b then (.fin a 0 0, 0) else (.fin (mode == .rdn) 0 0, 0)
    else (.fin (z < 0) z.natAbs t, 0)

/-- x × y, exact. -/
def FVal.mul (x y : FVal) : FVal × Flags :=
  match x, y with
  | .nan a, .nan b => (.nan false, flagIf (a || b) fNV)
  | .nan a, _ => (.nan false, flagIf a fNV)
  | _, .nan b => (.nan false, flagIf b fNV)
  | .inf a, .inf b => (.inf (a != b), 0)
  | .inf a, .fin b n _ => if n = 0 then (.nan false, fNV) else (.inf (a != b), 0)
  | .fin a m _, .inf b => if m = 0 then (.nan false, fNV) else (.inf (a != b), 0)
  | .fin a m e, .fin b n f => (.fin (a != b) (m * n) (e + f), 0)

/-- A quotient of positive numbers, cut 130 bits or more below its top with a sticky bit, which no rounding of R82 can tell from the
exact one. -/
def divMag (m n : Nat) (e f : Int) : Nat × Int :=
  let s := 130 + bitLen n
  let q := m * 2 ^ s / n
  (2 * q + (if m * 2 ^ s % n = 0 then 0 else 1), e - f - s - 1)

/-- x / y (R120). -/
def FVal.div (x y : FVal) : FVal × Flags :=
  match x, y with
  | .nan a, .nan b => (.nan false, flagIf (a || b) fNV)
  | .nan a, _ => (.nan false, flagIf a fNV)
  | _, .nan b => (.nan false, flagIf b fNV)
  | .inf _, .inf _ => (.nan false, fNV)
  | .inf a, .fin b _ _ => (.inf (a != b), 0)
  | .fin a _ _, .inf b => (.fin (a != b) 0 0, 0)
  | .fin a m e, .fin b n f =>
    if n = 0 then (if m = 0 then (.nan false, fNV) else (.inf (a != b), fDZ))
    else if m = 0 then (.fin (a != b) 0 0, 0)
    else let (q, g) := divMag m n e f; (.fin (a != b) q g, 0)

/-- The integer square root, bit by bit from bit `b`. -/
def isqrtFrom (n : Nat) : Nat → Nat → Nat
  | 0, r => r
  | b + 1, r => if (r + 2 ^ b) * (r + 2 ^ b) ≤ n then isqrtFrom n b (r + 2 ^ b) else isqrtFrom n b r

/-- The integer square root. -/
def isqrt (n : Nat) : Nat := isqrtFrom n (bitLen n / 2 + 1) 0

/-- √(m × 2^e), m not zero, with a sticky bit. -/
def sqrtMag (m : Nat) (e : Int) : Nat × Int :=
  let s := 260 + (e % 2).toNat
  let n := m * 2 ^ s
  let r := isqrt n
  (2 * r + (if r * r = n then 0 else 1), (e - s) / 2 - 1)

/-- √x (R125). -/
def FVal.sqrt : FVal → FVal × Flags
  | .nan s => (.nan false, flagIf s fNV)
  | .inf n => if n then (.nan false, fNV) else (.inf false, 0)
  | .fin n m e =>
    if m = 0 then (.fin n 0 0, 0) else if n then (.nan false, fNV)
    else let (r, g) := sqrtMag m e; (.fin false r g, 0)

/-! ## The functions of the estimates (R126) -/

/-- 1/x. -/
def FVal.rcp : FVal → FVal × Flags
  | .nan s => (.nan false, flagIf s fNV)
  | .inf n => (.fin n 0 0, 0)
  | .fin n m e => if m = 0 then (.inf n, fDZ) else let (q, g) := divMag 1 m 0 e; (.fin n q g, 0)

/-- 1/√x. -/
def FVal.rsq : FVal → FVal × Flags
  | .nan s => (.nan false, flagIf s fNV)
  | .inf n => if n then (.nan false, fNV) else (.fin false 0 0, 0)
  | .fin n m e =>
    if m = 0 then (.inf n, fDZ) else if n then (.nan false, fNV)
    else
      let m' := if e % 2 = 0 then m else 2 * m
      let e' := if e % 2 = 0 then e else e - 1
      let s := 260 + 2 * bitLen m'
      let r := isqrt (2 ^ s / m')
      (.fin false (2 * r + (if r * r * m' = 2 ^ s then 0 else 1)) (-(e' / 2) - (s / 2 : Nat) - 1), 0)

/-- 2^(f / 2^j), 0 < f < 2^j, in units of 2^-256: the product of the roots of 2 that the bits of `f` name. -/
def exp2Frac : (j : Nat) → (root f acc : Nat) → Nat
  | 0, _, _, acc => acc
  | j + 1, root, f, acc =>
    if f = 0 then acc
    else
      let r := isqrt (root * 2 ^ 256)
      if 2 ^ j ≤ f then exp2Frac j r (f - 2 ^ j) (acc * r / 2 ^ 256) else exp2Frac j r f acc

/-- 2^x: exact for an integer x; otherwise irrational, and given as a close value with a sticky bit (log entry 16). -/
def FVal.exp2 : FVal → FVal × Flags
  | .nan s => (.nan false, flagIf s fNV)
  | .inf n => if n then (.fin false 0 0, 0) else (.inf false, 0)
  | .fin n m e =>
    if m = 0 then (.fin false 1 0, 0)
    else if 16 ≤ e + bitLen m then (.fin false 1 (if n then -65536 else 65536), 0)
    else if e + bitLen m < -40 then (.fin false (if n then 2 ^ 60 - 1 else 2 ^ 60 + 1) (-60), 0)
    else
      let x := scaled n m (max e 0) 0
      if 0 ≤ e then (.fin false 1 (scaled n m e 0), 0)
      else
        let j := (-e).toNat
        let z := x / (2 ^ j : Nat)
        let f := (x % (2 ^ j : Nat)).toNat
        if f = 0 then (.fin false 1 z, 0)
        else (.fin false (2 * exp2Frac j (2 * 2 ^ 256) f (2 ^ 256) + 1) (z - 257), 0)

/-- The first `n` fraction bits of log2 of `x` / 2^512, 1 ≤ x / 2^512 < 2, by repeated squaring. -/
def log2Frac : (n : Nat) → (x acc : Nat) → Nat
  | 0, _, acc => acc
  | n + 1, x, acc =>
    let y := x * x / 2 ^ 512
    if 2 ^ 513 ≤ y then log2Frac n (y / 2) (2 * acc + 1) else log2Frac n y (2 * acc)

/-- log2 x: exact for a power of two; otherwise irrational, and given as a close value with a sticky bit (log entry 16). -/
def FVal.log2 : FVal → FVal × Flags
  | .nan s => (.nan false, flagIf s fNV)
  | .inf n => if n then (.nan false, fNV) else (.inf false, 0)
  | .fin n m e =>
    if m = 0 then (.inf true, fDZ) else if n then (.nan false, fNV)
    else
      let l := bitLen m
      let z : Int := e + (l - 1 : Nat)
      let x := m * 2 ^ (512 - (l - 1))
      if x = 2 ^ 512 then (.fin (z < 0) z.natAbs 0, 0)
      else
        let v : Int := z * (2 ^ 201 : Nat) + (2 * log2Frac 200 x 0 + 1 : Nat)
        (.fin (v < 0) v.natAbs (-201), 0)

/-- RoundP(f, p, RNE), then Round to the lane format, with the flags of the estimate as a whole (R126). -/
def Fmt.estimate (k : Fmt) (p : Nat) (r : FVal × Flags) : Nat × Flags :=
  match r with
  | (.fin neg m e, fl) =>
    if m = 0 then (k.signed neg 0, fl)
    else
      let t := e + bitLen m - p
      let (mag, i1) := roundAt .rne neg m e t
      let (b, f2) := k.roundFin .rne false neg mag t
      let i2 := f2 &&& fNX != 0
      let of := f2 &&& fOF != 0
      let tiny := t + bitLen mag ≤ k.lsb + k.f
      (b, fl ||| flagIf (i1 || i2) fNX ||| flagIf of fOF ||| flagIf (tiny && (i1 || i2)) fUF)
  | (v, fl) => let (b, f2) := k.round .rne false v; (b, fl ||| f2)

/-! ## Comparison (R121, R123) -/

/-- Order of two values neither of which is a NaN: −1, 0 or 1; the zeros are equal. -/
def FVal.cmp (x y : FVal) : Int :=
  match x, y with
  | .inf a, .inf b => if a == b then 0 else if a then -1 else 1
  | .inf a, _ => if a then -1 else 1
  | _, .inf b => if b then 1 else -1
  | .fin a m e, .fin b n f =>
    let t := min e f
    let d := scaled a m e t - scaled b n f t
    if d < 0 then -1 else if d = 0 then 0 else 1
  | _, _ => 0

/-- The sign bit of a value. -/
def FVal.signBit : FVal → Bool
  | .nan _ => false
  | .inf n => n
  | .fin n _ _ => n

/-- x < y with −0 below +0 (R121). -/
def FVal.lt (x y : FVal) : Bool :=
  let c := x.cmp y
  c < 0 || (c == 0 && x.signBit && !y.signBit)

/-! ## Integers (R87 to R89) -/

/-- An integer format: signed or plain, and its bits. -/
structure IFmt where
  signed : Bool
  bits : Nat
  deriving DecidableEq, Repr

/-- Least value. -/
def IFmt.lo (k : IFmt) : Int := if k.signed then -(2 ^ (k.bits - 1) : Nat) else 0
/-- Greatest value. -/
def IFmt.hi (k : IFmt) : Int := if k.signed then (2 ^ (k.bits - 1) : Nat) - 1 else (2 ^ k.bits : Nat) - 1
/-- The value of an encoding. -/
def IFmt.decode (k : IFmt) (b : Nat) : Int :=
  if k.signed && 2 ^ (k.bits - 1) ≤ b then (b : Int) - (2 ^ k.bits : Nat) else b
/-- Wrap: the low bits (R88). -/
def IFmt.wrap (k : IFmt) (x : Int) : Nat := (x % (2 ^ k.bits : Nat)).toNat
/-- Sat (R88). -/
def IFmt.sat (k : IFmt) (x : Int) : Nat := k.wrap (max k.lo (min k.hi x))

/-- RoundInt of ±m × 2^e, and whether it is inexact (R82, R89). -/
def roundInt (mode : RMode) (neg : Bool) (m : Nat) (e : Int) : Int × Bool :=
  let (q, i) := roundAt mode neg m e 0
  (if neg then -(q : Int) else q, i)

/-- ToInt (R89). -/
def IFmt.ofFp (k : IFmt) (mode : RMode) (x : FVal) : Nat × Flags :=
  match x with
  | .nan _ => (0, fNV)
  | .inf n => (k.wrap (if n then k.lo else k.hi), fNV)
  | .fin n m e =>
    let (z, i) := roundInt mode n m e
    if z < k.lo then (k.wrap k.lo, fNV) else if k.hi < z then (k.wrap k.hi, fNV)
    else (k.wrap z, flagIf i fNX)

/-- An integer as an exact value. -/
def FVal.ofInt (x : Int) : FVal := .fin (x < 0) x.natAbs 0

/-! ## Blocks (R92 to R97) -/

/-- An MX type by its tensor format code, 12 to 17: its element format, `none` for MXINT8 (R92). -/
def mxElem (code : Nat) : Option Fmt :=
  match code with
  | 12 => some fmtE4M3
  | 13 => some fmtE5M2
  | 14 => some fmtE2M3
  | 15 => some fmtE3M2
  | 16 => some fmtE2M1
  | _ => none

/-- EMAX of an MX type (R92). -/
def mxEmax (code : Nat) : Int :=
  match code with
  | 12 => 8
  | 13 => 15
  | 14 => 2
  | 15 => 4
  | 16 => 2
  | _ => 0

/-- Bits of an element of an MX type (R92). -/
def mxBits (code : Nat) : Nat :=
  match code with
  | 14 | 15 => 6
  | 16 => 4
  | _ => 8

/-- DequantMX (R93). An E5M2 element may be a signalling NaN, and stays one (R80); a NaN block has none. -/
def dequantMx (code : Nat) (c : Nat) (e : Nat) : FVal :=
  if c = 0xFF then .nan false
  else
    let v := match mxElem code with
      | some k => k.decode e
      | none => let z := IFmt.decode { signed := true, bits := 8 } e; .fin (z < 0) z.natAbs (-6)
    match v with
    | .nan sig => .nan sig
    | .inf n => .inf n
    | .fin n m g => .fin n m (g + c - 127)

/-- The value is a NaN or an infinity. -/
def FVal.special : FVal → Bool
  | .fin _ _ _ => false
  | _ => true

/-- The magnitude of a finite value as mantissa and exponent. -/
def FVal.mag : FVal → Nat × Int
  | .fin _ m e => (m, e)
  | _ => (0, 0)

/-- a < b for magnitudes. -/
def magLt (a b : Nat × Int) : Bool :=
  let t := min a.2 b.2
  a.1 * 2 ^ (a.2 - t).toNat < b.1 * 2 ^ (b.2 - t).toNat

/-- The largest magnitude of a list. -/
def magMax (xs : List FVal) : Nat × Int := xs.foldl (fun a x => if magLt a x.mag then x.mag else a) (0, 0)

/-- floor(log2) of a magnitude that is not zero. -/
def magLog2 (a : Nat × Int) : Int := a.2 + (bitLen a.1 - 1 : Nat)

/-- QuantMX: the scale and the elements (R94). -/
def quantMx (code : Nat) (xs : List FVal) : Nat × List Nat :=
  if xs.any FVal.special then (0xFF, xs.map fun _ => 0)
  else
    let a := magMax xs
    let se := max (-127) (min 127 (if a.1 = 0 then -127 else magLog2 a - mxEmax code))
    ((se + 127).toNat, xs.map fun x => match x with
      | .fin n m e => match mxElem code with
        | some k => (k.roundFin .rne true n m (e - se)).1
        | none => IFmt.wrap { signed := true, bits := 8 } (max (-127) (min 127 (roundInt .rne n m (e - se + 6)).1))
      | _ => 0)

/-- m of a PE block by its tensor format code, 18 to 20 (R95). -/
def peM (code : Nat) : Nat :=
  match code with
  | 18 => 2
  | 19 => 4
  | _ => 7

/-- DequantPE from the exponent, the micro-exponent bit and the element (R96). -/
def dequantPe (code : Nat) (e mu x : Nat) : FVal :=
  let m := peM code
  if e = 255 then .nan false
  else .fin (x / 2 ^ m % 2 == 1) (x % 2 ^ m) (1 - (m : Int) + e - 127 - mu)

/-- QuantPE: exponent, micro-exponents, elements (R97). -/
def quantPe (code : Nat) (xs : List FVal) : Nat × Nat × List Nat :=
  let m := peM code
  if xs.any FVal.special then (255, 0, xs.map fun _ => 0)
  else
    let a := magMax xs
    let e := max 0 (min 254 (if a.1 = 0 then 0 else magLog2 a + 127))
    let mu (k : Nat) : Nat :=
      let p := magMax ((xs.drop (2 * k)).take 2)
      if magLt p (2 ^ (m + 1) - 1, e - 127 - m - 1) then 1 else 0
    let elem (i : Nat) (x : FVal) : Nat :=
      let (q, g) := x.mag
      let r := (roundInt .rne false q (g + m - 1 + 127 - e + mu (i / 2))).1.toNat
      (if x.signBit then 2 ^ m else 0) + min r (2 ^ m - 1)
    (e.toNat, (List.range 8).foldl (fun n k => n + mu k * 2 ^ k) 0, xs.zipIdx.map fun p => elem p.2 p.1)

/-- Fields of `w` bits packed least significant first into a number (R74, R95). -/
def packBits (w : Nat) : List Nat → Nat
  | [] => 0
  | x :: xs => x + 2 ^ w * packBits w xs

/-- Bytes of an MX element array of 32 or of a PE block (R132). -/
def blockBytes (code : Nat) : Nat :=
  match code with
  | 14 | 15 => 24
  | 16 => 16
  | 18 => 8
  | 19 => 12
  | 20 => 18
  | _ => 32

/-- A block format with a scale array of its own (R74). -/
def isMxCode (code : Nat) : Bool := 12 ≤ code && code ≤ 17

/-- A block quantised: the number its element bytes stand for, and its scale byte (R94, R97). -/
def quantBlock (code : Nat) (xs : List FVal) : Nat × Nat :=
  if isMxCode code then
    let (c, es) := quantMx code xs
    (packBits (mxBits code) es, c)
  else
    let (e, mu, es) := quantPe code xs
    (e + 2 ^ 8 * mu + 2 ^ 16 * packBits (peM code + 1) es, 0)

/-- Element `i` of a block whose element bytes stand for `x`, with scale `c` (R93, R96). -/
def blockElem (code x c i : Nat) : FVal :=
  if isMxCode code then dequantMx code c (x / 2 ^ (mxBits code * i) % 2 ^ mxBits code)
  else
    let w := peM code + 1
    dequantPe code (x % 2 ^ 8) (x / 2 ^ (8 + i / 2) % 2) (x / 2 ^ (16 + w * i) % 2 ^ w)

/-- AMO.FADD and the infuser's addition: binary32, RNE (R219, R166). -/
def fadd32 (a b : BitVec 32) : BitVec 32 :=
  let (v, _) := FVal.add .rne (fmtF32.decode a.toNat) (fmtF32.decode b.toNat)
  BitVec.ofNat 32 (fmtF32.round .rne false v).1

end Sys2Proof.Machine
end

