-- ==== Sys2Proof/Machine/Deq.lean ====
section
/-!
DEFINITION. Lanes and tags of packed registers (02_thread_state.md R36; 04_number_formats.md R90), the sticky flags of a thread (R42), and
the arrival of a VDEQ's bytes (06_vector_instructions.md R133).
-/

namespace Sys2Proof.Machine

/-- Lane width of a tag; RAW counts as lanes of 8 bits (R36, R136). -/
def tagBits (tag : BitVec 4) : Nat :=
  match tag.toNat with
  | 1 | 7 => 64
  | 2 | 8 => 32
  | 3 | 4 | 9 => 16
  | _ => 8

/-- Lane count of a tag (R90). -/
def tagLanes (tag : BitVec 4) : Nat := 128 / tagBits tag

/-- The floating-point format of a tag (R36). -/
def tagFp (tag : BitVec 4) : Option Fmt :=
  match tag.toNat with
  | 1 => some fmtF64
  | 2 => some fmtF32
  | 3 => some fmtF16
  | 4 => some fmtBF16
  | 5 => some fmtE4M3
  | 6 => some fmtE5M2
  | _ => none

/-- The integer format of a tag; N8x16 is the plain one (R36). -/
def tagInt (tag : BitVec 4) : IFmt := { signed := tag != 11, bits := tagBits tag }

/-- Lane `i` of `w` bits (R90). -/
def lane (x : BitVec 128) (w i : Nat) : Nat := x.toNat / 2 ^ (w * i) % 2 ^ w

/-- The register whose lanes of `w` bits are listed, lane 0 first (R90). -/
def ofLanes (w : Nat) (ls : List Nat) : BitVec 128 := BitVec.ofNat 128 (packBits w (ls.map (· % 2 ^ w)))

/-- One lane replaced. -/
def setLane (x : BitVec 128) (w i v : Nat) : BitVec 128 :=
  BitVec.ofNat 128 (x.toNat - lane x w i * 2 ^ (w * i) + v % 2 ^ w * 2 ^ (w * i))

/-- Sticky flags set (R42, R85). -/
def Thread.addFlags (t : Thread) (f : Flags) : Thread := { t with fcsr := t.fcsr ||| (f.setWidth 64 <<< 4) }

/-- The rounding mode of a thread (R84). -/
def Thread.rm (t : Thread) : RMode := rmOf (Word.field t.fcsr 0 3)

/-- How many packed registers a VDEQ writes: 8 for an MX format, 4 for a PE format (R133). -/
def deqRegs (f : BitVec 4) : Nat := if f.toNat ≤ 5 then 8 else 4

/-- The binary32 values of a block, element by element, with the flags of all (R133). -/
def deqBlock (mode : RMode) (code : Nat) (bytes scale : Nat) (n : Nat) : List Nat × Flags :=
  let rs := (List.range n).map fun i => fmtF32.round mode false (blockElem code bytes scale i)
  (rs.map (·.1), rs.foldl (fun f r => f ||| r.2) 0)

/-- The registers of a group written from a list of binary32 values, four to a register. -/
def landRegs (t : Thread) (d : Nat) : Nat → List Nat → Thread
  | 0, _ => t
  | n + 1, vs => landRegs (t.setV (BitVec.ofNat 4 d) (ofLanes 32 (vs.take 4)) 2) (d + 1) n (vs.drop 4)

/-- A VDEQ's bytes land: the element bytes stand first in the buffer, an MX block's scale after them; `rm` is the rounding mode as it stood at
the issue (R133). -/
def deqLand (t : Thread) (d : BitVec 2) (f : BitVec 4) (rm : RMode) (buf : List Byte) : Thread :=
  let code := 12 + f.toNat
  let bytes := (buf.take (blockBytes code)).foldr (fun b n => b.toNat + 256 * n) 0
  let scale := ((buf.drop (blockBytes code)).headD 0).toNat
  let (vs, fl) := deqBlock rm code bytes scale (4 * deqRegs f)
  (landRegs t (4 * d.toNat) (deqRegs f) vs).addFlags fl

end Sys2Proof.Machine
end

