-- ==== Sys2Proof/Machine/Issue.lean ====
section
/-!
DEFINITION. The issue of loads, stores and atomics (R205 to R222) and the arrival of a load's bytes in its register.
-/

namespace Sys2Proof.Machine

/-- The general registers that a load marks pending (R38); g0 is never pending. -/
def Dest.marksG : Dest → BitVec 32
  | .g d _ _ => if d = 0 then 0 else BitVec.twoPow 32 d.toNat
  | _ => 0

/-- The packed registers that a load marks pending (R38). -/
def Dest.marksV : Dest → BitVec 16
  | .v d _ => BitVec.twoPow 16 d.toNat
  | .deq d f _ => BitVec.ofNat 16 ((2 ^ deqRegs f - 1) * 2 ^ (4 * d.toNat))
  | _ => 0

/-- A load's bytes reach their register (R207, R117, R133). A RET's refill is no register's: State.landRet takes it. -/
def landLoad (t : Thread) (dest : Dest) (buf : List Byte) : Thread :=
  match dest with
  | .g d n sg =>
    let x := leNat (buf.take n)
    let x := if sg && 2 ^ (8 * n - 1) ≤ x then x + 2 ^ 64 - 2 ^ (8 * n) else x
    t.setG d (BitVec.ofNat 64 x)
  | .v d tag => t.setV d (BitVec.ofNat 128 (leNat buf)) tag
  | .deq d f rm => deqLand t d f (rmOf rm.toNat) buf
  | .ret => t

/-- The marks of a load set. -/
def Thread.mark (t : Thread) (d : Dest) : Thread := { t with pendG := t.pendG ||| d.marksG, pendV := t.pendV ||| d.marksV }
/-- The marks of a load cleared. -/
def Thread.unmark (t : Thread) (d : Dest) : Thread :=
  { t with pendG := t.pendG &&& ~~~ d.marksG, pendV := t.pendV &&& ~~~ d.marksV }

/-- Bytes put into a load's buffer. -/
def putBuf (buf : List Byte) (off : Nat) (bs : List Byte) : List Byte := buf.take off ++ bs ++ buf.drop (off + bs.length)

/-- The bytes of the units that lie in the thread's own caddy, put in their places; those bytes are read at issue (R50). -/
def State.ownBytes (s : State) (locs : List (Nat × Unit8)) (buf : List Byte) : List Byte :=
  locs.foldl (fun buf l => if s.ownCaddy l.2.t then putBuf buf l.1 (s.bytes l.2.t.pa l.2.n) else buf) buf

/-- The units with their places in the load's buffer. -/
def withOffsets (off : Nat) : List Unit8 → List (Nat × Unit8)
  | [] => []
  | u :: us => (off, u) :: withOffsets (off + u.n) us

/-- What a thread reads in its own caddy meets the errors that stand there (R397). -/
def State.meetOwn (s : State) (us : List Unit8) : State :=
  (us.filter fun u => s.ownCaddy u.t).foldl (fun s u => s.meetErrors 4 u.t.home (keyOff u.t.pa) u.n s.self.ctx 1) s

/-- A register load issues (R205, R207, R212): every piece is located, LD counts one for each, those in the own caddy are read at once, and the others
set out. With nothing on its way the load is complete. A load whose permission is decided elsewhere lets nothing younger issue (R39), one that
acquires nothing younger that makes an access (R212); under SSTEP its trap comes once it has completed (R224, R377). `counts`, if given, is what LD
counts instead (R133). -/
def issueLoads (s : State) (size : Nat) (ranges : List (Word × Nat × Nat)) (dest : Dest) (acq : Option (BitVec 3))
    (counts : Option Nat := none) : Body := do
  let parts ← ranges.mapM fun r => lift (s.locateUnits .load r.1 r.2.1 r.2.2)
  let locs := withOffsets 0 parts.flatten
  let words := counts.getD (countOf parts.flatten)
  roomFor s .ld words
  let away := locs.filter fun l => !s.ownCaddy l.2.t
  gate s (parts.flatten.filter fun u => s.ownCaddy u.t)
  let buf := s.ownBytes locs (List.replicate (locs.foldl (fun n l => n + l.2.n) 0) 0)
  let s := s.meetOwn parts.flatten
  if away.isEmpty then
    let s := s.modSelf (landLoad · dest buf)
    pure (match acq with
      | some sc => s.acquireSelf sc.toNat
      | none => s)
  else
    let (id, s) := s.newId
    let full := (away.any fun l => remoteJudged l.2.t) || (acq.isSome && s.self.sstep)
    let pkts := away.map fun l => Packet.load { s.accessTo l.2 with id, off := l.1, fresh := acq.isSome }
    let load : PendLoad := { id, dest, buf, left := away.length, words, acq, held := if full then some size else none }
    let s := (s.count .ld words).modSelf fun t =>
      { t.mark dest with
        loads := t.loads ++ [load]
        hold := if full then some (Hold.load id) else if acq.isSome then some (Hold.acq id) else none }
    let s := { s with net := s.net ++ pkts }
    if full then .error (.held s) else pure s

/-- A store issues (R205, R208, R190, R196): every piece is located, ST counts one for each that leaves the core; one to the own caddy is
performed at once. `rel` marks the own write of a release (R191). -/
def issueStore (s : State) (va : Word) (unit : Nat) (data : List Byte) (rel : Bool := false) : Body := do
  let us ← lift (s.locateUnits .store va data.length unit)
  roomFor s .st (countOf us)
  let x := s.self
  gate s (us.filter fun u => s.ownCaddy u.t)
  let (s, _) := us.foldl (fun (acc : State × List Byte) u =>
      let (s, bs) := acc
      let s :=
        if s.ownCaddy u.t then s.caddyWrite x.ctx x.core (keyOff u.t.pa) (bs.take u.n)
        else (s.count .st u.words) |> fun s => { s with net := s.net ++ [.store { s.accessTo u with rel } (bs.take u.n)] }
      (s, bs.drop u.n)) (s, data)
  pure s

/-- The number an atomic writes, from the word at the home (R219, R220); `w` is 8, or 4 for FADD. -/
def amoResult (op : Amo) (old b d : Word) : Word :=
  match op with
  | .add => old + b
  | .and => old &&& b
  | .or => old ||| b
  | .xor => old ^^^ b
  | .min => if old.slt b then old else b
  | .max => if old.slt b then b else old
  | .minn => if old.ult b then old else b
  | .maxn => if old.ult b then b else old
  | .swap => b
  | .cas => if old == d then b else old
  | .fadd => (fadd32 (old.setWidth 32) (b.setWidth 32)).setWidth 64

/-- Bytes of an atomic's word (R219). -/
def amoBytes : Amo → Nat
  | .fadd => 4
  | _ => 8

/-- An atomic issues (R220, R221). `ord` bit 0 acquires, bit 1 releases, at PKG. With `d = 0` and another operation than CAS it is the
no-return form. An atomic on the thread's own caddy is performed at once. -/
def issueAtomic (s : State) (op : Amo) (d a b : BitVec 5) (ord : BitVec 2) : Body := do
  let va := s.g a
  let w := amoBytes op
  if va.toNat % w ≠ 0 then trap cMISALIGN va
  let t ← lift (do s.wholeCaddy s.self.who va w; s.locate s.self.who va w .atomic)
  let isAcq := ord.getLsbD 0
  let rel := ord.getLsbD 1
  if rel then releaseWait s 3
  let ret := op == .cas || d != 0
  roomFor s (if ret then .ld else .st) 1
  let x := s.self
  if s.ownCaddy t then
    gate s [{ va, n := w, t, words := 1 }]
    let s := s.meetOwn [{ va, n := w, t, words := 1 }]
    let old := BitVec.ofNat 64 (leNat (s.bytes t.pa w))
    let s := s.caddyWrite x.ctx x.core (keyOff t.pa) (leBytes w (amoResult op old (s.g b) (s.g d)).toNat)
    let s := if ret then s.setG d old else s
    pure (if isAcq then s.acquireSelf 3 else s)
  else
    let acc := { s.accessOf va w t with rel }
    if ret then
      let (id, s) := s.newId
      let dest := Dest.g d w false
      let full := remoteJudged t || (isAcq && x.sstep)
      let load : PendLoad := {
        id, dest, buf := List.replicate w 0, left := 1, words := 1
        acq := if isAcq then some 3 else none
        held := if full then some 4 else none }
      let acc := { acc with id := id }
      let pkt := Packet.atomic acc op (s.g b) (s.g d) true
      let s := (s.count .ld 1).modSelf fun t =>
        { t.mark dest with
          loads := t.loads ++ [load]
          hold := if full then some (Hold.load id) else if isAcq then some (Hold.acq id) else none }
      let s := { s with net := s.net ++ [pkt] }
      if full then .error (.held s) else pure s
    else
      let (id, s) := s.newGroup .st [s.cur] 1
      let acc := { acc with id := id }
      let pkt := Packet.atomic acc op (s.g b) 0 false
      let s := { s.count .st 1 with net := s.net ++ [pkt] }
      if !isAcq then pure s
      else
        let s := s.modSelf fun t => { t with hold := some (.ack id x.sstep) }
        if x.sstep then .error (.held s) else pure s

/-- The bytes of one unit, read at once. -/
def State.readUnit (s : State) (u : Unit8) (fresh : Bool) : Except Stop (List Byte × State) :=
  let x := s.self
  match u.t.cls with
  | .caddy =>
    if s.caddyOk x.ctx x.core x.onService.isSome u.t.home (keyOff u.t.pa) u.n .rd then
      .ok (s.caddyRead x.ctx u.t.home (keyOff u.t.pa) u.n, s.meetCaddy x.ctx u.t.home (keyOff u.t.pa) u.n 1)
    else trap cREFUSED u.va
  | .pod => if s.podDown u.t.pa || Config.peerPermits s.fresh u.t.pa then .ok (s.readAt { s.accessTo u with fresh }) else trap cPOD u.va
  | .config => .ok (List.replicate u.n 0, s.cfgMisuse u.t.pa)
  | _ => .ok (s.readAt { s.accessTo u with fresh })

/-- A read that an instruction waits for and that no counter counts: descriptors and records. It waits for the thread's older accesses that would hold
back a load of the same bytes (R188, R191, R195), and while the home sleeps (R368), then reads at the home or in the L1; with `fresh` never a
not-owned copy. In the configuration space a read of more than 8 bytes gives zeros and counts as refused (R353). -/
def readNow (s : State) (va : Word) (n unit : Nat) (fresh : Bool) : Except Stop (List Byte × State) := do
  let us ← lift (s.locateUnits .load va n unit)
  let older (u : Unit8) : Bool := s.net.any fun o => s.holdsBack o (.load { s.accessTo u with fresh })
  if us.any (fun u => older u || s.placeAsleep (s.accessTo u)) then .error .later
  else
    us.foldlM (fun (acc : List Byte × State) u => do
      let (bs, s) ← acc.2.readUnit u fresh
      pure (acc.1 ++ bs, s)) ([], s)

end Sys2Proof.Machine
end

