-- ==== Sys2Proof/Machine/Tmap.lean ====
section
/-!
DEFINITION. Tensor-map descriptors (03_encoding.md R73 to R76), the tm slots (R37) and TMLD (07_matrix_instructions.md R151).
-/

namespace Sys2Proof.Machine

/-- Element bits, elements in a block (1 without blocks) and bytes of a block, of a tensor format code (R74). -/
def fmtShape (code : Nat) : Option (Nat × Nat × Nat) :=
  match code with
  | 1 | 7 | 23 => some (64, 1, 8)
  | 2 | 8 | 22 => some (32, 1, 4)
  | 3 | 4 | 9 | 21 => some (16, 1, 2)
  | 5 | 6 | 10 | 11 | 24 => some (8, 1, 1)
  | 12 | 13 | 17 => some (8, 32, 32)
  | 14 | 15 => some (6, 32, 24)
  | 16 => some (4, 32, 16)
  | 18 => some (4, 16, 8)
  | 19 => some (6, 16, 12)
  | 20 => some (9, 16, 18)
  | _ => none

/-- A little-endian field of a descriptor's bytes. -/
def descField (d : List Byte) (off n : Nat) : Nat := leNat ((d.drop off).take n)

/-- RANK (R73). -/
def tmRank (d : List Byte) : Nat := descField d 9 1 % 8
/-- SIZEi (R73). -/
def tmSize (d : List Byte) (i : Nat) : Nat := descField d (0x10 + 4 * i) 4
/-- BOXi (R73). -/
def tmBox (d : List Byte) (i : Nat) : Nat := descField d (0x24 + 2 * i) 2
/-- STRIDEi, i from 1 (R73). -/
def tmStride (d : List Byte) (i : Nat) : Nat := if i = 0 then 0 else descField d (0x30 + 4 * (i - 1)) 4
/-- LAYOUT (R73). -/
def tmLayout (d : List Byte) : Nat := descField d 9 1 / 16 % 4
/-- OOB (R73). -/
def tmOobNan (d : List Byte) : Bool := descField d 9 1 / 8 % 2 == 1
/-- BASE (R73). -/
def tmBase (d : List Byte) : Nat := descField d 0 8

/-- Packed bytes of one box row (R229). -/
def tmRowBytes (d : List Byte) : Nat :=
  match fmtShape (descField d 8 1) with
  | some (_, blk, bytes) => tmBox d 0 / blk * bytes
  | none => 0

/-- The caddy distance between box rows (R229). -/
def tmPitch (d : List Byte) : Nat :=
  let p := descField d 0xA 2
  if tmLayout d = 1 || p = 0 then tmRowBytes d else p

/-- Box rows (R229). -/
def tmRows (d : List Byte) : Nat := ((List.range 5).filter fun i => 1 ≤ i && i < tmRank d).foldl (fun n i => n * tmBox d i) 1

/-- A valid descriptor (R75). A row-major PITCH that is no multiple of 16, which the descriptor's table calls it (R73) and no condition of R75
names, makes it invalid too (log entry 79); in the block layout PITCH is not looked at (R229). -/
def tmValid (d : List Byte) : Bool :=
  let code := descField d 8 1
  let rank := tmRank d
  let dims := List.range 5
  match fmtShape code with
  | none => false
  | some (_, blk, _) =>
    1 ≤ rank && rank ≤ 5 &&
    (dims.all fun i => if i < rank then 1 ≤ tmSize d i && 1 ≤ tmBox d i && tmBox d i ≤ tmSize d i
      else tmSize d i == 0 && tmBox d i == 0 && tmStride d i == 0) &&
    (dims.all fun i => !(1 ≤ i && i < rank) || 1 ≤ tmStride d i) &&
    tmSize d 0 % blk == 0 && tmBox d 0 % blk == 0 &&
    (tmLayout d == 0 || (tmLayout d == 1 && (blk != 1 || code == 24))) &&
    (tmLayout d != 0 || descField d 0xA 2 == 0 || (tmRowBytes d ≤ descField d 0xA 2 && descField d 0xA 2 % 16 == 0)) &&
    descField d 9 1 / 64 == 0 && descField d 0xC 4 == 0 && descField d 0x2E 2 == 0 &&
    tmBase d % 16 == 0 && tmBase d / 2 ^ 57 == 0

/-- TMLD (R151). -/
def tmldBody (s : State) (a : BitVec 5) (imm : BitVec 12) (tm : BitVec 4) : Body := do
  let va := s.g a + sext12 imm
  if va = 0 then
    pure (s.modSelf fun t => { t with tm := t.tm.set tm.toNat 0, tmDesc := t.tmDesc.set tm.toNat none })
  else
    if va.toNat % 64 ≠ 0 then trap cBADTMAP va
    let (d, s) ← readNow s va 64 8 false
    if tmValid d then
      pure (s.modSelf fun t => { t with tm := t.tm.set tm.toNat va, tmDesc := t.tmDesc.set tm.toNat (some d) })
    else trap cBADTMAP va

/-- TMLD (R151). -/
def execTmld (a : BitVec 5) (imm : BitVec 12) (tm : BitVec 4) (s : State) := finish 4 s (tmldBody s a imm tm)

/-- The descriptor of a slot that is not empty: the core's copy, fetched again after the image was reloaded (R37); checked under R75.
Where software has changed the descriptor since, the use takes the copy (DESIGN CHOICE, log entry 82). -/
def slotDesc (s : State) (tm : BitVec 4) : Except Stop (List Byte × State) := do
  let va := s.self.tm[tm.toNat]
  match s.self.tmDesc[tm.toNat] with
  | some d => if tmValid d then pure (d, s) else trap cBADTMAP va
  | none =>
    let (d, s) ← readNow s va 64 8 false
    if tmValid d then pure (d, s.modSelf fun t => { t with tmDesc := t.tmDesc.set tm.toNat (some d) })
    else trap cBADTMAP va

end Sys2Proof.Machine
end

