-- ==== Sys2Proof/Machine/Convene.lean ====
section
/-!
DEFINITION. Majors 0x1E and 0x18: convened groups, the issue of matrix commands, and the leases of the engine
(07_matrix_instructions.md R139 to R162). The arbiter's passes and the engine's computation stand in Matrix.lean.
-/

namespace Sys2Proof.Machine

/-- The number of set bits. -/
def popcount (x : BitVec 32) : Nat := ((List.range 32).filter fun i => x.getLsbD i).length

/-- Members present (R152). -/
def Convene.joined (g : Convene) : Nat := popcount g.present

/-- Every present member has issued to the pending command (R159). -/
def Convene.allIssued (g : Convene) : Bool := g.present &&& ~~~ g.issued == 0

/-- The group has a formed command (R159). -/
def Convene.ready (g : Convene) : Bool := g.pending.isSome && g.allIssued && !g.broken

/-- The eight words of the object of a group (R152). With no command pending, the words of the command and its minor6 read as zero (DESIGN CHOICE,
log entry 84). -/
def Convene.words (g : Convene) : List Word :=
  let ctl := g.count % 64 + g.joined % 64 * 2 ^ 6 + (if g.formed then 2 ^ 12 else 0) + (if g.leased then 2 ^ 13 else 0) +
    (if g.broken then 2 ^ 14 else 0) + g.gen.toNat * 2 ^ 16 + g.cmds % 32 * 2 ^ 32
  let pres := g.present.toNat + g.issued.toNat * 2 ^ 32
  let cmd : List Nat := match g.pending with
    | some c => [c.a.toNat, c.b.toNat, c.c.toNat, c.form.toNat + 2 ^ 6 + (if g.allIssued then 2 ^ 7 else 0)]
    | none => [0, 0, 0, 0]
  ([ctl, pres] ++ cmd ++ [0, 0]).map (BitVec.ofNat 64)

/-- The location of an entry of the convene table among those of row 8 of the table Protection (log entry 41). -/
def convLoc (i : Nat) : Nat := 0x300 + i

/-- A group's entry changed and its object rewritten. -/
def State.setConv (s : State) (c : Coord) (i : Nat) (g : Convene) : State :=
  (State.mend (s.modCore c fun k => { k with convene := k.convene.setIfInBounds i (some g) }) 8 c (convLoc i) 1).putObject g.ctx c g.off g.words

/-- The entry of the group at an offset. -/
def State.convAt (s : State) (c : Coord) (ctx : CtxId) (off : Nat) : Option (Nat × Convene) :=
  (List.range 8).findSome? fun i => match s.conv c i with
    | some g => if g.off == off && g.ctx == ctx then some (i, g) else none
    | none => none

/-- The free entry of a convene table that a new group takes: the lowest (DESIGN CHOICE, log entry 84). -/
def State.convFree (s : State) (c : Coord) : Option Nat := (List.range 8).find? fun i => (s.conv c i).isNone

/-- The object of a member's convene word: core, offset and index (R155). -/
def cnvPlace (w : Word) : Coord × Nat × Nat := (BitVec.ofNat 9 (Word.field w 12 9), Word.field w 0 12 * 64, Word.field w 21 5)

/-- The saved state of a group, which its object holds: what a pre-emption wrote there, or what software left there (R160). The members of a group
that a pre-emption recorded stay its members, whatever a write does to the bytes, as those of a live one do (R153; log entry 69). Its pending command
is another matter: State.savedCmd. -/
def State.savedGroup (s : State) (c : Coord) (ctx : CtxId) (off : Nat) : Option Convene :=
  let at_ (i : Nat) : Word := s.word (s.caddyAt ctx c (off + 8 * i))
  let kept := (s.coreAt c).savedConv.find? fun g => g.off == off && g.ctx == ctx
  if Word.field (at_ 0) 0 6 = 0 && kept.isNone then none
  else some { off, ctx, count := Word.field (at_ 0) 0 6, present := (kept.map (·.present)).getD (BitVec.ofNat 32 (Word.field (at_ 1) 0 32)), formed := (at_ 0).getLsbD 12
              broken := (at_ 0).getLsbD 14 || kept.any (·.broken), gen := BitVec.ofNat 16 (Word.field (at_ 0) 16 16)
              issued := BitVec.ofNat 32 (Word.field (at_ 1) 32 32) }

/-- The members of a group that its object names as issuers. -/
def State.issuersOf (s : State) (c : Coord) (g : Convene) : List Nat :=
  (s.threads.filter fun e => e.2.ctx == g.ctx && e.2.conv && (cnvPlace e.2.cnv).1 == c && (cnvPlace e.2.cnv).2.1 == g.off &&
    g.issued.getLsbD (cnvPlace e.2.cnv).2.2).map (·.1)

/-! ## The words of a command (R142, R143, R145) -/

/-- The operand class of a format code as its group length G (R142). -/
def opGroup (code : Nat) : Option Nat :=
  match code with
  | 3 | 4 => some 16
  | 5 | 6 | 12 | 13 | 14 | 15 | 17 | 19 | 20 => some 32
  | 16 | 18 => some 64
  | _ => none

/-- Bytes of K elements of a row or column (R142). -/
def rowBytes (code k : Nat) : Nat :=
  match code with
  | 18 => k / 16 * 8
  | 19 => k / 16 * 12
  | 20 => k / 16 * 18
  | _ => match fmtShape code with
    | some (bits, _, _) => k * bits / 8
    | none => 0

/-- An MX format (R142). -/
def isMx (code : Nat) : Bool := 12 ≤ code && code ≤ 17

/-- Where the scales of an MX operand start (R142). -/
def scaleBase (code k off : Nat) : Nat := (off + 16 * rowBytes code k + 15) / 16 * 16

/-- The offset one past an operand's extent (R142). -/
def extentEnd (code k off : Nat) : Nat :=
  if isMx code then scaleBase code k off + 16 * (k / 32) else off + 16 * rowBytes code k

/-- N of MMA.SP; 0 for the other forms (R143). -/
def spN (form : BitVec 6) : Nat :=
  match form.toNat with
  | 2 => 8
  | 3 => 16
  | 4 => 32
  | _ => 0

/-- CheckWords: the lowest reason of BADMMA, 0 for none (R145). -/
def checkWords (a b c : Word) (form : BitVec 6) : Nat :=
  let af := Word.field a 24 5
  let bf := Word.field b 24 5
  let k := Word.field a 32 16
  let n := spN form
  match opGroup af, opGroup bf with
  | some ga, some gb =>
    if n ≠ 0 && !(3 ≤ af && af ≤ 6) then 1
    else if ga ≠ gb then 2
    else if k = 0 || k % ga ≠ 0 || (n ≠ 0 && k % 64 ≠ 0) then 3
    else
      let lim := if form = 1 then 0x6000 else 0x40000
      let aoff := Word.field a 0 18
      let boff := Word.field b 0 18
      let ebytes := match fmtShape af with
        | some (bits, _, _) => bits / 8
        | none => 0
      let aend := if n ≠ 0 then aoff + 16 * (k / 64) * n * ebytes else extentEnd af k aoff
      let mend := if n ≠ 0 then Word.field a 48 15 * 8 + 16 * (k / 64) * 8 else 0
      if aoff % 16 ≠ 0 || boff % 16 ≠ 0 || lim < aend || lim < extentEnd bf k boff || lim < mend then 4
      else
        let ord := b.getLsbD 35
        let scope := Word.field b 32 3
        let key := Word.field b 48 16
        if Word.field a 18 6 ≠ 0 || Word.field a 29 3 ≠ 0 || a.getLsbD 63 || (n = 0 && Word.field a 48 15 ≠ 0) ||
            Word.field b 18 6 ≠ 0 || Word.field b 29 3 ≠ 0 || Word.field b 36 12 ≠ 0 || 5 < scope || (!ord && key ≠ 0) then 5
        else if ord && scope ≠ 0 then 6
        else if Word.field c 0 10 ≠ 0 || Word.field c 57 7 ≠ 0 then 7
        else 0
  | _, _ => 1

/-! ## Saved groups (R160) -/

/-- The pending command that the object of a saved group holds: the one that a pre-emption recorded there, or, of an object that software left there,
a command made of its words. Such words are checked as at an issue, and their destination translates now, or the command is not taken, so that it
reaches nothing outside the context (R3, R145, R160; log entry 69). -/
def State.savedCmd (s : State) (c : Coord) (g : Convene) : Option Cmd × State :=
  let at_ (i : Nat) : Word := s.word (s.caddyAt g.ctx c (g.off + 8 * i))
  let (a, b, d, e) := (at_ 2, at_ 3, at_ 4, at_ 5)
  if g.broken || !e.getLsbD 6 then (none, s)
  else
    let same (m : Cmd) : Bool := m.a == a && m.b == b && m.c == d && m.form.toNat == Word.field e 0 6
    match ((s.coreAt c).savedConv.find? fun h => h.off == g.off && h.ctx == g.ctx).bind (·.pending) with
    | some m => (if same m then some m else none, s)
    | none =>
      let form : BitVec 6 := BitVec.ofNat 6 (Word.field e 0 6)
      let fits := !isCaddy d && (form == 0 || spN form != 0) && checkWords a b d form == 0
      match (if fits then some (s.xlate { s.self.who with ctx := g.ctx, core := c } d .reduce) else none) with
      | some (.ok x) =>
        let (gid, s) := s.newGroup .mx (s.issuersOf c g) 16
        (some { ctx := g.ctx, form, a, b, c := d, pa := (s.targetOf x d).pa, place := x.place, page := (x.vbase, x.size)
                issuers := s.issuersOf c g, group := gid }, s)
      | _ => (none, s)

/-- The entry of a group, or its object where it has none, is read, and meets the errors that stand there (R397). -/
def State.meetGroup (s : State) (c : Coord) (ctx : CtxId) (off : Nat) : State :=
  match s.convAt c ctx off with
  | some (i, _) => s.meetErrors 8 c (convLoc i) 1 ctx 1
  | none => s.meetCaddy ctx c off 64 1

/-- The live entry of a group, rebuilt from its object when the table holds none (R160); a rebuild with the table full waits. A recorded command
that the object does not hold any more is discarded, as R153 discards one; a group that has then neither member nor command dissolves (R157). -/
def liveGroup (s : State) (c : Coord) (ctx : CtxId) (off : Nat) : Except Stop (State × Option (Nat × Convene)) :=
  match s.convAt c ctx off with
  | some (i, g) => .ok (s, some (i, g))
  | none =>
    match s.savedGroup c ctx off with
    | none => .ok (s, none)
    | some g =>
      match s.convFree c with
      | none => .error (.wait none s)
      | some i =>
        let was := ((s.coreAt c).savedConv.find? fun h => h.off == off && h.ctx == ctx).bind (·.pending)
        let (cmd, s) := s.savedCmd c g
        let s := match was with
          | some m => if cmd.isNone then s.groupAck m.group 16 else s
          | none => s
        let g := { g with pending := cmd, issued := if cmd.isSome then g.issued else 0 }
        let s := s.modCore c fun k => { k with savedConv := k.savedConv.filter fun h => !(h.off == off && h.ctx == ctx) }
        .ok (if g.over then (s.clearObject c g, none) else (s.setConv c i g, some (i, g)))

/-- The live entry of a group, once it has been read; a read that fails halts the context before its instruction does anything (R397). -/
def findGroup (s : State) (c : Coord) (ctx : CtxId) (off : Nat) : Except Stop (State × Option (Nat × Convene)) :=
  let s' := s.meetGroup c ctx off
  if s'.halted ctx && !s.halted ctx then .error (.wait none s') else liveGroup s' c ctx off

/-- A member leaves its group (R157). -/
def State.leaveGroup (s : State) (t : Nat) (i : Nat) (g : Convene) : State :=
  let x := s.thread t
  let (c, _, idx) := cnvPlace x.cnv
  let s := s.setThread t { x with cnv := 0, status := Word.setField x.status 3 1 0 }
  let g := { g with present := g.present &&& ~~~ BitVec.twoPow 32 idx }
  (s.setConv c i g).dissolve c i

/-- CNV.LEAVE's effect for the executing thread; EXIT begins with it (R157). -/
def leaveBody (s : State) : Body := do
  let x := s.self
  let (c, off, _) := cnvPlace x.cnv
  match ← findGroup s c x.ctx off with
  | (s, some (i, g)) => pure (s.leaveGroup s.cur i g)
  | (s, none) => pure (s.modSelf fun t => { t with cnv := 0, status := Word.setField t.status 3 1 0 })

/-- CNV.LEAVE (R157). -/
def execCnvLeave (g : BitVec 4) (s : State) :=
  onCompute (.cnvLeave g) s (guarded g s (do
    primaryOnly s
    if !s.self.conv then trap cCONVENE 7
    leaveBody s))

/-- The poll of a registered member (R155): CNV.TRY answers, CNV.JOIN waits for the group to form. `s` holds the registration. -/
def convPoll (s : State) (d : BitVec 5) (p : Option (BitVec 3)) (g : Convene) (idx : Nat) : Body :=
  if g.broken then trap cCONVENE 6
  else match p with
    | some p => .ok ((s.setG d (BitVec.ofNat 64 idx)).setP p g.formed)
    | none => if g.formed then .ok (s.setG d (BitVec.ofNat 64 idx)) else .error (.wait none s)

/-- The thread sets out as a full thread for the core of the object: its image is written back (R156). -/
def State.moveTo (s : State) (t : Nat) (c : Coord) : State :=
  let s := (s.unplace t).sendImage t
  { (s.modThread t fun x => { x with place := .moving, stalled := false }) with net := s.net ++ [.move t c none false] }

/-- The join of a thread that stands on the object's core (R155, from the entry on). One that has found a full group waits until that generation has
dissolved, and then begins again. -/
def joinHere (s : State) (c : Coord) (off n : Nat) (d : BitVec 5) (p : Option (BitVec 3)) : Body := do
  let x := s.self
  let full := x.foundNow.bind (·.gen)
  let (s, e) ← findGroup s c x.ctx off
  let (i, g) ← (match e, s.convFree c with
    | some e, _ => .ok e
    | none, none => .error (.wait none s)
    | none, some i =>
      .ok (i, { off, ctx := x.ctx, count := n, gen := BitVec.ofNat 16 (Word.field (s.word (s.caddyAt x.ctx c off)) 16 16) }))
  if full == some g.gen then .error (.wait none s)
  if g.broken then trap cCONVENE 6
  if g.formed then
    match p with
    | some p => pure ((s.setP p false).setG d (BitVec.allOnes 64))
    | none => .error (.wait none (s.setFound { since := 0, gen := some g.gen }))
  else
    if g.count ≠ n then trap cCONVENE 1
    let idx := ((List.range 32).find? fun k => !g.present.getLsbD k).getD 0
    let g := { g with present := g.present ||| BitVec.twoPow 32 idx }
    let g := { g with formed := g.joined == g.count }
    let cnv := BitVec.ofNat 64 (off / 64 + c.toNat * 2 ^ 12 + idx * 2 ^ 21)
    let s := (s.setConv c i g).modSelf fun t => { t with cnv, status := Word.setField t.status 3 1 1 }
    convPoll s d p g idx

/-- Obj(ga): the core and offset that bits [56:0] of the address name, under the CADDY_ADDR cases of R49 (R155). -/
def convObject (s : State) (ga : Word) : Except Stop (Coord × Nat) :=
  match s.caddyPlace s.self.who (BitVec.ofNat 64 (Word.field ga 0 57)) 1 with
  | .ok p => .ok p
  | .error f => trap f.cause ga f.floor

/-- CNV.JOIN (`p` none) and CNV.TRY (R155, R156). A member whose group has neither an entry nor an object waits, CNV.TRY too (DESIGN CHOICE, log entry
69). -/
def cnvBody (s : State) (d a b : BitVec 5) (p : Option (BitVec 3)) : Body := do
  primaryOnly s
  let x := s.self
  let ga := s.g a
  let n := s.g b
  if Word.field ga 48 9 ≠ 0x1FF && Word.field ga 48 9 ≠ 0x1FE then trap cCONVENE 5
  let (c, off) ← convObject s ga
  if off % 64 ≠ 0 then trap cCONVENE 5
  if x.steep then trap cCONVENE 3
  if n.toNat < 1 || 32 < n.toNat then trap cCONVENE 2
  if x.conv then
    let (c', off', idx) := cnvPlace x.cnv
    if c' != c || off' ≠ off then trap cCONVENE 3
    match ← findGroup s c x.ctx off with
    | (s, some (_, g)) => convPoll s d p g idx
    | (s, none) => .error (.wait none s)
  else if c != x.core then
    counterWait s
    if !s.caddyOk x.ctx x.core false c off 64 .at then trap cREFUSED ga
    .error (.left (s.moveTo s.cur c))
  else joinHere s c off n.toNat d p

/-- CNV.JOIN (R155). -/
def execCnvJoin (g : BitVec 4) (d a b : BitVec 5) (s : State) :=
  onCompute (.cnvJoin g d a b) s (guarded g s (cnvBody s d a b none))
/-- CNV.TRY (R155). -/
def execCnvTry (g : BitVec 4) (d a b : BitVec 5) (p : BitVec 3) (s : State) :=
  onCompute (.cnvTry g d a b p) s (guarded g s (cnvBody s d a b (some p)))

/-! ## Matrix commands (R139, R144, R159) -/

/-- The translation of the destination tile with kind REDUCE; a caddy address names no ACC line (R144, R164). -/
def reduceTarget (s : State) (va : Word) : Except Stop Xlat := do
  if isCaddy va then trap cBADCLASS va
  lift (s.xlate s.self.who va .reduce)

/-- Each issue to a convened command is a release: the thread's loads have returned and its stores are acknowledged (R148, R191, R200). -/
def issueRelease (s : State) : Except Stop Unit := if s.self.loads.isEmpty && s.self.st == 0 then .ok () else .error (.wait none s)

/-- An issue of MMA or MMA.SP by a convened member; one that has issued to the pending command waits for its acceptance, with no effect (R144, R159). -/
def mmaBody (s : State) (ra rb rc : BitVec 5) (form : BitVec 6) : Body := do
  primaryOnly s
  let x := s.self
  let (a, b, c) := (s.g ra, s.g rb, s.g rc)
  if !x.conv then trap cENGINE 1
  let (core, off, idx) := cnvPlace x.cnv
  match ← findGroup s core x.ctx off with
  | (_, none) => trap cENGINE 1
  | (s, some (i, g)) =>
    if !g.formed then trap cENGINE 1
    if g.broken then trap cCONVENE 6
    if g.pending.isSome && g.issued.getLsbD idx then .error (.wait none s)
    let r := checkWords a b c form
    if r ≠ 0 then trap cBADMMA (BitVec.ofNat 64 r)
    let y ← reduceTarget s c
    match g.pending with
    | some cmd =>
      if cmd.a ≠ a || cmd.b ≠ b || cmd.c ≠ c || cmd.form ≠ form then trap cBADMMA 8
      issueRelease s
      roomFor s .mx 1
      let s := s.count .mx 1
      let s := match Tab.find s.groups cmd.group with
        | some gr => { s with groups := Tab.set s.groups cmd.group { gr with threads := gr.threads ++ [s.cur] } }
        | none => s
      pure (s.setConv core i { g with
        pending := some { cmd with issuers := cmd.issuers ++ [s.cur] }
        issued := g.issued ||| BitVec.twoPow 32 idx })
    | none =>
      issueRelease s
      roomFor s .mx 1
      let (gid, s) := (s.count .mx 1).newGroup .mx [s.cur] 16
      let cmd : Cmd := { ctx := x.ctx, form, a, b, c, pa := (s.targetOf y c).pa, place := y.place, page := (y.vbase, y.size), issuers := [s.cur], group := gid }
      pure (s.setConv core i { g with pending := some cmd, issued := BitVec.twoPow 32 idx })

/-- MMA (R144). -/
def execMma (a b c : BitVec 5) (s : State) := onCompute (.mma a b c) s (finish 4 s (mmaBody s a b c 0))
/-- MMA.SP with N = 8 (R144, R147). -/
def execMmaSp8 (a b c : BitVec 5) (s : State) := onCompute (.mmaSp8 a b c) s (finish 4 s (mmaBody s a b c 2))
/-- MMA.SP with N = 16 (R144, R147). -/
def execMmaSp16 (a b c : BitVec 5) (s : State) := onCompute (.mmaSp16 a b c) s (finish 4 s (mmaBody s a b c 3))
/-- MMA.SP with N = 32 (R144, R147). -/
def execMmaSp32 (a b c : BitVec 5) (s : State) := onCompute (.mmaSp32 a b c) s (finish 4 s (mmaBody s a b c 4))

/-- MMA.L: a steep submits a command on its bound buffers (R144). -/
def mmaLBody (s : State) (ra rb rc : BitVec 5) : Body := do
  primaryOnly s
  let x := s.self
  let (a, b, c) := (s.g ra, s.g rb, s.g rc)
  if !x.steep then trap cENGINE 2
  let r := checkWords a b c 1
  if r ≠ 0 then trap cBADMMA (BitVec.ofNat 64 r)
  let y ← reduceTarget s c
  roomFor s .mx 1
  let slot := (s.myCore.slots.find? fun e => e.2 == s.cur).map (·.1)
  let (gid, s) := (s.count .mx 1).newGroup .mx [s.cur] 16
  let cmd : Cmd := { ctx := x.ctx, form := 1, a, b, c, pa := (s.targetOf y c).pa, place := y.place, page := (y.vbase, y.size), issuers := [s.cur], group := gid, slot := some (slot.getD 60), cycle := s.cycle }
  pure (s.modMyCore fun k => { k with engine := { k.engine with steepQ := k.engine.steepQ ++ [cmd] } })

/-- MMA.L (R144). -/
def execMmaL (a b c : BitVec 5) (s : State) := onCompute (.mmaL a b c) s (finish 4 s (mmaLBody s a b c))

/-! ## Leases and acceptance (R159, R161) -/

/-- A lease ends: LEASED and CMDS are cleared (R161). -/
def State.endLease (s : State) (c : Coord) : State :=
  match (s.coreAt c).engine.holder with
  | none => s
  | some h =>
    let s := s.modCore c fun k => { k with engine := { k.engine with holder := none, idle := 0 } }
    match s.conv c h with
    | some g => s.setConv c h { g with leased := false, cmds := 0 }
    | none => s

/-- The engine accepts a group's formed command: the object's pending command goes (R159). -/
def State.acceptGroup (s : State) (c : Coord) (i : Nat) (g : Convene) (cmd : Cmd) : State :=
  let s := s.modCore c fun k => { k with engine := { k.engine with queue := k.engine.queue ++ [cmd], idle := 0 } }
  (s.setConv c i { g with pending := none, issued := 0, cmds := g.cmds + 1 }).dissolve c i

/-- The first entry with a formed command after `last`, cyclically (R161). -/
def State.nextReady (s : State) (c : Coord) (last : Nat) : Option Nat :=
  ((List.range 8).map fun k => (last + 1 + k) % 8).find? fun i => match s.conv c i with
    | some g => g.ready
    | none => false

/-- A lease begins for the group of an entry, which is read (R161, R397). -/
def State.grantLease (s : State) (c : Coord) (e : Engine) (h : Nat) : State :=
  match s.conv c h with
  | some g =>
    let s := s.meetErrors 8 c (convLoc h) 1 g.ctx 3
    if s.halted g.ctx then s
    else
      (s.modCore c fun k => { k with engine := { e with holder := some h, last := h, idle := 0, run := 0 } }).setConv c h
        { g with leased := true, cmds := 0 }
  | none => s

/-- The engine of a core takes no command: it has no primary context, or that one is halting or halted (R150, R382). While it is being switched out the
arbiter goes on for its steeps, whose commands wait for leases to end; what it has not accepted at the end is recorded (R150, R319). -/
def State.engineStopped (s : State) (c : Coord) : Bool :=
  match (s.coreAt c).primary with
  | some x => s.halted x
  | none => true

/-- The steep command that has waited longest; of those of one core cycle that of the lowest steep slot (R161). -/
def Engine.oldestSteep (e : Engine) : Option Cmd :=
  e.steepQ.foldl (fun b m => match b with
    | none => some m
    | some o => if m.cycle < o.cycle || (m.cycle == o.cycle && m.slot.getD 64 < o.slot.getD 64) then some m else some o) none

end Sys2Proof.Machine
end

