-- ==== Sys2Proof/Machine/Access.lean ====
section
/-!
DEFINITION. Majors 0x0C to 0x0F: loads, stores, ordered accesses, fences, cache operations and atomics (10_memory_instructions.md).
-/

namespace Sys2Proof.Machine

/-- The effective address of F-M: ga + SignExt(imm12, 12) (R205). -/
def ea (s : State) (a : BitVec 5) (imm : BitVec 12) : Word := s.g a + sext12 imm

/-- A plain load of `n` bytes (R207). -/
def loadBody (s : State) (size : Nat) (t a : BitVec 5) (imm : BitVec 12) (n : Nat) (sg : Bool) : Body :=
  issueLoads s size [(ea s a imm, n, 8)] (.g t n sg) none

/-- A plain store of the low `n` bytes of gt (R208). -/
def storeBody (s : State) (t a : BitVec 5) (imm : BitVec 12) (n : Nat) : Body :=
  issueStore s (ea s a imm) 8 (leBytes n (s.g t).toNat)

/-- LD.B (R207). -/
def execLdB (t a : BitVec 5) (imm : BitVec 12) (s : State) := finish 4 s (loadBody s 4 t a imm 1 true)
/-- LD.H (R207). -/
def execLdH (t a : BitVec 5) (imm : BitVec 12) (s : State) := finish 4 s (loadBody s 4 t a imm 2 true)
/-- LD.W (R207). -/
def execLdW (t a : BitVec 5) (imm : BitVec 12) (s : State) := finish 4 s (loadBody s 4 t a imm 4 true)
/-- LD.D (R207). -/
def execLdD (t a : BitVec 5) (imm : BitVec 12) (s : State) := finish 4 s (loadBody s 4 t a imm 8 false)
/-- LD.B.N (R207). -/
def execLdBN (t a : BitVec 5) (imm : BitVec 12) (s : State) := finish 4 s (loadBody s 4 t a imm 1 false)
/-- LD.H.N (R207). -/
def execLdHN (t a : BitVec 5) (imm : BitVec 12) (s : State) := finish 4 s (loadBody s 4 t a imm 2 false)
/-- LD.W.N (R207). -/
def execLdWN (t a : BitVec 5) (imm : BitVec 12) (s : State) := finish 4 s (loadBody s 4 t a imm 4 false)

/-- ST.B (R208). -/
def execStB (t a : BitVec 5) (imm : BitVec 12) (s : State) := finish 4 s (storeBody s t a imm 1)
/-- ST.H (R208). -/
def execStH (t a : BitVec 5) (imm : BitVec 12) (s : State) := finish 4 s (storeBody s t a imm 2)
/-- ST.W (R208). -/
def execStW (t a : BitVec 5) (imm : BitVec 12) (s : State) := finish 4 s (storeBody s t a imm 4)
/-- ST.D (R208). -/
def execStD (t a : BitVec 5) (imm : BitVec 12) (s : State) := finish 4 s (storeBody s t a imm 8)

/-- LD.ACQ (R212): naturally aligned; the acquire completes with the load. -/
def ldAcqBody (s : State) (t a : BitVec 5) (zx : BitVec 1) (sz : BitVec 2) (sc : BitVec 3) : Body := do
  let n := 2 ^ sz.toNat
  let va := s.g a
  if va.toNat % n ≠ 0 then trap cMISALIGN va
  issueLoads s 4 [(va, n, 8)] (.g t n (zx == 0)) (some sc)

/-- LD.ACQ (R212). -/
def execLdAcq (t a : BitVec 5) (zx : BitVec 1) (sz : BitVec 2) (sc : BitVec 3) (s : State) :=
  finish 4 s (ldAcqBody s t a zx sz sc)

/-- ST.REL (R212): the translation, then the wait of the release, then the store. -/
def stRelBody (s : State) (t a : BitVec 5) (sz : BitVec 2) (sc : BitVec 3) : Body := do
  let n := 2 ^ sz.toNat
  let va := s.g a
  if va.toNat % n ≠ 0 then trap cMISALIGN va
  let _ ← lift (s.locateUnits .store va n 8)
  releaseWait s sc.toNat
  issueStore s va 8 (leBytes n (s.g t).toNat) true

/-- ST.REL (R212). -/
def execStRel (t a : BitVec 5) (sz : BitVec 2) (sc : BitVec 3) (s : State) := finish 4 s (stRelBody s t a sz sc)

/-- The acquire of FENCE.ACQ: after every older load has returned (R213). -/
def fenceAcqBody (s : State) (sc : BitVec 3) : Body :=
  if s.self.loads = [] then .ok (s.acquireSelf sc.toNat) else .error (.wait none s)

/-- FENCE.REL (R213). -/
def execFenceRel (sc : BitVec 3) (s : State) := finish 4 s (do releaseWait s sc.toNat; pure s)
/-- FENCE.ACQ (R213). -/
def execFenceAcq (sc : BitVec 3) (s : State) := finish 4 s (fenceAcqBody s sc)
/-- FENCE.AR (R213). -/
def execFenceAr (sc : BitVec 3) (s : State) := finish 4 s (do releaseWait s sc.toNat; fenceAcqBody s sc)

/-- A line read toward the executing core, its home slice, or its ownership requested; host memory behaves as TRK (R204, R214). It translates as a store
would with OWN, and else as a load; of OWN and L2 together, which the spec does not order, OWN prevails on a line that can be owned (DESIGN CHOICES,
log entry 86). -/
def prefState (s : State) (va : Word) (l2 own : Bool) : State :=
  let x := s.self
  if isCaddy va then s
  else match s.translate x.who va (if own then .store else .load) with
    | .error _ => s
    | .ok t =>
      let a := { s.accessOf va 1 t with pa := t.pa / 64 * 64, n := 64, fresh := true }
      if t.cls == .pod || t.cls == .config || (t.cls == .host && s.hostDown t.pa) || s.placeAsleep a then s
      else
        let fetched (s : State) : State := if t.cls == .host then s.fetchHost (t.pa / 64) else s
        let home (s : State) : State := (fetched s).l2Bring a.home a.pa (some a.ctx)
        if !a.cached then (if l2 then home s else s)
        else if own then
          if s.ownedHit a then s
          else
            let s := (fetched s).sliceRead a.home a.pa 64 a.ctx 1
            (s.grantLine (t.pa / 64) x.unit (some x.ctx)).l1Put x.unit { s.ownLine a with dirty := 0 }
        else if l2 then home s
        else (s.readAt a).2

/-- PREF never traps and changes no value (R214). -/
def execPref (a : BitVec 5) (imm : BitVec 12) (l2 own : BitVec 1) (s : State) :=
  finish 4 s (.ok (prefState s (ea s a imm) (l2 == 1) (own == 1)))

/-- A core gives up a line, if it owns it, its changed words reaching their home, and keeps no copy of it (R217). -/
def State.dropLine (s : State) (line : Nat) (c : Coord) : State :=
  let s := if s.lineOwner line = some c then s.requestLine line none true else s
  s.modCore c (·.l1Drop line)

/-- DISCARD: every copy of the line on this core goes without being written back (R215). -/
def discardBody (s : State) (a : BitVec 5) (imm : BitVec 12) : Body := do
  let va := ea s a imm
  if va.toNat % 64 ≠ 0 then trap cMISALIGN va
  if isCaddy va then trap cBADCLASS va
  let t ← lift (s.translate s.self.who va .store)
  if t.cls == .acc || t.cls == .det then trap cBADCLASS va
  roomFor s .st 1
  let pkt := Packet.discard (s.accessOf va 64 t)
  let s := (s.modCore s.self.unit (·.l1Drop (t.pa / 64))).dropLine (t.pa / 64) s.self.unit
  pure { s.count .st 1 with net := s.net ++ [pkt] }

/-- DISCARD (R215). -/
def execDiscard (a : BitVec 5) (imm : BitVec 12) (s : State) := finish 4 s (discardBody s a imm)

/-- CLEAN (R216). -/
def cleanBody (s : State) (a : BitVec 5) (imm : BitVec 12) (depth : BitVec 1) : Body := do
  let va := ea s a imm
  if isCaddy va then trap cBADCLASS va
  let t ← lift (s.translate s.self.who va .load)
  roomFor s .st 1
  let pkt := Packet.clean (s.accessOf va 1 t) (depth == 1)
  pure { s.count .st 1 with net := s.net ++ [pkt] }

/-- CLEAN (R216). -/
def execClean (a : BitVec 5) (imm : BitVec 12) (depth : BitVec 1) (s : State) := finish 4 s (cleanBody s a imm depth)

/-- INVAL.D (R217). -/
def invalDBody (s : State) (a : BitVec 5) (imm : BitVec 12) : Body := do
  let va := ea s a imm
  if isCaddy va then trap cBADCLASS va
  let t ← lift (s.translate s.self.who va .load)
  pure (s.dropLine (t.pa / 64) s.self.unit)

/-- INVAL.D (R217). -/
def execInvalD (a : BitVec 5) (imm : BitVec 12) (s : State) := finish 4 s (invalDBody s a imm)

/-- INVAL.I: the line leaves the instruction cache, and the loop buffers with a halfword of it, through whatever address, are emptied (R217). -/
def invalIBody (s : State) (a : BitVec 5) (imm : BitVec 12) : Body := do
  let va := ea s a imm
  if isCaddy va then trap cBADCLASS va
  let t ← lift (s.translate s.self.who va .exec)
  let line := t.pa / 64
  pure (s.modCore s.self.unit fun k =>
    { k with icache := k.icache.filter (·.line != line), loops := k.loops.filter fun l => !l.lines.contains line })

/-- INVAL.I (R217). -/
def execInvalI (a : BitVec 5) (imm : BitVec 12) (s : State) := finish 4 s (invalIBody s a imm)

/-- AMO.ADD (R220). -/
def execAmoAdd (g : BitVec 4) (d a b : BitVec 5) (ord : BitVec 2) (s : State) := guarded g s (issueAtomic s .add d a b ord)
/-- AMO.AND (R220). -/
def execAmoAnd (g : BitVec 4) (d a b : BitVec 5) (ord : BitVec 2) (s : State) := guarded g s (issueAtomic s .and d a b ord)
/-- AMO.OR (R220). -/
def execAmoOr (g : BitVec 4) (d a b : BitVec 5) (ord : BitVec 2) (s : State) := guarded g s (issueAtomic s .or d a b ord)
/-- AMO.XOR (R220). -/
def execAmoXor (g : BitVec 4) (d a b : BitVec 5) (ord : BitVec 2) (s : State) := guarded g s (issueAtomic s .xor d a b ord)
/-- AMO.MIN (R220). -/
def execAmoMin (g : BitVec 4) (d a b : BitVec 5) (ord : BitVec 2) (s : State) := guarded g s (issueAtomic s .min d a b ord)
/-- AMO.MAX (R220). -/
def execAmoMax (g : BitVec 4) (d a b : BitVec 5) (ord : BitVec 2) (s : State) := guarded g s (issueAtomic s .max d a b ord)
/-- AMO.MINN (R220). -/
def execAmoMinn (g : BitVec 4) (d a b : BitVec 5) (ord : BitVec 2) (s : State) := guarded g s (issueAtomic s .minn d a b ord)
/-- AMO.MAXN (R220). -/
def execAmoMaxn (g : BitVec 4) (d a b : BitVec 5) (ord : BitVec 2) (s : State) := guarded g s (issueAtomic s .maxn d a b ord)
/-- AMO.SWAP (R220). -/
def execAmoSwap (g : BitVec 4) (d a b : BitVec 5) (ord : BitVec 2) (s : State) := guarded g s (issueAtomic s .swap d a b ord)
/-- AMO.CAS (R220). -/
def execAmoCas (g : BitVec 4) (d a b : BitVec 5) (ord : BitVec 2) (s : State) := guarded g s (issueAtomic s .cas d a b ord)
/-- AMO.FADD (R220). -/
def execAmoFadd (g : BitVec 4) (d a b : BitVec 5) (ord : BitVec 2) (s : State) := guarded g s (issueAtomic s .fadd d a b ord)

end Sys2Proof.Machine
end

