-- ==== Sys2Proof/Machine/Vec.lean ====
section
/-!
DEFINITION. Majors 0x10 to 0x15: packed vectors (06_vector_instructions.md R114 to R137).
-/

namespace Sys2Proof.Machine

/-- A packed register of the executing thread. -/
def State.v (s : State) (r : BitVec 4) : BitVec 128 := s.self.v[r.toNat]
/-- Its tag. -/
def State.tag (s : State) (r : BitVec 4) : BitVec 4 := s.self.tag[r.toNat]

/-- TagCheck of one operand (R91). -/
def accept (ok : Bool) (low : Nat) : Except Stop Unit := if ok then .ok () else trap cBADTAG (BitVec.ofNat 64 low)

/-- The operand matches va (R115). -/
def sameTag (s : State) (r a : BitVec 4) : Except Stop Unit := accept (s.tag r == s.tag a) (s.tag a).toNat

/-- A tag of the FP arithmetic family (R115). -/
def fpTag (t : BitVec 4) : Bool := 1 ≤ t.toNat && t.toNat ≤ 4
/-- A tag of the integer family (R115). -/
def intTag (t : BitVec 4) : Bool := 7 ≤ t.toNat && t.toNat ≤ 11

/-- A packed result with its tag and flags (R114). -/
def putV (s : State) (d : BitVec 4) (x : BitVec 128) (tag : BitVec 4) (fl : Flags := 0) : Body :=
  .ok (s.modSelf fun t => (t.setV d x tag).addFlags fl)

/-- The format of an FP tag; binary32 stands in for a tag that has none. -/
def fpOf (t : BitVec 4) : Fmt := (tagFp t).getD fmtF32

/-- The lanes of a result, with the flags of all lanes (R86). -/
def lanewise (n w : Nat) (f : Nat → Nat × Flags) : BitVec 128 × Flags :=
  let rs := (List.range n).map f
  (ofLanes w (rs.map (·.1)), rs.foldl (fun fl r => fl ||| r.2) 0)

/-! ## Major 0x10 (R117) -/

/-- VLD (R117, R118). -/
def execVld (t : BitVec 4) (a : BitVec 5) (off : BitVec 8) (tag : BitVec 4) (s : State) :=
  finish 4 s (issueLoads s 4 [(s.g a + 16 * off.signExtend 64, 16, 16)] (.v t tag) none)

/-- VST (R117, R118). -/
def execVst (t : BitVec 4) (a : BitVec 5) (imm : BitVec 12) (s : State) :=
  finish 4 s (issueStore s (s.g a + sext12 imm) 16 (leBytes 16 (s.v t).toNat))

/-! ## Major 0x11 (R120 to R123) -/

/-- A lane of an exact operation rounded once, its flags with those of the operation (R120, R122). -/
def roundLane (k : Fmt) (rm : RMode) (r : FVal × Flags) : Nat × Flags :=
  let (b, f) := k.round rm false r.1
  (b, f ||| r.2)

/-- A two-operand form on lanes read as values. -/
def fpBin (s : State) (d a b : BitVec 4) (f : RMode → FVal → FVal → FVal × Flags) : Body := do
  accept (fpTag (s.tag a)) 1
  sameTag s b a
  let k := fpOf (s.tag a)
  let w := tagBits (s.tag a)
  let rm := s.self.rm
  let (x, fl) := lanewise (tagLanes (s.tag a)) w fun i =>
    roundLane k rm (f rm (k.decode (lane (s.v a) w i)) (k.decode (lane (s.v b) w i)))
  putV s d x (s.tag a) fl

/-- VADD (R120). -/
def execVadd (g d a b : BitVec 4) (s : State) := guarded g s (fpBin s d a b FVal.add)
/-- VSUB (R120). -/
def execVsub (g d a b : BitVec 4) (s : State) := guarded g s (fpBin s d a b fun rm x y => x.add rm y.neg)
/-- VMUL (R120). -/
def execVmul (g d a b : BitVec 4) (s : State) := guarded g s (fpBin s d a b fun _ x y => x.mul y)
/-- VDIV (R120). -/
def execVdiv (g d a b : BitVec 4) (s : State) := guarded g s (fpBin s d a b fun _ x y => x.div y)

/-- minimumNumber or maximumNumber of two encodings (R121). -/
def minMax (k : Fmt) (mx : Bool) (a b : Nat) : Nat × Flags :=
  let x := k.decode a
  let y := k.decode b
  let fl := flagIf (x.isSig || y.isSig) fNV
  if x.isNan && y.isNan then (k.nanBits, fl)
  else if x.isNan then (b, fl)
  else if y.isNan then (a, fl)
  else if mx then (if x.lt y then b else a, fl) else (if y.lt x then b else a, fl)

/-- VMIN and VMAX on their operands. -/
def fpMinMax (s : State) (mx : Bool) (d a b : BitVec 4) : Body := do
  accept (fpTag (s.tag a)) 1
  sameTag s b a
  let w := tagBits (s.tag a)
  let (x, fl) := lanewise (tagLanes (s.tag a)) w fun i => minMax (fpOf (s.tag a)) mx (lane (s.v a) w i) (lane (s.v b) w i)
  putV s d x (s.tag a) fl

/-- VMIN (R121). -/
def execVmin (g d a b : BitVec 4) (s : State) := guarded g s (fpMinMax s false d a b)
/-- VMAX (R121). -/
def execVmax (g d a b : BitVec 4) (s : State) := guarded g s (fpMinMax s true d a b)

/-- ±(x × y) ± c, exact (R122). -/
def fusedExact (rm : RMode) (negP negC : Bool) (x y c : FVal) : FVal × Flags :=
  let (p, f) := x.mul y
  let (r, f') := (if negP then p.neg else p).add rm (if negC then c.neg else c)
  (r, f ||| f')

/-- The fused forms: vd is a source, matching va (R119, R122). -/
def fpFused (s : State) (negP negC : Bool) (d a b : BitVec 4) : Body := do
  accept (fpTag (s.tag a)) 1
  sameTag s b a
  sameTag s d a
  let k := fpOf (s.tag a)
  let w := tagBits (s.tag a)
  let rm := s.self.rm
  let at_ (r : BitVec 4) (i : Nat) : FVal := k.decode (lane (s.v r) w i)
  let (x, fl) := lanewise (tagLanes (s.tag a)) w fun i => roundLane k rm (fusedExact rm negP negC (at_ a i) (at_ b i) (at_ d i))
  putV s d x (s.tag a) fl

/-- VFMA (R122). -/
def execVfma (g d a b : BitVec 4) (s : State) := guarded g s (fpFused s false false d a b)
/-- VFMS (R122). -/
def execVfms (g d a b : BitVec 4) (s : State) := guarded g s (fpFused s false true d a b)
/-- VFNMA (R122). -/
def execVfnma (g d a b : BitVec 4) (s : State) := guarded g s (fpFused s true false d a b)
/-- VFNMS (R122). -/
def execVfnms (g d a b : BitVec 4) (s : State) := guarded g s (fpFused s true true d a b)

/-- Comparison of two values by cc (R119, R123). -/
def fpCompare (cc : BitVec 3) (x y : FVal) : Bool × Flags :=
  let un := x.isNan || y.isNan
  let c := x.cmp y
  let sig := flagIf (x.isSig || y.isSig) fNV
  let any := flagIf un fNV
  match cc.toNat with
  | 0 => (!un && c == 0, sig)
  | 1 => (un || c != 0, sig)
  | 2 => (!un && c < 0, any)
  | 3 => (!un && c ≤ 0, any)
  | 4 => (!un && 0 < c, any)
  | 5 => (!un && 0 ≤ c, any)
  | 6 => (un, sig)
  | _ => (!un, sig)

/-- Comparison of two integers by cc (R123). -/
def intCompare (cc : BitVec 3) (x y : Int) : Bool :=
  match cc.toNat with
  | 0 => x == y
  | 1 => x != y
  | 2 => x < y
  | 3 => x ≤ y
  | 4 => y < x
  | 5 => y ≤ x
  | 6 => false
  | _ => true

/-- VCMP (R123). -/
def vcmpBody (s : State) (d : BitVec 5) (a b : BitVec 4) (cc : BitVec 3) : Body := do
  let ta := s.tag a
  accept (ta != 0) 1
  sameTag s b a
  let w := tagBits ta
  let rs := (List.range (tagLanes ta)).map fun i =>
    let x := lane (s.v a) w i
    let y := lane (s.v b) w i
    match tagFp ta with
    | some k => fpCompare cc (k.decode x) (k.decode y)
    | none => (intCompare cc ((tagInt ta).decode x) ((tagInt ta).decode y), 0)
  let bits := packBits 1 (rs.map fun r => if r.1 then 1 else 0)
  let fl := rs.foldl (fun fl r => fl ||| r.2) 0
  pure (s.modSelf fun t => (t.setG d (BitVec.ofNat 64 bits)).addFlags fl)

/-- VCMP (R123). -/
def execVcmp (g : BitVec 4) (d : BitVec 5) (a b : BitVec 4) (cc : BitVec 3) (s : State) := guarded g s (vcmpBody s d a b cc)

/-! ## Major 0x12 (R125, R126) -/

/-- A one-operand form on the encodings of lanes. -/
def fpUn (s : State) (d a : BitVec 4) (f : Fmt → Nat → Nat × Flags) : Body := do
  accept (fpTag (s.tag a)) 1
  let k := fpOf (s.tag a)
  let w := tagBits (s.tag a)
  let (x, fl) := lanewise (tagLanes (s.tag a)) w fun i => f k (lane (s.v a) w i)
  putV s d x (s.tag a) fl

/-- Precision of the estimates by tag (R126). -/
def estBits (tag : BitVec 4) : Nat :=
  match tag.toNat with
  | 1 => 24
  | 2 => 12
  | 3 => 11
  | _ => 8

/-- An estimate form. -/
def fpEst (s : State) (d a : BitVec 4) (f : FVal → FVal × Flags) : Body :=
  fpUn s d a fun k x => k.estimate (estBits (s.tag a)) (f (k.decode x))

/-- VABS: the sign bit of every lane cleared (R125). -/
def execVabs (g d a : BitVec 4) (s : State) := guarded g s (fpUn s d a fun k x => (x % 2 ^ (k.x + k.f), 0))
/-- VNEG: the sign bit of every lane inverted (R125). -/
def execVneg (g d a : BitVec 4) (s : State) :=
  guarded g s (fpUn s d a fun k x => ((x + 2 ^ (k.x + k.f)) % 2 ^ (k.x + k.f + 1), 0))
/-- VSQRT (R125). -/
def execVsqrt (g d a : BitVec 4) (s : State) := guarded g s (fpUn s d a fun k x => roundLane k s.self.rm (k.decode x).sqrt)
/-- VRCP (R126). -/
def execVrcp (g d a : BitVec 4) (s : State) := guarded g s (fpEst s d a FVal.rcp)
/-- VRSQ (R126). -/
def execVrsq (g d a : BitVec 4) (s : State) := guarded g s (fpEst s d a FVal.rsq)
/-- VEXP2 (R126). -/
def execVexp2 (g d a : BitVec 4) (s : State) := guarded g s (fpEst s d a FVal.exp2)
/-- VLOG2 (R126). -/
def execVlog2 (g d a : BitVec 4) (s : State) := guarded g s (fpEst s d a FVal.log2)

/-! ## Major 0x13 (R128, R129) -/

/-- A lanewise integer form; `useD` takes vd as a source (R128). -/
def intBin (s : State) (d a b : BitVec 4) (useD sat : Bool) (f : Int → Int → Int → Int) : Body := do
  accept (intTag (s.tag a)) 7
  sameTag s b a
  if useD then sameTag s d a
  let k := tagInt (s.tag a)
  let w := tagBits (s.tag a)
  let at_ (r : BitVec 4) (i : Nat) : Int := k.decode (lane (s.v r) w i)
  let (x, _) := lanewise (tagLanes (s.tag a)) w fun i =>
    let r := f (at_ a i) (at_ b i) (at_ d i)
    (if sat then k.sat r else k.wrap r, 0)
  putV s d x (s.tag a)

/-- VIADD (R128). -/
def execViadd (g d a b : BitVec 4) (s : State) := guarded g s (intBin s d a b false false fun x y _ => x + y)
/-- VISUB (R128). -/
def execVisub (g d a b : BitVec 4) (s : State) := guarded g s (intBin s d a b false false fun x y _ => x - y)
/-- VIMUL (R128). -/
def execVimul (g d a b : BitVec 4) (s : State) := guarded g s (intBin s d a b false false fun x y _ => x * y)
/-- VIMAC (R128). -/
def execVimac (g d a b : BitVec 4) (s : State) := guarded g s (intBin s d a b true false fun x y c => c + x * y)
/-- VIADD.S (R128). -/
def execViaddS (g d a b : BitVec 4) (s : State) := guarded g s (intBin s d a b false true fun x y _ => x + y)
/-- VISUB.S (R128). -/
def execVisubS (g d a b : BitVec 4) (s : State) := guarded g s (intBin s d a b false true fun x y _ => x - y)
/-- VIMUL.S (R128). -/
def execVimulS (g d a b : BitVec 4) (s : State) := guarded g s (intBin s d a b false true fun x y _ => x * y)
/-- VIMAC.S (R128). -/
def execVimacS (g d a b : BitVec 4) (s : State) := guarded g s (intBin s d a b true true fun x y c => c + x * y)

/-- A shift form: the count is the low log2 of the lane width bits of vb's lane (R129). -/
def vShift (s : State) (d a b : BitVec 4) (f : IFmt → Nat → Nat → Nat) : Body := do
  accept (intTag (s.tag a)) 7
  sameTag s b a
  let k := tagInt (s.tag a)
  let w := tagBits (s.tag a)
  let (x, _) := lanewise (tagLanes (s.tag a)) w fun i => (f k (lane (s.v a) w i) (lane (s.v b) w i % w), 0)
  putV s d x (s.tag a)

/-- VSHL (R129). -/
def execVshl (g d a b : BitVec 4) (s : State) := guarded g s (vShift s d a b fun _ x n => x * 2 ^ n)
/-- VSHR (R129). -/
def execVshr (g d a b : BitVec 4) (s : State) := guarded g s (vShift s d a b fun _ x n => x / 2 ^ n)
/-- VSRA (R129). -/
def execVsra (g d a b : BitVec 4) (s : State) := guarded g s (vShift s d a b fun k x n => k.wrap (k.decode x / (2 ^ n : Nat)))
/-- VAND (R129). -/
def execVand (g d a b : BitVec 4) (s : State) := guarded g s (putV s d (s.v a &&& s.v b) (s.tag a))
/-- VOR (R129). -/
def execVor (g d a b : BitVec 4) (s : State) := guarded g s (putV s d (s.v a ||| s.v b) (s.tag a))
/-- VXOR (R129). -/
def execVxor (g d a b : BitVec 4) (s : State) := guarded g s (putV s d (s.v a ^^^ s.v b) (s.tag a))

/-! ## Major 0x14 (R131 to R134) -/

/-- One lane converted (R131). -/
def cvtLane (rm : RMode) (sat : Bool) (src dst : BitVec 4) (x : Nat) : Nat × Flags :=
  match tagFp src, tagFp dst with
  | some k, some t => t.round rm sat (k.decode x)
  | some k, none => (tagInt dst).ofFp rm (k.decode x)
  | none, some t => t.round rm sat (FVal.ofInt ((tagInt src).decode x))
  | none, none => ((tagInt dst).sat ((tagInt src).decode x), 0)

/-- VCVT (R131). -/
def vcvtBody (s : State) (d a tag : BitVec 4) (sat : Bool) (k : BitVec 3) : Body := do
  let ta := s.tag a
  accept (ta != 0) 1
  let ns := tagLanes ta
  let nd := tagLanes tag
  let narrow := ns < nd
  if narrow then accept (s.tag d == tag || s.tag d == 0) 0
  let base := if nd < ns then k.toNat % (ns / nd) * nd else 0
  let slot := if narrow then k.toNat % (nd / ns) * ns else 0
  let rm := s.self.rm
  let rs := (List.range (min ns nd)).map fun i => cvtLane rm sat ta tag (lane (s.v a) (tagBits ta) (base + i))
  let old := if narrow then s.v d else 0
  let x := rs.zipIdx.foldl (fun x p => setLane x (tagBits tag) (slot + p.2) p.1.1) old
  putV s d x tag (rs.foldl (fun fl r => fl ||| r.2) 0)

/-- VCVT (R131). -/
def execVcvt (g d a tag : BitVec 4) (sat : BitVec 1) (k : BitVec 3) (s : State) := guarded g s (vcvtBody s d a tag (sat == 1) k)

/-- Stores of several ranges, each counted once in ST (R132): all are located before any is sent. -/
def issueStores (s : State) (ranges : List (Word × List Byte)) : Body := do
  let locs ← ranges.mapM fun r => lift (s.locateUnits .store r.1 r.2.length 8)
  roomFor s .st ranges.length
  let x := s.self
  gate s (locs.flatten.filter fun u => s.ownCaddy u.t)
  let one (s : State) (us : List Unit8) (data : List Byte) : State :=
    let away := (us.filter fun u => !s.ownCaddy u.t).length
    let (gid, s) := if away = 0 then (0, s) else (s.count .st 1).newGroup .st [s.cur] away
    (us.foldl (fun (acc : State × List Byte) u =>
      let (s, bs) := acc
      let s :=
        if s.ownCaddy u.t then s.caddyWrite x.ctx x.core (keyOff u.t.pa) (bs.take u.n)
        else { s with net := s.net ++ [.store { s.accessOf u.va u.n u.t with id := gid } (bs.take u.n)] }
      (s, bs.drop u.n)) (s, data)).1
  pure ((locs.zip ranges).foldl (fun s p => one s p.1 p.2.2) s)

/-- The registers of a group from `r` on. -/
def groupRegs (r : BitVec 4) (n : Nat) : List (BitVec 4) := (List.range n).map fun i => BitVec.ofNat 4 (r.toNat + i)

/-- VQNT: the group's values quantised to one block, which is stored (R132). -/
def vqntBody (s : State) (d : BitVec 5) (a : BitVec 1) (b : BitVec 5) (f : BitVec 4) : Body := do
  let code := 12 + f.toNat
  let r0 : BitVec 4 := BitVec.ofNat 4 (8 * a.toNat)
  let ta := s.tag r0
  accept (2 ≤ ta.toNat && ta.toNat ≤ 4) 2
  let w := tagBits ta
  let count := if isMxCode code then 32 else 16
  let regs := groupRegs r0 (count * w / 128)
  let _ ← regs.mapM fun r => sameTag s r r0
  let xs := regs.flatMap fun r => (List.range (128 / w)).map fun i => (fpOf ta).decode (lane (s.v r) w i)
  let (x, c) := quantBlock code xs
  let elems := (s.g d, leBytes (blockBytes code) x)
  issueStores s (if isMxCode code then [elems, (s.g b, leBytes 1 c)] else [elems])

/-- VQNT (R132). -/
def execVqnt (g : BitVec 4) (d : BitVec 5) (a : BitVec 1) (b : BitVec 5) (f : BitVec 4) (s : State) := guarded g s (vqntBody s d a b f)

/-- VDEQ: one block read; LD counts once for each address (R133). -/
def vdeqBody (s : State) (d : BitVec 2) (a b : BitVec 5) (f : BitVec 4) : Body :=
  let code := 12 + f.toNat
  let elems := (s.g a, blockBytes code, 8)
  if isMxCode code then issueLoads s 4 [elems, (s.g b, 1, 8)] (.deq d f (s.self.fcsr.setWidth 3)) none (some 2)
  else issueLoads s 4 [elems] (.deq d f (s.self.fcsr.setWidth 3)) none (some 1)

/-- VDEQ (R133). -/
def execVdeq (g : BitVec 4) (d : BitVec 2) (a b : BitVec 5) (f : BitVec 4) (s : State) := guarded g s (vdeqBody s d a b f)

/-- The exact sum of terms, and the flags of the operation: a NaN term, and infinities of both signs (R134). -/
def exactSum (ts : List (FVal × Flags)) : FVal × Flags :=
  let opp := (ts.any fun t => t.1 == .inf true) && ts.any fun t => t.1 == .inf false
  let fl := ts.foldl (fun f t => f ||| t.2 ||| flagIf t.1.isSig fNV) (flagIf opp fNV)
  match ts with
  | [] => (.fin false 0 0, fl)
  | t :: rest => (rest.foldl (fun x t => (x.add .rne t.1).1) t.1, fl)

/-- VDOT (R134). -/
def vdotBody (s : State) (d a b : BitVec 4) : Body := do
  let ta := s.tag a
  let n := ta.toNat
  let ok := n == 3 || n == 4 || n == 5 || n == 6 || n == 10 || n == 11
  accept ok 3
  if n ≤ 4 then sameTag s b a
  else if n ≤ 6 then accept (s.tag b == 5 || s.tag b == 6) 5
  else accept (s.tag b == 10 || s.tag b == 11) 10
  let acc : BitVec 4 := if n ≤ 6 then 2 else 8
  accept (s.tag d == acc) acc.toNat
  let w := tagBits ta
  let q := 32 / w
  let (x, fl) := lanewise 4 32 fun j =>
    if n ≤ 6 then
      let term (i : Nat) : FVal × Flags := ((fpOf ta).decode (lane (s.v a) w i)).mul ((fpOf (s.tag b)).decode (lane (s.v b) w i))
      let terms := (fmtF32.decode (lane (s.v d) 32 j), (0 : Flags)) :: (List.range q).map fun i => term (q * j + i)
      roundLane fmtF32 .rne (exactSum terms)
    else
      let k : IFmt := { signed := true, bits := 32 }
      let prod (i : Nat) : Int := (tagInt ta).decode (lane (s.v a) w i) * (tagInt (s.tag b)).decode (lane (s.v b) w i)
      (k.wrap (k.decode (lane (s.v d) 32 j) + ((List.range q).map fun i => prod (q * j + i)).foldl (· + ·) 0), 0)
  putV s d x acc fl

/-- VDOT (R134). -/
def execVdot (g d a b : BitVec 4) (s : State) := guarded g s (vdotBody s d a b)

/-! ## Major 0x15 (R136, R137) -/

/-- VSPLAT (R136). -/
def execVsplat (g d : BitVec 4) (a : BitVec 5) (tag : BitVec 4) (s : State) :=
  guarded g s (putV s d (ofLanes (tagBits tag) (List.replicate (tagLanes tag) (s.g a).toNat)) tag)

/-- VMOV (R136). -/
def execVmov (g d a : BitVec 4) (s : State) := guarded g s (putV s d (s.v a) (s.tag a))

/-- VSEL (R136). -/
def vselBody (s : State) (d a : BitVec 4) (b : BitVec 5) : Body := do
  sameTag s d a
  let w := tagBits (s.tag a)
  let (x, _) := lanewise (tagLanes (s.tag a)) w fun i => (lane (if (s.g b).getLsbD i then s.v a else s.v d) w i, 0)
  putV s d x (s.tag a)

/-- VSEL (R136). -/
def execVsel (g d a : BitVec 4) (b : BitVec 5) (s : State) := guarded g s (vselBody s d a b)

/-- VSHUF (R136). -/
def execVshuf (g d a : BitVec 4) (b : BitVec 5) (s : State) :=
  guarded g s (
    let w := tagBits (s.tag a)
    let n := tagLanes (s.tag a)
    putV s d (lanewise n w fun i => (lane (s.v a) w (Word.field (s.g b) (4 * i) 4 % n), 0)).1 (s.tag a))

/-- VEXT (R136). -/
def vextBody (s : State) (d : BitVec 5) (a idx : BitVec 4) : Body := do
  let ta := s.tag a
  accept (ta != 0) 1
  let x := lane (s.v a) (tagBits ta) (idx.toNat % tagLanes ta)
  let signed := 7 ≤ ta.toNat && ta.toNat ≤ 10
  pure (s.setG d (BitVec.ofInt 64 (if signed then (tagInt ta).decode x else x)))

/-- VEXT (R136). -/
def execVext (g : BitVec 4) (d : BitVec 5) (a idx : BitVec 4) (s : State) := guarded g s (vextBody s d a idx)

/-- VINS (R136). -/
def vinsBody (s : State) (d : BitVec 4) (a : BitVec 5) (idx : BitVec 4) : Body := do
  let td := s.tag d
  accept (td != 0) 1
  putV s d (setLane (s.v d) (tagBits td) (idx.toNat % tagLanes td) (s.g a).toNat) td

/-- VINS (R136). -/
def execVins (g d : BitVec 4) (a : BitVec 5) (idx : BitVec 4) (s : State) := guarded g s (vinsBody s d a idx)

/-- One level of the pairwise tree (R137). -/
def pairUp (op : Nat → Nat → Nat × Flags) : List (Nat × Flags) → List (Nat × Flags)
  | x :: y :: rest => (let r := op x.1 y.1; (r.1, r.2 ||| x.2 ||| y.2)) :: pairUp op rest
  | l => l

/-- The tree, `fuel` levels (R137). -/
def treeFold (op : Nat → Nat → Nat × Flags) : Nat → List (Nat × Flags) → Nat × Flags
  | 0, l => l.headD (0, 0)
  | fuel + 1, l => treeFold op fuel (pairUp op l)

/-- VHSUM and VHMAX (R137). -/
def horizontal (s : State) (d a : BitVec 4) (fpOp : Fmt → Nat → Nat → Nat × Flags) (intOp : IFmt → Int → Int → Int) : Body := do
  let ta := s.tag a
  accept (fpTag ta || intTag ta) 1
  let w := tagBits ta
  let op (x y : Nat) : Nat × Flags :=
    if fpTag ta then fpOp (fpOf ta) x y else ((tagInt ta).wrap (intOp (tagInt ta) ((tagInt ta).decode x) ((tagInt ta).decode y)), 0)
  let (x, fl) := treeFold op 4 ((List.range (tagLanes ta)).map fun i => (lane (s.v a) w i, 0))
  putV s d (BitVec.ofNat 128 x) ta fl

/-- VHSUM (R137). -/
def execVhsum (g d a : BitVec 4) (s : State) :=
  guarded g s (horizontal s d a (fun k x y => roundLane k s.self.rm ((k.decode x).add s.self.rm (k.decode y))) fun _ x y => x + y)
/-- VHMAX (R137). -/
def execVhmax (g d a : BitVec 4) (s : State) := guarded g s (horizontal s d a (fun k x y => minMax k true x y) fun _ x y => max x y)

end Sys2Proof.Machine
end

