-- ==== Sys2Proof/Machine/Acc.lean ====
section
/-!
DEFINITION. Major 0x19, the infusers, the strainers and the identity records (08_infusers_and_determinism.md R163 to R181).
-/

namespace Sys2Proof.Machine

/-! ## The infuser (R165 to R172) -/

/-- NEXTKEY of the ACC line at an address (R165). -/
def State.keyOf (s : State) (pa : Nat) : BitVec 16 := Tab.get s.nextKey 0 (pa / 64)

/-- NEXTKEY set, as metadata of its line. -/
def State.setKey (s : State) (pa : Nat) (k : BitVec 16) : State :=
  State.mend { s with nextKey := Tab.set s.nextKey (pa / 64) k } 2 0 (metaLoc + pa / 64 * 64) 8

/-- The sixteen words of a line. -/
def State.lineWords (s : State) (pa : Nat) : List (BitVec 32) :=
  (List.range 16).map fun j => BitVec.ofNat 32 (leNat (s.bytes (pa + 4 * j) 4))

/-- The sixteen words of a line replaced. -/
def State.putLine (s : State) (pa : Nat) (ws : List (BitVec 32)) : State :=
  s.putBytes pa (ws.flatMap fun w => leBytes 4 w.toNat)

/-- The acknowledgement of every partial that a line contains sets out (R167). -/
def State.ackRed (s : State) (r : RedLine) : State := { s with net := s.net ++ r.groups.map Packet.redAck }

/-- Apply (R167). -/
def State.applyRed (s : State) (r : RedLine) : State :=
  ((s.putLine r.pa ((s.lineWords r.pa).zipWith fadd32 r.words)).sliceWrite r.home r.pa 64 r.ctx 5).ackRed r

/-- Parked entries for a line are discarded, each acknowledged (R176). -/
def State.dropParked (s : State) (pa : Nat) : State :=
  (s.parks.filter (·.pa == pa)).foldl State.ackRed { s with parks := s.parks.filter (·.pa != pa) }

/-- The parked successors of a line are applied in key order, oldest of a key first; each application takes one entry (R169). One whose entry cannot be
read halts its context, and nothing is applied of it (R382, R397). -/
def State.applyParked (s : State) (pa : Nat) : Nat → State
  | 0 => s
  | fuel + 1 =>
    match s.parks.find? fun r => r.pa == pa && r.key == s.keyOf pa with
    | none => s
    | some r =>
      let s := s.meetErrors 2 r.home (parkAt r.home r.slot) 64 r.ctx 5
      if s.halted r.ctx then s
      else State.applyParked (({ s with parks := s.parks.erase r }.applyRed r).setKey pa (s.keyOf pa + 1)) pa fuel

/-- A line takes the lowest free place of the park buffer of its home slice (R169). -/
def State.park (s : State) (r : RedLine) : State :=
  let held := (s.parks.filter (·.home == r.home)).map (·.slot)
  let n := ((List.range 64).find? fun i => !held.contains i).getD 0
  State.mend { s with parks := s.parks ++ [{ r with slot := n }] } 2 r.home (parkAt r.home n) 64

/-- Bytes of the retry area of a context, in lines (R170, R355). -/
def State.retryPlaces (s : State) (ctx : CtxId) : Nat :=
  let n := (s.ctxField ctx 0x38).toNat
  (if n = 0 then 2 ^ 20 else n) / 64

/-- The lowest place of a context's retry area that no held line has (R170). -/
def State.retrySlot (s : State) (ctx : CtxId) : Nat :=
  let held := s.cores.flatMap fun e => (e.2.retry.filter (·.ctx == ctx)).map (·.slot)
  ((List.range (held.length + 1)).find? fun i => !held.contains i).getD held.length

/-- Who the hardware is when it goes to an area of a context: it holds no translation (R345). -/
def areaWho (ctx : CtxId) : Who := { ctx, core := hwUnit, svc := true, pl := 1 }

/-- The address of a held line in the retry area of its context (R170, R355). -/
def State.retryVa (s : State) (r : RedLine) : Word := s.ctxField r.ctx 0x30 + BitVec.ofNat 64 (64 * r.slot)

/-- The physical place of a held line in the retry area of its context, where it has one (R170, R355). -/
def State.retryAt (s : State) (r : RedLine) : Option Nat :=
  if s.retryPlaces r.ctx ≤ r.slot then none
  else match s.translate (areaWho r.ctx) (s.retryVa r) .store with
    | .ok t => if isHbm t.pa then some t.pa else none
    | .error _ => none

/-- A held line is written to its place in the retry area, if it has one, once the walk for it has been made (R170, R181, R347). -/
def State.putRetry (s : State) (r : RedLine) : State :=
  match s.retryAt r with
  | some pa => ((s.walkTouch (areaWho r.ctx) (s.retryVa r)).unitWrite (s.partOf r.ctx) .hall (some r.ctx) pa (r.words.flatMap fun w => leBytes 4 w.toNat))
  | none => s

/-- A held line is read at its place in the retry area. -/
def State.readRetry (s : State) (r : RedLine) : State :=
  match s.retryAt r with
  | some pa => (s.walkTouch (areaWho r.ctx) (s.retryVa r)).unitRead (s.partOf r.ctx) .hall (some r.ctx) pa 64
  | none => s

/-- A refused line comes back to its core and takes a place of the retry area, which it is written to where its context has left the core (R181); where
every place is in use the context halts, and the core keeps the line without one (R170, log entry 30). -/
def State.refuseRed (s : State) (r : RedLine) : State :=
  let c := r.cores.headD 0
  let n := s.retrySlot r.ctx
  let r := { r with slot := n }
  let s' := s.modCore c fun k => { k with retry := k.retry ++ [r] }
  if s.retryPlaces r.ctx ≤ n then s'.haltCtx r.ctx { cause := 4, unit := some c, kind := 1 }
  else if (s.coreAt c).ctxs.contains r.ctx then s'
  else s'.putRetry r

/-- The retry store of a core is written to the retry area of a context that leaves (R181). -/
def State.saveRetry (s : State) (ctx : CtxId) (c : Coord) : State :=
  ((s.coreAt c).retry.filter (·.ctx == ctx)).foldl State.putRetry s

/-- The held lines of a context that comes back are read from its retry area (R181, R390). -/
def State.loadRetry (s : State) (ctx : CtxId) (c : Coord) : State :=
  let s := ((s.coreAt c).retry.filter (·.ctx == ctx)).foldl State.readRetry s
  s.modCore c fun k => { k with retry := k.retry.map fun r => match (if r.ctx == ctx then s.retryAt r else none) with
    | some pa => { r with words := s.lineWords pa }
    | none => r }

/-- Arrive (R169). The line of the expected key and its parked successors are applied in one step (DESIGN CHOICE, log entry 85). -/
def State.arriveRed (s : State) (r : RedLine) : State :=
  if r.key = s.keyOf r.pa then
    ((s.applyRed r).setKey r.pa (r.key + 1)).applyParked r.pa s.parks.length
  else if (s.parks.filter (·.home == r.home)).length < 64 then s.park r
  else s.refuseRed r

/-- The narrowest scope whose single instance contains two cores (R27, R168). -/
def State.scopeBetween (s : State) (ctx : CtxId) (a b : Coord) : Nat :=
  if a = b then 0 else if s.clusterOf ctx a = s.clusterOf ctx b then 1 else if a.toNat / 128 = b.toNat / 128 then 2 else 3

/-- Two free-mode partials that may be pre-combined (R168). -/
def State.mayCombine (s : State) (p q : RedLine) : Bool :=
  !p.ord && !q.ord && p.pa == q.pa && p.ctx == q.ctx &&
    p.cores.all fun a => q.cores.all fun b => s.scopeBetween p.ctx a b ≤ min p.scope.toNat q.scope.toNat

/-- Two partials combined (R168). -/
def combineRed (p q : RedLine) : RedLine :=
  { p with
    words := p.words.zipWith fadd32 q.words
    scope := if p.scope ≤ q.scope then p.scope else q.scope
    cores := p.cores ++ q.cores
    groups := p.groups ++ q.groups
    by_ := p.by_ ++ q.by_ }

/-- A partial reaches its home: the router, the line, and for an ordered one its NEXTKEY, are read (R169, R395). -/
def State.meetRed (s : State) (p : RedLine) : State :=
  let s := (s.meetErrors 9 p.home 0 2 p.ctx 5).sliceRead p.home p.pa 64 p.ctx 5
  if p.ord then s.meetErrors 2 p.home (metaLoc + p.pa) 8 p.ctx 5 else s

/-- INFUSER_ARRIVAL: the partial at place `k` reaches its home, or combines on its way with a later free one; the infuser applies nothing
of a halted context, and nothing after a read that failed (R168, R169, R382, R397). -/
def infuserArrival (s : State) (k : Nat) : State :=
  match s.net[k]? with
  | some (.red p) =>
    if s.halted p.ctx || s.homeAsleep p.home || s.redWaits k (.red p) then s
    else
      let mate := (List.range s.net.length).find? fun j => k < j && (match s.net[j]? with
        | some (.red q) => s.mayCombine p q && Config.preCombines s.fresh k j
        | _ => false)
      match mate with
      | some j =>
        (match s.net[j]? with
          | some (.red q) => { s with net := dropAt (s.net.set k (.red (combineRed p q))) j }
          | _ => s)
      | none =>
        let s := s.meetRed p
        if s.halted p.ctx then s
        else
          let s := { s with net := dropAt s.net k }
          if p.ord then s.arriveRed p else s.applyRed p
  | _ => s

/-- INFUSER_ARRIVAL (R169). -/
def execInfuserArrival (k : Nat) (s : State) : Host.Outcome State Fault Refusal := .next (infuserArrival s k)

/-- REDUCTION_ACK: one line of a command is applied; MX falls with the last (R149, R167). -/
def reductionAck (s : State) (k : Nat) : State :=
  match s.net[k]? with
  | some (.redAck g) => { s with net := dropAt s.net k }.groupAck g 1
  | _ => s

/-- REDUCTION_ACK (R149). -/
def execReductionAck (k : Nat) (s : State) : Host.Outcome State Fault Refusal := .next (reductionAck s k)

/-- RETRY_RESEND: a held line is sent again while its context is on the core (R170, R181). -/
def retryResend (s : State) (c : Coord) (i : Nat) : State :=
  match (s.coreAt c).retry[i]? with
  | some r =>
    let s := s.meetErrors 8 c (0x100 + r.slot) 1 r.ctx 1
    if (s.coreAt c).ctxs.contains r.ctx && !s.halted r.ctx then
      { s.modCore c fun k => { k with retry := dropAt k.retry i } with net := s.net ++ [.red r] }
    else s
  | none => s

/-- RETRY_RESEND (R170). -/
def execRetryResend (c : Coord) (i : Nat) (s : State) : Host.Outcome State Fault Refusal := .next (retryResend s c i)

/-- ACC_LINE_EVICT: a line leaves its slice, written to HBM if it differs from it, and the next access fetches it again; its NEXTKEY goes to the class
metadata area. No value, key, record or parked entry changes (R172). A line with an uncorrectable error stays, and the error is logged (R397). -/
def accLineEvict (s : State) (line : Nat) : State :=
  let found (s : State) : State := (s.noticeErrors 2 0 (64 * line) 64).noticeErrors 2 0 (metaLoc + 64 * line) 64
  let put (s : State) : State := if s.l2.any fun e => e.2.any fun l => l.line == line && l.dirty then s.writeBack line else s
  if !(s.l2.any fun e => e.2.any (·.line == line)) then s
  else s.slices (if s.badIn 2 0 (64 * line) 64 || s.badIn 2 0 (metaLoc + 64 * line) 64 then found s
    else ((put (found s)).l2Gone line).mend 2 0 (metaLoc + 64 * line) 64)

/-- ACC_LINE_EVICT (R172). -/
def execAccLineEvict (line : Nat) (s : State) : Host.Outcome State Fault Refusal := .next (accLineEvict s line)

/-! ## Instructions (R174 to R180) -/

/-- An address operand with bits [63:57] set or without its alignment: reason 1 (R175). -/
def badAddr (x : Word) (align : Nat) : Bool := Word.field x 57 7 != 0 || x.toNat % align != 0

/-- BADACC with a reason (R175). -/
def badAcc {α : Type} (r : Nat) : Except Stop α := trap cBADACC (BitVec.ofNat 64 r)

/-- The translation of an operand that must lie in a page of one class; a caddy address has none (R164). -/
def needClass (s : State) (va : Word) (k : Kind) (c : Cls) : Except Stop Xlat := do
  if isCaddy va then trap cBADCLASS va
  let x ← lift (s.xlate s.self.who va k)
  if x.cls == c then pure x else trap cBADCLASS va

/-- The accesses of the executing thread to the 16 lines of a tile, each with its home (R176). -/
def tileLines (s : State) (x : Xlat) (va : Word) (id : Nat) : List Access :=
  (List.range 16).map fun i =>
    let a := va + BitVec.ofNat 64 (64 * i)
    { s.accessOf a 64 (s.targetOf x a) with id }

/-- ACC.INIT (R176). -/
def accInitBody (s : State) (ra rb : BitVec 5) : Body := do
  let a := s.g ra
  let w := s.g rb
  if badAddr a 1024 then badAcc 1
  if Word.field w 48 16 ≠ 0 then badAcc 2
  let x ← needClass s a .store .acc
  roomFor s .st 1
  let (gid, s) := (s.count .st 1).newGroup .st [s.cur] 16
  let pkts := (tileLines s x a gid).map fun l => Packet.accInit l (w.setWidth 32) (BitVec.ofNat 16 (Word.field w 32 16))
  pure { s with net := s.net ++ pkts }

/-- ACC.INIT (R176). -/
def execAccInit (a b : BitVec 5) (s : State) := finish 4 s (accInitBody s a b)

/-- ACC.SETTLE (R177). -/
def accSettleBody (s : State) (ra rb : BitVec 5) : Body := do
  let a := s.g ra
  let w := s.g rb
  if a ≠ 0 && badAddr a 1024 then badAcc 1
  let kwait := w.getLsbD 3
  if Word.field w 4 12 ≠ 0 || Word.field w 32 32 ≠ 0 || 5 < Word.field w 0 3 || (kwait && a = 0) then badAcc 2
  let pa ← (if a = 0 then .ok 0 else do
    let x ← needClass s a .load .acc
    pure (s.targetOf x a).pa)
  if s.self.mx ≠ 0 then .error (.wait none s)
  if kwait && (List.range 16).any fun i => s.keyOf (pa + 64 * i) != BitVec.ofNat 16 (Word.field w 16 16) then
    .error (.wait none s)
  pure (s.acquireSelf (Word.field w 0 3))

/-- ACC.SETTLE (R177). -/
def execAccSettle (a b : BitVec 5) (s : State) := finish 4 s (accSettleBody s a b)

/-- RED.V: registers 4b to 4b + 3 (R174, R178). A refused line of a thread on a service core is held by the compute core that the thread left, or, of a
thread of the service core's own, at the service core's place: the spec names no store for it (DESIGN CHOICE, log entry 88). -/
def redVBody (s : State) (ra : BitVec 5) (b : BitVec 2) (rc : BitVec 5) : Body := do
  let a := s.g ra
  let w := s.g rc
  if badAddr a 64 then badAcc 1
  let ord := w.getLsbD 35
  let scope := Word.field w 32 3
  let key := Word.field w 48 16
  if Word.field w 0 32 ≠ 0 || Word.field w 36 12 ≠ 0 || 5 < scope || (!ord && key ≠ 0) || (ord && scope ≠ 0) then badAcc 2
  let x ← needClass s a .reduce .acc
  let regs := groupRegs (BitVec.ofNat 4 (4 * b.toNat)) 4
  let _ ← regs.mapM fun r => accept (s.tag r == 2) 2
  relGate s
  roomFor s .mx 1
  let words := regs.flatMap fun r => (List.range 4).map fun i => BitVec.ofNat 32 (lane (s.v r) 32 i)
  let t := s.targetOf x a
  let (gid, s) := (s.count .mx 1).newGroup .mx [s.cur] 1
  let red : RedLine := {
    ctx := s.self.ctx, pa := t.pa, home := t.home, words, key := BitVec.ofNat 16 key, ord
    scope := BitVec.ofNat 3 scope, cores := [s.self.core], groups := [gid], by_ := [(s.cur, s.fresh)] }
  pure { s with net := s.net ++ [.red red] }

/-- RED.V (R178). -/
def execRedV (a : BitVec 5) (b : BitVec 2) (c : BitVec 5) (s : State) := finish 4 s (redVBody s a b c)

/-- DET.NEXT: every home slice of the range empties its records of the range (R180). Under stage 2 the page that maps ga is taken to be the smaller
of the two stages' (DESIGN CHOICE, log entry 86). -/
def detNextBody (s : State) (ra rb : BitVec 5) : Body := do
  let a := s.g ra
  let n := s.g rb
  if badAddr a 64 then badAcc 1
  if n = 0 || n.toNat % 64 ≠ 0 then badAcc 4
  let x ← needClass s a .store .det
  if x.vbase + x.size < a.toNat + n.toNat then badAcc 4
  roomFor s .st 1
  let slices := s.slicesFor (s.partOf s.self.ctx) x.place
  let (gid, s) := (s.count .st 1).newGroup .st [s.cur] slices.length
  let t := s.targetOf x a
  let pkts := slices.map fun h => Packet.detNext { s.accessOf a n.toNat { t with home := h } with id := gid } x.place
  pure { s with net := s.net ++ pkts }

/-- DET.NEXT (R180). -/
def execDetNext (a b : BitVec 5) (s : State) := finish 4 s (detNextBody s a b)

/-- Row bytes of DRAIN by format code (R179). -/
def drainRowBytes (code : Nat) : Nat :=
  match code with
  | 2 => 64
  | 4 => 32
  | _ => blockBytes code

/-- The places of `n` bytes written by DRAIN, in a page of class TRK or UNT (R179). -/
def drainPlace (s : State) (va : Word) (n : Nat) : Except Stop (List (Word × Nat × Target)) := do
  if isCaddy va then trap cBADCLASS va
  let ls ← lift (s.locateRange s.self.who .store va n 8)
  match ls.find? fun l => l.2.2.cls == .acc || l.2.2.cls == .det || l.2.2.cls == .caddy with
  | some l => trap cBADCLASS l.1
  | none => pure ls

/-- DRAIN (R179). -/
def drainBody (s : State) (ra rb rc f : BitVec 5) : Body := do
  let code := f.toNat
  let mx := isMxCode code
  let a := s.g ra
  let b := s.g rb
  let b1 := s.g (rb + 1)
  let w := s.g rc
  let rowb := drainRowBytes code
  if badAddr a (if mx then 2048 else 1024) || badAddr b 1 || (mx && badAddr b1 1) then badAcc 1
  if Word.field w 49 15 ≠ 0 then badAcc 2
  let es := Word.field w 0 24
  let ss := Word.field w 24 24
  if (es ≠ 0 && es < rowb) || (ss ≠ 0 && !mx) then badAcc 3
  let x ← needClass s a .load .acc
  let at_ (base : Word) (stride r : Nat) : Word := base + BitVec.ofNat 64 (r * stride)
  let rows ← (List.range 16).mapM fun r => drainPlace s (at_ b (if es = 0 then rowb else es) r) rowb
  let scales ← (List.range 16).mapM fun r => if mx then drainPlace s (at_ b1 (if ss = 0 then 1 else ss) r) 1 else pure []
  roomFor s .st 1
  let parts := ((rows ++ scales).map List.length).foldl (· + ·) 0
  let (gid, s) := (s.count .st 1).newGroup .st [s.cur] parts
  let acc (l : Word × Nat × Target) : Access := { s.accessOf l.1 l.2.1 l.2.2 with id := gid, bypass := true }
  let lines0 := tileLines s x a gid
  let lines1 := tileLines s x (a + 1024) gid
  let pkts := (List.range 16).map fun r =>
    let ls := [lines0[r]?, if mx then lines1[r]? else none].filterMap id
    Packet.drainRow ls f (w.getLsbD 48) ((rows.getD r []).map acc) ((scales.getD r []).map acc)
  pure { s with net := s.net ++ pkts }

/-- DRAIN (R179). -/
def execDrain (a b c f : BitVec 5) (s : State) := finish 4 s (drainBody s a b c f)

/-! ## At the homes -/

/-- The acknowledgement of a store-like access sets out, once for each time that a counter counted it (R48, R190, R205). -/
def State.sendAck (s : State) (a : Access) : State := { s with net := s.net ++ List.replicate a.words (.ack a.thread a.id) }

/-- ACC.INIT's step at a line (R176). -/
def State.homeAccInit (s : State) (a : Access) (value : BitVec 32) (key : BitVec 16) : State :=
  ((((s.dropParked a.pa).putLine a.pa (List.replicate 16 value)).sliceWrite a.home a.pa 64 a.ctx 5).setKey a.pa key).sendAck a

/-- DET.NEXT's step at a home slice: the records of the range that are homed there become empty (R180). -/
def State.homeDetNext (s : State) (a : Access) (place : Placement) : State :=
  let part := s.partOf a.ctx
  let gone (w : Nat) : Bool := a.pa ≤ 8 * w && 8 * w < a.pa + a.n && s.homeSlice part place (8 * w) == a.home
  let meta_ (u : Nat × Nat × Nat) : Bool := u.1 == 2 && metaLoc / 8 ≤ u.2.2 && u.2.2 < parkLoc / 8 && gone (u.2.2 - metaLoc / 8)
  State.sendAck (State.mendWhere { s with detRec := Tab.keep (fun w _ => !gone w) s.detRec } meta_) a

/-- The bytes of a drained row: elements, then the scale (R179). -/
def drainBytes (code : Nat) (ws : List (BitVec 32)) : List Byte × List Byte :=
  let xs := ws.map fun w => fmtF32.decode w.toNat
  match code with
  | 2 => (ws.flatMap fun w => leBytes 4 w.toNat, [])
  | 4 => (xs.flatMap fun x => leBytes 2 (fmtBF16.round .rne true x).1, [])
  | _ => let (e, c) := quantBlock code xs; (leBytes (blockBytes code) e, if isMxCode code then leBytes 1 c else [])

/-- Stores of consecutive bytes to consecutive places. -/
def storesOf : List Access → List Byte → List Packet
  | [], _ => []
  | a :: as, bs => .store a (bs.take a.n) :: storesOf as (bs.drop a.n)

/-- DRAIN's step at a row, the packet at place `k`: its lines are read at their slice, cleared under CLR, and the row's stores stand in its place among
the traffic, so that they keep the thread's program order (R179, R188). An error in a line halts the context; the row goes on with the bits that
stand there (R397, log entry 41). -/
def State.homeDrainRow (s : State) (k : Nat) (lines : List Access) (f : BitVec 5) (clr : Bool) (elems scale : List Access) : State :=
  let ws := lines.flatMap fun a => s.lineWords a.pa
  let s := lines.foldl (fun s a => s.sliceRead a.home a.pa 64 a.ctx 5) s
  let s := if clr then
      lines.foldl (fun s a => (((s.dropParked a.pa).putLine a.pa (List.replicate 16 0)).sliceWrite a.home a.pa 64 a.ctx 5).setKey a.pa 0) s
    else s
  let (eb, sb) := drainBytes f.toNat ws
  { s with net := s.net.take k ++ (storesOf elems eb ++ storesOf scale sb) ++ s.net.drop (k + 1) }

end Sys2Proof.Machine
end

