-- ==== Sys2Proof/Machine/Barrier.lean ====
section
/-!
DEFINITION. Major 0x1D: barrier objects, global barriers, events and WAITC (11_copies_and_barriers.md R234 to R244).
-/

namespace Sys2Proof.Machine

/-- A barrier object as its two words (R234). -/
structure Bar where
  w0 : Word
  w1 : Word
  deriving DecidableEq, Repr

def Bar.count (b : Bar) : Nat := Word.field b.w0 0 16
def Bar.pend (b : Bar) : Nat := Word.field b.w0 16 16
/-- XFER, two's complement (R234). -/
def Bar.xfer (b : Bar) : Int := (BitVec.ofNat 16 (Word.field b.w0 32 16)).toInt
def Bar.phase (b : Bar) : Bool := b.w0.getLsbD 48
def Bar.fault (b : Bar) : Bool := b.w0.getLsbD 49
def Bar.scope (b : Bar) : Nat := Word.field b.w0 53 3

/-- FAULT set with a code (R235). -/
def Bar.setFault (b : Bar) (code : Nat) : Bar := { b with w0 := Word.setField (Word.setField b.w0 49 1 1) 50 3 code }

/-- Check(obj): the flip, or a count mismatch; the Bool says that the phase flipped (R235). -/
def Bar.check (b : Bar) : Bar × Bool :=
  if !b.fault && b.pend == 0 then
    if b.xfer = 0 then
      ({ b with w0 := Word.setField (Word.setField b.w0 48 1 (if b.phase then 0 else 1)) 16 16 b.count }, true)
    else if b.xfer < 0 then (b.setFault 5, false)
    else (b, false)
  else (b, false)

/-- Arrive(obj, n): the BADBAR reason, or the object, whether it flipped, and the phase arrived in (R235). -/
def Bar.arrive (b : Bar) (n : Nat) : Except Nat (Bar × Bool × Bool) :=
  if b.count = 0 || 1 < b.scope then .error 3
  else if b.pend = 0 || 32767 < b.xfer + n then .error 4
  else
    let x := (BitVec.ofInt 16 (b.xfer + n)).toNat
    let (b', fl) := Bar.check { b with w0 := Word.setField (Word.setField b.w0 16 16 (b.pend - 1)) 32 16 x }
    .ok (b', fl, b.phase)

/-- CopyDone(obj) (R235). -/
def Bar.copyDone (b : Bar) : Bar × Bool :=
  if b.fault then (b, false)
  else
    let b := if b.xfer = -32768 then b.setFault 5
      else { b with w0 := Word.setField b.w0 32 16 (BitVec.ofInt 16 (b.xfer - 1)).toNat }
    b.check

/-- CopyFault(obj, code, va, ch) (R235). -/
def Bar.copyFault (b : Bar) (code : Nat) (va : Word) (ch : Nat) : Bar :=
  if b.fault then b
  else { b.setFault code with w1 := Word.setField (Word.setField b.w1 0 57 va.toNat) 57 2 ch }

/-- The object at a caddy offset of a context's caddy on a core. -/
def State.bar (s : State) (ctx : CtxId) (c : Coord) (off : Nat) : Bar :=
  { w0 := s.word (s.caddyAt ctx c off), w1 := s.word (s.caddyAt ctx c (off + 8)) }

/-- A thread that waits at an object, or at a barrier ID, passes: it wakes and its wait completes as the acquire (R240, R241). One that a debugger
has stopped only wakes, and tests again. -/
def State.passWait (s : State) (t scope : Nat) : State :=
  let x := s.thread t
  if x.debugHalt then s.wakeThread t else ((s.wakeThread t).acquire x.unit scope).completeFor t 4 x.sstep

/-- A thread that waits at an object takes BARRIER_FAULT (R240). -/
def State.failWait (s : State) (t : Nat) (ga : Word) : State :=
  let x := s.thread t
  if x.debugHalt then s.wakeThread t else (s.wakeThread t).deliver t { cause := cBARFAULT, val := ga, epc := x.pc.setWidth 64 }

/-- The address by which a thread waits at the object of a key. -/
def Park.barrierAt (key : Nat) : Option Park → Option Word
  | some (.barrier k ga _) => if k = key then some ga else none
  | _ => none

/-- The threads of a context that wait at an object, each with the address that it named. -/
def State.barWaiters (s : State) (ctx : CtxId) (key : Nat) : List (Nat × Word) :=
  s.threads.filterMap fun e => if e.2.ctx == ctx then (Park.barrierAt key e.2.park).map fun ga => (e.1, ga) else none

/-- The object replaced. `init` is BAR.INIT, at which every waiter wakes and tests again; at a flip every waiter passes, and at a first fault every
waiter takes BARRIER_FAULT (R235, R238, R240). Like any write of a caddy it breaks a live convene object that it reaches (R153). -/
def State.putBar (s : State) (ctx : CtxId) (c : Coord) (off : Nat) (b : Bar) (init : Bool) : State :=
  let old := s.bar ctx c off
  let ws := s.barWaiters ctx (caddyKey c off)
  let s := s.caddyWrite ctx c off (leBytes 8 b.w0.toNat ++ leBytes 8 b.w1.toNat)
  if init then ws.foldl (fun s w => s.wakeThread w.1) s
  else if old.phase != b.phase then ws.foldl (fun s w => s.passWait w.1 b.scope) s
  else if b.fault && !old.fault then ws.foldl (fun s w => s.failWait w.1 w.2) s
  else s

/-- Threads wait at objects that software has written: those whose test would not wait any more wake and test again (R234, R240). -/
def State.wakeBarriers (s : State) : State :=
  s.threads.foldl (fun s e => match e.2.park with
    | some (.barrier key _ par) =>
      let b := s.bar e.2.ctx (BitVec.ofNat 9 (key / 2 ^ 18)) (keyOff key)
      if b.phase != par || b.fault || b.count == 0 || 1 < b.scope then s.wakeThread e.1 else s
    | _ => s) s

/-- A form that names an object: where it lies, after steps 1 to 3 of R237. `reason2` is reason 2; `scopeCore` says that BAR.INIT would write SCOPE
CORE. The owner's step comes after the thread's older accesses to the object (R188). -/
def barPlace (s : State) (ga : Word) (reason2 scopeCore : Bool) (r : Right) : Except Stop (Coord × Nat) := do
  let x := s.self
  if !isCaddy ga then trap cBADBAR 1
  let (c, off) ← lift (s.caddyPlace x.who ga 16)
  let away := x.onService.isSome || c != x.core
  if off % 16 ≠ 0 then trap cBADBAR 1
  if reason2 then trap cBADBAR 2
  if away && (scopeCore || x.onService.isSome || s.clusterOf x.ctx x.core != s.clusterOf x.ctx c) then trap cBADBAR 5
  gate s [{ va := ga, n := 16, t := { pa := caddyKey c off, cls := .caddy, home := c }, words := 1 }]
  if !s.caddyOk x.ctx x.core x.onService.isSome c off 16 r then trap cREFUSED ga
  pure (c, off)

/-- Steps 4 of R237 for the forms but BAR.INIT: reason 3, then reason 5 on the object's SCOPE. -/
def barScope (s : State) (c : Coord) (b : Bar) : Except Stop Unit := do
  if b.count = 0 || 1 < b.scope then trap cBADBAR 3
  if c != s.self.core && b.scope = 0 then trap cBADBAR 5

/-- BAR.INIT: the owner writes both words in one step, and the thread issues nothing younger before; ST, which counts it until then, needs room (R238,
R48). -/
def barInitBody (s : State) (a b : BitVec 5) (sc : BitVec 1) : Body := do
  let n := s.g b
  let (c, off) ← barPlace s (s.g a) (n.toNat < 1 || 65535 < n.toNat) (sc == 0) .at
  roomFor s .st 1
  let w0 := BitVec.ofNat 64 (n.toNat + n.toNat * 2 ^ 16 + sc.toNat * 2 ^ 53)
  pure (s.putBar s.self.ctx c off { w0, w1 := 0 } true)

/-- BAR.INIT (R238). -/
def execBarInit (a b : BitVec 5) (sc : BitVec 1) (s : State) := finish 4 s (barInitBody s a b sc)

/-- BAR.ARR and BAR.ARRX with `n` declared copies: the release's wait, then the owner's step, its lowest reason first (R237, R239). -/
def barArrBody (s : State) (d a : BitVec 5) (n : Word) : Body := do
  let (c, off) ← barPlace s (s.g a) (32767 < n.toNat) false .at
  releaseWait s 1
  let ctx := s.self.ctx
  let b := s.bar ctx c off
  match b.arrive n.toNat with
  | .error r => trap cBADBAR (BitVec.ofNat 64 r)
  | .ok (b', _, old) =>
    barScope s c b
    pure ((s.putBar ctx c off b' false).setG d (if old then 1 else 0))

/-- BAR.ARR (R239). -/
def execBarArr (d a : BitVec 5) (s : State) := finish 4 s (barArrBody s d a 0)
/-- BAR.ARRX (R239). -/
def execBarArrx (d a b : BitVec 5) (s : State) := finish 4 s (barArrBody s d a (s.g b))

/-- A steep takes none of the waiting forms (R244). -/
def notInSteep (s : State) : Except Stop Unit := if s.self.steep then trap cENGINE 3 else .ok ()

/-- What a test of an object comes to: passed, with the object's scope, fault, or not yet, with what to park on (R240). -/
def barTest (s : State) (a b : BitVec 5) : Except Stop (Option Nat × Park) := do
  let (c, off) ← barPlace s (s.g a) false false .rd
  let o := s.bar s.self.ctx c off
  barScope s c o
  let parity := (s.g b).getLsbD 0
  let park := Park.barrier (caddyKey c off) (s.g a) parity
  if o.phase != parity then pure (some o.scope, park)
  else if o.fault then trap cBARFAULT (s.g a)
  else pure (none, park)

/-- BAR.WAIT (R240). -/
def barWaitBody (s : State) (a b : BitVec 5) : Body := do
  notInSteep s
  match ← barTest s a b with
  | (some sc, _) => pure (s.acquireSelf sc)
  | (none, k) => .error (.wait (some k) s)

/-- BAR.WAIT (R240). -/
def execBarWait (a b : BitVec 5) (s : State) := finish 4 s (barWaitBody s a b)

/-- BAR.TRY (R240). -/
def barTryBody (s : State) (a b : BitVec 5) (p : BitVec 3) : Body := do
  match ← barTest s a b with
  | (some sc, _) => pure ((s.acquireSelf sc).setP p true)
  | (none, _) => pure (s.setP p false)

/-- BAR.TRY (R240). -/
def execBarTry (a b : BitVec 5) (p : BitVec 3) (s : State) := finish 4 s (barTryBody s a b p)

/-! ## Global barriers (R241) -/

/-- The key of the instance of a barrier ID that a core is in: one for each die at DIE, one at PKG and at POD, of each context. -/
def gbarKey (ctx : CtxId) (scope id : Nat) (c : Coord) : Nat :=
  ((ctx.toNat * 3 + (scope - 2)) * 4 + (if scope = 2 then c.toNat / 128 else 0)) * 64 + id

/-- The participant count of an ID (R355). -/
def State.gbarCount (s : State) (ctx : CtxId) (scope id : Nat) : Nat :=
  let off := 0x400 + 128 * (scope - 2) + 2 * id
  Word.field (s.ctxField ctx (off / 8 * 8)) (8 * (off % 8)) 16

/-- The checks of the GBAR forms: reason 5, then reason 3 (R237). -/
def gbarId (s : State) (a : BitVec 5) (sc : BitVec 3) : Except Stop Nat := do
  let x := s.g a
  if Word.field x 6 58 ≠ 0 then trap cBADBAR 5
  if s.gbarCount s.self.ctx sc.toNat (Word.field x 0 6) = 0 then trap cBADBAR 3
  pure (Word.field x 0 6)

/-- The scope of the level of a barrier ID's key. -/
def gbarScope (key : Nat) : Nat := key / 256 % 3 + 2

/-- An arrival at an ID: at the count the phase inverts, and every waiter passes. `out` is an arrival of this device at a POD ID, which travels to peers
as a write: while the device is viral it is held, and from the first held arrival no POD phase of any context completes (R241, R400). -/
def State.gbarArrive (s : State) (key count : Nat) (out : Bool) : State :=
  if out && s.viral.on then
    { s with viral := { s.viral with arrivals := s.viral.arrivals ++ [(BitVec.ofNat 16 (key / 768), key % 64)] } }
  else
    let g := Tab.get s.gbars {} key
    let n := g.arrived + 1
    if count ≤ n && !(gbarScope key == 4 && !s.viral.arrivals.isEmpty) then
      ((s.threads.filter fun e => e.2.park == some (.gbar key)).map (·.1)).foldl (fun s t => s.passWait t (gbarScope key))
        { s with gbars := Tab.set s.gbars key { arrived := n - count, phase := !g.phase } }
    else { s with gbars := Tab.set s.gbars key { g with arrived := n } }

/-- GBAR.ARR (R241). -/
def gbarArrBody (s : State) (d a : BitVec 5) (sc : BitVec 3) : Body := do
  let id ← gbarId s a sc
  releaseWait s sc.toNat
  let x := s.self
  let key := gbarKey x.ctx sc.toNat id x.core
  let phase := (Tab.get s.gbars {} key).phase
  pure ((s.gbarArrive key (s.gbarCount x.ctx sc.toNat id) (sc == 4)).setG d (if phase then 1 else 0))

/-- GBAR.ARR (R241). -/
def execGbarArr (d a : BitVec 5) (sc : BitVec 3) (s : State) := finish 4 s (gbarArrBody s d a sc)

/-- The phase of an ID differs from the parity in gb[0] (R240, R241). -/
def gbarTest (s : State) (a b : BitVec 5) (sc : BitVec 3) : Except Stop (Bool × Nat) := do
  let id ← gbarId s a sc
  relGate s
  let x := s.self
  let key := gbarKey x.ctx sc.toNat id x.core
  pure ((Tab.get s.gbars {} key).phase != (s.g b).getLsbD 0, key)

/-- GBAR.WAIT (R241). -/
def gbarWaitBody (s : State) (a b : BitVec 5) (sc : BitVec 3) : Body := do
  notInSteep s
  let (passed, key) ← gbarTest s a b sc
  if passed then pure (s.acquireSelf sc.toNat) else .error (.wait (some (.gbar key)) s)

/-- GBAR.WAIT (R241). -/
def execGbarWait (a b : BitVec 5) (sc : BitVec 3) (s : State) := finish 4 s (gbarWaitBody s a b sc)

/-- GBAR.TRY (R241). -/
def gbarTryBody (s : State) (a b : BitVec 5) (p sc : BitVec 3) : Body := do
  let (passed, _) ← gbarTest s a b sc
  if passed then pure ((s.acquireSelf sc.toNat).setP p true) else pure (s.setP p false)

/-- GBAR.TRY (R241). -/
def execGbarTry (a b : BitVec 5) (p sc : BitVec 3) (s : State) := finish 4 s (gbarTryBody s a b p sc)

/-! ## Events (R242) -/

/-- The event flags of a context on a core. -/
def Core.flags (c : Core) (ctx : CtxId) : BitVec 32 := Tab.get c.events 0 ctx.toNat

/-- An event flag set or cleared. -/
def Core.setFlag (c : Core) (ctx : CtxId) (n : Nat) (b : Bool) : Core :=
  let f := c.flags ctx
  { c with events := Tab.set c.events ctx.toNat (if b then f ||| BitVec.twoPow 32 n else f &&& ~~~ BitVec.twoPow 32 n) }

/-- The thread of a context on a core that has been parked longest on an event, the lowest slot on a tie. -/
def State.longestWaiter (s : State) (ctx : CtxId) (c : Coord) (n : Nat) : Option Nat :=
  let ws := s.threads.filter fun e => e.2.park == some (.event n) && e.2.ctx == ctx && e.2.core == c
  (ws.foldl (fun (b : Option (Nat × Nat × Nat)) e =>
    let k := (e.2.parkedAt, (e.2.inSlot).getD 64, e.1)
    match b with
    | none => some k
    | some (p, sl, i) => if k.1 < p || (k.1 == p && k.2.1 < sl) then some k else some (p, sl, i)) none).map (·.2.2)

/-- The flag of an event is set: in the event unit, or, while the context is switched out of the core, in the core save area (R387, R388). -/
def State.setEvent (s : State) (ctx : CtxId) (c : Coord) (n : Nat) : State :=
  if (s.coreAt c).ctxs.contains ctx || (s.slotOf ctx).isNone then s.modCore c (·.setFlag ctx n true)
  else
    let a := s.saveArea ctx c + 0xC0
    (s.readRecord ctx a 8).putRecordBytes ctx a (leBytes 8 (s.word a ||| BitVec.twoPow 64 n).toNat)

/-- EV.SIG (R242): the thread parked longest wakes and its EV.WAIT completes, or the flag is set; the event unit wakes no thread of a context that is
being switched out (R387). A thread that has moved to a service core uses the event unit and the inbox of the compute core that it left, and one of the
service core itself has its own (DESIGN CHOICE, log entry 81), for EV.WAIT, EV.TRY and MSG.POP too. -/
def evSigState (s : State) (a : BitVec 5) : State :=
  let n := Word.field (s.g a) 0 5
  let x := s.self
  match (if s.switching x.ctx x.core false then none else s.longestWaiter x.ctx x.core n) with
  | some t => (s.wakeThread t).completeFor t 4 (s.thread t).sstep
  | none => s.setEvent x.ctx x.core n

/-- EV.SIG is a release at CORE (R242). -/
def execEvSig (a : BitVec 5) (s : State) :=
  finish 4 s (if s.self.loads ≠ [] || s.self.st ≠ 0 then .error (.wait none s) else .ok (evSigState s a))

/-- EV.WAIT (R242). -/
def evWaitBody (s : State) (a : BitVec 5) : Body := do
  notInSteep s
  let n := Word.field (s.g a) 0 5
  let x := s.self
  if (s.myCore.flags x.ctx).getLsbD n then pure (s.modMyCore (·.setFlag x.ctx n false))
  else .error (.wait (some (.event n)) s)

/-- EV.WAIT (R242). -/
def execEvWait (a : BitVec 5) (s : State) := finish 4 s (evWaitBody s a)

/-- EV.TRY (R242). -/
def evTryState (s : State) (a : BitVec 5) (p : BitVec 3) : State :=
  let n := Word.field (s.g a) 0 5
  let x := s.self
  if (s.myCore.flags x.ctx).getLsbD n then (s.modMyCore (·.setFlag x.ctx n false)).setP p true else s.setP p false

/-- EV.TRY (R242). -/
def execEvTry (a : BitVec 5) (p : BitVec 3) (s : State) := finish 4 s (.ok (evTryState s a p))

/-! ## WAITC (R243) -/

/-- A counter is at or below its immediate; 15 is always met. -/
def ctrMet (n : Nat) (imm : BitVec 4) : Bool := imm == 15 || n ≤ imm.toNat

/-- WAITC: a delivery point for each kind whose counter it watches (R210, R231, R243, R280). -/
def waitcBody (s : State) (ms mx cp st ld : BitVec 4) : Body := do
  let t := s.self
  deliveryWait s (st != 15) (cp != 15) (ms != 15)
    (ctrMet t.ld ld && ctrMet t.st st && ctrMet t.cp cp && ctrMet t.mx mx && ctrMet t.ms ms) (some .counters)
  pure s

/-- WAITC (R243). -/
def execWaitc (ms mx cp st ld : BitVec 4) (s : State) := finish 4 s (waitcBody s ms mx cp st ld)

end Sys2Proof.Machine
end

