-- ==== Sys2Proof/Machine/Control.lean ====
section
/-!
DEFINITION. Majors 0x08 to 0x0A: branches, calls, returns, loops (14_control_threads_messages.md R270 to R273) and the return-address
store (R47).
-/

namespace Sys2Proof.Machine

/-- The executing thread's PC as a word. -/
def State.pcWord (s : State) : Word := s.self.pc.setWidth 64

/-- Push(ra): a full store spills its oldest entry to memory (R47). -/
def push (s : State) (ra : Word) : Body :=
  let x := s.self
  if 8 ≤ x.ras.length then do
    let s ← issueStore s x.rsp 8 (leBytes 8 (x.ras.headD 0).toNat)
    pure (s.modSelf fun t => { t with rsp := x.rsp + 8, ras := x.ras.drop 1 ++ [ra] })
  else .ok (s.modSelf fun t => { t with ras := x.ras ++ [ra] })

/-- A transfer of control to a checked target (R44). -/
def jump (s : State) (target : Word) : Body :=
  if badPc target then trap cBADPC target else .error (.jump s (target.setWidth 48))

/-- A relative branch checks bits 63:48 of its target; halfword offsets keep bit 0 clear (R271). -/
def branchBody (s : State) (taken : Bool) (off : Word) : Body :=
  if taken then jump s (s.pcWord + 2 * off) else .ok s

/-- BR, BRP (R271). -/
def execBrp (p : BitVec 3) (off : BitVec 20) (neg : BitVec 1) (s : State) :=
  finish 4 s (branchBody s (s.self.getP p != (neg == 1)) (off.signExtend 64))

/-- JAL: the target is checked before the push (R271). -/
def execJal (off : BitVec 25) (s : State) :=
  finish 4 s (do
    let t := s.pcWord + 2 * off.signExtend 64
    if badPc t then trap cBADPC t
    let s' ← push s (s.pcWord + 4)
    jump s' t)

/-- JALR (R271). -/
def execJalr (a : BitVec 5) (imm : BitVec 12) (s : State) :=
  finish 4 s (do
    let t := s.g a + sext12 imm
    if badPc t then trap cBADPC t
    let s' ← push s (s.pcWord + 4)
    jump s' t)

/-- JMP (R271). -/
def execJmp (a : BitVec 5) (imm : BitVec 12) (s : State) := finish 4 s (jump s (s.g a + sext12 imm))

/-- The refill of an empty return-address store: an ordinary load of the doubleword below sr.rsp, which no counter counts; the thread waits at
its RET for the bytes, and sr.rsp falls with the transfer (R47). From its own caddy they are at hand. -/
def refill (s : State) (size : Nat) : Body := do
  let us ← lift (s.locateUnits .load (s.self.rsp - 8) 8 8)
  if us.all fun u => s.ownCaddy u.t then
    gate s us
    let s := s.meetOwn us
    let bs := us.flatMap fun u => s.bytes u.t.pa u.n
    jump (s.modSelf fun t => { t with rsp := t.rsp - 8 }) (BitVec.ofNat 64 (leNat bs))
  else
    let (id, s) := s.newId
    let pkts := (withOffsets 0 us).map fun l => Packet.load { s.accessTo l.2 with id, off := l.1 }
    let load : PendLoad := { id, dest := .ret, buf := List.replicate 8 0, left := us.length, words := 0, held := some size }
    .error (.held { s.modSelf (fun t => { t with loads := t.loads ++ [load], hold := some (Hold.load id) }) with net := s.net ++ pkts })

/-- RET with Pop(): the newest entry, or the refill; a trap undoes the pop, since traps are taken on the state before the instruction (R47,
R271). -/
def retBody (s : State) (size : Nat) : Body :=
  let x := s.self
  match x.ras.getLast? with
  | some ra => jump (s.modSelf fun t => { t with ras := x.ras.dropLast }) ra
  | none => if x.rsp.toNat ≤ x.rspb.toNat then trap cRAS x.rsp else refill s size

/-- RET (R271). -/
def execRet (s : State) := finish 4 s (retBody s 4)

/-- LOOP (R273). A skipped body is a transfer of control, so it makes no loop check. -/
def loopBody (s : State) (a : BitVec 5) (imm : BitVec 12) : Body :=
  let e := s.pcWord + 4 + 2 * imm.setWidth 64
  let n := s.g a
  if Word.field e 48 16 ≠ 0 then trap cBADPC e
  else if n = 0 then .error (.jump (s.modSelf fun t => { t with lc := 0 }) (e.setWidth 48))
  else .ok (s.modSelf fun t => { t with lc := n, lbeg := s.pcWord + 4, lend := e + BitVec.ofNat 64 (t.pl * 2 ^ 48) })

/-- LOOP (R273). -/
def execLoop (a : BitVec 5) (imm : BitVec 12) (s : State) := finish 4 s (loopBody s a imm)

/-- NOP (R271). -/
def execNop (s : State) := finish 4 s (.ok s)

end Sys2Proof.Machine
end

