-- ==== Sys2Proof/Machine/Copy.lean ====
section
/-!
DEFINITION. Major 0x1C and the copy channels (11_copies_and_barriers.md R225 to R233).
-/

namespace Sys2Proof.Machine

/-- CH of a copy word (R227). -/
def cwChan (w : Word) : Nat := Word.field w 0 2
/-- BIND (R227). -/
def cwBind (w : Word) : Bool := w.getLsbD 2
/-- BAROFF as a caddy offset (R227). -/
def cwBar (w : Word) : Nat := Word.field w 4 14 * 16
/-- LEN (R227). -/
def cwLen (w : Word) : Nat := Word.field w 24 19

/-- Channel `ch` of a core. -/
def Core.chan (c : Core) (ch : Nat) : Channel := c.chans[ch]?.getD {}

/-- A channel replaced. -/
def Core.setChan (c : Core) (ch : Nat) (x : Channel) : Core := { c with chans := c.chans.setIfInBounds ch x }

/-- Reason 2 of BADCOPY on the copy word (R227, R228). -/
def cwBad (w : Word) (tile : Bool) : Bool :=
  w.getLsbD 3 || Word.field w 18 6 != 0 || Word.field w 43 21 != 0 ||
  (if tile then cwLen w != 0 else cwLen w == 0 || 262144 < cwLen w || cwLen w % 16 != 0)

/-- The checks of steps 1 and 2 of R228, and the caddy place of ga. -/
def copyPlace (s : State) (ga w : Word) (tile : Bool) (emptySlot : Bool) (gc : Word) (isLoad : Bool) : Except Stop (Coord × Nat) := do
  let place ← if isCaddy ga then lift ((s.caddyPlace s.self.who ga 1).map some) else pure none
  match place with
  | none => trap cBADCOPY 1
  | some (c, off) =>
    if off % 16 ≠ 0 then trap cBADCOPY 1
    if cwBad w tile then trap cBADCOPY 2
    if emptySlot then trap cBADCOPY 5
    if !tile && (Word.field gc 0 4 ≠ 0 || (!isLoad && isCaddy gc)) then trap cBADCOPY 6
    pure (c, off)

/-- Reasons 3, 4 and the rest of 5 (step 4 of R228). Reading COUNT of an object in another core's caddy needs right AT there; a refusal names ga, and
comes before the rest of reason 5 (DESIGN CHOICES, log entry 86). The read meets the errors that stand there (R397). -/
def copyRegion (s : State) (ga w : Word) (c : Coord) (off region : Nat) (reason5 : Bool) : Except Stop State := do
  if 2 ^ 18 < off + region then trap cBADCOPY 3
  if cwBind w then
    let x := s.self
    gate s [{ va := ga, n := 16, t := { pa := caddyKey c (cwBar w), cls := .caddy, home := c }, words := 1 }]
    if 2 ^ 18 < cwBar w + 16 || !s.caddyOk x.ctx x.core false c (cwBar w) 16 .at then trap cREFUSED ga
    if (s.bar x.ctx c (cwBar w)).count = 0 then trap cBADCOPY 4
  if reason5 then trap cBADCOPY 5
  pure (if cwBind w then s.meetCaddy s.self.ctx c (cwBar w) 16 1 else s)

/-- The copy takes its place in its channel, W becoming its first offset; a full channel parks the thread (R225, R228). -/
def placeCopy (s : State) (cp : Copy) : Body := do
  let ch := cwChan cp.word
  let k := s.myCore.chan ch
  if 8 ≤ k.copies.length then .error (.wait (some (.channel ch)) s)
  roomFor s .cp 1
  relGate s
  let (id, s) := (s.count .cp 1).newId
  let cp := { cp with id, seq := s.fresh }
  pure (s.modMyCore (·.setChan ch { copies := k.copies ++ [cp], w := BitVec.ofNat 18 cp.off, newest := true }))

/-- CPY.T (R228, R229). -/
def copyTile (s : State) (isLoad : Bool) (a b c : BitVec 5) (tm : BitVec 4) (iword : BitVec 32) : Body := do
  primaryOnly s
  let x := s.self
  let ga := s.g a
  let w := s.g b
  let (core, off) ← copyPlace s ga w true (x.tm[tm.toNat] == 0) 0 isLoad
  let (d, s) ← slotDesc s tm
  let rank := tmRank d
  let blk := match fmtShape (descField d 8 1) with
    | some (_, b, _) => b
    | none => 1
  let c0 := (s.g c).toInt
  let region := (tmRows d - 1) * tmPitch d + tmRowBytes d
  let s ← copyRegion s ga w core off region (31 < c.toNat + rank - 1 || c0 % blk ≠ 0)
  let coords := (List.range rank).map fun i => s.g (BitVec.ofNat 5 (c.toNat + i))
  placeCopy s { thread := s.cur, ctx := x.ctx, pl := BitVec.ofNat 2 x.pl, core := x.core, word := w, caddy := ga, tile := true,
                load := isLoad, mem := BitVec.ofNat 64 (tmBase d), desc := d, coords, iword, dst := core, off, region }

/-- CPY.L (R228, R230). -/
def copyLine (s : State) (isLoad : Bool) (a b c : BitVec 5) (iword : BitVec 32) : Body := do
  primaryOnly s
  let x := s.self
  let ga := s.g a
  let w := s.g b
  let gc := s.g c
  let (core, off) ← copyPlace s ga w false false gc isLoad
  let s ← copyRegion s ga w core off (cwLen w) false
  placeCopy s { thread := s.cur, ctx := x.ctx, pl := BitVec.ofNat 2 x.pl, core := x.core, word := w, caddy := ga, tile := false,
                load := isLoad, mem := gc, desc := [], coords := [], iword, dst := core, off, region := cwLen w }

/-- CPY.T.LD (R228). -/
def execCpyTLd (a b c : BitVec 5) (tm : BitVec 4) (s : State) :=
  onCompute (.cpyTLd a b c tm) s (finish 4 s (copyTile s true a b c tm ((encode (.cpyTLd a b c tm)).bits.setWidth 32)))
/-- CPY.T.ST (R228). -/
def execCpyTSt (a b c : BitVec 5) (tm : BitVec 4) (s : State) :=
  onCompute (.cpyTSt a b c tm) s (finish 4 s (copyTile s false a b c tm ((encode (.cpyTSt a b c tm)).bits.setWidth 32)))
/-- CPY.L.LD (R228). -/
def execCpyLLd (a b c : BitVec 5) (s : State) :=
  onCompute (.cpyLLd a b c) s (finish 4 s (copyLine s true a b c ((encode (.cpyLLd a b c)).bits.setWidth 32)))
/-- CPY.L.ST (R228). -/
def execCpyLSt (a b c : BitVec 5) (s : State) :=
  onCompute (.cpyLSt a b c) s (finish 4 s (copyLine s false a b c ((encode (.cpyLSt a b c)).bits.setWidth 32)))

/-- CPY.WP (R232). W has 18 bits: at the end of a region that ends with the caddy it reads 0 (DESIGN CHOICE, log entry 86). -/
def execCpyWp (a : BitVec 5) (ch : BitVec 2) (s : State) :=
  onCompute (.cpyWp a ch) s (finish 4 s (do
    primaryOnly s
    pure (s.setG a ((s.myCore.chan ch.toNat).w.setWidth 64))))

/-- A copy's fault is recorded: in its barrier when it is bound, else as a pending COPY_FAULT of its issuer (R231, R235). -/
def State.copyFaulted (s : State) (cp : Copy) (code : Nat) (va : Word) : State :=
  if cwBind cp.word then
    let b := s.bar cp.ctx cp.dst (cwBar cp.word)
    s.putBar cp.ctx cp.dst (cwBar cp.word) (b.copyFault code (if code ≤ 3 then va else 0) (cwChan cp.word)) false
  else s.pend cp.thread (·.addCopyFault va s.cycle)

/-- The first copy of a channel leaves it, and threads parked at the full channel try again (R225). -/
def State.dropActive (s : State) (c : Coord) (ch : Nat) : State :=
  let k := (s.coreAt c).chan ch
  let s := s.modCore c (·.setChan ch { k with copies := k.copies.drop 1, newest := k.newest && 2 ≤ k.copies.length })
  s.wake fun t => t.park == some (.channel ch) && t.core == c

/-- The writes of a copy that are held while the device is viral. -/
def Copy.holds (cp : Copy) (h : HeldWrite) : Bool := h.ctr == .cp && h.group == cp.id

/-- A copy that CPY.STOP stops: what it has sent is performed, its held writes are discarded, CP falls, and a bound copy records STOPPED (R233). -/
def State.stopCopy (s : State) (cp : Copy) : State :=
  let s := { s with viral := { s.viral with held := s.viral.held.filter fun h => !cp.holds h } }
  let s := if cwBind cp.word then s.copyFaulted cp 4 0 else s
  s.countDown cp.thread .cp 1

/-- CPY.STOP (R233). -/
def cpyStopState (s : State) (a : BitVec 5) (ch : BitVec 2) : State :=
  let c := s.self.core
  let k := s.myCore.chan ch.toNat
  let mine := k.copies.filter (·.thread == s.cur)
  let rest := k.copies.filter (·.thread != s.cur)
  let newest := k.newest && (k.copies.getLast?.map (·.thread)) != some s.cur
  let s := s.modCore c (·.setChan ch.toNat { k with copies := rest, newest })
  let s := mine.foldl State.stopCopy s
  let s := if mine.isEmpty then s else s.wake fun t => t.park == some (.channel ch.toNat) && t.core == c
  s.setG a (BitVec.ofNat 64 mine.length)

/-- CPY.STOP (R233). In a thread of a secondary context it raises ENGINE_STATE, as R333 has every form of its major, though R233 gives it no trap
(DESIGN CHOICE, log entry 86). -/
def execCpyStop (a : BitVec 5) (ch : BitVec 2) (s : State) :=
  onCompute (.cpyStop a ch) s (finish 4 s (do
    primaryOnly s
    pure (cpyStopState s a ch)))

/-! ## The run of a copy (R229 to R231) -/

/-- What stands at a byte of a copy's caddy region: nothing the copy moves, a fill, or a byte of memory. -/
inductive CopyByte where
  | gap
  | fill (b : Byte)
  | mem (va : Word)

/-- The fill of an out-of-bounds element's byte `i` (R229). -/
def oobByte (d : List Byte) (i : Nat) : Byte :=
  if !tmOobNan d then 0
  else match descField d 8 1 with
    | 1 => if i = 7 then 0x7F else if i = 6 then 0xF8 else 0
    | 2 => if i = 3 then 0x7F else if i = 2 then 0xC0 else 0
    | 3 => if i = 1 then 0x7E else 0
    | 4 => if i = 1 then 0x7F else 0xC0
    | 5 => 0x7F
    | 6 => 0x7E
    | 18 | 19 | 20 => if i = 0 then 0xFF else 0
    | 24 => 0xFF
    | _ => 0

/-- The box row's indices in dimensions 1 and up, the first varying fastest (R229). -/
def rowIndex (d : List Byte) (q : Nat) : Nat → Nat
  | i => q / ((List.range i).filter (1 ≤ ·)).foldl (fun n k => n * tmBox d k) 1 % max 1 (tmBox d i)

/-- The byte of a copy's region at an index (R229, R230). -/
def Copy.byteAt (cp : Copy) (i : Nat) : CopyByte :=
  if !cp.tile then .mem (cp.mem + BitVec.ofNat 64 i)
  else
    let d := cp.desc
    let p := max 1 (tmPitch d)
    let q := i / p
    let r := i % p
    if tmRowBytes d ≤ r then .gap
    else match fmtShape (descField d 8 1) with
      | none => .gap
      | some (_, blk, ub) =>
        let u := r / ub
        let x0 : Int := (cp.coords.getD 0 0).toInt + (u * blk : Nat)
        let xs : List Int := (List.range (tmRank d)).map fun k =>
          if k = 0 then x0 else (cp.coords.getD k 0).toInt + (rowIndex d q k : Nat)
        let inside := (List.range (tmRank d)).all fun k => 0 ≤ xs.getD k 0 && xs.getD k 0 < (tmSize d k : Nat)
        if inside then
          let a := tmBase d + x0.toNat / blk * ub + r % ub +
            (List.range (tmRank d)).foldl (fun n k => if k = 0 then n else n + (xs.getD k 0).toNat * 16 * tmStride d k) 0
          .mem (BitVec.ofNat 64 a)
        else .fill (oobByte d (r % ub))

/-- The fault code of a failed translation (R231). -/
def failCode (f : Fail) : Nat := if f.cause == cPERM || f.cause == cBADCLASS then 2 else if f.cause == cREFUSED then 3 else 1

/-- Who a copy is to translation: its issuer at issue (R334). -/
def Copy.who (cp : Copy) : Who := { ctx := cp.ctx, core := cp.core, svc := false, pl := cp.pl.toNat }

/-- The channel's access to memory: performed at its home (R187). -/
def Copy.access (cp : Copy) (va : Word) (t : Target) : Access :=
  { thread := cp.thread, ctx := cp.ctx, core := cp.core, svc := false, pl := cp.pl, va, pa := t.pa, n := 1, cls := t.cls, home := t.home,
    bypass := true, seq := cp.seq }

/-- An external write that a counter counts `words` times is held while the device is viral; it is not acknowledged (R400). -/
def State.hold (s : State) (pa : Nat) (ctx : CtxId) (thread : Nat) (ctr : Ctr) (group : Nat) (data : List Byte) (words : Nat := 1) : State :=
  { s with viral := { s.viral with held := s.viral.held ++ [{ pa, ctx, thread, ctr, group, data, words }] } }

/-- A byte of a copy is held: the bytes of one line are one write (R400). -/
def State.holdCopy (s : State) (cp : Copy) (pa : Nat) (bs : List Byte) : State :=
  match s.viral.held.getLast? with
  | some h =>
    if cp.holds h && h.pa + h.data.length == pa && pa % 64 != 0 then
      { s with viral := { s.viral with held := s.viral.held.dropLast ++ [{ h with data := h.data ++ bs }] } }
    else s.hold pa cp.ctx cp.thread .cp cp.id bs
  | none => s.hold pa cp.ctx cp.thread .cp cp.id bs

/-- An access of the copy's thread that precedes the copy in program order is still on its way to a word that the copy would touch next: the copy
comes after it (R188, R199). -/
def State.copyBlocked (s : State) (cp : Copy) (a : Access) : Bool :=
  s.net.any fun p => p.accesses.any fun b => b.thread == cp.thread && b.seq < cp.seq && sameWord b a

/-- The translation of a page of a copy: that of the copy's first touch of it, or a new one, which the copy keeps (R231). -/
def State.copyPage (s : State) (cp : Copy) (va : Word) : Except Fail (Xlat × Copy) :=
  match cp.pages.find? (·.covers cp.ctx va) with
  | some x => .ok (x, cp)
  | none => match s.xlate cp.who va (if cp.load then .load else .copy) with
    | .ok x => .ok (x, { cp with pages := cp.pages ++ [x] })
    | .error f => .error f

/-- What comes of a part of a copy: it is dealt with, it waits, or it faults with a code and an address. -/
inductive Moved where
  | on (s : State) (cp : Copy)
  | wait
  | fault (code : Nat) (va : Word)

/-- The place in another caddy, or the thread's own, that a byte of a CPY.L.LD source names: offset and core, none past the end of the caddy in
which the source begins (R49, R230, R231). -/
def State.copySource (s : State) (cp : Copy) (va : Word) : Except Nat (Coord × Nat) :=
  if 2 ^ 18 ≤ Word.field cp.mem 0 18 + (va.toNat - cp.mem.toNat) && isCaddy cp.mem then .error 1
  else match s.caddyPlace cp.who va 1 with
    | .error f => .error (failCode f)
    | .ok (c, o) => if s.caddyOk cp.ctx cp.core false c o 1 .rd then .ok (c, o) else .error 3

/-- The copy's access to `n` bytes of its caddy region from a place in it. -/
def Copy.inside (cp : Copy) (i n : Nat) : Access :=
  { cp.access (cp.caddy + BitVec.ofNat 64 i) { pa := caddyKey cp.dst (cp.off + i), cls := .caddy, home := cp.dst } with n }

/-- The bytes from place `i` of the region that memory holds in one aligned word, in one row. -/
def Copy.run (cp : Copy) (i : Nat) (va : Word) : Nat :=
  ((List.range (min (8 - va.toNat % 8) (cp.region - i))).takeWhile fun d => match cp.byteAt (i + d) with
    | .mem w => w == va + BitVec.ofNat 64 d
    | _ => false).length

/-- The first touch of a page walks the tables, and a failed one too (R231, R347). -/
def State.copyWalk (s : State) (cp : Copy) (va : Word) : State :=
  if cp.pages.any (·.covers cp.ctx va) then s else s.walkTouch cp.who va

/-- Bytes that the copy has read stand in its buffer. -/
def Copy.keep (cp : Copy) (bs : List Byte) : Copy := { cp with buf := cp.buf ++ bs.map some }

/-- The memory side of a copy at an address: its place, where the translation permits it (R231). Of a peer's memory the peer decides, unless its link
has failed, which answers, or the write is held (R350, R400). -/
def State.copyMem (s : State) (cp : Copy) (va : Word) (n : Nat) : Except (Nat × Word) (Access × Copy) :=
  if isCaddy va then .error (2, va)
  else match s.copyPage cp va with
    | .error f => .error (failCode f, va)
    | .ok (x, cp) =>
      let a := { cp.access va (s.targetOf x va) with n }
      let free := if cp.load then s.podDown a.pa else s.viral.on
      if a.cls == .pod && !free && !Config.peerPermits s.fresh a.pa then .error (3, va) else .ok (a, cp)

/-- The copy reads its source at place `i` of its region, as far as one aligned word of the source reaches: a word is read whole (R186, R231). -/
def State.copyFetch (s : State) (cp : Copy) (i : Nat) : Moved :=
  let off := cp.off + i
  let here := cp.caddy + BitVec.ofNat 64 i
  let side := s.caddyOk cp.ctx cp.core false cp.dst off 1 (if cp.load then .cp else .rd)
  match cp.byteAt i, cp.load with
  | .gap, _ => .on s { cp with buf := cp.buf ++ [none] }
  | _, false =>
    -- a byte whose element lies out of bounds is judged too (DESIGN CHOICE, log entry 86)
    let n := min (8 - off % 8) (cp.region - i)
    if !side then .fault 3 here
    else if s.copyBlocked cp (cp.inside i n) then .wait
    else .on (s.meetCaddy cp.ctx cp.dst off n 2) (cp.keep (s.caddyRead cp.ctx cp.dst off n))
  | .fill b, true =>
    if !side then .fault 3 here else if s.copyBlocked cp (cp.inside i 1) then .wait else .on s (cp.keep [b])
  | .mem va, true =>
    let n := cp.run i va
    if !side then .fault 3 here
    else if s.copyBlocked cp (cp.inside i 1) then .wait
    else if isCaddy va && !cp.tile then
      match s.copySource cp va with
      | .error code => .fault code va
      | .ok (c, o) =>
        if s.copyBlocked cp { cp.access va { pa := caddyKey c o, cls := .caddy, home := c } with n } then .wait
        else .on (s.meetCaddy cp.ctx c o n 2) (cp.keep (s.caddyRead cp.ctx c o n))
    else match s.copyMem cp va n with
      | .error (code, va) => .fault code va
      | .ok (a, q) =>
        if s.copyBlocked cp a then .wait
        else
          let (bs, s) := (s.copyWalk cp va).readAt a
          .on s (q.keep bs)

/-- The copy reads until its buffer holds `n` bytes, or it waits or faults. -/
def State.copyFill (s : State) (cp : Copy) (n : Nat) : Nat → Moved × Copy × State
  | 0 => (.on s cp, cp, s)
  | fuel + 1 =>
    if n ≤ cp.buf.length then (.on s cp, cp, s)
    else match s.copyFetch cp (cp.done + cp.buf.length) with
      | .on s cp => s.copyFill cp n fuel
      | m => (m, cp, s)

/-- The bytes from place `i` of the region that one aligned word of the destination holds: they are delivered together (R186, R199). -/
def Copy.unit (cp : Copy) (i : Nat) : Nat :=
  if cp.load then min (8 - (cp.off + i) % 8) (cp.region - i)
  else match cp.byteAt i with
    | .mem va => max 1 (cp.run i va)
    | _ => 1

/-- The first `n` bytes of the copy's buffer go to their destination: a word of the caddy, or of memory, where an external write is held while the
device is viral (R231, R400). A byte that lies between rows, or out of bounds, moves nothing. -/
def State.copyPut (s : State) (cp : Copy) (n : Nat) : Moved :=
  let i := cp.done
  let cp' := { cp with done := i + n, buf := cp.buf.drop n }
  let bs := cp.buf.take n
  if cp.load then
    let bad := (List.range n).find? fun d => (bs[d]?.getD none).isSome && !s.caddyOk cp.ctx cp.core false cp.dst (cp.off + i + d) 1 .cp
    match bad with
    | some d => .fault 3 (cp.caddy + BitVec.ofNat 64 (i + d))
    | none =>
      if bs.all (·.isNone) then .on s cp'
      else if s.copyBlocked cp (cp.inside i n) then .wait
      else if bs.all (·.isSome) then .on (s.caddyWrite cp.ctx cp.dst (cp.off + i) (bs.filterMap id)) cp'
      else
        .on (bs.zipIdx.foldl (fun s b => match b.1 with
          | some x => s.caddyWrite cp.ctx cp.dst (cp.off + i + b.2) [x]
          | none => s) s) cp'
  else match cp.byteAt i with
    | .mem va =>
      (match s.copyMem cp va n with
      | .error (code, va) => .fault code va
      | .ok (a, q) =>
        if s.copyBlocked cp a then .wait
        else
          let cp' := { cp' with pages := q.pages }
          let data := bs.map (·.getD 0)
          if s.viral.on && (a.cls == .pod || a.cls == .host) then .on (s.holdCopy cp a.pa data) cp'
          else .on ((s.copyWalk cp va).writeAt a data) cp')
    | _ => .on s cp'

/-- The copy moves on until `stop` bytes of its region are dealt with, word by word of its destination, as far as the first that waits or faults; the
bytes of a word before a fault are delivered (R231). -/
def State.moveUnits (s : State) (cp : Copy) (stop : Nat) : Nat → State × Copy × Option (Nat × Word)
  | 0 => (s, cp, none)
  | fuel + 1 =>
    if stop ≤ cp.done then (s, cp, none)
    else
      let n := cp.unit cp.done
      match s.copyFill cp n n with
      | (.wait, _, _) => (s, cp, none)
      | (.fault code va, part, s') =>
        if part.buf.isEmpty then (s', part, some (code, va))
        else (match s'.copyPut part part.buf.length with
          | .on s cp => (s, cp, some (code, va))
          | .wait => (s, cp, none)
          | .fault code va => (s', part, some (code, va)))
      | (.on s' cp', _, _) => (match s'.copyPut cp' n with
          | .on s cp => s.moveUnits cp stop fuel
          | .wait => (s, cp, none)
          | .fault code va => (s', cp', some (code, va)))

/-- The bytes between two rows count as performed once those before them are (R231). -/
def Copy.pastGap (cp : Copy) (i : Nat) : Nat :=
  if !cp.tile then i
  else
    let p := max 1 (tmPitch cp.desc)
    if tmRowBytes cp.desc ≤ i % p then min cp.region ((i / p + 1) * p) else i

/-- How far a copy's side in its caddy has come: of a load the first byte that is not delivered, of a store the first that is not read (R231). -/
def Copy.front (cp : Copy) : Nat := cp.pastGap (if cp.load then cp.done else cp.done + cp.buf.length)

/-- COPY_LINE_TRANSFER: the active copy of a channel moves the bytes up to the next 64-byte line of its caddy region, W advancing with
it when the channel's newest copy is this one; a fault stops it there (R225, R231). -/
def copyLineTransfer (s : State) (c : Coord) (ch : Nat) : State :=
  let k := (s.coreAt c).chan ch
  match k.copies with
  | [] => s
  | cp :: rest =>
    let n := min (cp.region - cp.done) (64 - (cp.off + cp.done) % 64)
    if n = 0 || s.halted cp.ctx then s
    else
      let (s, cp', err) := s.moveUnits cp (cp.done + n) n
      let i := cp.pastGap cp'.done
      let k' : Channel := {
        k with
        copies := { cp' with done := i, buf := cp'.buf.drop (i - cp'.done) } :: rest
        w := if k.newest && rest.isEmpty then BitVec.ofNat 18 (cp.off + cp'.front) else k.w }
      let s := s.modCore c (·.setChan ch k')
      match err with
      | none => s
      | some (code, va) => (((s.copyWalk cp va).copyFaulted cp code va).countDown cp.thread .cp 1).dropActive c ch

/-- A held write of the copy keeps it from completing (R400). -/
def State.copyHeld (s : State) (cp : Copy) : Bool := s.viral.held.any cp.holds

/-- COPY_COMPLETE: every byte of the active copy is performed; CP falls, a bound copy takes the copy-done step, and the next copy starts
(R231, R235). -/
def copyComplete (s : State) (c : Coord) (ch : Nat) : State :=
  match ((s.coreAt c).chan ch).copies with
  | [] => s
  | cp :: _ =>
    if cp.done < cp.region || s.halted cp.ctx || s.copyHeld cp then s
    else
      let s := s.dropActive c ch
      let s := s.countDown cp.thread .cp 1
      if cwBind cp.word then
        let (b, _) := (s.bar cp.ctx cp.dst (cwBar cp.word)).copyDone
        s.putBar cp.ctx cp.dst (cwBar cp.word) b false
      else s

/-- COPY_LINE_TRANSFER (R231). -/
def execCopyLineTransfer (c : Coord) (ch : BitVec 2) (s : State) : Host.Outcome State Fault Refusal :=
  .next (copyLineTransfer s c ch.toNat)
/-- COPY_COMPLETE (R231). -/
def execCopyComplete (c : Coord) (ch : BitVec 2) (s : State) : Host.Outcome State Fault Refusal := .next (copyComplete s c ch.toNat)

end Sys2Proof.Machine
end

