-- ==== Sys2Proof/Machine/System.lean ====
section
/-!
DEFINITION. Major 0x30: special registers, TRAP, TRET, TLBINV, BKPT, HALT (21_traps_preemption.md R375 to R380; 02_thread_state.md R40 to R42).
-/

namespace Sys2Proof.Machine

/-- The special registers of R40. -/
inductive Sr where
  | tid | pour | core | rank | ctx | part | pl | status | fcsr | time | detid | rsp | rspb | lc | lbeg | lend
  | ctr (c : Ctr)
  | trap (l i : Nat)
  | win (w : Nat) (access : Bool)
  deriving DecidableEq, Repr

/-- The register a number names; `none` is an unassigned number (R40). -/
def srOf (r : BitVec 12) : Option Sr :=
  let n := r.toNat
  if n = 0 then some .tid else if n = 1 then some .pour else if n = 2 then some .core else if n = 3 then some .rank
  else if n = 4 then some .ctx else if n = 5 then some .part else if n = 6 then some .pl else if n = 7 then some .status
  else if n = 8 then some .fcsr else if n = 9 then some .time else if n = 10 then some .detid else if n = 11 then some .rsp
  else if n = 12 then some .rspb else if n = 16 then some .lc else if n = 17 then some .lbeg else if n = 18 then some .lend
  else if n = 32 then some (.ctr .ld) else if n = 33 then some (.ctr .st) else if n = 34 then some (.ctr .cp)
  else if n = 35 then some (.ctr .mx) else if n = 36 then some (.ctr .ms)
  else if 0x100 ≤ n && n < 0x140 && n % 16 ≤ 5 then some (.trap ((n - 0x100) / 16) (n % 16))
  else if 0x200 ≤ n && n < 0x210 then some (.win ((n - 0x200) / 2) (n % 2 == 1))
  else none

/-- The lowest level that may read a register (R40). -/
def Sr.readLevel : Sr → Nat
  | .trap l _ => l
  | .win _ _ => 1
  | _ => 0

/-- The lowest level that may write a register; `none` is read-only at every level (R40). -/
def Sr.writeLevel : Sr → Option Nat
  | .tid | .pour | .core | .rank | .ctx | .part | .pl | .time | .ctr _ => none
  | .status => some 1
  | .trap l _ => some l
  | .win _ _ => some 1
  | _ => some 0

/-- What a rank-table entry names lies in the partition of its context: the core, and the context of the inbox, while that one has a slot (R274,
R329). -/
def State.rankInside (s : State) (ctx : CtxId) (e : Word) : Bool :=
  match s.slotOf ctx with
  | none => false
  | some (p, _) => s.coreIn p (BitVec.ofNat 9 (Word.field e 0 9)) && ((s.slotOf (BitVec.ofNat 16 (Word.field e 16 16))).all (·.1 == p))

/-- A rank-table entry as the interfaces hold it (R274, R357). One that names a core or a context of another partition is not VALID to them
(R329, log entry 75). -/
def State.rankEntry (s : State) (ctx : CtxId) (rank : Nat) : Word :=
  let e := Tab.get (s.ctxOf ctx).ranks 0 rank
  if s.rankInside ctx e then e else Word.setField e 63 1 0

/-- Number of entries of a context's rank table (R355). -/
def State.rankLen (s : State) (ctx : CtxId) : Nat := Word.field (s.ctxField ctx 0x58) 0 16

/-- sr.rank: the rank of the VALID entry that names the core for the context, or 0xFFFF (R274). -/
def State.rankOf (s : State) (ctx : CtxId) (c : Coord) : Nat :=
  match (s.ctxOf ctx).ranks.find? fun e => e.1 < s.rankLen ctx && e.2.getLsbD 63 && Word.field e.2 0 9 == c.toNat &&
      Word.field e.2 16 16 == ctx.toNat with
  | some e => e.1
  | none => 0xFFFF

/-- The reserved bits of a window's range and access words (R50). -/
def winReserved (access : Bool) : Word := if access then 0xFFFFFFFFE0FC0000 else 0x7FFFFFFFF000F000

/-- Where the window registers that a thread names by sr.cwin stand: in its compute core, or the one that it left for a service core, live while its
context is the primary one there, and in the core save area while its caddy is switched out of it; or nowhere, of a thread of a secondary context, of
one of the service core itself, and of one whose context has nothing on that core (R40, R51, R333, R388; DESIGN CHOICE, log entry 83). -/
inductive WinPlace where
  | live
  | saved (base : Nat)
  | nowhere
  deriving DecidableEq, Repr

/-- The place of the executing thread's window registers. -/
def State.winPlace (s : State) : WinPlace :=
  let x := s.self
  if x.osThread then .nowhere
  else if s.primary x.ctx x.core then .live
  else if s.myCore.savedCaddy.contains x.ctx then .saved (s.saveArea x.ctx x.core + 0x40)
  else .nowhere

/-- The range or access word of a window, as sr.cwin reads it. -/
def State.winWord (s : State) (w : Nat) (access : Bool) : Word :=
  match s.winPlace with
  | .live => (if access then s.myCore.winAccess[w]? else s.myCore.winRange[w]?).getD 0
  | .saved a => s.word (a + 16 * w + (if access then 8 else 0)) &&& ~~~ winReserved access
  | .nowhere => 0

/-- A read of a window register that the core save area holds is a read of that record. -/
def State.touchWin (s : State) (w : Nat) (access : Bool) : State :=
  match s.winPlace with
  | .saved a => s.readRecord s.self.ctx (a + 16 * w + (if access then 8 else 0)) 8
  | _ => s

/-- The range or access word of a window written. -/
def State.setWinWord (s : State) (w : Nat) (access : Bool) (x : Word) : State :=
  match s.winPlace with
  | .live => s.modMyCore fun k =>
      if access then { k with winAccess := k.winAccess.setIfInBounds w x } else { k with winRange := k.winRange.setIfInBounds w x }
  | .saved a => s.putRecordBytes s.self.ctx (a + 16 * w + (if access then 8 else 0)) (leBytes 8 x.toNat)
  | .nowhere => s

/-- The value of a special register for the executing thread (R40, R376). -/
def State.readSr (s : State) (r : Sr) : Word :=
  let x := s.self
  match r with
  | .tid => x.tid.setWidth 64
  | .pour => x.pour.setWidth 64
  | .core => x.core.setWidth 64
  | .rank => BitVec.ofNat 64 (s.rankOf x.ctx x.core)
  | .ctx => x.ctx.setWidth 64
  | .part => BitVec.ofNat 64 (s.partOf x.ctx)
  | .pl => BitVec.ofNat 64 x.pl
  | .status => x.status
  | .fcsr => x.fcsr
  | .time => s.time
  | .detid => x.detid
  | .rsp => x.rsp
  | .rspb => x.rspb
  | .lc => x.lc
  | .lbeg => x.lbeg
  | .lend => x.lend
  | .ctr c => BitVec.ofNat 64 (x.ctr c)
  | .trap l i =>
    match i with
    | 0 => (x.frame l).cause
    | 1 => (x.frame l).epc
    | 2 => (x.frame l).val
    | 3 => (x.frame l).stat
    | 4 => s.tvecOf x l
    | _ => s.tdelegOf x l
  | .win w access => s.winWord w access

/-- A read of a special register by the executing thread, with what it reads in memory for it. -/
def State.touchSr (s : State) (r : Sr) : State :=
  match r with
  | .win w access => s.touchWin w access
  | _ => s

/-- The bits that a write may not set: the reserved fields of R40 to R42, R50, R272, R371. -/
def Sr.reserved : Sr → Word
  | .status => 0xFFFFFFFFFFFFFFE0
  | .fcsr => 0xFFFFFFFFFFFFFE08
  | .detid => 0xFFFFFFFF00000000
  | .lbeg => 0xFFFF000000000000
  | .lend => 0xFFFC000000000000
  | .trap _ 0 => 0x7FFFFFE00000F000
  | .trap _ 1 => 0xFFFF000000000000
  | .win _ access => winReserved access
  | _ => 0

/-- A permitted write whose value sets no reserved field (R376). -/
def State.writeSr (s : State) (r : Sr) (x : Word) : State :=
  let l := s.self.pl
  match r with
  | .status => s.modSelf fun t => { t with status := Word.setField t.status 2 1 (Word.field x 2 1) }
  | .fcsr => s.modSelf fun t => { t with fcsr := x }
  | .detid => s.modSelf fun t => { t with detid := x }
  | .rsp => s.modSelf fun t => { t with rsp := x &&& ~~~ 7 }
  | .rspb => s.modSelf fun t => { t with rspb := x &&& ~~~ 7 }
  | .lc => s.modSelf fun t => { t with lc := x }
  | .lbeg => s.modSelf fun t => { t with lbeg := x &&& ~~~ 1 }
  | .lend => s.modSelf fun t => { t with lend := BitVec.ofNat 64 ((x &&& 0xFFFFFFFFFFFE).toNat + l * 2 ^ 48) }
  | .trap k i =>
    let f := s.self.frame k
    match i with
    | 0 => s.modSelf fun t => t.setFrame k { f with cause := x }
    | 1 => s.modSelf fun t => t.setFrame k { f with epc := x }
    | 2 => s.modSelf fun t => t.setFrame k { f with val := x }
    | 3 => s.modSelf fun t => t.setFrame k { f with stat := x }
    | 4 =>
      if k < 2 then s.modSelf fun t => { t with tvec := t.tvec.setIfInBounds k x }
      else s.modPart (s.partOf s.self.ctx) fun p => { p with tvec := p.tvec.setIfInBounds (k - 2) x }
    | _ =>
      if k < 2 then s.modSelf fun t => { t with tdeleg := t.tdeleg.setIfInBounds k x }
      else s.modPart (s.partOf s.self.ctx) fun p => { p with tdeleg := p.tdeleg.setIfInBounds (k - 2) x }
  | .win w access => s.setWinWord w access x
  | _ => s

/-- A VDEQ of the thread has flags still to set: accesses of sr.fcsr wait for them (R42). -/
def flagsOwed (t : Thread) : Bool := t.loads.any fun l => match l.dest with
  | .deq _ _ _ => true
  | _ => false

/-- MFSR (R40, R376). -/
def mfsrBody (s : State) (word : Word) (d : BitVec 5) (r : BitVec 12) : Body :=
  match srOf r with
  | none => trap cILLEGAL word
  | some sr => if s.self.pl < sr.readLevel then trap cPRIV word
    else if sr == .fcsr && flagsOwed s.self then .error (.wait none s)
    else .ok ((s.touchSr sr).setG d (s.readSr sr))

/-- MFSR (R376). -/
def execMfsr (d : BitVec 5) (r : BitVec 12) (s : State) :=
  finish 4 s (mfsrBody s (encode (.mfsr d r)).bits d r)

/-- MTSR: an unassigned number or one that is read-only at every level is ILLEGAL, then the level is checked, then the value (R40, R57, R376).
A rounding mode from 5 to 7 is ILLEGAL (R42). -/
def mtsrBody (s : State) (word : Word) (a : BitVec 5) (r : BitVec 12) : Body :=
  match srOf r with
  | none => trap cILLEGAL word
  | some sr =>
    match sr.writeLevel with
    | none => trap cILLEGAL word
    | some l =>
      let x := s.g a
      if s.self.pl < l then trap cPRIV word
      else if x &&& sr.reserved ≠ 0 || (sr == .fcsr && 4 < Word.field x 0 3) then trap cILLEGAL word
      else if sr == .fcsr && flagsOwed s.self then .error (.wait none s)
      else .ok (s.writeSr sr x)

/-- MTSR (R376). -/
def execMtsr (a : BitVec 5) (r : BitVec 12) (s : State) :=
  finish 4 s (mtsrBody s (encode (.mtsr a r)).bits a r)

/-- TRAP completes and raises cause 5 (R377). -/
def execTrap (imm : BitVec 12) (s : State) := finish 4 s (.error (.trapAfter s (imm.setWidth 64)))

/-- TRET (R379). -/
def execTret (s : State) := finish 4 s (.error (.left (s.tret (encode .tret).bits)))

/-- BKPT (R377). -/
def execBkpt (imm : BitVec 12) (s : State) := finish 4 s (trap cBKPT (imm.setWidth 64))

/-- HALT, at PL.DRV and above (R375, R378). -/
def haltBody (s : State) (word : Word) (imm : BitVec 12) : Body :=
  let x := s.self
  if x.pl < 1 then trap cPRIV word
  else .error (.halt {
    cause := 2, unit := some x.haltUnit.1, kind := x.haltUnit.2
    image := x.image, pc := x.pc.setWidth 64, tcause := (x.frame x.pl).cause, val := imm.setWidth 64 })

/-- HALT (R378). -/
def execHalt (imm : BitVec 12) (s : State) := finish 4 s (haltBody s (encode (.halt imm)).bits imm)

/-- The kinds of TLBINV (R380). -/
inductive InvKind where
  | va | ctx | ipa | part
  deriving DecidableEq, Repr

/-- A translation that a TLBINV removes (R380). -/
def invHits (s : State) (k : InvKind) (target : Nat) (ga : Word) (x : Xlat) : Bool :=
  match k with
  | .va => x.ctx.toNat == target && x.vbase ≤ ga.toNat && ga.toNat < x.vbase + x.size
  | .ctx => x.ctx.toNat == target
  | .ipa => s.partOf x.ctx == target && x.via.any fun g => g.1 ≤ ga.toNat && ga.toNat < g.1 + g.2
  | .part => s.partOf x.ctx == target

/-- A loop buffer whose body lies in a page that a VA or CTX invalidation covers (R380, R268). -/
def invLoop (k : InvKind) (target : Nat) (ga : Word) (l : LoopBuf) : Bool :=
  match k with
  | .va => l.ctx.toNat == target && l.pages.any fun p => p.1 ≤ ga.toNat && ga.toNat < p.1 + p.2
  | .ctx => l.ctx.toNat == target
  | _ => false

/-- Every TLB of the partition loses the translations, and so does a copy that keeps the translation of a page (R231, R380). -/
def State.invalidate (s : State) (k : InvKind) (target : Nat) (ga : Word) : State :=
  let keep (x : Xlat) : Bool := !invHits s k target ga x
  let keep2 (e : S2Entry) : Bool := !(e.part == target && (k == .part || (k == .ipa && e.ipa ≤ ga.toNat && ga.toNat < e.ipa + e.out.size)))
  { s with
    stlb := Tab.mapVals (fun _ h => { full := h.full.filter keep, two := h.two.filter keep2 }) s.stlb
    cores := Tab.mapVals (fun _ c => { c with
      tlb := c.tlb.filter keep
      chans := c.chans.map fun ch => { ch with copies := ch.copies.map fun cp => { cp with pages := cp.pages.filter keep } }
      loops := c.loops.filter fun l => !invLoop k target ga l }) s.cores }

/-- A command that a removed translation may have translated: all of a context or partition, or those whose page holds the address (R380). -/
def Cmd.covered (m : Cmd) (k : InvKind) (ga : Word) : Bool := k != .va || (m.page.1 ≤ ga.toNat && ga.toNat < m.page.1 + m.page.2)

/-- An access of a context of some set that was translated and has not been performed: on its way; a command that an engine holds or a group keeps; a
line held in a retry store; a write that is held while the chip is viral. What a halted context keeps until it resumes is waited for too (R170,
R380, R400). -/
def State.xlatedOut (s : State) (ctx : CtxId → Bool) (k : InvKind) (ga : Word) : Bool :=
  let on (m : Cmd) : Bool := ctx m.ctx && m.covered k ga
  (s.cores.any fun e =>
    (e.2.engine.queue ++ e.2.engine.steepQ).any on || ((e.2.convene.toList.filterMap id ++ e.2.savedConv).filterMap (·.pending)).any on ||
    e.2.retry.any fun r => ctx r.ctx) ||
  (s.viral.held.any fun h => ctx h.ctx) ||
  s.net.any fun p => match p with
    | .load a | .store a _ | .discard a | .clean a _ | .atomic a _ _ _ _ | .accInit a _ _ | .detNext a _ =>
      a.cls != .caddy && ctx a.ctx
    | .drainRow ls _ _ es sc => (ls ++ es ++ sc).any fun a => ctx a.ctx
    | .red r => ctx r.ctx
    | _ => false

/-- TLBINV: the privilege of the form, the release's wait, the removal, and the wait for accesses already translated (R375, R380). -/
def tlbinvBody (s : State) (word : Word) (k : InvKind) (a c : BitVec 5) : Body := do
  let x := s.self
  if x.pl < 1 || (x.pl < 2 && (k == .ipa || k == .part || c != 0)) then trap cPRIV word
  releaseWait s 3
  let byPart := k == .ipa || k == .part
  let target :=
    if x.pl < 2 then (if byPart then s.partOf x.ctx else x.ctx.toNat)
    else if byPart then Word.field (s.g c) 0 6 else Word.field (s.g c) 0 16
  let s' := s.invalidate k target (s.g a)
  let concerns (ctx : CtxId) : Bool := if byPart then s.partOf ctx == target else ctx.toNat == target
  if s'.xlatedOut concerns k (s.g a) then .error (.wait none s') else pure s'

/-- TLBINV.VA (R380). -/
def execTlbinvVa (a c : BitVec 5) (s : State) := finish 4 s (tlbinvBody s (encode (.tlbinvVa a c)).bits .va a c)
/-- TLBINV.CTX (R380). -/
def execTlbinvCtx (a c : BitVec 5) (s : State) := finish 4 s (tlbinvBody s (encode (.tlbinvCtx a c)).bits .ctx a c)
/-- TLBINV.IPA (R380). -/
def execTlbinvIpa (a c : BitVec 5) (s : State) := finish 4 s (tlbinvBody s (encode (.tlbinvIpa a c)).bits .ipa a c)
/-- TLBINV.PART (R380). -/
def execTlbinvPart (a c : BitVec 5) (s : State) := finish 4 s (tlbinvBody s (encode (.tlbinvPart a c)).bits .part a c)

end Sys2Proof.Machine
end

