-- ==== Sys2Proof/Machine/PartCfg.lean ====
section
/-!
DEFINITION. The configuration space (19_isolation_translation.md R353 to R357; 20 R363; 22 R396, R398, R401): partition configuration blocks,
commits, rank-table reloads, status words, error counters and logs. Its writes from outside a thread are CONFIG_REGISTER_WRITE.
-/

namespace Sys2Proof.Machine

/-! ## Ring spans (R23, R293) -/

/-- Ring record `r` of a slot, word `w`, in a copy of a block given as a function of the offset. -/
def ringWord (f : Nat → Word) (slot r w : Nat) : Word := f (slotBase slot + 0x800 + 32 * r + 8 * w)

/-- Cores of a ring by its record's word 0; 0 is not configured (R355). -/
def ringSize (w0 : Word) : Nat :=
  match Word.field w0 6 2 with
  | 0 => 0
  | 1 => 6
  | 2 => 12
  | _ => 24

/-- The core at a position (R23). -/
def ringCore (w0 : Word) (p : Nat) : Coord :=
  let n := ringSize w0
  let die := Word.field w0 0 2
  let row := Word.field w0 2 3
  let c0 := if n = 6 && Word.field w0 5 1 = 1 then 6 else 0
  let col := if p < n / 2 then c0 + 2 * p else c0 + 2 * (n - 1 - p) + 1
  BitVec.ofNat 9 ((die + col / 12) % 4 * 128 + row * 16 + col % 12)

/-- The cores of a ring in position order. -/
def ringCores (w0 : Word) : List Coord := (List.range (ringSize w0)).map (ringCore w0)

/-! ## Commit checks (R356) -/

/-- A field of the staged copy. -/
def Part.stagedField (p : Part) (off : Nat) : Word := Tab.get p.staged 0 off

/-- The cores of a granule set, in unit order (R330). -/
def granuleCores (g : Word) : List Coord :=
  ((List.range 384).map coreOfUnit).filter fun c => g.getLsbD (granuleOf c)

/-- The cluster number of a core in a slot of a copy of a block. -/
def clusterIn (f : Nat → Word) (slot : Nat) (c : Coord) : Nat :=
  let i := unitOf c
  Word.field (f (slotBase slot + 0x100 + i / 8 * 8)) (8 * (i % 8)) 8

/-- The inbox extension of one core (R355). -/
def inboxStride (e : Nat) : Nat := ((e + 64) * 72 + 4095) / 4096 * 4096

/-- Bounded inbox length E of a slot (R278, R355). -/
def inboxE (x : Word) : Nat := if Word.field x 0 32 = 0 then 4096 else Word.field x 0 32

/-- Status 1 of a slot: reserved bits and ranges. The byte of a unit outside the partition is 0xFF (R355). -/
def slotReserved (p : Nat) (f : Nat → Word) (g : Word) (c : Nat) : Bool :=
  let o := slotBase c
  let t0 := f o
  let en := t0.getLsbD 22
  let rings := (List.range 64).any fun r =>
    let w0 := ringWord f c r 0
    Word.field w0 8 56 != 0 || (w0.getLsbD 5 && Word.field w0 6 2 != 1) || (Word.field w0 6 2 == 3 && w0.getLsbD 0) ||
      (ringSize w0 != 0 && (ringWord f c r 3).toNat < 102400 * ringSize w0)
  let e := Word.field (f (o + 0x40)) 0 32
  Word.field t0 24 40 != 0 || Word.field (f (o + 8)) 0 12 != 0 || Word.field (f (o + 8)) 52 12 != 0 ||
    Word.field (f (o + 0x40)) 32 32 != 0 || Word.field (f (o + 0x58)) 16 48 != 0 || rings ||
    (en && (Word.field t0 0 16 == 0 || Word.field t0 16 6 != p || (e != 0 && (e < 64 || 2 ^ 31 < e)) ||
      (f (o + 0x38)).toNat % 64 != 0 || (f (o + 0x28)).toNat % 4096 != 0 || (f (o + 0x28)).toNat < 0x41000 ||
      ((List.range 384).map coreOfUnit).any fun k =>
        if g.getLsbD (granuleOf k) then 96 ≤ clusterIn f c k && clusterIn f c k < 0xFF else clusterIn f c k != 0xFF))

/-- A cluster is a rectangle of at most 4 × 4 of one die (R28). -/
def clusterShape (cs : List Coord) : Bool :=
  let rows := cs.map fun c => c.toNat / 16 % 8
  let cols := cs.map fun c => c.toNat % 16
  let span (l : List Nat) : Nat := l.foldl max 0 - l.foldl min 15 + 1
  (cs.all fun c => c.toNat / 128 == ((cs.headD 0).toNat / 128)) && span rows ≤ 4 && span cols ≤ 4 && cs.length == span rows * span cols

/-- Status 3 of a slot (R28). -/
def slotCluster (f old : Nat → Word) (g gOld : Word) (c : Nat) : Bool :=
  if !(f (slotBase c)).getLsbD 22 then false
  else
    let cores := granuleCores g
    let num := clusterIn f c
    let shapes := (List.range 96).any fun k => let cs := cores.filter (num · == k); !cs.isEmpty && !clusterShape cs
    let live := (old (slotBase c)).getLsbD 22
    let was := granuleCores gOld
    let oldNum := clusterIn old c
    let broken := live && (
      (cores.any fun u => was.contains u && num u != oldNum u) ||
      (cores.any fun u => !was.contains u && cores.any fun v => num v == num u && granuleOf v != granuleOf u) ||
      (was.any fun u => !cores.contains u && was.any fun v => oldNum v == oldNum u && cores.contains v))
    (cores.any fun u => num u == 0xFF) || shapes || broken

/-- An area lies in HBM granules of a partition (R336). -/
def State.areaOk (s : State) (p a len : Nat) : Bool :=
  len == 0 || (a + len ≤ 0x6000000000 &&
    (List.range ((a + len - 1) / 2 ^ 21 - a / 2 ^ 21 + 1)).all fun i =>
      let e := s.ownerEntry (a + i * 2 ^ 21)
      e.getLsbD 8 && !e.getLsbD 9 && (e.extractLsb' 0 6).toNat == p)

/-- The stage-1 root table of a slot that has no stage 2 lies outside the partition: only then is its address physical (R341). -/
def State.rootArea (s : State) (p : Nat) (f : Nat → Word) (c : Nat) : Bool :=
  let o := slotBase c
  !(f o).getLsbD 23 && !s.areaOk p (Word.field (f (o + 8)) 12 40 * 2 ^ 12) 4096

/-- The stage-2 root table of a block lies outside the partition, where one is named or a slot needs it (R337, R341). -/
def State.s2Area (s : State) (p : Nat) (f : Nat → Word) : Bool :=
  (Word.field (f 0x10) 12 40 != 0 || (List.range 64).any fun c => (f (slotBase c)).getLsbD 22 && (f (slotBase c)).getLsbD 23) &&
    !s.areaOk p (Word.field (f 0x10) 12 40 * 2 ^ 12) 4096

/-- Status 4 of a slot. -/
def State.slotArea (s : State) (p : Nat) (f : Nat → Word) (g : Word) (c : Nat) : Bool :=
  let o := slotBase c
  if !(f o).getLsbD 22 then false
  else
    let v (off : Nat) : Nat := (f (o + off)).toNat
    let units := (granuleCores g).map unitOf
    let xs := inboxStride (inboxE (f (o + 0x40)))
    let rings := (List.range 64).any fun r =>
      ringSize (ringWord f c r 0) != 0 &&
        ((ringWord f c r 1).toNat % 4096 != 0 || (ringWord f c r 2).toNat % 4096 != 0 ||
          !s.areaOk p (ringWord f c r 2).toNat (ringWord f c r 3).toNat)
    v 0x10 % 1024 != 0 || v 0x18 % 4096 != 0 || v 0x20 % 4096 != 0 || v 0x30 % 64 != 0 || v 0x50 % 8 != 0 ||
      !s.areaOk p (v 0x18) 590848 || (units.any fun i => !s.areaOk p (v 0x20 + v 0x28 * i) (v 0x28)) ||
      (units.any fun i => !s.areaOk p (v 0x48 + xs * i) xs) || !s.areaOk p (v 0x50) (8 * v 0x58) || s.rootArea p f c || rings

/-- A core is bound to a ring of a context (R293). -/
def State.ringBound (s : State) (ctx r : Nat) : Bool :=
  s.cores.any fun k => match k.2.ring with
    | some i => i.ctx.toNat == ctx && i.ring == r
    | none => false

/-- Status 5 of a slot. -/
def State.slotRing (s : State) (f old : Nat → Word) (g : Word) (c : Nat) : Bool :=
  let ctx := Word.field (f (slotBase c)) 0 16
  (f (slotBase c)).getLsbD 22 && (List.range 64).any fun r =>
    ((ringCores (ringWord f c r 0)).any fun k => !g.getLsbD (granuleOf k)) ||
      (((List.range 4).any fun w => ringWord f c r w != ringWord old c r w) && s.ringBound ctx r)

/-- The ID of a torn-down context is free: every access that its translations gave has been performed (R380, R393). -/
def State.idFree (s : State) (ctx : CtxId) : Bool := (s.ctxOf ctx).gone && !s.xlatedOut (· == ctx) .ctx 0

/-- Status 6 of a slot: `p` is its partition. A context may stand in one slot of the active copies, and in one of a block that is committed whole. -/
def State.slotContext (s : State) (p : Nat) (whole : Bool) (f old : Nat → Word) (c : Nat) : Bool :=
  let t := f (slotBase c)
  let t' := old (slotBase c)
  let ctx := Word.field t 0 16
  (whole && t.getLsbD 22 && (List.range 64).any fun d =>
      d != c && (f (slotBase d)).getLsbD 22 && Word.field (f (slotBase d)) 0 16 == ctx) ||
    (t.getLsbD 22 && s.parts.any fun e => e.2.slots.any fun sl => (e.1 != p || sl.1 != c) && Word.field sl.2 0 16 == ctx) ||
    (t'.getLsbD 22 && t.getLsbD 22 && Word.field t 0 22 != Word.field t' 0 22) ||
    (t'.getLsbD 22 && !t.getLsbD 22 && !s.idFree (BitVec.ofNat 16 (Word.field t' 0 16)))

/-- Status 7 of a slot. -/
def State.slotInbox (s : State) (f old : Nat → Word) (c : Nat) : Bool :=
  let o := slotBase c
  let ctx : CtxId := BitVec.ofNat 16 (Word.field (f o) 0 16)
  (f o).getLsbD 22 && ([0x40, 0x48, 0x20, 0x28].any fun k => f (o + k) != old (o + k)) &&
    s.cores.any fun k => k.2.ctxs.contains ctx

/-- The first failing check of the table Commit status, 0 for none; `slots` are those committed, `whole` the whole block (R356). -/
def State.commitStatus (s : State) (p : Nat) (whole : Bool) (slots : List Nat) : Nat :=
  let b := s.part p
  let f := b.stagedField
  let old := b.field
  let g := if whole then f 8 else old 8
  let gOld := old 8
  let moved := (List.range 384).map coreOfUnit |>.filter fun c => g.getLsbD (granuleOf c) != gOld.getLsbD (granuleOf c)
  if (whole && (Word.field (f 0x10) 0 12 != 0 || Word.field (f 0x10) 52 12 != 0 || Word.field (f 0x18) 12 52 != 0 ||
      Word.field (f 0x18) 4 8 == 0 || (f 0x28).toNat % 4096 != 0)) || slots.any (slotReserved p f g) then 1
  else if whole && ((s.parts.any fun e => e.1 != p && e.2.field 8 &&& g != 0) || (moved.any fun c => !(s.coreAt c).ctxs.isEmpty) ||
      (s.sec.firstLight && Word.field g 16 48 != 0)) then 2
  else if slots.any (slotCluster f old g gOld) then 3
  else if (whole && ((f 0x20).toNat % 4096 != 0 || !s.areaOk p (f 0x20).toNat (f 0x28).toNat || s.s2Area p f)) || slots.any (s.slotArea p f g) then 4
  else if slots.any (s.slotRing f old g) then 5
  else if slots.any (s.slotContext p whole f old) then 6
  else if slots.any (s.slotInbox f old) then 7
  else 0

/-! ## Inboxes (R278, R279) -/

/-- The inbox of a context on a core. -/
def Core.inbox (k : Core) (ctx : CtxId) : Inbox := Tab.get k.inboxes {} ctx.toNat

/-- An inbox replaced. -/
def Core.setInbox (k : Core) (ctx : CtxId) (i : Inbox) : Core := { k with inboxes := Tab.set k.inboxes ctx.toNat i }

/-- SRAM entries in use on a core. -/
def Core.sramUsed (k : Core) : Nat := (k.inboxes.map fun e => (e.2.entries.filter (·.sram)).length).foldl (· + ·) 0

/-- The context is HALTED (R381). -/
def State.haltedFully (s : State) (ctx : CtxId) : Bool := (s.ctxOf ctx).halt.any (·.complete)

/-- What arrives for a context on a core may enter the SRAM: the context is switched in there and not HALTED (R279, R392). -/
def State.takesSram (s : State) (c : Coord) (ctx : CtxId) : Bool := (s.coreAt c).ctxs.contains ctx && !s.haltedFully ctx

/-- Places that an arrival of a context could take: in the SRAM while the context may use it, and in the extension below E. -/
def State.freePlaces (s : State) (c : Coord) (ctx : CtxId) : Nat :=
  let k := s.coreAt c
  (if s.takesSram c ctx then 64 - k.sramUsed else 0) +
    (inboxE (s.ctxField ctx 0x40) - ((k.inbox ctx).entries.filter fun e => !e.sram).length)

/-- The first listed send, from a list, for which no place is held yet (R280). -/
def nextHold (listed holds : List Nat) : Option Nat := listed.find? fun i => !holds.contains i

/-- Places of an inbox have freed: each is held for the oldest listed send that has none (R280). -/
def State.placesFreed (s : State) (c : Coord) (ctx : CtxId) : Nat → State
  | 0 => s
  | n + 1 =>
    let i := (s.coreAt c).inbox ctx
    if i.holds.length < s.freePlaces c ctx then
      match nextHold i.refused i.holds with
      | some id => (s.modCore c (·.setInbox ctx { i with holds := i.holds ++ [id] })).placesFreed c ctx n
      | none => s
    else s

/-- Every place of a core's inboxes that has freed since an earlier state is offered to the listed sends (R280). -/
def State.offerFreed (s before : State) (c : Coord) : State :=
  (s.coreAt c).inboxes.foldl (fun s e =>
    let ctx : CtxId := BitVec.ofNat 16 e.1
    if e.2.refused.isEmpty then s
    else s.placesFreed c ctx (min e.2.refused.length (s.freePlaces c ctx - before.freePlaces c ctx))) s

/-- The oldest extension entry of an inbox moves into the SRAM. -/
def promoteEntry : List Entry → List Entry
  | [] => []
  | e :: es => if e.sram then e :: promoteEntry es else { e with sram := true } :: es

/-- The context, of those switched in that may use the SRAM, whose extension holds the oldest entry (R279, R392). -/
def Core.oldestExtension (k : Core) (may : CtxId → Bool) : Option (CtxId × Nat) :=
  ((k.ctxs.filter may).filterMap fun x => ((k.inbox x).entries.find? fun e => !e.sram).map fun e => (x, e.age)).foldl (fun b e => match b with
    | none => some e
    | some o => if e.2 < o.2 then some e else some o) none

/-- SRAM entries that are free take the oldest extension entries of the contexts that may use them, up to `n` of them (R279, R291). -/
def Core.promote (k : Core) (may : CtxId → Bool) : Nat → Core
  | 0 => k
  | n + 1 =>
    if 64 ≤ k.sramUsed then k
    else match k.oldestExtension may with
      | some (x, _) => Core.promote (k.setInbox x { k.inbox x with entries := promoteEntry (k.inbox x).entries }) may n
      | none => k

/-- What follows a change of a core's inboxes from an earlier state: free SRAM entries are filled from the extensions, and freed places are offered
(R279, R280). -/
def State.settleInboxes (s before : State) (c : Coord) : State := (s.modCore c (·.promote (fun x => !s.haltedFully x) 64)).offerFreed before c

/-- A send leaves the list of an inbox: a place held for it is offered again (R280). -/
def State.unlist (s : State) (c : Coord) (ctx : CtxId) (id : Nat) : State :=
  let i := (s.coreAt c).inbox ctx
  if !i.refused.contains id then s
  else
    let s := s.modCore c (·.setInbox ctx { i with refused := i.refused.erase id, holds := i.holds.erase id })
    if i.holds.contains id then s.placesFreed c ctx 1 else s

/-! ## Rank tables (R274, R275, R357) -/

/-- Parked poppers of a context on a core wake, longest parked first, one for each message that no woken popper is about to take (R289). -/
def State.wakePoppers (s : State) (c : Coord) (ctx : CtxId) : State :=
  let n := (((s.coreAt c).inbox ctx).entries.filter (·.kind != 2)).length
  let here (x : Thread) : Bool := x.ctx == ctx && x.core == c
  let woken := (s.threads.filter fun e => here e.2 && e.2.woken && e.2.park.isNone).length
  let parked := (s.threads.filter fun e => here e.2 && e.2.park == some .inbox).insertionSort fun a b => a.2.parkedAt ≤ b.2.parkedAt
  (parked.take (n - woken)).foldl (fun s e => (s.modThread e.1 fun x => { x with woken := true }).wakeThread e.1) s

/-- The inbox entries of a rank of a context's table on one core move to another core's inbox, in their order, and wake the poppers parked there
(R275, R289). -/
def State.moveInbox (s : State) (tab : CtxId) (rank : Nat) (src : Coord) (srcCtx : CtxId) (dst : Coord) (dstCtx : CtxId) : State :=
  let i := (s.coreAt src).inbox srcCtx
  let (go, stay) := i.entries.partition fun e => e.sctx == tab && e.rank.toNat == rank
  if go.isEmpty then s
  else
    let s' := (s.modCore src (·.setInbox srcCtx { i with entries := stay })).settleInboxes s src
    let j := (s'.coreAt dst).inbox dstCtx
    let s'' := s'.modCore dst (·.setInbox dstCtx { j with entries := j.entries ++ go.map fun e => { e with sram := false } })
    (s''.settleInboxes s' dst).wakePoppers dst dstCtx

/-- One entry of a context's rank table read again; a settle moves the rank's inbox entries first (R275, R357). -/
def State.loadRank (s : State) (ctx : CtxId) (rank : Nat) : State :=
  let a := (s.ctxField ctx 0x50).toNat + 8 * rank
  let x := s.word a
  let s := s.readRecord ctx a 8
  let old := Tab.get (s.ctxOf ctx).ranks 0 rank
  let core (e : Word) : Coord := BitVec.ofNat 9 (Word.field e 0 9)
  let dst (e : Word) : CtxId := BitVec.ofNat 16 (Word.field e 16 16)
  let s := if old.getLsbD 62 && !x.getLsbD 62 && x.getLsbD 63 && core old != core x && s.rankInside ctx old && s.rankInside ctx x then
      s.moveInbox ctx rank (core old) (dst old) (core x) (dst x)
    else s
  s.modCtx ctx fun c => { c with ranks := if x = 0 then Tab.erase c.ranks rank else Tab.set c.ranks rank x }

/-- Every entry of a context's rank table read again (R357). -/
def State.loadRanks (s : State) (ctx : CtxId) : State := (List.range (s.rankLen ctx)).foldl (·.loadRank ctx ·) s

/-- The interfaces read a context's rank table, or, while its home slices sleep, have it still to read (R274, R368). -/
def State.readRanks (s : State) (p : Nat) (ctx : CtxId) : State :=
  if (s.part p).asleep then s.modCtx ctx fun c => { c with ranksOwed := true }
  else (s.loadRanks ctx).modCtx ctx fun c => { c with ranksOwed := false }

/-- A partition wakes; rank tables that its interfaces have still to read are read (R368). -/
def State.wakePart (s : State) (p : Nat) : State :=
  let s := s.modPart p fun b => { b with asleep := false }
  (s.part p).slots.foldl (fun s sl =>
    let ctx : CtxId := BitVec.ofNat 16 (Word.field sl.2 0 16)
    if (s.ctxOf ctx).ranksOwed then s.readRanks p ctx else s) s

/-- RANKCMD: the reload that a slot's context asks for (R357); the slices of a sleeping partition serve no read of its table (R368). -/
def rankcmd (s : State) (p slot : Nat) (rank : Nat) (all : Bool) : State :=
  if (s.part p).asleep then s
  else
  let t := (s.part p).field (slotBase slot)
  let ctx : CtxId := BitVec.ofNat 16 (Word.field t 0 16)
  let s := if !t.getLsbD 22 then s else if all then s.loadRanks ctx else if rank < s.rankLen ctx then s.loadRank ctx rank else s
  s.modPart p fun b => { b with rankReq := none }

/-- RANKCMD (R357). -/
def execRankcmd (part slot : BitVec 6) (rank : BitVec 16) (all : Bool) (s : State) : Host.Outcome State Fault Refusal :=
  .next (rankcmd s part.toNat slot.toNat rank.toNat all)

/-! ## Commits (R356) -/

/-- The entries of one table in a range of keys replaced by those of another. -/
def Tab.overlay {α : Type} (dst src : Tab α) (lo hi : Nat) : Tab α :=
  (Tab.keep (fun k _ => lo ≤ k && k < hi) src).foldl (fun t e => Tab.set t e.1 e.2) (Tab.keep (fun k _ => !(lo ≤ k && k < hi)) dst)

/-- A slot has become active: a context that begins to exist starts afresh, with the entries of the image loaded for it, and its interfaces read its
rank table (R253, R254, R274). -/
def State.slotActivated (s : State) (p c : Nat) (old : Nat → Word) : State :=
  let b := (s.part p).field
  let o := slotBase c
  let ctx : CtxId := BitVec.ofNat 16 (Word.field (b o) 0 16)
  if !(b o).getLsbD 22 then s
  else if !(old o).getLsbD 22 then
    State.readRanks { s with ctxs := Tab.set s.ctxs ctx.toNat { entries := Config.entryPoints s.fresh ctx.toNat } } p ctx
  else if b (o + 0x50) != old (o + 0x50) || b (o + 0x58) != old (o + 0x58) then s.readRanks p ctx
  else s

/-- The active configuration blocks of every partition, in partition order, as bytes (R353, R359). -/
def State.configBytes (s : State) : List Byte :=
  (List.range 64).flatMap fun p => (List.range 0x20000).flatMap fun i => leBytes 8 ((s.part p).field (8 * i)).toNat

/-- Measurement index 5 is rewritten at a whole-block commit (R359). -/
def State.measureConfig (s : State) : State :=
  { s with sec := { s.sec with measured := Tab.set s.sec.measured 5 (Config.sha384 s.configBytes) } }

/-- The partition that owns the granule of an HBM address, no monitor granule (R336). -/
def State.ownerOf (s : State) (pa : Nat) : Option Nat :=
  let e := s.ownerEntry pa
  if isHbm pa && e.getLsbD 8 && !e.getLsbD 9 then some (e.extractLsb' 0 6).toNat else none

/-- The bytes of HBM that are encrypted under the key of a partition that some set names (R364). -/
def State.sealedBy (s : State) (of : Nat → Bool) (pa : Nat) : Bool :=
  match s.ownerOf pa with
  | some p => of p && (s.part p).key.isSome
  | none => false

/-- The bytes of HBM that are encrypted (R364). -/
def State.sealed (s : State) (pa : Nat) : Bool := s.sealedBy (fun _ => true) pa

/-- Bytes that can be read no more, the key that encrypts them being lost to whoever reads them, read zero (R364, log entry 35). -/
def State.forgetBytes (s : State) (lost : Nat → Bool) : State := { s with mem := s.mem.filter fun c => !lost c.1 }

/-- A partition that comes into being gets its owner key, and, in DEPLOYED, its partition key (R364, R369). One that gives up every granule
is destroyed, which ends DBG.PART of it; its key goes, and with it the contents of its granules (R364). -/
def State.createPart (s : State) (p : Nat) (granules : Word) : State :=
  let now := (s.part p).field 8
  if granules = 0 && now ≠ 0 then
    s.modPart p fun b => { b with
      ownerKey := Config.ownerKey s.fresh p
      key := if s.sec.lifecycle = 1 && s.sec.debugState ≠ 2 then some (Config.partitionKey s.fresh p) else none }
  else if granules ≠ 0 && now = 0 then
    let s := (s.forgetBytes (s.sealedBy (· == p))).modPart p fun b => { b with ownerKey := [], key := none }
    if s.sec.debugState = 1 && s.sec.dpart.toNat = p then { s with sec := { s.sec with debugState := 0, dpart := 0 } } else s
  else s

/-- The window registers of the cores that join a partition are reset, and their caddies zeroed, so that nothing of the partition that they left is
found there (R51, R358). -/
def State.clearJoined (s : State) (joined : List Coord) : State :=
  joined.foldl (fun s c => (s.modCore c fun k => { k with winRange := Vector.replicate 8 0, winAccess := Vector.replicate 8 0 }).clearCaddy c) s

/-- Steps 2 to 5 of a commit of the whole block, or of one slot: status, then the copies, then SEQ, and BUSY is clear (R356). They happen at once
(log entry 20). -/
def State.commit (s : State) (p : Nat) (slot : Option Nat) : State :=
  let slots := match slot with
    | some c => [c]
    | none => List.range 64
  let st := s.commitStatus p slot.isNone slots
  if st ≠ 0 then s.modPart p fun b => { b with status := st, commitReq := none }
  else
    let old := (s.part p).field
    let s := s.modPart p fun b =>
      { b with
        status := 0
        seq := b.seq + 1
        commitReq := none
        active := match slot with
          | some c => Tab.overlay b.active b.staged (slotBase c) (slotBase c + 0x2000)
          | none => b.staged }
    let s := if slot.isNone then
        ((s.createPart p (old 8)).clearJoined ((s.partCores p).filter fun c => !(old 8).getLsbD (granuleOf c))).measureConfig
      else s
    slots.foldl (fun s c => s.slotActivated p c old) s

/-- A commit store from a level below `need`, or while BUSY is set, is refused (R354, R356). -/
def State.commitRefused (s : State) (p pl need : Nat) : Bool := pl < need || (s.part p).commitReq.isSome

/-- Step 1 of a commit: BUSY (R356). -/
def State.beginCommit (s : State) (p pl need : Nat) (what : Option Nat) : State :=
  if s.commitRefused p pl need then s.refuseCfg p else s.modPart p fun b => { b with commitReq := some what }

/-- The commit in progress goes through its steps (R356). -/
def commitStep (s : State) (p : Nat) : State :=
  match (s.part p).commitReq with
  | some what => s.commit p what
  | none => s

/-- COMMIT at a privilege level, the store and what follows it together (R356); in recovery mode and in D3hot no store comes (R361, R368). -/
def commitAt (s : State) (p pl : Nat) : State :=
  if !s.awake then s else if s.commitRefused p pl 2 then s.refuseCfg p else s.commit p none

/-- CCOMMIT at a privilege level (R356). -/
def ccommitAt (s : State) (p c pl : Nat) : State :=
  if !s.awake then s else if s.commitRefused p pl 1 then s.refuseCfg p else s.commit p (some c)

/-- COMMIT (R356). -/
def execCommit (part : BitVec 6) (pl : BitVec 2) (s : State) : Host.Outcome State Fault Refusal := .next (commitAt s part.toNat pl.toNat)
/-- CCOMMIT (R356). -/
def execCcommit (part slot : BitVec 6) (pl : BitVec 2) (s : State) : Host.Outcome State Fault Refusal :=
  .next (ccommitAt s part.toNat slot.toNat pl.toNat)

/-! ## Requests -/

/-- A performance level for the whole device (R367); first-light service runs at P3 (R362), and recovery mode and D3hot take no request (R361, R368). -/
def State.setLevel (s : State) (l : BitVec 2) : State := if s.sec.firstLight || !s.awake then s else { s with sec := { s.sec with plevel := l } }

/-- PLEVEL (R367). -/
def execPlevel (_part : BitVec 6) (level : BitVec 2) (s : State) : Host.Outcome State Fault Refusal := .next (s.setLevel level)

/-- A FORCED halt of a context of a partition (R381, R354). -/
def haltreq (s : State) (p : Nat) (ctx : CtxId) : State :=
  if (s.slotOf ctx).map (·.1) = some p && s.awake then s.haltCtx ctx { cause := 6, unit := none, kind := 0 } else s

/-- HALTREQ (R381). -/
def execHaltreq (part : BitVec 6) (ctx : CtxId) (s : State) : Host.Outcome State Fault Refusal := .next (haltreq s part.toNat ctx)

/-- REFUSALS is cleared by a store of zero at PL.HYP; any other store of it is refused (R354). -/
def refusalsClear (s : State) (p pl : Nat) (x : Word) : State :=
  if !s.awake then s else if pl < 2 || x ≠ 0 then s.refuseCfg p else s.modPart p fun b => { b with refusals := 0 }

/-- REFUSALS_CLEAR (R354). -/
def execRefusalsClear (part : BitVec 6) (pl : BitVec 2) (s : State) : Host.Outcome State Fault Refusal :=
  .next (refusalsClear s part.toNat pl.toNat 0)

/-- The lowest level that may store to an offset of a context slot (R355). -/
def slotLevel (o : Nat) : Option Nat :=
  if o % 8 ≠ 0 then none else if o = 0 then some 2
  else if o ≤ 0x58 || (0x100 ≤ o && o < 0x280) || (0x400 ≤ o && o < 0x580) || (0x800 ≤ o && o < 0x1000) then some 1
  else none

/-- A staged field set. -/
def State.stage (s : State) (p off : Nat) (x : Word) : State := s.modPart p fun b => { b with staged := Tab.set b.staged off x }

/-- An aligned 8-byte store to a partition configuration block from a level (R354). A PCTL store with both COMMIT and CCOMMIT set acts as COMMIT: the
spec does not say how the two combine (log entry 73). -/
def State.blockWrite (s : State) (p off pl : Nat) (x : Word) : State :=
  let need (l : Nat) (t : State) : State := if pl < l then s.refuseCfg p else t
  if off = 0 then
    (if x.getLsbD 0 then s.beginCommit p pl 2 none else if x.getLsbD 8 then s.beginCommit p pl 1 (some (Word.field x 2 6)) else need 1 s)
  else if off = 8 || off = 0x10 || off = 0x18 || off = 0x20 || off = 0x28 then need 2 (s.stage p off x)
  else if off = 0x30 then need 2 (s.setLevel (BitVec.ofNat 2 (Word.field x 0 2)))
  else if off = 0x38 then need 2 (s.modPart p fun b => { b with powerReq := some x })
  else if off = 0x40 then need 2 (s.modPart p fun b => { b with switchReq := some x })
  else if off = 0x48 then need 2 (haltreq s p (BitVec.ofNat 16 (Word.field x 0 16)))
  else if off = 0x50 then need 2 (if Word.field x 0 2 = 0 then s else s.modPart p fun b => { b with resetReq := some x })
  else if off = 0x58 then
    (if pl < 1 || (s.part p).rankReq.isSome then s.refuseCfg p else s.modPart p fun b => { b with rankReq := some x })
  else if off = 0x60 then refusalsClear s p pl x
  else if off = 0x80 then need 2 (s.modPart p fun b => { b with tvec := b.tvec.set 0 x })
  else if off = 0x88 then need 2 (s.modPart p fun b => { b with tdeleg := b.tdeleg.set 0 x })
  else if off = 0x90 then need 3 (s.modPart p fun b => { b with tvec := b.tvec.set 1 x })
  else if off = 0x98 then need 3 (s.modPart p fun b => { b with tdeleg := b.tdeleg.set 1 x })
  else if slotBase 0 ≤ off && off < slotBase 64 then
    match slotLevel ((off - slotBase 0) % 0x2000) with
    | some l => need l (s.stage p off x)
    | none => s.refuseCfg p
  else s.refuseCfg p

/-- DONE of a request register. -/
def doneBit (r : Option Word) : Word := if r.isNone then BitVec.twoPow 64 63 else 0

/-- The bits of a staged field that hold something; the others are reserved and read zero (R9, R341, R354, R355). -/
def fieldMask (off : Nat) : Word :=
  let o := (off - slotBase 0) % 0x2000
  if off < slotBase 0 then (if off = 0x10 then 0x000FFFFFFFFFF000 else if off = 0x18 then 0xFFF else BitVec.allOnes 64)
  else if o = 0 then 0xFFFFFF
  else if o = 8 then 0x000FFFFFFFFFF000
  else if o = 0x40 then 0xFFFFFFFF
  else if o = 0x58 then 0xFFFF
  else if 0x800 ≤ o && o < 0x1000 && o % 32 = 0 then 0xFF
  else BitVec.allOnes 64

/-- An aligned 8-byte load of a partition configuration block (R354). -/
def State.blockRead (s : State) (p off : Nat) : Word :=
  let b := s.part p
  if off = 0 then BitVec.ofNat 64 ((if b.commitReq.isSome then 2 else 0) + b.status * 2 ^ 16 + b.seq.toNat * 2 ^ 32)
  else if off = 0x38 then doneBit b.powerReq
  else if off = 0x40 then doneBit b.switchReq
  else if off = 0x50 then doneBit b.resetReq
  else if off = 0x58 then doneBit b.rankReq
  else if off = 0x60 then b.refusals.setWidth 64
  else if off = 0x80 then b.tvec[0]
  else if off = 0x88 then b.tdeleg[0]
  else if off = 0x90 then b.tvec[1]
  else if off = 0x98 then b.tdeleg[1]
  else b.stagedField off &&& fieldMask off

/-! ## Device registers -/

/-- The security status word (R363). -/
def State.secWord (s : State) : Word :=
  let x := s.sec
  BitVec.ofNat 64 (x.lifecycle.toNat + x.debugState.toNat * 4 + x.dpart.toNat * 16 + (if x.firstLight then 2 ^ 10 else 0) +
    (if x.recovery then 2 ^ 11 else 0) + x.plevel.toNat * 2 ^ 12 + (if x.throttle then 2 ^ 14 else 0))

/-- The viral status word (R401). -/
def State.viralWord (s : State) : Word :=
  let v := s.viral
  BitVec.ofNat 64 ((if v.on then 1 else 0) + v.src % 8 * 2 + v.port.toNat * 16 + v.ld.toNat * 2 ^ 9 + (if v.multi then 2 ^ 13 else 0) +
    min (v.held.length + v.arrivals.length) (2 ^ 32 - 1) * 2 ^ 32)

/-- The registers of the configuration space. The spec gives addresses to all but the queue control blocks, the refusal counts of logical devices and
the port of the ownership table, whose addresses here are the model's (log entry 74). -/
inductive CfgPlace where
  | security
  | viral
  | counter (unit row : Nat)
  | logWord (die off : Nat)
  | logIndex (die : Nat)
  | block (p off : Nat)
  | queue (q off : Nat)
  | ldRefusals (ld : Nat)
  | owner (g : Nat)
  | reserved
  deriving DecidableEq, Repr

/-- What stands at an address of the configuration space (R353, R363, R396, R398, R401). -/
def cfgPlace (pa : Nat) : CfgPlace :=
  if pa = 0x10000001000 then .security else if pa = 0x10000001010 then .viral
  else if 0x10000100000 ≤ pa && pa < 0x10000100000 + 0x100 * 384 && pa % 0x100 / 8 < 10 then
    .counter ((pa - 0x10000100000) / 0x100) (pa % 0x100 / 8 + 1)
  else if 0x10000200000 ≤ pa && pa < 0x10000205000 then
    let die := (pa - 0x10000200000) / 0x1000
    let o := pa % 0x1000
    if o < 0x400 then .logWord die o else if o = 0x400 then .logIndex die else .reserved
  else if 0x10000300000 ≤ pa && pa < 0x10000300000 + 0x40 * 384 then .queue ((pa - 0x10000300000) / 0x40) (pa % 0x40)
  else if 0x10000400000 ≤ pa && pa < 0x10000400000 + 8 * 16 then .ldRefusals ((pa - 0x10000400000) / 8)
  else if 0x10000800000 ≤ pa && pa < 0x10000800000 + 8 * 196608 then .owner ((pa - 0x10000800000) / 8)
  else if 0x10010000000 ≤ pa && pa < 0x10010000000 + 0x100000 * 64 then
    .block ((pa - 0x10010000000) / 0x100000) (pa % 0x100000)
  else .reserved

/-- A register of a queue control block (R249). -/
def State.queueWord (s : State) (q off : Nat) : Word :=
  let k := s.queue q
  if off = 0 then k.base
  else if off = 8 then k.cfg
  else if off = 0x10 then k.tail.setWidth 64
  else if off = 0x18 then k.head.setWidth 64
  else if off = 0x20 then k.late.setWidth 64
  else if off = 0x28 then k.rej.setWidth 64
  else 0

/-- A register of a queue control block written (R249). CTX of QCFG is kept below PL.HYP. -/
def State.queueWrite (s : State) (q off pl : Nat) (x : Word) : State :=
  s.modQueue q fun k =>
    if off = 0 then { k with base := x &&& 0x01FFFFFFFFFFFF80 }
    else if off = 8 then
      let ctx := if 2 ≤ pl then Word.field x 48 16 else Word.field k.cfg 48 16
      { k with cfg := Word.setField (x &&& 0x0000FFFF003FFF3F) 48 16 ctx }
    else if off = 0x10 then { k with tail := x.setWidth 32 }
    else if off = 0x20 then { k with late := x.setWidth 32 }
    else if off = 0x28 then { k with rej := x.setWidth 32 }
    else k

/-- An aligned 8-byte load of the configuration space; reserved addresses read zero (log entry 21). -/
def State.cfgRead (s : State) (pa : Nat) : Word :=
  match cfgPlace pa with
  | .security => s.secWord
  | .viral => s.viralWord
  | .counter u r => (Tab.get s.errCounts 0 (counterKey u r)).setWidth 64
  | .logWord d o =>
    let e := Tab.get (Tab.get s.errLogs {} d).entries (0, 0) (o / 16)
    if o % 16 = 0 then e.1 else e.2
  | .logIndex d => BitVec.ofNat 64 (Tab.get s.errLogs {} d).index
  | .block p o => s.blockRead p o
  | .queue q o => s.queueWord q o
  | .ldRefusals d => BitVec.ofNat 64 (Tab.get s.ldRefusals 0 d)
  | .owner g => (Tab.get s.ownership 0 g).setWidth 64
  | .reserved => 0

/-- An ownership entry written: at PL.HYP, and a MON entry or MON itself at PL.MON (R336). What a partition key encrypts in a granule that goes to
another owner can be read there no more (R364, log entry 35). -/
def State.ownerWrite (s : State) (g pl : Nat) (x : Word) : State :=
  let e := Tab.get s.ownership 0 g
  let new := x.setWidth 16 &&& 0x3FF
  if pl < 2 || 196608 ≤ g || (pl < 3 && (e.getLsbD 9 || x.getLsbD 9)) then s
  else
    let same := e &&& 0x33F == new &&& 0x33F
    { (if same then s else s.forgetBytes fun pa => pa / 2 ^ 21 == g && s.sealed pa) with ownership := Tab.set s.ownership g new }

/-- An aligned 8-byte store to the configuration space from a level; one that its register does not take changes nothing (R9, log
entry 21). -/
def State.cfgWrite (s : State) (pa pl : Nat) (x : Word) : State :=
  match cfgPlace pa with
  | .security => if 2 ≤ pl && x.getLsbD 14 then { s with sec := { s.sec with throttle := false } } else s
  | .counter u r => if 2 ≤ pl && x = 0 then { s with errCounts := Tab.erase s.errCounts (counterKey u r) } else s
  | .logIndex d =>
    if 2 ≤ pl then { s with errLogs := Tab.set s.errLogs d { entries := [], index := Word.field x 0 6 } } else s
  | .block p o => s.blockWrite p o pl x
  | .queue q o => if 1 ≤ pl then s.queueWrite q o pl x else s
  | .owner g => s.ownerWrite g pl x
  | _ => s

/-! ## CONFIG_REGISTER_WRITE (R9, R249, R260, R336) -/

/-- A register written by name; recovery mode and D3hot take no write (R361, R368). -/
def configRegisterWrite (s : State) (pl : Nat) (r : CfgReg) (x : Word) : State :=
  if !s.awake then s
  else match r with
  | .queue q off => if 384 ≤ q || pl < 1 then s else s.queueWrite q off pl x
  | .partition p off => if pl < 1 then s else s.blockWrite p.toNat off pl x
  | .owner g => s.ownerWrite g pl x
  | .errorCounter u row => s.cfgWrite (0x10000100000 + 0x100 * u + 8 * (row - 1)) pl x
  | .errorIndex d => s.cfgWrite (0x10000200400 + 0x1000 * d) pl x
  | .securityStatus => s.cfgWrite 0x10000001000 pl x
  | .peerAccess e => if 2 ≤ pl && e < 256 then { s with peerAcl := Tab.set s.peerAcl e x } else s
  | .vfQueue q => if 2 ≤ pl && q < 384 then s.modQueue q fun k => { k with vf := if x.getLsbD 63 then some (x.setWidth 9) else none } else s
  | .discardBase => if 1 ≤ pl then { s with viral := { s.viral with discardBase := x } } else s

/-- CONFIG_REGISTER_WRITE (R9). -/
def execConfigRegisterWrite (pl : BitVec 2) (r : CfgReg) (x : Word) (s : State) : Host.Outcome State Fault Refusal :=
  .next (configRegisterWrite s pl.toNat r x)

/-- QTAIL_DOORBELL: TAIL is written through the page of the one function that exposes the queue (R249, R250, R348). -/
def execQtailDoorbell (q : Nat) (tail : BitVec 32) (s : State) : Host.Outcome State Fault Refusal :=
  .next (if q < 384 && s.awake then s.queueWrite q 0x10 1 (tail.setWidth 64) else s)

end Sys2Proof.Machine
end

