-- ==== Sys2Proof/Machine/MemEvents.lean ====
section
/-!
DEFINITION. What becomes of accesses on their way: their order (R188, R195), their performance at homes and caddies, replies and
acknowledgements (R39, R209, R221), soft errors found on the way (22_errors_and_resets.md R395 to R398), page walks and region merges.
-/

namespace Sys2Proof.Machine

/-! ## At the home (R187, R190, R202, R203, R215, R216) -/

/-- A packet leaves the traffic. -/
def State.drop (s : State) (k : Nat) : State := { s with net := dropAt s.net k }

/-- An access leaves the traffic at its home, having passed the router there, whose buffer shows what errors it has (R395). -/
def State.arrive (s : State) (k : Nat) (a : Access) : State := (s.drop k).meetErrors 9 a.home 0 2 a.ctx 1

/-- A reply with a load's bytes sets out. -/
def State.reply (s : State) (a : Access) (bs : List Byte) : State := { s with net := s.net ++ [.loadReply a.thread a.id a.off bs] }

/-- A refusal of a load sets out (R39). -/
def State.refuseLoad (s : State) (a : Access) (cause : Nat) : State :=
  { s with net := s.net ++ [.loadRefused a.thread a.id cause a.va] }

/-- A refusal of a store sets out; it counts as its acknowledgement, however often a counter counted it (R209). -/
def State.refuseStore (s : State) (a : Access) (cause : Nat) : State :=
  { s with net := s.net ++ .storeRefused a.thread a.id cause a.va a.seq :: List.replicate (a.words - 1) (.ack a.thread a.id) }

/-- A load at its home. -/
def State.homeLoad (s : State) (a : Access) : State :=
  match a.cls with
  | .config =>
    if a.n = 8 && a.pa % 8 = 0 then s.reply a (leBytes 8 (s.cfgRead a.pa).toNat)
    else (s.cfgMisuse a.pa).reply a (List.replicate a.n 0)
  | .pod => if s.podDown a.pa || Config.peerPermits s.fresh a.pa then (let (bs, s) := s.readAt a; s.reply a bs) else s.refuseLoad a cPOD
  | _ =>
    let (bs, s) := s.readAt a
    s.reply a bs

/-- A store at its home (R190, R350, R400). -/
def State.homeStore (s : State) (a : Access) (bs : List Byte) : State :=
  match a.cls with
  | .config => (if a.n = 8 && a.pa % 8 = 0 then s.cfgWrite a.pa a.pl.toNat (BitVec.ofNat 64 (leNat bs)) else s.cfgMisuse a.pa).sendAck a
  | .pod =>
    if s.viral.on then s.hold a.pa a.ctx a.thread .st a.id bs a.words
    else if Config.peerPermits s.fresh a.pa then s.sendAck a else s.refuseStore a cPOD
  | .host => if s.viral.on then s.hold a.pa a.ctx a.thread .st a.id bs a.words else (s.writeAt a bs).sendAck a
  | _ => (s.writeAt a bs).sendAck a

/-- DISCARD at its home: no L1 keeps the line, whose changed words are lost, and each word keeps its value or becomes zero (R189, R203, R215); a
configuration block refuses it (R353). -/
def State.homeDiscard (s : State) (a : Access) : State :=
  let line := a.pa / 64
  match a.cls with
  | .pod => s.sendAck a
  | .config => (s.cfgMisuse a.pa).sendAck a
  | _ =>
    let s := State.requestLine { s with cores := Tab.mapVals (fun _ k => k.l1Drop line) s.cores } line none true
    let s := s.l2Gone line
    let s := (List.range 8).foldl (fun s i =>
      if Config.discardZero s.fresh (8 * line + i) then s.putBytes (64 * line + 8 * i) (List.replicate 8 0) else s) s
    s.sendAck a

/-- HOME_ACCESS: the load, store, DISCARD, CLEAN, ACC.INIT line, DET.NEXT slice or DRAIN row at place `k` is performed at its home, or in
the L1 that owns its line. -/
def homeAccess (s : State) (k : Nat) : State :=
  if !s.ready k then s
  else match s.net[k]? with
    | some (.load a) => if a.cls == .caddy then s else (s.arrive k a).homeLoad a
    | some (.store a bs) => if a.cls == .caddy then s else (s.arrive k a).homeStore a bs
    | some (.discard a) => (s.arrive k a).homeDiscard a
    | some (.clean a hbm) =>
      if a.cls == .config then ((s.drop k).cfgMisuse a.pa).sendAck a
      else
        let s := if s.lineOwner (a.pa / 64) = some a.unit then (s.drop k).writeBackLines a.unit (·.line == a.pa / 64) else s.drop k
        (if hbm then s.l2Clean a.home (a.pa / 64) else s).sendAck a
    | some (.accInit a v key) => (s.arrive k a).homeAccInit a v key
    | some (.detNext a p) => (s.arrive k a).homeDetNext a p
    | some (.drainRow ls f clr es sc) => s.homeDrainRow k ls f clr es sc
    | _ => s

/-- HOME_ACCESS (R187, R190). -/
def execHomeAccess (k : Nat) (s : State) : Host.Outcome State Fault Refusal := .next (homeAccess s k)

/-- An access to a line of HBM that no context makes comes to its home slice: the errors of the tag, the fill and the data are corrected and counted, or
logged, and no context halts for them (R22, R395, R397). -/
def State.outsideLine (s : State) (pa n : Nat) (write : Bool) : State :=
  let home := s.homeSlice ((s.ownerOf pa).getD 0) .hall pa
  if write then s.slicePut home pa n none else s.sliceLook home pa n none

/-- A doubleword of HBM written at its home for no context. -/
def State.putOutside (s : State) (a : Nat) (x : Word) : State := ((s.requestLine (a / 64) none true).outsideLine a 8 true).putWord a x

/-- An entry of the discard log: address and context, 16 bytes. The header, 16 bytes before the entries, counts every write; past 4,096 entries it does
that alone (R403; log entry 87). -/
def State.logDiscard (s : State) (pa : Nat) (ctx : CtxId) : State :=
  let n := s.viral.discarded
  let s := State.putOutside { s with viral := { s.viral with discarded := n + 1 } } s.viral.discardBase.toNat (BitVec.ofNat 64 (n + 1))
  if n < 4096 then
    let a := s.viral.discardBase.toNat + 16 * (n + 1)
    (s.putOutside a (BitVec.ofNat 64 pa)).putOutside (a + 8) (ctx.setWidth 64)
  else s

/-- An atomic at its home (R197, R220, R222, R350, R400). -/
def State.homeAtomic (s : State) (a : Access) (op : Amo) (b d : Word) (ret : Bool) : State :=
  let done (s : State) (old : List Byte) : State := if ret then s.reply a old else s.sendAck a
  let refuse (cause : Nat) : State := if ret then s.refuseLoad a cause else s.refuseStore a cause
  let write (old : List Byte) : List Byte := leBytes a.n (amoResult op (BitVec.ofNat 64 (leNat old)) b d).toNat
  match a.cls with
  | .caddy =>
    if s.caddyOk a.ctx a.core a.svc a.home (keyOff a.pa) a.n .at then
      let old := s.caddyRead a.ctx a.home (keyOff a.pa) a.n
      done ((s.meetCaddy a.ctx a.home (keyOff a.pa) a.n 1).caddyWrite a.ctx a.home (keyOff a.pa) (write old)) old
    else refuse cREFUSED
  | .config => done (s.cfgMisuse a.pa) (List.replicate a.n 0)
  | .pod =>
    if s.viral.on then done (s.logDiscard a.pa a.ctx) (List.replicate a.n 0xFF)
    else if Config.peerPermits s.fresh a.pa then done s (s.readAt a).1 else refuse cPOD
  | .host =>
    if s.viral.on then done (s.logDiscard a.pa a.ctx) (List.replicate a.n 0xFF)
    else
      let a' := { a with bypass := true }
      let (old, s) := s.readAt a'
      let s := (s.writeAt a' (write old)).modCore a.unit (·.l1Drop (a.pa / 64))
      done s old
  | _ =>
    let a' := { a with bypass := true }
    let (old, s) := s.readAt a'
    let s := (s.writeAt a' (write old)).modCore a.unit (·.l1Drop (a.pa / 64))
    done s old

/-- ATOMIC_AT_HOME (R197). -/
def atomicAtHome (s : State) (k : Nat) : State :=
  if !s.ready k then s
  else match s.net[k]? with
    | some (.atomic a op b d ret) => (s.arrive k a).homeAtomic a op b d ret
    | _ => s

/-- ATOMIC_AT_HOME (R197). -/
def execAtomicAtHome (k : Nat) (s : State) : Host.Outcome State Fault Refusal := .next (atomicAtHome s k)

/-- CADDY_ACCESS_ARRIVAL: a load or store reaches the caddy that it names and is judged there (R50). A thread's own caddy is reached
without a window (R50). -/
def caddyAccessArrival (s : State) (k : Nat) : State :=
  if !s.ready k then s
  else match s.net[k]? with
    | some (.load a) =>
      if a.cls != .caddy then s
      else
        let s := s.arrive k a
        if s.caddyOk a.ctx a.core a.svc a.home (keyOff a.pa) a.n .rd then
          (s.meetCaddy a.ctx a.home (keyOff a.pa) a.n 1).reply a (s.caddyRead a.ctx a.home (keyOff a.pa) a.n)
        else s.refuseLoad a cREFUSED
    | some (.store a bs) =>
      if a.cls != .caddy then s
      else
        let s := s.arrive k a
        if s.caddyOk a.ctx a.core a.svc a.home (keyOff a.pa) a.n .wr then
          (s.caddyWrite a.ctx a.home (keyOff a.pa) bs).sendAck a
        else s.refuseStore a cREFUSED
    | _ => s

/-- CADDY_ACCESS_ARRIVAL (R50). -/
def execCaddyAccessArrival (k : Nat) (s : State) : Host.Outcome State Fault Refusal := .next (caddyAccessArrival s k)

/-! ## Replies (R39, R48, R207, R209, R221) -/

/-- The acquire of a thread that completes on its core. -/
def State.acquireFor (s : State) (t scope : Nat) : State := s.acquire (s.thread t).unit scope

/-- The refill of a RET has come: the thread goes where it says, sr.rsp having fallen, unless a PC cannot hold it, which undoes the pop (R44, R47,
R271). -/
def State.landRet (s : State) (t : Nat) (ra : Word) : State :=
  if badPc ra then s.deliver t { cause := cBADPC, val := ra, epc := (s.thread t).pc.setWidth 64 }
  else s.issuedBefore t ((s.modThread t fun x => { x with rsp := x.rsp - 8 }).jumpFor t (ra.setWidth 48))

/-- The thread does not wait for the load any more. -/
def Thread.unhold (x : Thread) (id : Nat) : Thread :=
  if x.hold == some (.load id) || x.hold == some (.acq id) then { x with hold := none } else x

/-- A load of a thread is complete: its register is written, its marks and its count fall, its acquire is made, and a thread that waited
for it completes the instruction. -/
def State.landed (s : State) (t : Nat) (l : PendLoad) (buf : List Byte) : State :=
  let s := s.modThread t fun x => { (landLoad (x.unmark l.dest) l.dest buf).unhold l.id with loads := x.loads.filter (·.id != l.id) }
  let s := s.mendMarks t l.dest.marksG l.dest.marksV
  let s := s.countDown t .ld l.words
  let s := match l.acq with
    | some sc => s.acquireFor t sc.toNat
    | none => s
  match l.dest, l.held with
  | .ret, _ => s.landRet t (BitVec.ofNat 64 (leNat buf))
  | _, some size => s.issuedBefore t (s.completeFor t size (s.thread t).sstep)
  | _, none => s

/-- Bytes of a load come back. -/
def State.loadBytes (s : State) (t id off : Nat) (data : List Byte) : State :=
  match (s.thread t).loads.find? (·.id == id) with
  | none => s
  | some l =>
    let buf := putBuf l.buf off data
    if l.left ≤ 1 then s.landed t l buf
    else s.modThread t fun x => { x with
      loads := x.loads.map fun m => if m.id == id then { l with buf := buf, left := l.left - 1 } else m }

/-- A load is refused: its register keeps its value, and the trap is taken at the instruction (R39). -/
def State.loadRefusal (s : State) (t id cause : Nat) (va : Word) : State :=
  match (s.thread t).loads.find? (·.id == id) with
  | none => s
  | some l =>
    let s := s.modThread t fun x => { (x.unmark l.dest).unhold id with loads := x.loads.filter (·.id != id) }
    let s := s.countDown t .ld l.words
    s.deliver t { cause, val := va, epc := (s.thread t).pc.setWidth 64 }

/-- LOAD_REPLY: a reply or a refusal of a load or value-returning atomic reaches its thread. -/
def loadReply (s : State) (k : Nat) : State :=
  match s.net[k]? with
  | some (.loadReply t id off data) => (s.drop k).loadBytes t id off data
  | some (.loadRefused t id cause va) => (s.drop k).loadRefusal t id cause va
  | _ => s

/-- LOAD_REPLY (R38, R39). -/
def execLoadReply (k : Nat) (s : State) : Host.Outcome State Fault Refusal := .next (loadReply s k)

/-- An acknowledgement of a store: ST falls, or its group's part is done; a no-return atomic with .ACQ or .AR completes its acquire (R221). -/
def State.acked (s : State) (t group : Nat) : State :=
  let s := if group = 0 then s.countDown t .st 1 else s.groupAck group 1
  match (s.thread t).hold with
  | some (.ack g held) =>
    if g ≠ group then s
    else
      let s := (s.modThread t fun x => { x with hold := none }).acquireFor t 3
      if held then s.issuedBefore t (s.completeFor t 4 (s.thread t).sstep) else s
  | _ => s

/-- STORE_ACK (R48, R190). -/
def storeAck (s : State) (k : Nat) : State :=
  match s.net[k]? with
  | some (.ack t g) => (s.drop k).acked t g
  | _ => s

/-- STORE_ACK (R48, R190). -/
def execStoreAck (k : Nat) (s : State) : Host.Outcome State Fault Refusal := .next (storeAck s k)

/-- STORE_REFUSAL: the refusal counts as the acknowledgement and becomes pending (R209). -/
def storeRefusal (s : State) (k : Nat) : State :=
  match s.net[k]? with
  | some (.storeRefused t g cause va seq) =>
    ((s.drop k).pend t (·.addRefusal cause va seq g s.cycle)).acked t g
  | _ => s

/-- STORE_REFUSAL (R209). -/
def execStoreRefusal (k : Nat) (s : State) : Host.Outcome State Fault Refusal := .next (storeRefusal s k)

/-! ## Regions and walks -/

/-- REGION_MERGE: two halves of one owner merge once no other core has asked for their lines for 65,536 core cycles (R190). -/
def regionMerge (s : State) (base lg : Nat) : State :=
  match s.regions.find? (fun r => r.base == base && r.lg == lg), s.regions.find? (fun r => r.base == base + 2 ^ lg && r.lg == lg) with
  | some a, some b =>
    if a.core = b.core && lg < 10 && base % 2 ^ (lg + 1) = 0 && a.since + 65536 ≤ s.cycle && b.since + 65536 ≤ s.cycle then
      { s with regions := (s.regions.filter fun r => r != a && r != b) ++ [{ a with lg := lg + 1, since := max a.since b.since }] }
    else s
  | _, _ => s

/-- REGION_MERGE (R190). -/
def execRegionMerge (base lg : Nat) (s : State) : Host.Outcome State Fault Refusal := .next (regionMerge s base lg)

/-- The walkers of a die that a partition may use: 4 for each of its granules there, so at most 64 (R31, R346). -/
def State.walkersOf (s : State) (part die : Nat) : Nat :=
  4 * ((List.range 16).filter fun g => ((s.part part).field 0x8).getLsbD (16 * die + g)).length

/-- A walk for an access of a thread takes a walker of its die, unless a TLB holds the translation, a walk of the same page of the context is
under way, which then serves both, or no walker is free (R22, R346). A service core uses the die of the core that its thread left (log entry
65). -/
def walkBegin (s : State) (t : Nat) (va : Word) (k : BitVec 3) : State :=
  let x := s.thread t
  match s.slotOf x.ctx with
  | none => s
  | some (p, _) =>
    let die := x.core.toNat / 128
    if (s.tlbFind x.who va).isSome || (s.walks.any fun w => w.ctx == x.ctx && w.va.toNat / 4096 == va.toNat / 4096) ||
        s.walkersOf p die ≤ (s.walks.filter fun w => w.part == p && w.die == die).length then s
    else { s with walks := s.walks ++ [{ thread := t, ctx := x.ctx, part := p, die, va, kind := k }] }

/-- Entries of the share of the shared TLB at one slice (R22, R345). -/
def shareEntries : Nat := 512

/-- A share with room for one more entry: a full one gives up an entry, which of them is open. -/
def Share.room (h : Share) (now addr : Nat) : Share :=
  let n := h.full.length + h.two.length
  if n < shareEntries then h
  else
    let i := Config.evict now addr % n
    if i < h.full.length then { h with full := dropAt h.full i } else { h with two := dropAt h.two (i - h.full.length) }

/-- A translation, and the stage-2 one behind it, put into a share (R345). -/
def Share.put (h : Share) (now : Nat) (x : Xlat) (e : Option S2Entry) : Share :=
  let h := { h with full := h.full.filter (· != x) }
  let h := { h.room now x.vbase with full := (h.room now x.vbase).full ++ [x] }
  match e with
  | none => h
  | some e =>
    let h := { h with two := h.two.filter (· != e) }
    { h.room now e.ipa with two := (h.room now e.ipa).two ++ [e] }

/-- The stage-2 entry behind a translation (R345). -/
def State.s2EntryOf (s : State) (part : Nat) (x : Xlat) : Option S2Entry :=
  if !x.s2en then none
  else match s.s2Walk part 3 x.ipa (Word.field ((s.part part).field 0x10) 12 40 * 2 ^ 12) 5 with
    | .ok o => some { part, ipa := x.ipa / o.size * o.size, out := { o with pa := o.pa - x.ipa % o.size } }
    | .error _ => none

/-- The access kind of a code. -/
def kindOf (k : BitVec 3) : Kind :=
  match k.toNat with
  | 0 => .load
  | 1 => .store
  | 2 => .atomic
  | 3 => .exec
  | 4 => .copy
  | _ => .reduce

/-- A translation goes into the L1 TLB of 96 entries of a core or service core, and into the share of the shared TLB at its slice (R345). -/
def State.keepXlat (s : State) (q : Who) (part : Nat) (va : Word) (x : Xlat) : State :=
  let s := match s.tlbSliceOf q part va with
    | some c => { s with stlb := Tab.set s.stlb c.toNat ((Tab.get s.stlb {} c.toNat).put s.fresh x (s.s2EntryOf part x)) }
    | none => s
  s.modCore q.unit fun k => { k with tlb := makeRoom 96 s.fresh x.vbase (k.tlb.filter (· != x)) ++ [x] }

/-- PAGE_WALK_COMPLETE: the walk under way for the page of an access of a thread reads the entries at their homes; a translation that it
yields goes into the TLBs and ends every walk that it serves, a failed walk leaves nothing, and a walk of a context that is torn down is
abandoned (R345 to R347). -/
def pageWalkComplete (s : State) (t : Nat) (va : Word) : State :=
  let x := s.thread t
  match s.walks.find? fun w => w.thread == t && w.va == va with
  | none => s
  | some w =>
    let s := { s with walks := s.walks.erase w }
    if x.ctx != w.ctx || (s.ctxOf w.ctx).gone then s
    else
      let s := s.walkTouch x.who va
      match s.walk x.who va (kindOf w.kind) with
      | .error _ => s
      | .ok e => { s with walks := s.walks.filter fun w => !e.covers w.ctx w.va }.keepXlat x.who w.part va e

/-- PAGE_WALK_COMPLETE (R342, R345). -/
def execPageWalkComplete (t : Nat) (va : Word) (_kind : BitVec 3) (s : State) : Host.Outcome State Fault Refusal :=
  .next (pageWalkComplete s t va)

end Sys2Proof.Machine
end

