-- ==== Sys2Proof/Machine/Msg.lean ====
section
/-!
DEFINITION. Majors 0x20 and 0x21 (14_control_threads_messages.md R274 to R291): destination words, inboxes, the sending and receiving
interfaces, the thread forms, the message forms, and their events.
-/

namespace Sys2Proof.Machine

/-! ## Taking and placing entries (R279, R289) -/

/-- The context has been torn down (R279, R393). -/
def State.ctxGone (s : State) (ctx : CtxId) : Bool := (s.slotOf ctx).isNone || (s.ctxOf ctx).gone

/-- The entry at a place of an inbox is taken (R279). -/
def State.takeEntry (s : State) (c : Coord) (ctx : CtxId) (n : Nat) : State :=
  let k := s.coreAt c
  let i := k.inbox ctx
  (s.setCore c (k.setInbox ctx { i with entries := dropAt i.entries n })).settleInboxes s c

/-- The place of the entry that MSG.POP takes: the oldest HI entry, else the oldest LO entry (R279, R289). -/
def Inbox.nextMessage (i : Inbox) : Option Nat :=
  match i.entries.findIdx? (·.kind == 1) with
  | some n => some n
  | none => i.entries.findIdx? (·.kind == 0)

/-- An entry is placed (R279). -/
def State.placeEntry (s : State) (c : Coord) (ctx : CtxId) (id : Nat) (e : Entry) : State :=
  let k := s.coreAt c
  let i := k.inbox ctx
  let e := { e with sram := s.takesSram c ctx && k.sramUsed < 64 }
  let s := s.setCore c (k.setInbox ctx { i with entries := i.entries ++ [e], refused := i.refused.erase id, holds := i.holds.erase id })
  let s := s.modCore c fun k => { k with clockGated := false }
  if e.kind = 2 then s else s.wakePoppers c ctx

/-! ## Placement of continuations (R256) -/

/-- The thread key under which a queue core sends the continuations of a queue. -/
def queueSender (q : Nat) : Nat := 2 ^ 40 + q

/-- A send by a queue core. -/
def Send.byQueueCore (m : Send) : Bool := 2 ^ 40 ≤ m.thread

/-- The cores that VALID entries of a context's own rank table name for it, by rising rank (R256). -/
def State.rankCores (s : State) (ctx : CtxId) : List Coord :=
  ((s.ctxOf ctx).ranks.filter fun e =>
      e.1 < s.rankLen ctx && e.2.getLsbD 63 && Word.field e.2 16 16 == ctx.toNat && s.rankInside ctx e.2).map fun e =>
    BitVec.ofNat 9 (Word.field e.2 0 9)

/-- A thread stands in a run list or a general slot and is not parked (R263). -/
def Thread.runnable (x : Thread) : Bool :=
  x.park.isNone && (match x.place with
    | .slot n => n < 60
    | .waiting => true
    | _ => false)

/-- Runnable threads of a context on a core, with the continuations materialised for it and still on their way (R256, R263). -/
def State.runnableOn (s : State) (ctx : CtxId) (c : Coord) : Nat :=
  let k := s.coreAt c
  (if k.ctxs.contains ctx then
    (s.threads.filter fun e => e.2.ctx == ctx && e.2.core == c && e.2.runnable).length +
      ((k.inbox ctx).entries.filter (·.kind == 2)).length
   else 0) +
  (s.net.filter fun p => match p with
    | .send m | .held m => m.byQueueCore && m.ctx == ctx && m.dst == c && m.kind == 2
    | .sendReply m st => st == 1 && m.byQueueCore && m.ctx == ctx && m.dst == c && m.kind == 2
    | _ => false).length

/-- The queue cores may place threads of a context on a core: it is switched in there, and no switch-out of it is under way (R387). -/
def State.placeable (s : State) (ctx : CtxId) (c : Coord) : Bool := (s.coreAt c).ctxs.contains ctx && !s.switching ctx c false

/-- The cores among which a continuation for a context is placed: those where it may be placed, by rising rank; of a context that is switched out
everywhere all of them, where it waits in an extension (R256, R387, R392; log entry 87). -/
def State.spreadCores (s : State) (ctx : CtxId) : List Coord :=
  if (s.rankCores ctx).any fun c => (s.coreAt c).ctxs.contains ctx then (s.rankCores ctx).filter (s.placeable ctx) else s.rankCores ctx

/-- Spread affinity: the fewest runnable threads, ties to the lowest rank (R256). -/
def State.spreadCore (s : State) (ctx : CtxId) : Option Coord :=
  (s.spreadCores ctx).foldl (fun b c => match b with
    | none => some c
    | some d => if s.runnableOn ctx c < s.runnableOn ctx d then some c else some d) none

/-! ## Sends on their way (R275, R279, R280) -/

/-- Two sends of one thread that the interfaces keep in issue order (R280). -/
def Send.sameLine (a b : Send) : Bool := a.thread == b.thread && a.rank == b.rank && (a.rank != 0xFFFF || a.dst == b.dst)

/-- Where a send goes now: the core and context of its rank's entry, held while that is in transit; of an ANY send the core of spread
affinity; of a queue core's under another affinity the core it chose (R275, R282). Where the entry is no longer VALID, the send goes where it was
sent to, while that core is in the partition (R329). -/
def State.sendPlace (s : State) (m : Send) : Option (Coord × CtxId) :=
  if m.anyCore then (s.spreadCore m.ctx).map fun c => (c, m.ctx)
  else if m.rank = 0xFFFF then some (m.dst, m.ctx)
  else
    let e := s.rankEntry m.sctx m.rank.toNat
    if !e.getLsbD 63 then (if s.coreIn (s.partOf m.sctx) m.dst then some (m.dst, m.ctx) else none)
    else if e.getLsbD 62 then none
    else if m.kind = 2 then some (BitVec.ofNat 9 (Word.field e 0 9), m.ctx)
    else some (BitVec.ofNat 9 (Word.field e 0 9), BitVec.ofNat 16 (Word.field e 16 16))

/-- An earlier send of the same line is still to be decided at the receiver. -/
def undecided (m : Send) : Packet → Bool
  | .send p => p.sameLine m
  | _ => false

/-- An earlier blocking send of the same thread to the same inbox stands refused (R279). -/
def refusedAt (m : Send) : Packet → Bool
  | .held p => p.thread == m.thread && p.dst == m.dst && p.ctx == m.ctx
  | .sendReply p st => p.blocking && st == 1 && p.thread == m.thread && p.dst == m.dst && p.ctx == m.ctx
  | _ => false

/-- An earlier blocking send of the same line stands refused (R279, R280). -/
def standsRefused (m : Send) : Packet → Bool
  | .held p => p.sameLine m
  | .sendReply p st => p.blocking && st == 1 && p.sameLine m
  | _ => false

/-- A packet of the traffic replaced. -/
def State.setPacket (s : State) (k : Nat) (p : Packet) : State := { s with net := s.net.set k p }

/-- The outcome of an append: 0 accepted, 1 FULL, 2 GONE, and the state after it (R279, R280). -/
def State.append (s : State) (m : Send) (c : Coord) (ctx : CtxId) (behind : Bool) : Nat × State :=
  if s.ctxGone ctx then (2, s)
  else
    let i := (s.coreAt c).inbox ctx
    let room := if i.holds.contains m.id then 0 < s.freePlaces c ctx else i.holds.length < s.freePlaces c ctx
    if room && !behind then
      (0, s.placeEntry c ctx m.id {
        kind := m.kind, payload := m.payload, hdr := m.hdr, queue := m.queue, scope := m.scope, pinned := m.pinned, sram := false
        rank := m.rank, sctx := m.sctx, age := s.fresh })
    else if m.blocking && !i.refused.contains m.id && i.refused.length < 64 then
      (1, s.modCore c (·.setInbox ctx { i with refused := i.refused ++ [m.id] }))
    else (1, s)

/-- INBOX_APPEND: the send at place `k` of the traffic reaches the receiving interface, one of a line after the other (R279). A send that a settle has
given another inbox leaves the list of the one that refused it (R275, R280). -/
def inboxAppend (s : State) (k : Nat) : State :=
  match s.net[k]? with
  | some (.send m) =>
    if (s.net.take k).any (undecided m) then s
    else match s.sendPlace m with
      | none => s
      | some (c, ctx) =>
        let m' := { m with dst := c, ctx := ctx }
        let s := if c == m.dst && ctx == m.ctx then s else s.unlist m.dst m.ctx m.id
        let (st, s) := s.append m' c ctx ((s.net.take k).any fun p => standsRefused m' p || refusedAt m' p)
        s.setPacket k (.sendReply m' st)
  | _ => s

/-- INBOX_APPEND (R279). -/
def execInboxAppend (k : Nat) (s : State) : Host.Outcome State Fault Refusal := .next (inboxAppend s k)

/-- A thread ends or collapses: its slot and its image are free (R46, R285). -/
def State.freeThread (s : State) (t : Nat) : State :=
  let s := s.unplace t
  { s with threads := Tab.erase s.threads t }

/-- The pour that a continuation's header names (R45). -/
def Send.pour (m : Send) : BitVec 32 := BitVec.ofNat 32 (Word.field m.hdr 32 32)

/-- A TRY form's reply reaches its thread: the status is written and the form completes; MIGRATE.TRY frees the thread on acceptance, and
a spawn that was not accepted is counted no more (R282, R283, R286, R288). -/
def State.tryReply (s : State) (m : Send) (st : Nat) : State :=
  let s := if m.counted then s.countDown m.thread .ms 1 else s
  match (s.thread m.thread).hold with
  | some (.send id d p size leaves) =>
    if id ≠ m.id then s
    else if leaves && st == 0 then s.freeThread m.thread
    else
      let s := if m.kind = 2 && !leaves && st ≠ 0 then s.modLive m.ctx m.pour (· - 1) else s
      let write (x : Thread) : Thread :=
        let x := { x with hold := none }.setG d (BitVec.ofNat 64 st)
        match p with
        | some p => x.setP p (st == 0)
        | none => x
      s.issuedBefore m.thread
        (((s.mendMarks m.thread (BitVec.twoPow 32 d.toNat) 0).modThread m.thread write).completeFor m.thread size (s.thread m.thread).sstep)
  | _ => s

/-- SEND_REPLY: the outcome of a send reaches the sending interface (R280). -/
def sendReply (s : State) (k : Nat) : State :=
  match s.net[k]? with
  | some (.sendReply m st) =>
    if !m.blocking then State.tryReply { s with net := dropAt s.net k } m st
    else if st = 1 then s.setPacket k (.held m)
    else
      let s := { s with net := dropAt s.net k }
      let s := if st = 2 then
          let s := s.pend m.thread (·.addGone m.rank m.seq s.cycle)
          if m.kind = 2 then s.modLive m.ctx m.pour (· - 1) else s
        else s
      if m.counted then s.countDown m.thread .ms 1 else s
  | _ => s

/-- SEND_REPLY (R280). -/
def execSendReply (k : Nat) (s : State) : Host.Outcome State Fault Refusal := .next (sendReply s k)

/-- SEND_RETRY: a held send leaves again, unless an earlier one of its line is still to be accepted (R280). -/
def sendRetry (s : State) (k : Nat) : State :=
  match s.net[k]? with
  | some (.held m) =>
    if (s.net.take k).any (fun p => undecided m p || standsRefused m p) then s else s.setPacket k (.send m)
  | _ => s

/-- SEND_RETRY (R280). -/
def execSendRetry (k : Nat) (s : State) : Host.Outcome State Fault Refusal := .next (sendRetry s k)

/-- HOLD_LAPSE: the oldest hold of an inbox lapses, and its place is held for the next listed send after that one (R280). -/
def holdLapse (s : State) (c : Coord) (ctx : CtxId) : State :=
  let i := (s.coreAt c).inbox ctx
  match i.holds with
  | [] => s
  | h :: hs =>
    let after := (i.refused.dropWhile (· != h)).drop 1
    let hs := match nextHold after hs with
      | some id => hs ++ [id]
      | none => hs
    s.modCore c (·.setInbox ctx { i with holds := hs })

/-- HOLD_LAPSE (R280). -/
def execHoldLapse (c : Coord) (ctx : CtxId) (s : State) : Host.Outcome State Fault Refusal := .next (holdLapse s c ctx)

/-! ## Destination words (R276, R277) -/

/-- BADSEND with a reason. -/
def badSend {α : Type} (r : Nat) : Except Stop α := trap cBADSEND (BitVec.ofNat 64 r)

/-- A destination word of a thread form breaks R276: reserved bits, fields of the message forms, RANK under ANY. -/
def threadDestBad (w : Word) : Bool :=
  Word.field w 23 40 != 0 || Word.field w 16 7 != 0 || (w.getLsbD 63 && Word.field w 0 16 != 0)

/-- A destination word of a message form breaks R276; SCOPE is used by the .REL forms only. -/
def msgDestBad (w : Word) (rel : Bool) : Bool :=
  Word.field w 23 41 != 0 || 5 < Word.field w 16 3 || (!rel && Word.field w 16 3 != 0)

/-- Reasons 1 and 2 of the table BADSEND reasons; the rank that the word names. -/
def destCheck (s : State) (w : Word) (thread rel : Bool) : Except Stop (BitVec 16) := do
  if (if thread then threadDestBad w else msgDestBad w rel) then badSend 1
  let r := Word.field w 0 16
  if thread && w.getLsbD 63 then pure 0xFFFF
  else
    let x := s.self
    let e := s.rankEntry x.ctx r
    if s.rankLen x.ctx ≤ r || !e.getLsbD 63 || (thread && Word.field e 16 16 != x.ctx.toNat) then badSend 2
    pure (BitVec.ofNat 16 r)

/-- A form that a steep may not use raises ENGINE_STATE (R290). -/
def noSteep (s : State) : Except Stop Unit := if s.self.steep then trap cENGINE 3 else .ok ()

/-- A form that a convened member may not use raises CONVENE (R158). -/
def noMember (s : State) : Except Stop Unit := if s.self.conv then trap cCONVENE 4 else .ok ()

/-- The entry of a rank is in transit (R275). -/
def State.inTransit (s : State) (r : BitVec 16) : Bool := r != 0xFFFF && (s.rankEntry s.self.ctx r.toNat).getLsbD 62

/-! ## Thread forms: major 0x20 (R281 to R286) -/

/-- The header of a continuation of the executing thread (R45). -/
def Thread.contHdr (x : Thread) : Word := BitVec.ofNat 64 (x.tid.toNat + x.pour.toNat * 2 ^ 32)

/-- A continuation record of the executing thread with a PC (R45). -/
def Thread.record (x : Thread) (pc : Word) : Vector Word 8 :=
  #v[BitVec.ofNat 64 (Word.field pc 0 48 + x.ctx.toNat * 2 ^ 48), x.getG 1, x.getG 2, x.getG 3, x.getG 4, x.getG 5, x.getG 6, x.getG 7]

/-- The words of 64 bytes. -/
def wordsOf (bs : List Byte) : Vector Word 8 := Vector.ofFn fun i => BitVec.ofNat 64 (leNat ((bs.drop (8 * i.val)).take 8))

/-- A send of the executing thread, with its core and context as the rank table gives them now. -/
def State.sendOf (s : State) (id : Nat) (rank : BitVec 16) (kind : Nat) (payload : Vector Word 8) (hdr : Word) (blocking counted : Bool) : Send :=
  let x := s.self
  let e := s.rankEntry x.ctx rank.toNat
  { id, thread := s.cur, sctx := x.ctx, src := x.core, rank, anyCore := kind == 2 && rank == 0xFFFF, dst := BitVec.ofNat 9 (Word.field e 0 9),
    ctx := if kind = 2 then x.ctx else BitVec.ofNat 16 (Word.field e 16 16), kind, payload, hdr, queue := s.slotQueue s.cur,
    blocking, counted, seq := s.fresh }

/-- A TRY form's send leaves and the thread waits for its reply. -/
def State.sendHeld (s : State) (m : Send) (d : BitVec 5) (p : Option (BitVec 3)) (leaves : Bool) : Body :=
  let s := s.modSelf fun t => { t with hold := some (Hold.send m.id d p 4 leaves) }
  .error (.held { s with net := s.net ++ [.send m] })

/-- What SPAWN or SPAWN.M (`mem`) finds as it issues: the rank, and the record, read and checked (R277, R282). -/
def spawnFind (s : State) (ra rb : BitVec 5) (mem : Bool) : Except Stop (Found × State) := do
  let x := s.self
  let gb := s.g rb
  let rank ← destCheck s (s.g ra) true false
  if mem then
    if gb.toNat % 64 ≠ 0 || isCaddy gb then badSend 4
    let (bs, s) ← readNow s gb 64 64 true
    let r := wordsOf bs
    if Word.field r[0] 48 16 ≠ x.ctx.toNat || r[0].getLsbD 0 then badSend 4
    pure ({ since := 0, rank, record := r }, s)
  else
    if badPc gb then badSend 4
    pure ({ since := 0, rank, record := x.record gb }, s)

/-- What the executing thread's instruction found when it issued, or, as it issues, what it finds now. -/
def found (s : State) (find : Except Stop (Found × State)) : Except Stop (Found × State) :=
  match s.self.foundNow with
  | some f => .ok (f, s)
  | none => find

/-- SPAWN and SPAWN.M (`mem`), blocking, or TRY with its status and predicate registers (R282). -/
def spawnBody (s : State) (ra rb : BitVec 5) (mem : Bool) (try_ : Option (BitVec 5 × BitVec 3)) : Body := do
  if try_.isNone then noSteep s
  if !mem then noMember s
  let x := s.self
  let (f, s) ← found s (spawnFind s ra rb mem)
  counterWait (s.keepFound f)
  let rank := f.rank
  match try_ with
  | some (d, p) =>
    if s.inTransit rank then pure ((s.setG d 3).setP p false)
    else
      let (id, s) := (s.count .ms 1).newId
      let s := s.modLive x.ctx x.pour (· + 1)
      s.sendHeld (s.sendOf id rank 2 f.record x.contHdr false true) d (some p) false
  | none =>
    let (id, s) := (s.count .ms 1).newId
    let s := s.modLive x.ctx x.pour (· + 1)
    pure { s with net := s.net ++ [.send (s.sendOf id rank 2 f.record x.contHdr true true)] }

/-- SPAWN (R282). -/
def execSpawn (g : BitVec 4) (a b : BitVec 5) (s : State) := guarded g s (spawnBody s a b false none)
/-- SPAWN.M (R282). -/
def execSpawnM (g : BitVec 4) (a b : BitVec 5) (s : State) := guarded g s (spawnBody s a b true none)
/-- SPAWN.TRY (R282). -/
def execSpawnTry (g : BitVec 4) (d a b : BitVec 5) (p : BitVec 3) (s : State) := guarded g s (spawnBody s a b false (some (d, p)))
/-- SPAWN.M.TRY (R282). -/
def execSpawnMTry (g : BitVec 4) (d a b : BitVec 5) (p : BitVec 3) (s : State) := guarded g s (spawnBody s a b true (some (d, p)))

/-- The checks and the wait of MIGRATE and MIGRATE.TRY (R158, R277, R283, R290). -/
def migrateStart (s : State) (ra : BitVec 5) : Except Stop (BitVec 16) := do
  noSteep s
  noMember s
  let (f, _) ← found s ((destCheck s (s.g ra) true false).map fun rank => ({ since := 0, rank }, s))
  counterWait (s.keepFound f)
  pure f.rank

/-- The address after the executing instruction. -/
def State.nextPc (s : State) : Word := s.self.pc.setWidth 64 + 4

/-- MIGRATE (R283): the thread is gone, and its record is on its way; its live count stands (R286). -/
def migrateBody (s : State) (ra : BitVec 5) : Body := do
  let rank ← migrateStart s ra
  let (id, s) := s.newId
  let m := s.sendOf id rank 2 (s.self.record s.nextPc) s.self.contHdr true false
  .error (.left (State.freeThread { s with net := s.net ++ [.send m] } s.cur))

/-- MIGRATE (R283). -/
def execMigrate (g : BitVec 4) (a : BitVec 5) (s : State) := guarded g s (migrateBody s a)

/-- MIGRATE.TRY (R283): the record carries 0 in the word of gd. -/
def migrateTryBody (s : State) (d ra : BitVec 5) : Body := do
  let rank ← migrateStart s ra
  if s.inTransit rank then pure (s.setG d 3)
  else
    let (id, s) := (s.count .ms 1).newId
    let r := s.self.record s.nextPc
    let r := if 1 ≤ d.toNat && d.toNat ≤ 7 then r.setIfInBounds d.toNat 0 else r
    s.sendHeld (s.sendOf id rank 2 r s.self.contHdr false true) d none true

/-- MIGRATE.TRY (R283). -/
def execMigrateTry (g : BitVec 4) (d a : BitVec 5) (s : State) := guarded g s (migrateTryBody s d a)

/-- What SUSPEND finds as it issues: the place of its record, translated once (R277, R284). -/
def suspendFind (s : State) (ga : Word) : Except Stop (Found × State) := do
  if ga.toNat % 64 ≠ 0 || isCaddy ga then badSend 4
  let t ← lift (s.translate s.self.who ga .store)
  if t.cls == .acc || t.cls == .det then trap cBADCLASS ga
  pure ({ since := 0, pa := t.pa, cls := t.cls, home := t.home }, s)

/-- SUSPEND (R284): the record is written by a store whose acknowledgement lowers the pour's live count (R286). -/
def suspendBody (s : State) (ra : BitVec 5) : Body := do
  noSteep s
  noMember s
  let (f, s) ← found s (suspendFind s (s.g ra))
  counterWait (s.keepFound f)
  let x := s.self
  let (gid, s) := s.newGroup .st [] 1
  let s := { s with groups := Tab.set s.groups gid { left := 1, ctr := .st, threads := [], pour := some (x.ctx, x.pour) } }
  let bs := (x.record s.nextPc).toList.flatMap fun w => leBytes 8 w.toNat
  let acc := { s.accessOf (s.g ra) 64 { pa := f.pa, cls := f.cls, home := f.home } with id := gid }
  .error (.left (State.freeThread { s with net := s.net ++ [.store acc bs] } s.cur))

/-- SUSPEND (R284). -/
def execSuspend (g : BitVec 4) (a : BitVec 5) (s : State) := guarded g s (suspendBody s a)

/-- YIELD's exchange (R285): the head of the run list of the slot's queue takes the slot. -/
def yieldState (s : State) : State :=
  let x := s.self
  match x.place with
  | .slot n =>
    match (s.myCore.list (s.slotQueue s.cur)).head? with
    | some u => (s.takeSlot x.core n u).joinList s.cur
    | none => s
  | _ => s

/-- YIELD (R285, R290). -/
def execYield (g : BitVec 4) (s : State) := guarded g s (do
  noSteep s
  pure (yieldState s))

/-- EXIT (R285): leave the group, wait for the counters, end. -/
def exitBody (s : State) : Body := do
  noSteep s
  let s ← if s.self.conv then leaveBody s else pure s
  counterWait s
  let x := s.self
  .error (.left ((s.modLive x.ctx x.pour (· - 1)).freeThread s.cur))

/-- EXIT (R285). -/
def execExit (g : BitVec 4) (s : State) := guarded g s (exitBody s)

/-! ## Message forms: major 0x21 (R287 to R289) -/

/-- The header of a message (R278). -/
def State.msgHdr (s : State) (w : Word) (rel : Bool) : Word :=
  BitVec.ofNat 64 (s.rankOf s.self.ctx s.self.core + Word.field w 20 3 * 2 ^ 16 + Word.field w 19 1 * 2 ^ 19 +
    (if rel then 2 ^ 20 else 0) + s.self.tid.toNat * 2 ^ 32)

/-- The payload: registers from b, the words beyond them zero (R288). -/
def State.msgPayload (s : State) (rb : BitVec 5) (n : Nat) : Vector Word 8 :=
  Vector.ofFn fun i => if i.val < n then s.g (BitVec.ofNat 5 (rb.toNat + i.val)) else 0

/-- MSG.APP and MSG.TRY, with and without .REL (R288). -/
def msgBody (s : State) (ra rb : BitVec 5) (rel : Bool) (try_ : Option (BitVec 5 × BitVec 3)) : Body := do
  if try_.isNone then noSteep s
  let w := s.g ra
  let n := Word.field w 20 3 + 1
  let (f, _) ← found s (do
    let rank ← destCheck s w false rel
    if 31 < rb.toNat + (n - 1) then badSend 3
    pure ({ since := 0, rank }, s))
  let rank := f.rank
  if rel then releaseWait (s.keepFound f) (Word.field w 16 3)
  let kind := Word.field w 19 1
  let held := s.net.any (standsRefused (s.sendOf 0 rank kind (s.msgPayload rb n) 0 true true))
  match try_ with
  | some (d, p) =>
    if s.inTransit rank then pure ((s.setG d 3).setP p false)
    else
      if held then .error (.wait none (s.keepFound f))
      roomFor s .ms 1
      let (id, s) := (s.count .ms 1).newId
      let m := { s.sendOf id rank kind (s.msgPayload rb n) (s.msgHdr w rel) false true with scope := Word.field w 16 3 }
      s.sendHeld m d (some p) false
  | none =>
    roomFor s .ms 1
    let (id, s) := (s.count .ms 1).newId
    let m := { s.sendOf id rank kind (s.msgPayload rb n) (s.msgHdr w rel) true true with scope := Word.field w 16 3 }
    pure { s with net := s.net ++ [if held then .held m else .send m] }

/-- MSG.APP (R288). -/
def execMsgApp (g : BitVec 4) (a b : BitVec 5) (s : State) := guarded g s (msgBody s a b false none)
/-- MSG.APP.REL (R288). -/
def execMsgAppRel (g : BitVec 4) (a b : BitVec 5) (s : State) := guarded g s (msgBody s a b true none)
/-- MSG.TRY (R288). -/
def execMsgTry (g : BitVec 4) (d a b : BitVec 5) (p : BitVec 3) (s : State) := guarded g s (msgBody s a b false (some (d, p)))
/-- MSG.TRY.REL (R288). -/
def execMsgTryRel (g : BitVec 4) (d a b : BitVec 5) (p : BitVec 3) (s : State) := guarded g s (msgBody s a b true (some (d, p)))

/-- The registers that a popped entry writes: its payload words from d up, and its header (R289). -/
def Thread.pop (x : Thread) (d b : BitVec 5) (e : Entry) : Thread :=
  let n := Word.field e.hdr 16 3 + 1
  let x := (List.range n).foldl (fun x i => x.setG (BitVec.ofNat 5 (d.toNat + i)) (e.payload[i]?.getD 0)) x
  x.setG b e.hdr

/-- An entry that is read in the SRAM of an inbox meets the errors that stand there, by its place among those of the SRAM (R395, R397, log entry 41). -/
def State.meetEntry (s : State) (n : Nat) : State :=
  let x := s.self
  let es := (s.myCore.inbox x.ctx).entries
  if es[n]?.any (·.sram) then s.meetErrors 8 x.core ((es.take n).filter (·.sram)).length 1 x.ctx x.haltUnit.2 else s

/-- An entry is popped by the executing thread (R289). -/
def State.popEntry (s : State) (d b : BitVec 5) (n : Nat) (e : Entry) : State :=
  let x := s.self
  let s := (s.takeEntry x.core x.ctx n).modSelf (·.pop d b e)
  if e.hdr.getLsbD 20 then s.acquireSelf e.scope else s

/-- MSG.POP, and MSG.POLL with its predicate (R289). -/
def popBody (s : State) (d b : BitVec 5) (poll : Option (BitVec 3)) : Body := do
  if poll.isNone then noSteep s
  roomFor s .ld 1
  let i := s.myCore.inbox s.self.ctx
  match i.nextMessage, poll with
  | none, none => .error (.wait (some .inbox) s)
  | none, some p => pure (s.setP p false)
  | some n, p =>
    let s := s.meetEntry n
    if s.halted s.self.ctx then .error (.left s)
    let s := s.popEntry d b n (i.entries[n]?.getD { kind := 0, payload := Vector.replicate 8 0, hdr := 0, queue := 0, pinned := false, sram := false })
    pure (match p with
      | some p => s.setP p true
      | none => s)

/-- MSG.POP (R289). -/
def execMsgPop (g : BitVec 4) (d b : BitVec 5) (s : State) := guarded g s (popBody s d b none)
/-- MSG.POLL (R289). -/
def execMsgPoll (g : BitVec 4) (d b : BitVec 5) (p : BitVec 3) (s : State) := guarded g s (popBody s d b (some p))

end Sys2Proof.Machine
end

