-- ==== Sys2Proof/Machine/Sched.lean ====
section
/-!
DEFINITION. Launches, pours and the slot arbiter (13_scheduling_and_progress.md R249 to R268), the instantiation of continuations and arrivals
(R34, R156, R374), and the delivery of pending traps at their time (R210).
-/

namespace Sys2Proof.Machine

/-! ## Queue cores (R249) -/

/-- The ring size, class, enable, weight, latency cap, grace and context of a queue (table QCFG). -/
def Queue.size (k : Queue) : Nat := 2 ^ max 4 (Word.field k.cfg 0 4)
/-- CLASS is latency. -/
def Queue.latency (k : Queue) : Bool := k.cfg.getLsbD 4
/-- EN. -/
def Queue.en (k : Queue) : Bool := k.cfg.getLsbD 5
/-- WEIGHT; 0 acts as 1. -/
def Queue.weight (k : Queue) : Nat := max 1 (Word.field k.cfg 8 8)
/-- LCAP; values above 48 act as 48. -/
def Queue.lcap (k : Queue) : Nat := min 48 (Word.field k.cfg 16 6)
/-- GRACE, in nanoseconds. -/
def Queue.grace (k : Queue) : Nat := 1024 * Word.field k.cfg 32 16
/-- CTX. -/
def Queue.ctx (k : Queue) : CtxId := BitVec.ofNat 16 (Word.field k.cfg 48 16)

/-- A queue core acts for a context as a thread of it at PL.DRV, through no core's caches or L1 TLB (R249). -/
def queueWho (ctx : CtxId) : Who := { ctx, core := hwUnit, svc := false, pl := 1 }

/-- The place of a piece of memory of a context for a queue core: neither a caddy nor the configuration space (R249). -/
def State.queuePlace (s : State) (ctx : CtxId) (k : Kind) (va : Word) : Option Target :=
  if isCaddy va then none
  else match s.translate (queueWho ctx) va k with
    | .ok t => if t.cls == .config then none else some t
    | .error _ => none

/-- The access of a queue core. -/
def queueAccess (ctx : CtxId) (va : Word) (n : Nat) (t : Target) : Access :=
  { thread := queueSender 0, ctx, core := hwUnit, svc := false, pl := 1, va, pa := t.pa, n, cls := t.cls, home := t.home, bypass := true }

/-- The places of the lines of a range. -/
def State.queuePlaces (s : State) (ctx : CtxId) (k : Kind) (va : Word) (n : Nat) : Option (List (Word × Nat × Target)) :=
  (pieces va 64 n n).mapM fun p => (s.queuePlace ctx k p.1).map fun t => (p.1, p.2, t)

/-- A queue core reads bytes of a context's memory. -/
def State.queueRead (s : State) (ctx : CtxId) (ls : List (Word × Nat × Target)) : List Byte × State :=
  ls.foldl (fun acc l =>
    let (bs, s) := acc.2.readAt (queueAccess ctx l.1 l.2.1 l.2.2)
    (acc.1 ++ bs, s)) ([], s)

/-- A queue core's walks for a range of a context's memory read their entries (R345, R347). -/
def State.queueWalk (s : State) (ctx : CtxId) (va : Word) (n : Nat) : State := if n = 0 then s else s.walkRange (queueWho ctx) (va, n)

/-- A completion record is written as one 16-byte write (R253, R255); one to outside the device is held while the device is viral (R400). -/
def State.writeRecord (s : State) (ctx : CtxId) (va : Word) (w0 w1 : Word) : State :=
  let s := s.queueWalk ctx va 16
  match s.queuePlace ctx .store va with
  | none => s
  | some t =>
    let bs := leBytes 8 w0.toNat ++ leBytes 8 w1.toNat
    if s.viral.on && (t.cls == .host || t.cls == .pod) then
      let (g, s) := s.newGroup .st [] 1
      s.hold t.pa ctx (queueSender 0) .st g bs
    else s.writeAt (queueAccess ctx va 16 t) bs

/-! ## Packets (R251 to R254) -/

/-- A launch packet. -/
structure Launch where
  bytes : List Byte
  edges : List (List Byte)

/-- A doubleword of a packet. -/
def Launch.word (l : Launch) (off : Nat) : Word := imgWord l.bytes off
/-- CTRL. -/
def Launch.ctrl (l : Launch) : Nat := leNat ((l.bytes.drop 0xC).take 2)
/-- AFF. -/
def Launch.aff (l : Launch) : Nat := l.ctrl % 4
/-- CLASS is latency. -/
def Launch.latency (l : Launch) : Bool := l.ctrl / 4 % 2 == 1
/-- NDEP. -/
def Launch.ndep (l : Launch) : Nat := l.ctrl / 8 % 8
/-- AFFARG. -/
def Launch.affarg (l : Launch) : Word := l.word 0x10
/-- COMPL. -/
def Launch.compl (l : Launch) : Word := l.word 0x58

/-- Check 2: reserved bits, NDEP and alignments. -/
def Launch.reservedOk (l : Launch) : Bool :=
  Word.field (l.word 0) 48 16 == 0 && l.ctrl / 64 == 0 && leNat ((l.bytes.drop 0xE).take 2) == 0 &&
  (match l.aff with
    | 0 | 1 => l.affarg == 0
    | 2 => Word.field l.affarg 32 32 == 0
    | _ => Word.field l.affarg 6 58 == 0) &&
  ((l.bytes.drop 0x68).all (· == 0)) && l.ndep ≤ 4 && l.compl.toNat % 16 == 0 && (l.word 0x60).toNat % 8 == 0 &&
  l.edges.all fun e => Word.field (imgWord e 0) 32 32 == 0

/-- A VALID entry of a rank that names the context itself (R253). -/
def State.ownRank (s : State) (ctx : CtxId) (r : Nat) : Bool :=
  let e := s.rankEntry ctx r
  r < s.rankLen ctx && e.getLsbD 63 && Word.field e 16 16 == ctx.toNat

/-- Word 0 of ring record `r` of a context (R355). -/
def State.ringRec (s : State) (ctx : CtxId) (r : Nat) : Word := s.ctxField ctx (0x800 + 32 * r)

/-- Check 4: the affinity can be served. -/
def State.affOk (s : State) (ctx : CtxId) (l : Launch) : Bool :=
  match l.aff with
  | 0 | 1 => !(s.rankCores ctx).isEmpty
  | 2 =>
    let lo := Word.field l.affarg 0 16
    let hi := Word.field l.affarg 16 16
    lo ≤ hi && (List.range (hi - lo + 1)).all fun i => s.ownRank ctx (lo + i)
  | _ => ringSize (s.ringRec ctx (Word.field l.affarg 0 6)) != 0

/-- An edge record as a dependence (R252). -/
def edgeOf (e : List Byte) : Edge :=
  { pour := BitVec.ofNat 32 (Word.field (imgWord e 0) 0 32)
    regions := (List.range 4).map fun j => (imgWord e (8 + 16 * j), imgWord e (16 + 16 * j)) }

/-- The status of the first check that a packet fails after translation; 0 for none (R253). -/
def State.packetStatus (s : State) (k : Queue) (l : Launch) : Nat :=
  let ctx := k.ctx
  if !l.reservedOk then 2
  else if !(s.ctxOf ctx).entries.contains (Word.field (l.word 0) 0 48) then 3
  else if !s.affOk ctx l then 4
  else if l.latency != k.latency || (l.word 0x18 == 0) == l.latency then 5
  else if !(l.edges.all fun e => Word.field (imgWord e 0) 0 32 < min (s.ctxOf ctx).poured (2 ^ 32)) then 6
  else 0

/-- Saturating increment of a 32-bit count. -/
def satInc (x : BitVec 32) : BitVec 32 := if x = BitVec.allOnes 32 then x else x + 1

/-- A packet is rejected (R253): HEAD and QREJ advance, and the record is written if COMPL can take it. -/
def State.rejectPacket (s : State) (q : Nat) (compl : Word) (status : Nat) : State :=
  let s := s.modQueue q fun k => { k with head := k.head + 1, rej := satInc k.rej }
  if compl = 0 || compl.toNat % 16 ≠ 0 then s
  else s.writeRecord (s.queue q).ctx compl (BitVec.ofNat 64 (status * 2 ^ 32 + (if s.sec.firstLight then 2 ^ 41 else 0))) s.time

/-- A dependence edge's producer has completed (R259). -/
def State.edgeDone (s : State) (ctx : CtxId) (e : Edge) : Bool := !s.pours.any fun p => p.ctx == ctx && p.num == e.pour

/-- A physical line belongs to a region of a context, by the translations of its pages (R201). -/
def State.inRegion (s : State) (ctx : CtxId) (r : Word × Word) (line : Nat) : Bool :=
  r.2 != 0 && (List.range ((r.1.toNat + r.2.toNat - 1) / 4096 - r.1.toNat / 4096 + 1)).any fun i =>
    let page := (r.1.toNat / 4096 + i) * 4096
    match s.walk (queueWho ctx) (BitVec.ofNat 64 page) .load with
    | .ok x =>
      let pa := (s.targetOf x (BitVec.ofNat 64 page)).pa
      pa ≤ 64 * line && 64 * line < pa + 4096 &&
        r.1.toNat < page + (64 * line - pa) + 64 && page + (64 * line - pa) < r.1.toNat + r.2.toNat
    | .error _ => false

/-- The owned lines that a predicate names are written back to their homes and to HBM (R201). -/
def State.cleanOwned (s : State) (f : Nat → Bool) : State :=
  let s := s.cores.foldl (fun s e => s.writeBackLines (BitVec.ofNat 9 e.1) fun l => f l.line) s
  let held := s.l2.flatMap fun e => (e.2.filter fun l => l.dirty && isHbm (64 * l.line) && (s.lineOwner l.line).isSome && f l.line).map fun l => (e.1, l.line)
  held.foldl (fun s l => s.l2Clean (BitVec.ofNat 9 l.1) l.2) s

/-- A pour's regions are cleaned: their owned lines are written back, and those that cores of the partition hold and do not own are discarded (R201). -/
def State.cleanEdges (s : State) (p : Pour) : State :=
  let cs := s.partCores (s.partOf p.ctx)
  let rs := p.edges.flatMap (·.regions)
  let mine (line : Nat) : Bool := rs.any fun r => s.inRegion p.ctx r line
  if rs.isEmpty then s
  else
    let s := s.cleanOwned mine
    { s with cores := Tab.mapVals (fun i k =>
        if cs.any (·.toNat == i) then { k with l1 := k.l1.filter fun l => l.owned || l.ctx != p.ctx || !mine l.line } else k) s.cores }

/-- Every pour whose producers have all completed is cleaned for and may be served (R259). -/
def State.settleEdges (s : State) : State :=
  s.pours.foldl (fun s p =>
    if !p.edgesReady && p.edges.all (s.edgeDone p.ctx) then
      let s := s.cleanEdges p
      { s with pours := s.pours.map fun o => if o.ctx == p.ctx && o.num == p.num then { o with edgesReady := true } else o }
    else s) s

/-- A packet is accepted and becomes a pour (R254). -/
def State.acceptPacket (s : State) (q : Nat) (l : Launch) : State :=
  let ctx := (s.queue q).ctx
  let p : Pour := {
    ctx, num := BitVec.ofNat 32 (s.ctxOf ctx).poured, queue := q, entry := l.word 0
    count := leNat ((l.bytes.drop 8).take 4) + 1
    aff := l.aff, affarg := l.affarg, cls := l.latency, deadline := l.word 0x18
    args := Vector.ofFn fun i => l.word (0x20 + 8 * i.val)
    compl := l.compl, edges := l.edges.map edgeOf, reduced := s.sec.firstLight }
  let s := s.modQueue q fun k => { k with head := k.head + 1 }
  let s := s.modCtx ctx fun c => { c with poured := c.poured + 1 }
  State.settleEdges { s with pours := s.pours ++ [p] }

/-- PACKET_READ: the queue core of a queue reads the packet at HEAD, checks it, and accepts or rejects it (R250, R253, R254). The slices of a sleeping
partition serve it no access (R368). -/
def packetRead (s : State) (q : Nat) : State :=
  let k := s.queue q
  let ctx := k.ctx
  if !s.awake || 384 ≤ q || !k.en || k.head == k.tail || (s.sec.firstLight && q ≠ 0) || s.halted ctx || (s.part (s.partOf ctx)).asleep then s
  else
    let va := BitVec.ofNat 64 (k.base.toNat + 128 * (k.head.toNat % k.size))
    let s := s.queueWalk ctx va 128
    match s.queuePlaces ctx .load va 128 with
    | none => s.rejectPacket q 0 7
    | some ls =>
      if ls.any fun l => l.2.2.cls == .acc || l.2.2.cls == .det then s.rejectPacket q 0 7
      else
        let (bs, s) := s.queueRead ctx ls
        let l : Launch := { bytes := bs, edges := [] }
        let n := 72 * min 4 l.ndep
        let s := s.queueWalk ctx (l.word 0x60) n
        match s.queuePlaces ctx .load (l.word 0x60) n, (l.compl == 0 || (s.queuePlace ctx .store l.compl).isSome) with
        | some ds, true =>
          let (eb, s) := s.queueRead ctx ds
          let l := { l with edges := (List.range (min 4 l.ndep)).map fun i => (eb.drop (72 * i)).take 72 }
          let st := s.packetStatus k l
          if st = 0 then s.acceptPacket q l else s.rejectPacket q l.compl st
        | _, _ => s.rejectPacket q l.compl 7

/-- PACKET_READ (R253). -/
def execPacketRead (q : Nat) (s : State) : Host.Outcome State Fault Refusal := .next (packetRead s q)

/-! ## Deadlines (R262) -/

/-- The pour is past its deadline and grace. -/
def State.overdue (s : State) (p : Pour) : Bool :=
  p.cls && p.deadline.toNat + (s.queue p.queue).grace < s.time.toNat

/-- A pour checked against the time: demoted once when it is overdue (R262). -/
def State.checkDeadline (s : State) (p : Pour) : State :=
  if !p.demoted && s.overdue p then
    let s := s.modQueue p.queue fun k => { k with late := satInc k.late }
    { s with pours := s.pours.map fun o => if o.ctx == p.ctx && o.num == p.num then { o with demoted := true, late := true } else o }
  else s

/-- The pours of some queues checked. -/
def State.checkDeadlines (s : State) (f : Pour → Bool) : State := (s.pours.filter f).foldl State.checkDeadline s

/-! ## Materialisation (R256, R257, R261) -/

/-- Continuations of a queue that stand in a core's arrival queue or are on their way to it (R257). -/
def State.queuedFor (s : State) (p : Pour) (c : Coord) : Nat :=
  (((s.coreAt c).inbox p.ctx).entries.filter fun e => e.kind == 2 && e.queue == p.queue).length +
  (s.net.filter fun x => match x with
    | .send m | .held m => m.byQueueCore && m.kind == 2 && m.queue == p.queue && m.dst == c
    | .sendReply m st => st == 1 && m.byQueueCore && m.kind == 2 && m.queue == p.queue && m.dst == c
    | _ => false).length

/-- The rank of a pour's next thread under ranks affinity (R256). -/
def Pour.nextRank (p : Pour) : Nat :=
  let lo := Word.field p.affarg 0 16
  lo + p.made % (Word.field p.affarg 16 16 - lo + 1)

/-- The core of a pour's next thread under its affinity; none while the placement is delayed (R256). -/
def State.placement (s : State) (p : Pour) : Option Coord :=
  match p.aff with
  | 0 => s.spreadCore p.ctx
  | 1 => match (s.spreadCores p.ctx).find? fun c => s.runnableOn p.ctx c < 60 with
    | some c => some c
    | none => s.spreadCore p.ctx
  | 2 =>
    let r := p.nextRank
    let e := s.rankEntry p.ctx r
    if s.ownRank p.ctx r && !e.getLsbD 62 then some (BitVec.ofNat 9 (Word.field e 0 9)) else none
  | _ =>
    let w := s.ringRec p.ctx (Word.field p.affarg 0 6)
    if ringSize w = 0 then none else some (ringCore w (p.made % ringSize w))

/-- The core on which a pour's next thread can be materialised now (R257, R259, R368, R387). -/
def State.canMake (s : State) (p : Pour) : Option Coord :=
  if p.made < p.count && p.edgesReady && !s.halted p.ctx then
    match s.placement p with
    | some c => if s.queuedFor p c < 16 && !(s.coreAt c).powerGated && s.placeable p.ctx c then some c else none
    | none => none
  else none

/-- One pour is served before another: latency by deadline, queue and pour number; throughput by the queue least recently served, as which the round
robin of R257 is taken, then by pour number (R257, R261; DESIGN CHOICE, log entry 88). -/
def State.before (s : State) (a b : Pour) : Bool :=
  let key (p : Pour) : List Nat :=
    if p.cls && !p.demoted then [0, p.deadline.toNat, p.queue, p.num.toNat] else [1, (s.queue p.queue).served, p.queue, p.num.toNat]
  key a < key b

/-- The next thread of a pour is materialised for a core (R254, R257). Under ranks affinity its continuation is addressed to the rank, and so is held
while the entry is in transit (R275). -/
def State.makeThread (s : State) (p : Pour) (c : Coord) : State :=
  let payload : Vector Word 8 := Vector.ofFn fun i =>
    if i.val = 0 then BitVec.ofNat 64 (Word.field p.entry 0 48 + p.ctx.toNat * 2 ^ 48) else p.args[i.val - 1]?.getD 0
  let (id, s) := s.newId
  let m : Send := {
    id, thread := queueSender p.queue, sctx := p.ctx, src := c, rank := if p.aff = 2 then BitVec.ofNat 16 p.nextRank else 0xFFFF, dst := c, ctx := p.ctx, kind := 2, payload
    hdr := BitVec.ofNat 64 (p.made % 2 ^ 32 + p.num.toNat * 2 ^ 32), queue := p.queue, pinned := 2 ≤ p.aff
    blocking := true, counted := false }
  let s := s.modQueue p.queue fun k => { k with served := s.fresh + 1 }
  { s with
    net := s.net ++ [.send m]
    pours := s.pours.map fun o => if o.ctx == p.ctx && o.num == p.num then { o with made := o.made + 1, live := o.live + 1 } else o }

/-- MATERIALISE_THREAD: a queue core materialises one thread of the pour that it serves next (R257, R261, R262). A pour whose next thread cannot be placed
now does not hold back those behind it (DESIGN CHOICE, log entry 88). -/
def materialiseThread (s : State) (qc : Nat) : State :=
  if !s.awake then s
  else
    let s := s.checkDeadlines fun p => p.queue / 8 == qc
    let ready := s.pours.filter fun p => p.queue / 8 == qc && (s.canMake p).isSome
    match ready.foldl (fun b p => match b with
        | none => some p
        | some o => if s.before p o then some p else some o) none with
    | none => s
    | some p => match s.canMake p with
      | some c => s.makeThread p c
      | none => s

/-- MATERIALISE_THREAD (R257). -/
def execMaterialiseThread (qc : Nat) (s : State) : Host.Outcome State Fault Refusal := .next (materialiseThread s qc)

/-- POUR_COMPLETE: every thread of a pour has been materialised and its live count is zero: the record is written and the edges that name it are
satisfied (R201, R255, R259, R286). -/
def pourComplete (s : State) (ctx : CtxId) (num : BitVec 32) : State :=
  match s.pours.find? fun p => p.ctx == ctx && p.num == num with
  | none => s
  | some p =>
    if p.made < p.count || p.live ≠ 0 || (s.part (s.partOf ctx)).asleep then s
    else
      let isLate := !p.demoted && s.overdue p
      let s := if isLate then s.modQueue p.queue fun k => { k with late := satInc k.late } else s
      let w0 := BitVec.ofNat 64 (num.toNat + (if p.late || isLate then 2 ^ 40 else 0) + (if p.reduced then 2 ^ 41 else 0))
      let s := if p.compl = 0 then s else s.writeRecord ctx p.compl w0 s.time
      State.settleEdges { s with pours := s.pours.filter fun o => !(o.ctx == ctx && o.num == num) }

/-- POUR_COMPLETE (R255). -/
def execPourComplete (ctx : CtxId) (pour : BitVec 32) (s : State) : Host.Outcome State Fault Refusal := .next (pourComplete s ctx pour)

/-! ## Balance (R258, R355) -/

/-- The distinct numbers of a list, rising. -/
def risingSet (l : List Nat) : List Nat := (l.foldl (fun t x => Tab.set t x ()) ([] : Tab Unit)).map (·.1)

/-- Threads of a context that a core's roster has to hold: those on it and those away on a service core or on their way (R355). -/
def State.rosterCount (s : State) (ctx : CtxId) (c : Coord) : Nat :=
  (s.threads.filter fun e => e.2.ctx == ctx && e.2.core == c && !e.2.osThread).length

/-- A core may instantiate another thread of a context (R355, R382, R387). -/
def State.mayInstantiate (s : State) (ctx : CtxId) (c : Coord) : Bool :=
  s.rosterCount ctx c < ((s.ctxField ctx 0x28).toNat - 0x40400) / 64 && !s.halted ctx && !s.switching ctx c false &&
    (s.coreAt c).ctxs.contains ctx && s.awake

/-- A thread that a queue core may move: it waits in a run list, is not pinned, not a member, and has nothing outstanding to perform. -/
def Thread.movable (x : Thread) : Bool :=
  x.place == .waiting && !x.pinned && !x.conv && !x.steep && x.st == 0 && x.loads.isEmpty && x.hold.isNone

/-- One move of a context's threads of a queue, if its lists differ by two or more: the last thread of the longest list, if it is one of the context,
goes to one of the shorter, on a core that may instantiate it (R258, R355). -/
def State.balanceOnce (s : State) (q : Nat) (ctx : CtxId) : Option State :=
  let cs := (s.partCores (s.partOf ctx)).filter fun c =>
    (s.coreAt c).ctxs.contains ctx && !s.switching ctx c false && !(s.coreAt c).powerGated
  let len (c : Coord) : Nat := ((s.coreAt c).list q).length
  let long := cs.foldl (fun b c => match b with
    | none => some c
    | some d => if len d < len c then some c else some d) (none : Option Coord)
  match long with
  | none => none
  | some a =>
    let short := cs.filter fun c => len c + 2 ≤ len a && s.mayInstantiate ctx c
    match short[Config.pick s.fresh short.length % max 1 short.length]?, ((s.coreAt a).list q).getLast? with
    | some b, some t =>
      if (s.thread t).movable && (s.thread t).ctx == ctx && !s.halted ctx then
        let s := ((s.unplace t).sendImage t).modThread t fun x => { x with core := b }
        some ((((s.acquire b 3).joinList t).trimCache b cacheLines 16).fillSlots b)
      else none
    | _, _ => none

/-- Up to `n` moves of a context's threads of a queue. -/
def State.balance (s : State) (q : Nat) (ctx : CtxId) : Nat → State
  | 0 => s
  | n + 1 => match s.balanceOnce q ctx with
    | some s => s.balance q ctx n
    | none => s

/-- The contexts that have threads in a queue's run lists: its own, and those of threads spawned from its slots (R258, R282). -/
def State.listedContexts (s : State) (q : Nat) : List Nat :=
  risingSet (s.cores.flatMap fun e => (e.2.list q).map fun t => (s.thread t).ctx.toNat)

/-- QUEUE_BALANCE: a queue core balances the run lists of its eight queues, for each context. The 64 moves of a period are counted for each queue and
context (R258; DESIGN CHOICE, log entry 88). -/
def queueBalance (s : State) (qc : Nat) : State :=
  (List.range 8).foldl (fun s i =>
    (s.listedContexts (8 * qc + i)).foldl (fun s ctx => s.balance (8 * qc + i) (BitVec.ofNat 16 ctx) 64) s) s

/-- QUEUE_BALANCE (R258). -/
def execQueueBalance (qc : Nat) (s : State) : Host.Outcome State Fault Refusal := .next (queueBalance s qc)

/-! ## Rotation (R264, R265) -/

/-- What one runnable thread or continuation of a core counts as: its queue, and its deadline if it counts as a latency thread. -/
structure Claim where
  queue : Nat
  deadline : Option Nat

/-- The latency deadline of a pour's threads, unless it has been demoted or its queue is a throughput queue. -/
def State.deadlineOf (s : State) (ctx : CtxId) (num : BitVec 32) : Option Nat :=
  match s.pours.find? fun p => p.ctx == ctx && p.num == num with
  | some p => if p.cls && !p.demoted then some p.deadline.toNat else none
  | none => none

/-- The runnable threads of a core, its arrival queue included (R263). -/
def State.claims (s : State) (c : Coord) : List Claim :=
  let k := s.coreAt c
  (s.threads.filter fun e => e.2.core == c && k.ctxs.contains e.2.ctx && e.2.runnable).map (fun e =>
    { queue := e.2.queue, deadline := if (s.queue e.2.queue).latency then s.deadlineOf e.2.ctx e.2.pour else none }) ++
  k.ctxs.flatMap fun ctx => ((k.inbox ctx).entries.filter (·.kind == 2)).map fun e =>
    { queue := e.queue, deadline := if (s.queue e.queue).latency then s.deadlineOf ctx (BitVec.ofNat 32 (Word.field e.hdr 32 32)) else none }

/-- The latency queues' shares, earliest deadline first: the shares and the slots left (R264). -/
def State.latencyShares (s : State) (cl : List Claim) : Tab Nat × Nat :=
  let qs := risingSet ((cl.filter (·.deadline.isSome)).map (·.queue))
  let first (q : Nat) : Nat := ((cl.filter (·.queue == q)).filterMap (·.deadline)).foldl min (2 ^ 64)
  let order := qs.insertionSort fun a b => first a ≤ first b
  order.foldl (fun acc q =>
    let n := (cl.filter fun x => x.queue == q && x.deadline.isSome).length
    let g := min (min n (s.queue q).lcap) (min (48 - (60 - acc.2)) acc.2)
    (Tab.set acc.1 q g, acc.2 - g)) ([], 60)

/-- A share of the free slots by weight: one each, the rest in proportion, what is left by largest remainder (R264). -/
def State.weighted (s : State) (qs : List Nat) (free : Nat) : Tab Nat :=
  let e := free - qs.length
  let w (q : Nat) : Nat := (s.queue q).weight
  let total := (qs.map w).foldl (· + ·) 0
  let base := qs.map fun q => (q, 1 + e * w q / total)
  let left := free - (base.map (·.2)).foldl (· + ·) 0
  let order := qs.insertionSort fun a b => decide (e * w b % total < e * w a % total) || (e * w a % total == e * w b % total && decide (a ≤ b))
  let extra := order.take left
  base.map fun b => (b.1, if extra.contains b.1 then b.2 + 1 else b.2)

/-- The passes of the throughput assignment: queues whose share covers their need are served and removed until none is (R264). -/
def State.throughput (s : State) (n : Nat → Nat) (done : Tab Nat) : List Nat → Nat → Nat → Tab Nat
  | _, _, 0 => done
  | qs, free, fuel + 1 =>
    if qs.isEmpty then done
    else
      let sh := s.weighted qs free
      let full := sh.filter fun x => n x.1 ≤ x.2
      if full.isEmpty then sh.foldl (fun t x => Tab.set t x.1 x.2) done
      else
        let done := full.foldl (fun t x => Tab.set t x.1 (n x.1)) done
        s.throughput n done (qs.filter fun q => !full.any (·.1 == q)) (free - (full.map fun x => n x.1).foldl (· + ·) 0) fuel

/-- The shares s(q) of a rotation boundary, and the pointer after it (R264). -/
def State.shares (s : State) (c : Coord) : Tab Nat × Nat :=
  let cl := s.claims c
  let (lat, free) := s.latencyShares cl
  let n (q : Nat) : Nat := (cl.filter fun x => x.queue == q && x.deadline.isNone).length
  let ts := risingSet ((cl.filter (·.deadline.isNone)).map (·.queue))
  let ptr := (s.coreAt c).ptr
  let (thr, ptr) :=
    if free < ts.length then
      let got := ((ts.filter (ptr < ·)) ++ (ts.filter (· ≤ ptr))).take free
      (got.map fun q => (q, 1), got.getLast?.getD ptr)
    else (s.throughput n [] ts free (ts.length + 1), ptr)
  (thr.foldl (fun t x => Tab.set t x.1 (Tab.get t 0 x.1 + x.2)) lat, ptr)

/-- The thread of a slot issued in the rotation just ended or is parked, or the slot is empty (R265). -/
def State.slotFree (s : State) (k : Core) (n : Nat) : Bool :=
  match Tab.find k.slots n with
  | none => true
  | some t => (s.thread t).issuedNow || (s.thread t).park.isSome

/-- The slots that queues give up: empty ones first, then those free to pass, then the others (R265). -/
def State.givenUp (s : State) (k : Core) (sh : Tab Nat) : List Nat :=
  let qs := risingSet ((k.owners.filter (·.1 < 60)).map (·.2))
  qs.flatMap fun q =>
    let own := (List.range 60).filter fun n => Tab.find k.owners n == some q
    let empty := own.filter fun n => (Tab.find k.slots n).isNone
    let free := own.filter fun n => (Tab.find k.slots n).isSome && s.slotFree k n
    let rest := own.filter fun n => !s.slotFree k n
    (empty ++ free ++ rest).take (own.length - Tab.get sh 0 q)

/-- Slots without an owner go, in rising number, to the lowest-numbered queue below its share (R265). -/
def assignOwners (sh : Tab Nat) (owners : Tab Nat) : List Nat → Tab Nat
  | [] => owners
  | n :: ns =>
    match sh.find? fun x => (owners.filter (·.2 == x.1)).length < x.2 with
    | some x => assignOwners sh (Tab.set owners n x.1) ns
    | none => assignOwners sh owners ns

/-- One general slot at a boundary (R265): a thread that issued or is parked passes on, and the slot takes the head of its owner's list. -/
def State.rotateSlot (s : State) (c : Coord) (n : Nat) : State :=
  let k := s.coreAt c
  if !s.slotFree k n then s
  else
    let s := match Tab.find k.slots n with
      | none => s
      | some t =>
        let s := s.modCore c fun k => { k with slots := Tab.erase k.slots n }
        if (s.thread t).park.isSome then s.modThread t fun x => { x with place := .parkedOut } else s.joinList t
    match Tab.find k.owners n with
    | some q => match ((s.coreAt c).list q).head? with
      | some t => s.takeSlot c n t
      | none => s
    | none => s

/-- ROTATION_BOUNDARY (R262, R264, R265). -/
def rotationBoundary (s : State) (c : Coord) : State :=
  let s := s.checkDeadlines fun p => (s.coreAt c).ctxs.contains p.ctx
  let k := s.coreAt c
  let (sh, ptr) := s.shares c
  let gone := s.givenUp k sh
  let kept := Tab.keep (fun n _ => !gone.contains n) k.owners
  let pool := (List.range 60).filter fun n => (Tab.find kept n).isNone
  let s := s.setCore c { k with owners := assignOwners sh kept pool, ptr }
  let s := (List.range 60).foldl (fun s n => s.rotateSlot c n) s
  let clear (x : Thread) : Thread := if x.core == c then { x with issuedNow := false } else x
  State.fillSlots { s with threads := Tab.mapVals (fun _ x => clear x) s.threads } c

/-- ROTATION_BOUNDARY (R264). -/
def execRotationBoundary (c : Coord) (s : State) : Host.Outcome State Fault Refusal := .next (rotationBoundary s c)

/-! ## Instantiation (R34, R261, R355) -/

/-- The trap registers of PL.USER and PL.DRV from the context's template image (R34). -/
def State.template (s : State) (ctx : CtxId) (c : Coord) : List Word × State :=
  let va := s.ctxField ctx 0x10 + 0x3C0
  let q : Who := { ctx, core := c, svc := false, pl := 3 }
  let walked := s.walkTouch q va
  match s.translate q va .load with
  | .ok t =>
    let (bs, s) := walked.readAt {
      thread := queueSender 0, ctx, core := c, svc := false, pl := 3, va, pa := t.pa, n := 32, cls := t.cls, home := t.home, bypass := true }
    ((List.range 4).map fun i => imgWord bs (8 * i), s)
  | .error _ => ((List.range 4).map (Config.templateWord s.fresh), walked)

/-- The thread that a continuation becomes (R34). -/
def newThread (e : Entry) (ctx : CtxId) (c : Coord) (image : Word) (tv : List Word) : Thread :=
  { g := Vector.ofFn fun i => if 1 ≤ i.val && i.val ≤ 7 then e.payload[i.val]?.getD 0 else 0
    pc := e.payload[0].setWidth 48
    tid := e.hdr.setWidth 32
    pour := BitVec.ofNat 32 (Word.field e.hdr 32 32)
    tvec := #v[tv.getD 0 0, tv.getD 2 0]
    tdeleg := #v[tv.getD 1 0, tv.getD 3 0]
    image, ctx, core := c, queue := e.queue, pinned := e.pinned }

/-- The continuation of a core's arrival queue that is instantiated next: latency threads by deadline, queue and pour, then the others in
their order, those of several contexts by their places in their own inboxes (R261; DESIGN CHOICE, log entry 88). -/
def State.nextArrival (s : State) (c : Coord) : Option (CtxId × Nat × Entry) :=
  let k := s.coreAt c
  let all := (k.ctxs.filter fun x => s.mayInstantiate x c).flatMap fun ctx =>
    (((k.inbox ctx).entries.zipIdx).filter (·.1.kind == 2)).map fun e => (ctx, e.2, e.1)
  let key (x : CtxId × Nat × Entry) : List Nat :=
    let num := Word.field x.2.2.hdr 32 32
    match (if (s.queue x.2.2.queue).latency then s.deadlineOf x.1 (BitVec.ofNat 32 num) else none) with
    | some d => [0, d, x.2.2.queue, num, x.2.1]
    | none => [1, x.2.1]
  all.foldl (fun b x => match b with
    | none => some x
    | some y => if key x < key y then some x else some y) none

/-- INSTANTIATE_CONTINUATION: the next arrival of a core becomes a full thread, an acquire at PKG, and joins its queue's run list (R34, R200,
R263). -/
def instantiateContinuation (s : State) (c : Coord) : State :=
  match s.nextArrival c with
  | none => s
  | some (ctx, n, e) =>
    let s := s.takeEntry c ctx n
    let (tv, s) := s.template ctx c
    let t := s.nextThread
    let image := BitVec.ofNat 64 (1024 * (Config.imageBase ctx.toNat + t))
    let s := { s with nextThread := t + 1 }
    ((((s.setThread t (newThread e ctx c image tv)).joinList t).buildImage t).acquire c 3).fillSlots c

/-- INSTANTIATE_CONTINUATION (R34). -/
def execInstantiateContinuation (c : Coord) (s : State) : Host.Outcome State Fault Refusal := .next (instantiateContinuation s c)

/-- A full thread is instantiated on a core, `back` from a service core with its image written back: a steep returns to the slot that it has kept (R156,
R302, R374). -/
def State.landThread (s : State) (t : Nat) (c : Coord) (back : Bool) : State :=
  let s := if back then s.sendImage t else s
  let s := s.modThread t fun x => { x with core := c }
  match (s.coreAt c).slots.find? fun e => e.2 == t with
  | some e => (s.modThread t fun x => { x with place := .slot e.1 }).acquire c 3
  | none => (((s.joinList t).trimCache c cacheLines 16).acquire c 3).fillSlots c

/-- FULL_THREAD_ARRIVAL: a thread on its way as a full thread is instantiated, on a service core once its stores are performed, or on a compute
core that may instantiate it, in both cases an acquire at PKG; a returning thread goes ahead of every arrival, and a steep returns while its context is
being switched out too (R156, R200, R319, R355, R374). -/
def fullThreadArrival (s : State) (k : Nat) : State :=
  match s.net[k]? with
  | some (.move t _ (some n) _) =>
    let x := s.thread t
    if x.st ≠ 0 || s.halted x.ctx || (s.switching x.ctx x.core false && !x.steep) then s
    else
      let s := ((((s.drop k).sendImage t).modThread t fun x => { x with place := .service n }).acquire (svcUnit n) 3)
      { s with svcs := Tab.set s.svcs n (Tab.get s.svcs [] n ++ [t]) }
  | some (.move t c none front) =>
    let x := s.thread t
    if (front && (s.coreAt c).ctxs.contains x.ctx && !s.halted x.ctx && (x.steep || !s.switching x.ctx c false)) || s.mayInstantiate x.ctx c then
      (s.drop k).landThread t c front
    else s
  | _ => s

/-- FULL_THREAD_ARRIVAL (R156). -/
def execFullThreadArrival (k : Nat) (s : State) : Host.Outcome State Fault Refusal := .next (fullThreadArrival s k)

/-! ## Pending traps at their time (R210, R386) -/

/-- A thread stands at an instruction boundary where it can take a trap: in a slot, a run list, parked, or on a service core, with no
instruction of its own waiting for a reply (R210). -/
def Thread.atBoundary (x : Thread) : Bool :=
  x.hold.isNone && (match x.place with
    | .slot _ | .waiting | .parkedOut | .service _ => true
    | _ => false)

/-- PENDING_TRAP_DEADLINE: the first due trap of a thread is delivered at its instruction boundary (R210, R386). -/
def pendingTrapDeadline (s : State) (t : Nat) : State :=
  let x := s.thread t
  if (Tab.find s.threads t).isNone || !x.atBoundary || (x.debugHalt && !x.debugStep) || s.halted x.ctx || s.switching x.ctx x.core false then s
  else
    match x.duePending s.cycle with
    | some (p, y) =>
      let s := (s.setThread t y).wakeThread t
      s.raiseAsync t p
    | none => s

/-- PENDING_TRAP_DEADLINE (R210). -/
def execPendingTrapDeadline (t : Nat) (s : State) : Host.Outcome State Fault Refusal := .next (pendingTrapDeadline s t)

end Sys2Proof.Machine
end

