-- ==== Sys2Proof/Machine/Ring.lean ====
section
/-!
DEFINITION. Rings, tiles and steeps (15_rings_and_steeps.md R292 to R320): major 0x24, the beat, and the tails of steeps.
-/

namespace Sys2Proof.Machine

/-! ## The descriptor and the table (R295 to R298) -/

/-- The fields of the table Ring descriptor. -/
def RingIf.policy (i : RingIf) : Nat := Word.field i.desc[0] 8 2
/-- LSIZE. -/
def dLsize (d : Vector Word 8) : Nat := Word.field d[1] 0 15
/-- WSIZE. -/
def dWsize (d : Vector Word 8) : Nat := Word.field d[1] 16 15
/-- NENT. -/
def dNent (d : Vector Word 8) : Nat := Word.field d[0] 12 5
/-- The size of a family's tiles. -/
def RingIf.tileSize (i : RingIf) (leaf : Bool) : Nat := if leaf then dLsize i.desc else dWsize i.desc
/-- The caddy offset of a defer area. -/
def RingIf.defOff (i : RingIf) (a : Nat) : Nat := if a = 0 then Word.field i.desc[2] 0 18 else Word.field i.desc[2] 32 18
/-- The caddy offset of the DONE word of an entry. -/
def RingIf.doneOff (i : RingIf) (e : Nat) : Nat := Word.field i.desc[3] 0 18 + 16 * e

/-- Two ranges of bytes overlap. -/
def overlap (a n b m : Nat) : Bool := n != 0 && m != 0 && a < b + m && b < a + n

/-- Reason 2 on the fields of a descriptor (R295, R296); `lat` is L of R24 for the ring that it names. -/
def descBad (d : Vector Word 8) (lat : Nat) : Bool :=
  let (w0, w1, w2, w3) := (d[0], d[1], d[2], d[3])
  let (ls, ws) := (dLsize d, dWsize d)
  let pol := Word.field w0 8 2
  let beat := Word.field w0 24 9
  let (d0, d1, cnt) := (Word.field w2 0 18, Word.field w2 32 18, Word.field w3 0 18)
  let tile := ls + ws
  let cn := 16 * dNent d
  Word.field w0 6 2 != 0 || Word.field w0 10 2 != 0 || Word.field w0 17 7 != 0 || Word.field w0 33 31 != 0 || pol == 3 || 16 < dNent d ||
    beat < 16 || 256 < beat || beat < (max ls ws + 1023) / 1024 + lat ||
    ls < 16 || 24576 < ls || ls % 16 != 0 || ws < 16 || 24576 < ws || ws % 16 != 0 || w1.getLsbD 15 || Word.field w1 31 33 != 0 ||
    Word.field w2 18 14 != 0 || Word.field w2 50 14 != 0 || Word.field w3 18 46 != 0 || cnt % 16 != 0 || 2 ^ 18 < cnt + cn ||
    (if pol = 1 then
      d0 % 16 != 0 || d1 % 16 != 0 || 2 ^ 18 < d0 + tile || 2 ^ 18 < d1 + tile || overlap d0 tile d1 tile || overlap d0 tile cnt cn ||
        overlap d1 tile cnt cn
     else d0 != 0 || d1 != 0) ||
    (if pol = 2 then d[4].toNat % 8 != 0 || Word.field d[5] 0 32 == 0 else d[4] != 0 || Word.field d[5] 0 32 != 0) ||
    Word.field d[5] 32 32 != 0 || d[6] != 0 || d[7] != 0

/-- Reason 4: an entry breaks R297. -/
def SteepEnt.bad (e : SteepEnt) : Bool :=
  let f := Word.field e.w0
  (f 16 16).land (65535 - f 0 16) != 0 || (f 48 16).land (65535 - f 32 16) != 0 || 15 < Word.field e.w1 0 4 + Word.field e.w1 8 4 ||
    15 < Word.field e.w1 4 4 + Word.field e.w1 8 4 || Word.field e.w1 12 52 != 0 || Word.field e.routine 48 16 != 0 || e.routine.getLsbD 0

/-- An entry matches a leaf tag and a water tag (R298). -/
def SteepEnt.hits (e : SteepEnt) (lt wt : BitVec 16) : Bool :=
  let w := Word.field e.w1 8 4 + 1
  lt.toNat.land (Word.field e.w0 0 16) == Word.field e.w0 16 16 && wt.toNat.land (Word.field e.w0 32 16) == Word.field e.w0 48 16 &&
    lt.toNat / 2 ^ Word.field e.w1 0 4 % 2 ^ w == wt.toNat / 2 ^ Word.field e.w1 4 4 % 2 ^ w

/-! ## Rings and interfaces -/

/-- The key of a ring of a context. -/
def ringKey (ctx : CtxId) (r : Nat) : Nat := ctx.toNat * 64 + r

/-- A ring. -/
def State.ringAt (s : State) (ctx : CtxId) (r : Nat) : Ring := Tab.get s.rings {} (ringKey ctx r)

/-- A ring replaced. -/
def State.setRing (s : State) (ctx : CtxId) (r : Nat) (x : Ring) : State := { s with rings := Tab.set s.rings (ringKey ctx r) x }

/-- A ring interface replaced. -/
def State.setIf (s : State) (c : Coord) (i : RingIf) : State := s.modCore c fun k => { k with ring := some i }

/-- The interface of a core for a ring. -/
def State.ifOf (s : State) (ctx : CtxId) (r : Nat) (c : Coord) : Option RingIf :=
  match (s.coreAt c).ring with
  | some i => if i.ctx == ctx && i.ring == r then some i else none
  | none => none

/-- The bound positions of a ring in position order, with their cores. -/
def State.ringIfs (s : State) (ctx : CtxId) (r : Nat) : List (Coord × RingIf) :=
  (ringCores (s.ringRec ctx r)).filterMap fun c => (s.ifOf ctx r c).map fun i => (c, i)

/-- The tile of a family's current buffer. -/
def RingIf.cur (i : RingIf) (leaf : Bool) : Option Tile := if leaf then i.curL else i.curW
/-- The current buffer of a family, 0 or 1. -/
def RingIf.latch (i : RingIf) (leaf : Bool) : Nat := if leaf then i.latchL else i.latchW
/-- The injection queue of a family. -/
def RingIf.inj (i : RingIf) (leaf : Bool) : List Inject := if leaf then i.injL else i.injW
/-- The current tile of a family replaced. -/
def RingIf.setCur (i : RingIf) (leaf : Bool) (t : Option Tile) : RingIf := if leaf then { i with curL := t } else { i with curW := t }
/-- The injection queue of a family replaced. -/
def RingIf.setInj (i : RingIf) (leaf : Bool) (q : List Inject) : RingIf := if leaf then { i with injL := q } else { i with injW := q }
/-- The buffers of a family exchange roles. -/
def RingIf.flip (i : RingIf) (leaf : Bool) : RingIf :=
  if leaf then { i with latchL := 1 - i.latchL } else { i with latchW := 1 - i.latchW }

/-- A buffer of a family is bound by a running latch steep (R305). -/
def RingIf.bufferBound (i : RingIf) (leaf : Bool) (b : Nat) : Bool :=
  i.steeps.any fun x => x.area.isNone && (if leaf then x.bindL else x.bindW) == b

/-- A latch steep of the position runs (R301). -/
def RingIf.latchSteep (i : RingIf) : Bool := i.steeps.any (·.area.isNone)

/-! ## Steeps (R301, R302) -/

/-- A new steep for a meeting, in the lowest free steep slot, its image built in memory; `area` is its defer area, if any (R32, R302). -/
def State.makeSteep (s : State) (c : Coord) (i : RingIf) (m : Meeting) (area : Option Nat) : State :=
  let n := ((List.range 4).find? fun j => !i.steeps.any (·.slot == 60 + j)).getD 0
  let (tv, s) := s.template i.ctx c
  let t := s.nextThread
  let e := i.table[m.ent]?.getD { w0 := 0, w1 := 0, routine := 0, param := 0 }
  let g (k : Nat) : Word :=
    if k = 1 then m.ltag.setWidth 64 else if k = 2 then m.wtag.setWidth 64 else if k = 3 then e.param
    else if k = 4 then BitVec.ofNat 64 m.beat else 0
  let x : Thread :=
    {
      g := Vector.ofFn fun k => g k.val, pc := e.routine.setWidth 48, status := 16, tid := BitVec.ofNat 32 i.pos, pour := i.pour,
      tvec := #v[tv.getD 0 0, tv.getD 2 0], tdeleg := #v[tv.getD 1 0, tv.getD 3 0],
      image := ringWord (s.part (s.partOf i.ctx)).field (((s.slotOf i.ctx).map (·.2)).getD 0) i.ring 1 + BitVec.ofNat 64 (4096 * i.pos + 1024 * n),
      ctx := i.ctx, core := c, queue := i.queue, pinned := true, place := .slot (60 + n), joinedAt := s.fresh }
  let bytes (t : Option Tile) : List Byte := (t.map (·.bytes)).getD []
  let st : Steep := {
    slot := 60 + n, thread := t, ent := m.ent, area, bindL := i.latchL, bindW := i.latchW
    leaf := if area.isNone then bytes i.curL else [], water := if area.isNone then bytes i.curW else [] }
  let i := { i with steeps := i.steeps ++ [st] }
  let s := State.setThread { s with nextThread := t + 1 } t x
  ((s.modCore c fun k => { k with slots := Tab.set k.slots (60 + n) t }).setIf c i).buildImage t

/-- The meeting of a position: the lowest entry that matches its current tiles (R298, R301). -/
def RingIf.meeting (i : RingIf) (beat : Nat) : Option Meeting :=
  match i.curL, i.curW with
  | some l, some w => (i.table.findIdx? (·.hits l.tag w.tag)).map fun e => { ltag := l.tag, wtag := w.tag, ent := e, cause := 0, beat }
  | _, _ => none

/-- A core of the ring is being switched out of the ring's context (R319, R387). -/
def State.ringPreempted (s : State) (ctx : CtxId) (r : Nat) : Bool :=
  (ringCores (s.ringRec ctx r)).any fun c => s.switching ctx c false

/-- The lowest miss cause of a meeting now; none makes it a latch steep (R301). -/
def State.missCause (s : State) (c : Coord) (i : RingIf) : Option Nat :=
  if 4 ≤ i.steeps.length then some 0
  else if (s.coreAt c).engine.holder.isSome then some 1
  else if i.latchSteep then some 2
  else none

/-- A defer area of a position. -/
def RingIf.area (i : RingIf) (a : Nat) : Defer := if a = 0 then i.area0 else i.area1
/-- A defer area replaced. -/
def RingIf.setArea (i : RingIf) (a : Nat) (d : Defer) : RingIf := if a = 0 then { i with area0 := d } else { i with area1 := d }

/-- A RING_FAULT halt: the address that failed and the index of the append in progress (R307, R320). -/
def ringFault (c : Coord) (va : Word) (index : Word) : Halt := { cause := 5, unit := some c, kind := 4, image := index, val := va }

/-- The ring interface acts in its context's translation at PL.USER, the level of its steeps (R302, R307). -/
def RingIf.who (i : RingIf) (c : Coord) : Who := { ctx := i.ctx, core := c, svc := false, pl := 0 }

/-- The access of the ring interface. -/
def RingIf.access (i : RingIf) (c : Coord) (va : Word) (t : Target) : Access :=
  { thread := queueSender 0, ctx := i.ctx, core := c, svc := false, pl := 0, bypass := true, va, pa := t.pa, n := 8, cls := t.cls, home := t.home }

/-- The place of a word of the miss log (R307): memory of class TRK or UNT. -/
def State.logPlace (s : State) (i : RingIf) (c : Coord) (va : Word) (k : Kind) : Option Target :=
  if isCaddy va then none
  else match s.translate (i.who c) va k with
    | .ok t => match t.cls with
      | .trk | .unt | .host => some t
      | .pod => if s.viral.on || Config.peerPermits s.fresh t.pa then some t else none
      | _ => none
    | .error _ => none

/-- A word of the caddy counters of a position goes up by one (R307, R308). -/
def State.bump (s : State) (ctx : CtxId) (c : Coord) (off : Nat) : State :=
  let x := leNat (s.caddyRead ctx c off 8)
  (s.meetCaddy ctx c off 8 4).caddyWrite ctx c off (leBytes 8 (x + 1))

/-- The place lies outside the device and the device is viral (R400). -/
def State.viralOut (s : State) (t : Target) : Bool := s.viral.on && (t.cls == .host || t.cls == .pod)

/-- The miss-log entry of a meeting (table Miss-log entry, R307). -/
def RingIf.logWord (i : RingIf) (m : Meeting) : Nat :=
  m.ltag.toNat + m.wtag.toNat * 2 ^ 16 + m.ent * 2 ^ 32 + m.cause * 2 ^ 36 + i.pos * 2 ^ 40 + m.beat % 2 ^ 16 * 2 ^ 48

/-- Steps 2 and 3 of a logged miss with index `n` (R307). Where the entry cannot be written the context halts, and the entry stays to be written. A
write that is held while the device is viral is not acknowledged, so that MISSED does not count it (R400). -/
def State.logEntry (s : State) (c : Coord) (i : RingIf) (m : Meeting) (n : Nat) : State :=
  let i := { i with logging := none }
  if Word.field i.desc[5] 0 32 ≤ n then (s.setIf c i).bump i.ctx c (i.doneOff m.ent + 8)
  else
    let va := i.desc[4] + BitVec.ofNat 64 (8 + 8 * n)
    let s := s.walkTouch (i.who c) va
    match s.logPlace i c va .store with
    | none => (s.setIf c { i with logging := some (m, n) }).haltCtx i.ctx (ringFault c va (BitVec.ofNat 64 n))
    | some t =>
      let s := s.setIf c i
      if s.viralOut t then
        let (g, s) := s.newGroup .st [] 1
        s.hold t.pa i.ctx (queueSender 0) .st g (leBytes 8 (i.logWord m))
      else (s.writeAt (i.access c va t) (leBytes 8 (i.logWord m))).bump i.ctx c (i.doneOff m.ent + 8)

/-- A miss under SKIP (R307): the log's count, its entry, and MISSED. An atomic to a viral link reads all ones (R400). Where the count cannot be
taken the context halts, and the meeting stays to be evaluated. -/
def State.logMiss (s : State) (c : Coord) (i : RingIf) (m : Meeting) : State :=
  let base := i.desc[4]
  let s := s.walkTouch (i.who c) base
  match s.logPlace i c base .atomic with
  | none => (s.setIf c { i with owed := true }).haltCtx i.ctx (ringFault c base (BitVec.allOnes 64))
  | some t =>
    if s.viralOut t then (s.logDiscard t.pa i.ctx).logEntry c i m (2 ^ 64 - 1)
    else
      let (old, s) := s.readAt (i.access c base t)
      (s.writeAt (i.access c base t) (leBytes 8 (leNat old + 1))).logEntry c i m (leNat old)

/-- The oldest deferred pair of a position: its area and its meeting (R306). -/
def RingIf.oldestPair (i : RingIf) : Option (Nat × Meeting) :=
  match i.area0, i.area1 with
  | .pair a, .pair b => if a.beat ≤ b.beat then some (0, a) else some (1, b)
  | .pair a, _ => some (0, a)
  | _, .pair b => some (1, b)
  | _, _ => none

/-- Deferred pairs become steeps while a slot is free that no held meeting takes (R306). -/
def State.serveDeferred (s : State) (ctx : CtxId) (r : Nat) (c : Coord) : Nat → State
  | 0 => s
  | fuel + 1 =>
    match s.ifOf ctx r c with
    | none => s
    | some i =>
      if 4 ≤ i.steeps.length + (if i.held.isSome then 1 else 0) || !s.mayInstantiate ctx c then s
      else match i.oldestPair with
        | some (a, m) =>
          let n := ((List.range 4).find? fun j => !i.steeps.any (·.slot == 60 + j)).getD 0
          (s.makeSteep c (i.setArea a (.bound (60 + n))) m (some a)).serveDeferred ctx r c fuel
        | none => s

/-- The tile of a family's current buffer is read in its latch, and meets the errors that stand there (R294, R397). -/
def State.meetLatch (s : State) (c : Coord) (i : RingIf) (leaf : Bool) : State :=
  if (i.cur leaf).isSome then s.meetErrors 4 c (latchAt leaf (i.latch leaf)) (i.tileSize leaf) i.ctx 4 else s

/-- The position evaluates its meeting of the current beat: a latch steep, or a miss under the policy (R301, R304, R306, R307). A steep waits for
room on the core's roster (R355, log entry 78). -/
def State.evalNow (s : State) (r : Nat) (c : Coord) (i : RingIf) : State :=
  let i := { i with owed := false }
  match i.meeting (s.ringAt i.ctx r).beat with
  | none => s.setIf c i
  | some m =>
    let s := s.meetErrors 8 c (0x200 + m.ent) 1 i.ctx 4
    if s.halted i.ctx then s.setIf c { i with owed := true }
    else match s.missCause c i with
    | none => if s.mayInstantiate i.ctx c then s.makeSteep c i m none else s.setIf c { i with owed := true }
    | some cause =>
      let m := { m with cause := cause }
      if i.policy = 2 then s.logMiss c i m
      else match (if i.policy = 1 then (if i.area0 == .free then some 0 else if i.area1 == .free then some 1 else none) else none) with
        | some a =>
          let s := (s.meetLatch c i true).meetLatch c i false
          if s.halted i.ctx then s.setIf c { i with owed := true }
          else
          let bytes (t : Option Tile) : List Byte := (t.map (·.bytes)).getD []
          let s := (s.caddyWrite i.ctx c (i.defOff a) (bytes i.curL)).caddyWrite i.ctx c (i.defOff a + dLsize i.desc) (bytes i.curW)
          s.setIf c (i.setArea a (.pair m))
        | none => s.setIf c { i with held := some m }

/-- What a position owes its beat: an entry of the miss log, its meeting, or its held meeting once no cause remains (R304, R307, R319). -/
def State.serveMeeting (s : State) (ctx : CtxId) (r : Nat) (c : Coord) : State :=
  match s.ifOf ctx r c with
  | none => s
  | some i => match i.logging with
    | some (m, n) => s.logEntry c i m n
    | none =>
      if i.owed then s.evalNow r c i
      else match i.held with
        | some m => if (s.missCause c i).isNone && s.mayInstantiate ctx c then s.makeSteep c { i with held := none } m none else s
        | none => s

/-- What a position can do now: its meeting, then its deferred pairs (R304, R306). Nothing is created while the ring is stopped, from a request to
switch any of its cores out, or while its context is halted (R319, R320). -/
def State.serveRing (s : State) (ctx : CtxId) (r : Nat) (c : Coord) : State :=
  let g := s.ringAt ctx r
  if !g.running || g.stopped || s.halted ctx || s.ringPreempted ctx r then s
  else (s.serveMeeting ctx r c).serveDeferred ctx r c 2

/-- At the start of a beat the position owes its meeting (R301), also where its interface stands in the ring save area (R319); it evaluates it
as soon as it can. -/
def State.evalMeeting (s : State) (ctx : CtxId) (r : Nat) (c : Coord) : State :=
  match s.ifOf ctx r c with
  | some i => (s.setIf c { i with owed := true }).serveRing ctx r c
  | none =>
    let g := s.ringAt ctx r
    s.setRing ctx r { g with saved := Tab.mapVals (fun k i => if k = c.toNat then { i with owed := true } else i) g.saved }

/-! ## Beats (R299 to R312) -/

/-- The head of an injection queue is read from the caddy into buffer `b` of its family: CP of the thread that put it falls (R310). A read that fails
halts the context, and the tile stays in the queue (R397). -/
def State.takeInject (s : State) (c : Coord) (i : RingIf) (leaf : Bool) (b : Nat) : Option Tile × RingIf × State :=
  match i.inj leaf with
  | [] => (none, i, s)
  | q :: qs =>
    let read := s.meetCaddy i.ctx c q.off (i.tileSize leaf) 4
    if read.halted i.ctx then (none, i, read)
    else
    let t : Tile :=
      {
        tag := BitVec.ofNat 16 (Word.field q.word 0 16), keep := q.word.getLsbD 17, life := Word.field q.word 32 16, age := 0,
        home := q.off, origin := i.pos, bytes := s.caddyRead i.ctx c q.off (i.tileSize leaf) }
    (some t, i.setInj leaf qs, (read.mend 4 c (latchAt leaf b) (i.tileSize leaf)).countDown q.thread .cp 1)

/-- The retire record of a tile (R311). -/
def Tile.record (t : Tile) (leaf : Bool) : Word :=
  BitVec.ofNat 64 (t.tag.toNat + (if leaf then 0 else 2 ^ 16) + (if t.keep then 2 ^ 17 else 0) + t.home * 2 ^ 18)

/-- One position at the end of a moving beat of a family: the arriving tile becomes resident or retires, a queued tile is injected where none
arrives, and the family's buffers exchange roles; the other family's tile ages (R299, R310, R311). -/
def State.movePosition (s : State) (c : Coord) (i : RingIf) (leaf : Bool) (arrives : Option Tile) : State :=
  let retires := match arrives with
    | some t => t.origin == i.pos && t.life ≤ t.age && i.retire.length < 16
    | none => false
  let (s, i) := match arrives with
    | some t =>
      if retires then
        (if t.keep then s.caddyWrite i.ctx c t.home t.bytes else s, { i with retire := i.retire ++ [t.record leaf] })
      else (s, i)
    | none => (s, i)
  let (new, i, s) :=
    if arrives.isSome && !retires then (arrives, i, s.mend 4 c (latchAt leaf (1 - i.latch leaf)) (i.tileSize leaf))
    else if i.bufferBound leaf (1 - i.latch leaf) then (none, i, s)
    else s.takeInject c i leaf (1 - i.latch leaf)
  let older (t : Tile) : Tile := { t with age := t.age + 1 }
  let i := ((i.setCur leaf new).flip leaf).setCur (!leaf) ((i.cur (!leaf)).map older)
  let s := s.setIf c i
  s.wake fun t => t.park == some .ring && t.core == c

/-- The boundary into the next beat has to wait: a meeting is held or owed, or a bound buffer would have to receive (R304, R305). -/
def beatWaits (ifs : List (Coord × RingIf)) (leafNext : Bool) : Bool :=
  let n := ifs.length
  (ifs.zipIdx).any fun e =>
    let p := e.2
    let i := e.1.2
    let src := if leafNext then (p + n - 1) % n else (p + 1) % n
    i.held.isSome || i.owed || i.logging.isSome || (i.bufferBound leafNext (1 - i.latch leafNext) && ((ifs[src]?).map fun f => (f.2.cur leafNext).isSome).getD false)

/-- The ring holds nothing any more (R312). -/
def RingIf.empty (i : RingIf) : Bool :=
  i.curL.isNone && i.curW.isNone && i.injL.isEmpty && i.injW.isEmpty && i.steeps.isEmpty && i.held.isNone && !i.owed && i.logging.isNone && i.area0 == .free && i.area1 == .free

/-- A ring that had stopped for a switch-out goes on where no switch-out of its cores pends any more and all its positions are bound (R319). -/
def State.unstop (s : State) (ctx : CtxId) (r : Nat) : State :=
  let g := s.ringAt ctx r
  if g.stopped && !s.ringPreempted ctx r && ((ringCores (s.ringRec ctx r)).all fun c => (s.ifOf ctx r c).isSome) then
    s.setRing ctx r { g with stopped := false }
  else s

/-- BEAT_BOUNDARY: what waits is tried again; then, if no rule extends the beat, it ends and the next one begins with its meetings, or the
ring has drained and stops (R299 to R312). A ring that is to be pre-empted stops once no steep runs (R319). -/
def beatBoundary (s : State) (ctx : CtxId) (r : Nat) : State :=
  let s := s.unstop ctx r
  let g := s.ringAt ctx r
  let cs := ringCores (s.ringRec ctx r)
  if !g.running || g.stopped || s.halted ctx then s
  else if s.ringPreempted ctx r then
    if (s.ringIfs ctx r).all fun e => e.2.steeps.isEmpty then s.setRing ctx r { g with stopped := true } else s
  else
    let s := cs.foldl (fun s c => s.serveRing ctx r c) s
    let ifs := s.ringIfs ctx r
    let leaf := g.beat % 2 == 0
    let n := ifs.length
    if n ≠ cs.length || beatWaits ifs (!leaf) then s
    else
    let s := ifs.foldl (fun s e => s.meetLatch e.1 e.2 leaf) s
    if s.halted ctx then s
    else
      let older (t : Tile) : Tile := { t with age := t.age + 1 }
      let s := (ifs.zipIdx).foldl (fun s e =>
        let src := if leaf then (e.2 + n - 1) % n else (e.2 + 1) % n
        s.movePosition e.1.1 e.1.2 leaf (((ifs[src]?).map fun f => (f.2.cur leaf).map older).getD none)) s
      if (s.ringIfs ctx r).all fun e => e.2.empty then s.setRing ctx r { g with running := false, started := [] }
      else cs.foldl (fun s c => s.evalMeeting ctx r c) (s.setRing ctx r { g with beat := g.beat + 1 })

/-- BEAT_BOUNDARY (R299). -/
def execBeatBoundary (ctx : CtxId) (ring : BitVec 6) (s : State) : Host.Outcome State Fault Refusal := .next (beatBoundary s ctx ring.toNat)

/-! ## Major 0x24 (R313 to R318) -/

/-- BADRING with a reason. -/
def badRing {α : Type} (r : Nat) : Except Stop α := trap cBADRING (BitVec.ofNat 64 r)

/-- The ring that a core is bound to runs. -/
def State.boundRuns (s : State) (i : Option RingIf) : Bool :=
  match i with
  | some i => (s.ringAt i.ctx i.ring).running
  | none => false

/-- The entries of a steep table as read (R297). -/
def entriesOf (bs : List Byte) (n : Nat) : List SteepEnt :=
  (List.range n).map fun e => { w0 := imgWord bs (32 * e), w1 := imgWord bs (32 * e + 8), routine := imgWord bs (32 * e + 16), param := imgWord bs (32 * e + 24) }

/-- RING.CFG (R314, R315). -/
def ringCfgBody (s : State) (ra rb : BitVec 5) : Body := do
  primaryOnly s
  noSteep s
  let x := s.self
  let (ga, gb) := (s.g ra, s.g rb)
  if ga.toNat % 64 ≠ 0 || gb.toNat % 32 ≠ 0 || isCaddy ga || isCaddy gb then badRing 2
  let (db, s) ← readNow s ga 64 64 false
  let d := wordsOf db
  let r := Word.field d[0] 0 6
  let rec0 := s.ringRec x.ctx r
  if descBad d (if ringSize rec0 = 24 then 6 else 2) then badRing 2
  let (tb, s) ← (if dNent d = 0 then pure ([], s) else readNow s gb (32 * dNent d) 64 false)
  let t := entriesOf tb (dNent d)
  match (ringCores rec0).findIdx? (· == x.core) with
  | none => badRing 3
  | some pos =>
    if t.any (·.bad) then badRing 4
    let old := s.myCore.ring
    if s.boundRuns old || (s.ringAt x.ctx r).running then badRing 5
    let (dropped, tails, s) := match old with
      | some i =>
        let g := s.ringAt i.ctx i.ring
        (i.injL ++ i.injW, i.tails, s.setRing i.ctx i.ring { g with started := g.started.filter (· != i.pos) })
      | none => ([], [], s)
    let s := dropped.foldl (fun s q => s.countDown q.thread .cp 1) s
    let i : RingIf := { ctx := x.ctx, ring := r, pos, size := ringSize rec0, desc := d, table := t, pour := x.pour, queue := s.slotQueue s.cur, tails }
    pure ((s.setIf x.core i).wake fun t => t.park == some .ring && t.core == x.core)

/-- RING.CFG (R315). -/
def execRingCfg (g : BitVec 4) (a b : BitVec 5) (s : State) := onCompute (.ringCfg g a b) s (guarded g s (ringCfgBody s a b))

/-- The ring-wide fields of a descriptor (R295). -/
def ringWide (d : Vector Word 8) : List Word := [d[0] &&& ~~~ 0x1F000, d[1], d[4], d[5]]

/-- RING.GO (R315): the last position begins beat 0. A ring one of whose cores is switched out of the context begins it stopped (R319). -/
def ringGoBody (s : State) : Body := do
  primaryOnly s
  noSteep s
  match s.myCore.ring with
  | none => badRing 1
  | some i =>
    let g := s.ringAt i.ctx i.ring
    if g.running || g.started.contains i.pos || (!g.started.isEmpty && ringWide g.first != ringWide i.desc) then badRing 5
    let g := { g with started := g.started ++ [i.pos], first := if g.started.isEmpty then i.desc else g.first }
    if g.started.length < i.size then pure (s.setRing i.ctx i.ring g)
    else
      let cs := ringCores (s.ringRec i.ctx i.ring)
      let s := s.setRing i.ctx i.ring { g with running := true, beat := 0, stopped := (s.ringIfs i.ctx i.ring).length != cs.length }
      pure (cs.foldl (fun s c => s.evalMeeting i.ctx i.ring c) s)

/-- RING.GO (R315). -/
def execRingGo (g : BitVec 4) (s : State) := onCompute (.ringGo g) s (guarded g s (ringGoBody s))

/-- Reason 2 of RING.PUT and RING.TRY on the tile word and the caddy address; the offset that it names (R309, R314). -/
def putPlace (s : State) (i : RingIf) (ga gb : Word) : Except Stop Nat :=
  let off := Word.field gb 0 18
  let ok := (space gb == 0x1FE && Word.field gb 18 30 == 0) || (space gb == 0x1FF && Word.field gb 18 30 == s.self.core.toNat)
  if Word.field ga 18 14 ≠ 0 || Word.field ga 48 16 ≠ 0 || Word.field ga 32 16 = 0 || !ok || off % 16 ≠ 0 ||
      2 ^ 18 < off + i.tileSize (!ga.getLsbD 16) then badRing 2
  else .ok off

/-- A tile is put: into the current buffer at once before beat 0 or when the ring has drained, if the buffer is empty, else into its family's queue
(R310). A ring that is stopped for a pre-emption stands within a beat and goes on from that point (R319): its puts queue (log entry 78). -/
def State.putTile (s : State) (i : RingIf) (ga : Word) (off : Nat) : State :=
  let leaf := !ga.getLsbD 16
  let c := s.self.core
  let i := i.setInj leaf (i.inj leaf ++ [{ word := ga, off, thread := s.cur }])
  let s := s.count .cp 1
  let g := s.ringAt i.ctx i.ring
  if !g.running && (i.cur leaf).isNone then
    let (t, i, s) := s.takeInject c i leaf (i.latch leaf)
    s.setIf c (i.setCur leaf t)
  else s.setIf c i

/-- RING.PUT, and RING.TRY with its status and predicate registers (R316). -/
def ringPutBody (s : State) (ra rb : BitVec 5) (try_ : Option (BitVec 5 × BitVec 3)) : Body := do
  primaryOnly s
  if try_.isNone then noSteep s
  match s.myCore.ring with
  | none => badRing 1
  | some i =>
    let off ← putPlace s i (s.g ra) (s.g rb)
    let full := 4 ≤ (i.inj (!(s.g ra).getLsbD 16)).length
    if !full then gate s [{ va := s.g rb, n := i.tileSize (!(s.g ra).getLsbD 16), t := { pa := caddyKey s.self.core off, cls := .caddy, home := s.self.core }, words := 1 }]
    match try_ with
    | none =>
      if full then .error (.wait (some .ring) s)
      roomFor s .cp 1
      pure (s.putTile i (s.g ra) off)
    | some (d, p) =>
      if full then pure ((s.setG d 1).setP p false)
      else
        roomFor s .cp 1
        pure (((s.putTile i (s.g ra) off).setG d 0).setP p true)

/-- RING.PUT (R316). -/
def execRingPut (g : BitVec 4) (a b : BitVec 5) (s : State) := onCompute (.ringPut g a b) s (guarded g s (ringPutBody s a b none))
/-- RING.TRY (R316). -/
def execRingTry (g : BitVec 4) (d a b : BitVec 5) (p : BitVec 3) (s : State) :=
  onCompute (.ringTry g d a b p) s (guarded g s (ringPutBody s a b (some (d, p))))

/-- RING.TAKE (R317). -/
def ringTakeBody (s : State) (d : BitVec 5) (p : BitVec 3) : Body := do
  primaryOnly s
  match s.myCore.ring with
  | none => badRing 1
  | some i => match i.retire with
    | [] => pure (s.setP p false)
    | x :: xs => pure (((s.setIf s.self.core { i with retire := xs }).setG d x).setP p true)

/-- RING.TAKE (R317). -/
def execRingTake (g : BitVec 4) (d : BitVec 5) (p : BitVec 3) (s : State) := onCompute (.ringTake g d p) s (guarded g s (ringTakeBody s d p))

/-- Every MMA.L of a steep has been accepted and has read its operands (R318). -/
def Engine.free (e : Engine) (t : Nat) : Bool := !(e.steepQ ++ e.queue).any (·.issuers.contains t)

/-- A steep has ended: DONE of its entry goes up, and its thread is no more (R308, R318). -/
def State.steepDone (s : State) (ctx : CtxId) (c : Coord) (t off : Nat) : State :=
  let s := s.bump ctx c off
  { s with threads := Tab.erase s.threads t }

/-- What STEEP.DONE releases (R318): the bound buffers or area, and the slot; what is left of the MX count is the steep's tail. -/
def State.endSteep (s : State) (c : Coord) (i : RingIf) (st : Steep) : State :=
  let t := st.thread
  let i := { i with steeps := i.steeps.filter (·.slot != st.slot) }
  let i := match st.area with
    | some a => i.setArea a .free
    | none => i
  let off := i.doneOff st.ent
  let s := s.modCore c fun k => { k with slots := Tab.erase k.slots st.slot }
  let s :=
    if (s.thread t).mx = 0 then (s.setIf c i).steepDone i.ctx c t off
    else (s.setIf c { i with tails := i.tails ++ [{ thread := t, off }] }).modThread t fun x => { x with place := .none }
  s.serveRing i.ctx i.ring c

/-- STEEP.DONE (R318). -/
def steepDoneBody (s : State) : Body := do
  primaryOnly s
  let x := s.self
  if !x.steep then trap cENGINE 2
  deliveryWait s true true true
    (s.myCore.engine.free s.cur && x.ld == 0 && x.st == 0 && x.cp == 0 && x.ms == 0 && x.loads.isEmpty) none
  match s.myCore.ring with
  | none => pure s
  | some i => match i.steeps.find? (·.thread == s.cur) with
    | some st => .error (.left (s.endSteep x.core i st))
    | none => pure s

/-- STEEP.DONE (R318). -/
def execSteepDone (g : BitVec 4) (s : State) := onCompute (.steepDone g) s (guarded g s (steepDoneBody s))

/-- STEEP_TAIL_DONE: a finished steep's reductions are all acknowledged (R318). -/
def steepTailDone (s : State) (c : Coord) (n : Nat) : State :=
  match (s.coreAt c).ring with
  | none => s
  | some i => match i.tails[n]? with
    | some tl =>
      if (s.thread tl.thread).mx ≠ 0 then s
      else (s.setIf c { i with tails := dropAt i.tails n }).steepDone i.ctx c tl.thread tl.off
    | none => s

/-- STEEP_TAIL_DONE (R318). -/
def execSteepTailDone (c : Coord) (i : Nat) (s : State) : Host.Outcome State Fault Refusal := .next (steepTailDone s c i)

end Sys2Proof.Machine
end

