-- ==== Sys2Proof/Machine/Matrix.lean ====
section
/-!
DEFINITION. The matrix engine: its computation (07_matrix_instructions.md R141, R142, R146 to R149), and the passes of its arbiter (R161).
-/

namespace Sys2Proof.Machine

/-- Where an operand's bytes come from: `n` bytes at an offset. -/
abbrev Source := Nat → Nat → List Byte

/-- The caddy of a core as a source. -/
def State.caddySource (s : State) (ctx : CtxId) (c : Coord) : Source := fun off n => s.caddyRead ctx c off n

/-- The bytes of a tile as a source: offsets beyond them read zero (R294, R302). -/
def bytesSource (bs : List Byte) : Source := fun off n => padTo n ((bs.drop off).take n)

/-- An unpacked element of a format without blocks (R79, R146). -/
def plainElem (code x : Nat) : FVal := match tagFp (BitVec.ofNat 4 code) with
  | some f => f.decode x
  | none => .fin false 0 0

/-- The K values of row or column `r` of a dense operand (R142, R146). -/
def denseRow (src : Source) (code off k r : Nat) : List FVal :=
  let rb := rowBytes code k
  let x := leNat (src (off + r * rb) rb)
  if isMx code then
    let scales := src (scaleBase code k off + r * (k / 32)) (k / 32)
    (List.range k).map fun i => dequantMx code ((scales[i / 32]?.getD 0).toNat) (x / 2 ^ (mxBits code * i) % 2 ^ mxBits code)
  else if 18 ≤ code then
    let bb := 8 * blockBytes code
    (List.range k).map fun i => blockElem code (x / 2 ^ (bb * (i / 16)) % 2 ^ bb) 0 (i % 16)
  else
    let w := tagBits (BitVec.ofNat 4 code)
    (List.range k).map fun i => plainElem code (x / 2 ^ (w * i) % 2 ^ w)

/-- The elements of one group of 64 positions of MMA.SP: the stored values go to the first N set bits of the mask (R147). -/
def sparseGroup (mask : Word) (vals : List FVal) (n : Nat) : List (Option FVal) :=
  (List.range 64).map fun t =>
    let before := ((List.range t).filter fun u => mask.getLsbD u).length
    if mask.getLsbD t && before < n then vals[before]? else none

/-- The K positions of row `r` of a structured-sparse A (R142, R147). -/
def sparseRow (src : Source) (code off moff k n r : Nat) : List (Option FVal) :=
  let w := tagBits (BitVec.ofNat 4 code)
  let eb := w / 8
  (List.range (k / 64)).flatMap fun g =>
    let j := r * (k / 64) + g
    let x := leNat (src (off + j * n * eb) (n * eb))
    let mask := BitVec.ofNat 64 (leNat (src (moff * 8 + 8 * j) 8))
    sparseGroup mask ((List.range n).map fun i => plainElem code (x / 2 ^ (w * i) % 2 ^ w)) n

/-- The products of the present positions of one group. -/
def products : List (Option FVal) → List FVal → List (FVal × Flags)
  | some a :: as, b :: bs => a.mul b :: products as bs
  | none :: as, _ :: bs => products as bs
  | _, _ => []

/-- One element of the result: group sums, each exact and rounded once, added in increasing k (R146). -/
def dotGroups (g : Nat) : Nat → List (Option FVal) → List FVal → BitVec 32 → BitVec 32
  | 0, _, _, p => p
  | n + 1, a, b, p =>
    let sum := (exactSum (products (a.take g) (b.take g))).1
    dotGroups g n (a.drop g) (b.drop g) (fadd32 p (BitVec.ofNat 32 (fmtF32.round .rne false sum).1))

/-- The operand sources of a command: the caddy, or the steep's bound buffers (R142, R302). -/
def State.sourcesOf (s : State) (c : Coord) (cmd : Cmd) : Source × Source :=
  if cmd.form ≠ 1 then (s.caddySource cmd.ctx c, s.caddySource cmd.ctx c)
  else match (s.coreAt c).ring with
    | none => (bytesSource [], bytesSource [])
    | some i => match i.steeps.find? fun st => cmd.issuers.contains st.thread with
      | none => (bytesSource [], bytesSource [])
      | some st => match st.area with
        | none => (bytesSource st.leaf, bytesSource st.water)
        | some a =>
          (bytesSource (s.caddyRead i.ctx c (i.defOff a) (dLsize i.desc)),
            bytesSource (s.caddyRead i.ctx c (i.defOff a + dLsize i.desc) (dWsize i.desc)))

/-- The sixteen lines of a command's result (R146). -/
def State.compute (s : State) (c : Coord) (cmd : Cmd) : List (List (BitVec 32)) :=
  let (srcA, srcB) := s.sourcesOf c cmd
  let (af, bf) := (Word.field cmd.a 24 5, Word.field cmd.b 24 5)
  let k := Word.field cmd.a 32 16
  let n := spN cmd.form
  let g := (opGroup af).getD 16
  let rows := (List.range 16).map fun i =>
    if n ≠ 0 then sparseRow srcA af (Word.field cmd.a 0 18) (Word.field cmd.a 48 15) k n i
    else (denseRow srcA af (Word.field cmd.a 0 18) k i).map some
  let cols := (List.range 16).map fun j => denseRow srcB bf (Word.field cmd.b 0 18) k j
  rows.map fun a => cols.map fun b => dotGroups g (k / g) a b 0

/-- Where the operands of a command stand among the locations of row 4 of the table Protection: the caddy; of an MMA.L its steep's defer area, or the
latch buffers that it binds, two of 24 KiB for each family (R142, R294, R302, log entry 41). -/
def State.operandBases (s : State) (c : Coord) (cmd : Cmd) : Nat × Nat :=
  if cmd.form ≠ 1 then (0, 0)
  else match (s.coreAt c).ring with
    | none => (0, 0)
    | some i => match i.steeps.find? fun st => cmd.issuers.contains st.thread with
      | none => (0, 0)
      | some st => match st.area with
        | none => (latchAt true st.bindL, latchAt false st.bindW)
        | some a => (i.defOff a, i.defOff a + dLsize i.desc)

/-- The ranges of those locations that the operands of a command take, and the mask of a sparse one (R142). -/
def State.operandRanges (s : State) (c : Coord) (cmd : Cmd) : List (Nat × Nat) :=
  let k := Word.field cmd.a 32 16
  let n := spN cmd.form
  let (ba, bb) := s.operandBases c cmd
  let extent (w : Word) : Nat := extentEnd (Word.field w 24 5) k (Word.field w 0 18) - Word.field w 0 18
  [(ba + Word.field cmd.a 0 18, if n = 0 then extent cmd.a else 16 * rowBytes (Word.field cmd.a 24 5) (k / 64 * n)),
    (8 * Word.field cmd.a 48 15, if n = 0 then 0 else 128 * (k / 64)), (bb + Word.field cmd.b 0 18, extent cmd.b)].filter (0 < ·.2)

/-- The engine reads the operands of a command, and the mask of a sparse one, and meets the soft errors there (R142, R397). -/
def State.meetOperands (s : State) (c : Coord) (cmd : Cmd) : State :=
  if s.errorFree then s else (s.operandRanges c cmd).foldl (fun s r => s.meetErrors 4 c r.1 r.2 cmd.ctx 3) s

/-- A command is about to be computed: its operands are read. Where the read fails, the context halts, and the engine keeps that it has (R397, R398). -/
def State.readOperands (s : State) (c : Coord) (cmd : Cmd) : State :=
  let s := s.meetOperands c cmd
  if s.halted cmd.ctx then s.modCore c fun k => { k with engine := { k.engine with failed := true } } else s

/-- The sixteen reduction lines of a command (R146, R149). -/
def State.commandLines (s : State) (c : Coord) (cmd : Cmd) : List RedLine :=
  (s.compute c cmd).zipIdx.map fun l =>
    let pa := cmd.pa + 64 * l.2
    { ctx := cmd.ctx, pa, home := s.homeSlice (s.partOf cmd.ctx) cmd.place pa, words := l.1
      key := BitVec.ofNat 16 (Word.field cmd.b 48 16), ord := cmd.b.getLsbD 35, scope := BitVec.ofNat 3 (Word.field cmd.b 32 3)
      cores := [c], groups := [cmd.group] }

/-- Lines set out, and the engine's oldest command is done; `rest` is what the engine holds after it. -/
def State.sendLines (s : State) (c : Coord) (ls : List RedLine) (rest : List Cmd) : State :=
  let s := s.modCore c fun k => { k with engine := { k.engine with queue := rest, out := [] } }
  { s with net := s.net ++ ls.map Packet.red }

/-- A command is computed, if it has not been, and the lines that it has not sent yet set out (R146, R149). -/
def State.runCommand (s : State) (c : Coord) (cmd : Cmd) (rest : List Cmd) : State :=
  let out := (s.coreAt c).engine.out
  s.sendLines c (if out.isEmpty then s.commandLines c cmd else out) rest

/-- MATRIX_COMMAND_COMPLETE: the engine's oldest command is computed and its sixteen lines set out; after a read that
failed it sends none (R146, R149, R397). -/
def matrixCommandComplete (s : State) (c : Coord) : State :=
  match (s.coreAt c).engine.queue with
  | [] => s
  | cmd :: rest =>
    if s.halted cmd.ctx then s
    else
      let s := if (s.coreAt c).engine.out.isEmpty then s.readOperands c cmd else s
      if s.halted cmd.ctx then s else s.runCommand c cmd rest

/-- A part of what MATRIX_COMMAND_COMPLETE completes: the engine reads and computes its oldest command, or sends the next of its lines, so that a
halt may find the command partly sent (R150). -/
def matrixLine (s : State) (c : Coord) : State :=
  match (s.coreAt c).engine.queue with
  | [] => s
  | cmd :: rest =>
    if s.halted cmd.ctx then s
    else match (s.coreAt c).engine.out with
      | [] =>
        let s := s.readOperands c cmd
        if s.halted cmd.ctx then s
        else
          let ls := s.commandLines c cmd
          s.modCore c fun k => { k with engine := { k.engine with out := ls } }
      | [l] => s.sendLines c [l] rest
      | l :: ls => { s.modCore c fun k => { k with engine := { k.engine with out := ls } } with net := s.net ++ [.red l] }

/-- MATRIX_COMMAND_COMPLETE (R146). -/
def execMatrixCommandComplete (c : Coord) (s : State) : Host.Outcome State Fault Refusal := .next (matrixCommandComplete s c)

/-! ## The arbiter (R161) -/

/-- A meeting that the position of a core holds is evaluated again: a cause of its miss may have cleared (R304). -/
def State.serveHeld (s : State) (c : Coord) : State :=
  match (s.coreAt c).ring with
  | some i => if i.held.isSome then s.serveRing i.ctx i.ring c else s
  | none => s

/-- A lease ends, and a held meeting is evaluated again (R161, R304). -/
def State.leaseOver (s : State) (c : Coord) : State := (s.endLease c).serveHeld c

/-- A group's formed command is accepted under its lease, which ends with the sixteenth (R161); its entry of the convene table is read, and meets the
errors that stand there (R397). -/
def State.serveLease (s : State) (c : Coord) (h : Nat) (g : Convene) (cmd : Cmd) : State :=
  let s := s.meetErrors 8 c (convLoc h) 1 g.ctx 3
  if s.halted g.ctx then s
  else
    let s := s.acceptGroup c h g cmd
    if 16 ≤ g.cmds + 1 || (s.conv c h).isNone then s.leaseOver c else s

/-- One pass of the arbiter (R161), when the engine can accept: while it holds at most one command that it has not read (DESIGN CHOICE, log entry 68).
-/
def engineArbitration (s : State) (c : Coord) : State :=
  let e := (s.coreAt c).engine
  if 2 ≤ e.queue.length || s.engineStopped c then s
  else match e.holder with
    | some h =>
      match s.conv c h with
      | none => s.leaseOver c
      | some g =>
        match (if g.ready then g.pending else none) with
        | some cmd => s.serveLease c h g cmd
        | none =>
          if 1024 ≤ e.idle + 1 then s.leaseOver c
          else s.modCore c fun k => { k with engine := { e with idle := e.idle + 1 } }
    | none =>
      let s := s.serveHeld c
      let r := s.nextReady c e.last
      match e.oldestSteep with
      | some cmd =>
        if e.run < 16 || r.isNone then
          s.modCore c fun k => { k with engine := { e with steepQ := e.steepQ.erase cmd, queue := e.queue ++ [cmd], run := e.run + 1 } }
        else match r with
          | some h => s.grantLease c e h
          | none => s
      | none => match r with
        | some h => s.grantLease c e h
        | none => s

/-- ENGINE_ARBITRATION (R161). -/
def execEngineArbitration (c : Coord) (s : State) : Host.Outcome State Fault Refusal := .next (engineArbitration s c)

/-- A lease whose group has no formed command ends once 1,024 core cycles have passed (R161). -/
def leaseIdleExpiry (s : State) (c : Coord) : State :=
  match (s.coreAt c).engine.holder with
  | none => s
  | some h => match s.conv c h with
    | some g => if g.ready then s else s.leaseOver c
    | none => s.leaseOver c

/-- LEASE_IDLE_EXPIRY (R161). -/
def execLeaseIdleExpiry (c : Coord) (s : State) : Host.Outcome State Fault Refusal := .next (leaseIdleExpiry s c)

end Sys2Proof.Machine
end

