-- ==== Sys2Proof/Machine/Halt.lean ====
section
/-!
DEFINITION. Context-wide halts, pre-emption and context switch, and teardown (21_traps_preemption.md R381 to R393): rosters, save areas and
stop records.
-/

namespace Sys2Proof.Machine

/-! ## Stopping threads (R224, R374, R382, R387) -/

/-- Every thread of a context can be stopped at an instruction boundary: no load and no reply that its instruction waits for is
outstanding (R224). -/
def State.quiet (s : State) (f : Thread → Bool) : Bool :=
  s.threads.all fun e => !f e.2 || (e.2.loads.isEmpty && e.2.hold.isNone)

/-- A pending trap that was being delivered is pending again, joined with one of its kind that has come since: the older of the two names the trap (R280,
R374, R386). -/
def rejoin (old : Pend) (p : Option Pend) : Option Pend :=
  some (match p with
    | none => old
    | some q => let first := if q.seq < old.seq then q else old; { first with val := first.val ||| BitVec.twoPow 64 63 })

/-- A thread on its way to a service core that is stopped there: the trap is undelivered. A precise one is raised again by its instruction, an
asynchronous one is pending again (R374). None where neither can be: the trap of an instruction that has completed (log entry 31). -/
def Thread.undeliver (x : Thread) : Option Thread :=
  let f := x.frame 2
  let back := { x.setFrame 2 { f with cause := Word.setField f.cause 63 1 0 } with status := f.stat, pc := f.epc.setWidth 48, undo := .done }
  match x.undo with
  | .done => none
  | .again => some back
  | .pending p =>
    if p.cause = cCOPYFAULT then some { back with copyFault := rejoin p x.copyFault }
    else if p.cause = cGONE then some { back with msgGone := rejoin p x.msgGone }
    else some { back with refusal := rejoin p x.refusal }

/-- The packet of a moving thread. -/
def isMove (t : Nat) : Packet → Bool
  | .move u _ _ _ => u == t
  | _ => false

/-- The packet of a thread that moves to a service core. -/
def isServiceMove (t : Nat) : Packet → Bool
  | .move u _ (some _) _ => u == t
  | _ => false

/-- A moving thread is taken off its way and stands on its core again, in a place there; one that leaves for a service core loses the trap that sends
it there, where it can (R374). Other lines of the register cache make room for its image (R19, R32). -/
def State.recall (s : State) (t : Nat) (p : Place) : State :=
  let svc := s.net.any (isServiceMove t)
  let s := { s with net := s.net.filter fun p => !isMove t p }
  let s := if svc then
      match (s.thread t).undeliver with
      | some x => s.setThread t x
      | none => s
    else s
  (s.modThread t fun x => { x with place := p }).trimCache (s.thread t).core cacheLines 16

/-- The thread stands, or will restart, on a service core (R388). -/
def State.isAway (s : State) (t : Nat) : Bool :=
  (s.thread t).onService.isSome || s.net.any (isServiceMove t) || ((s.thread t).place == .saved && (match (s.thread t).rosterPa with
    | some a => (s.word (a + 8)).getLsbD 10
    | none => false))

/-! ## Rosters (R387, R388) -/

/-- A roster line: the thread, and whether it was parked and whether it is away on a service core. -/
structure RosterLine where
  thread : Nat
  parked : Bool
  away : Bool

/-- The roster of a context on a core: slots, then lists, then the threads parked without a slot and those stopped before, then those away
(R387). -/
def State.rosterOf (s : State) (ctx : CtxId) (c : Coord) : List RosterLine :=
  let k := s.coreAt c
  let mine (t : Nat) : Bool := (s.thread t).ctx == ctx
  let here (f : Thread → Bool) : List Nat := (s.threads.filter fun e => e.2.ctx == ctx && e.2.core == c && !e.2.osThread && f e.2).map (·.1)
  let slots := (k.slots.map (·.2)).filter fun t => mine t && (s.thread t).inSlot.isSome
  let lists := (k.lists.flatMap (·.2)).filter mine
  let rest := here fun x => x.place == .parkedOut || x.place == .saved
  let (away, kept) := rest.partition s.isAway
  let gone := here fun x => x.onService.isSome || x.place == .moving
  let line (t : Nat) : RosterLine := { thread := t, parked := (s.thread t).park.isSome, away := false }
  (slots ++ lists ++ kept).map line ++
    (away ++ gone.filter s.isAway).map fun t => { thread := t, parked := false, away := true }

/-- One roster entry is written; the thread knows where it stands while it is stopped (R385, R388). -/
def State.putLine64 (s : State) (a : Nat) (l : RosterLine) : State :=
  let x := s.thread l.thread
  let s := s.putRecordBytes x.ctx a (wordBytes (x.image :: x.rosterWords l.parked l.away ++ [0, 0, 0]))
  s.setThread l.thread { x with rosterPa := some a }

/-- The roster, the event flags and the header of a save are written (R388). -/
def State.putRoster (s : State) (ctx : CtxId) (c : Coord) (rows : List RosterLine) (caddy : Bool) : State :=
  if (s.slotOf ctx).isNone then s
  else
    let a := s.saveArea ctx c
    let head : List Word := [if caddy then 3 else 1, s.time, BitVec.ofNat 64 rows.length, BitVec.ofNat 64 (a + 0x40400)]
    let s := (s.putRecordBytes ctx a (wordBytes head)).putRecordBytes ctx (a + 0xC0) (wordBytes [((s.coreAt c).flags ctx).setWidth 64])
    (rows.zipIdx).foldl (fun s l => s.putLine64 (a + 0x40400 + 64 * l.2) l.1) s

/-- Every slot and list of a core is rid of a context's threads, and other contexts' threads take the slots. -/
def State.clearSlots (s : State) (ctx : CtxId) (c : Coord) : State :=
  let other (t : Nat) : Bool := (s.thread t).ctx != ctx
  let k := s.coreAt c
  (s.setCore c { k with
    slots := Tab.keep (fun _ t => other t) k.slots
    lists := Tab.keep (fun _ l => !l.isEmpty) (Tab.mapVals (fun _ l => l.filter other) k.lists) }).fillSlots c

/-- A list of threads is stopped: those not stopped yet have their images written. -/
def State.saveAll (s : State) (ts : List Nat) : State :=
  ts.foldl (fun s t => if (s.thread t).place == .saved then s
    else
      let s := match (s.thread t).onService with
        | some _ => s.unplace t
        | none => s
      s.saveImage t) s

/-! ## Stop records (R383) -/

/-- Word 0 of a stop record (table Stop record header). -/
def recordHead (kind cause unit ch : Nat) (origin : Bool) (ctx : CtxId) : Word :=
  BitVec.ofNat 64 (kind + cause % 256 * 2 ^ 8 + unit % 512 * 2 ^ 16 + ch % 4 * 2 ^ 25 + (if origin then 2 ^ 27 else 0) + ctx.toNat * 2 ^ 32)

/-- A stop record is written at an offset of the context's stop area. -/
def State.putRecord (s : State) (ctx : CtxId) (off : Nat) (head : Word) (ws : List Word) : State :=
  if (s.slotOf ctx).isNone then s
  else s.putRecordBytes ctx ((s.ctxField ctx 0x18).toNat + off) (wordBytes (head :: s.time :: ws))

/-- The unit raised the halt. -/
def Halt.by (h : Halt) (kind : Nat) (c : Coord) : Bool := h.unit == some c && h.kind == kind

/-- The core's record: its slots, its threads, and what the origin of a fatal trap or HALT names. -/
def State.coreRecord (s : State) (ctx : CtxId) (h : Halt) (c : Coord) (rows : List RosterLine) : State :=
  let k := s.coreAt c
  let mask := (k.slots.filter fun e => (s.thread e.2).ctx == ctx).foldl (fun n e => n + 2 ^ e.1) 0
  let listed := (k.lists.flatMap (·.2)).filter fun t => (s.thread t).ctx == ctx
  let arrivals := (k.inbox ctx).entries.filter (·.kind == 2)
  let stopped := rows.filter fun l => !l.away && !listed.contains l.thread
  let origin := h.by 1 c
  if rows.isEmpty && arrivals.isEmpty && !origin then s
  else
    let o : List Word := if origin && h.cause ≤ 2 then [h.image, h.pc, h.tcause, h.val] else [0, 0, 0, 0]
    s.putRecord ctx (128 * unitOf c) (recordHead 1 h.cause c.toNat 0 origin ctx)
      ([BitVec.ofNat 64 mask, BitVec.ofNat 64 (stopped.length + (listed.length + arrivals.length) * 2 ^ 32)] ++ o)

/-- The engine stops (R150, R384): the command in execution, or the one whose read has failed, is recorded with the lines that it has sent, it sends
no more, and its issuers' counts fall; those accepted and not yet read stay (R397, R398). -/
def State.engineRecord (s : State) (ctx : CtxId) (h : Halt) (c : Coord) : State :=
  let e := (s.coreAt c).engine
  let head := recordHead 3 h.cause c.toNat 0 (h.by 3 c) ctx
  let unread (l : List Cmd) : Nat := (l.filter (·.ctx == ctx)).length * 2 ^ 32
  match e.queue with
  | [] => if h.by 3 c then s.putRecord ctx (0xC000 + 128 * unitOf c) head [] else s
  | cmd :: rest =>
    if cmd.ctx ≠ ctx then s
    else if e.out.isEmpty && !e.failed then s.putRecord ctx (0xC000 + 128 * unitOf c) head [0, 0, 0, BitVec.ofNat 64 (unread e.queue)]
    else
      let sent := if e.failed then 0 else 2 ^ (16 - e.out.length) - 1
      let w5 := sent + cmd.form.toNat * 2 ^ 16 + 2 ^ 22 + unread rest
      let s := s.putRecord ctx (0xC000 + 128 * unitOf c) head [cmd.a, cmd.b, cmd.c, BitVec.ofNat 64 w5]
      (s.modCore c fun k => { k with engine := { e with queue := rest, out := [], failed := false } }).groupAck cmd.group 16

/-- A held or deferred meeting as a record word (R383). -/
def Meeting.recordWord (m : Meeting) : Word :=
  BitVec.ofNat 64 (m.ltag.toNat + m.wtag.toNat * 2 ^ 16 + m.ent % 16 * 2 ^ 32 + m.cause % 4 * 2 ^ 36 + 2 ^ 38)

/-- The ring interface's record; word 8 is the index of an append to the miss log whose entry is not written yet (R320, R383). -/
def State.ringRecord (s : State) (ctx : CtxId) (h : Halt) (c : Coord) : State :=
  match (s.coreAt c).ring with
  | none => s
  | some i =>
    if i.ctx ≠ ctx then s
    else
      let origin := h.by 4 c
      let tag (t : Option Tile) : Nat := (t.map (·.tag.toNat)).getD 0xFFFF
      let pair (d : Defer) : Word := match d with
        | .pair m => m.recordWord
        | _ => 0
      let w2 := (s.ringAt ctx i.ring).beat % 2 ^ 16 + i.ring * 2 ^ 16 + i.policy * 2 ^ 22 + i.pos * 2 ^ 24
      let w3 := tag i.curL + tag i.curW * 2 ^ 16 + 0xFFFFFFFF * 2 ^ 32
      let w4 := i.injL.length + i.injW.length * 2 ^ 3 + i.retire.length * 2 ^ 6
      s.putRecord ctx (0x18000 + 128 * unitOf c) (recordHead 4 h.cause c.toNat 0 origin ctx)
        [BitVec.ofNat 64 w2, BitVec.ofNat 64 w3, BitVec.ofNat 64 w4, (i.held.map Meeting.recordWord).getD 0, pair i.area0, pair i.area1,
          (i.logging.map fun l => BitVec.ofNat 64 l.2).getD (BitVec.allOnes 64), if origin then h.val else 0]

/-- The infuser's record and park list: the lines of the context with parked entries (R181, R383). -/
def State.infuserRecord (s : State) (ctx : CtxId) (h : Halt) (c : Coord) : State :=
  let lines := risingSet ((s.parks.filter fun r => r.ctx == ctx && r.home == c).map fun r => r.pa / 64)
  let origin := h.by 5 c
  if lines.isEmpty && !origin then s
  else
    let s := s.putRecord ctx (0x24000 + 128 * unitOf c) (recordHead 5 h.cause c.toNat 0 origin ctx) [BitVec.ofNat 64 lines.length]
    if (s.slotOf ctx).isNone then s
    else s.putRecordBytes ctx ((s.ctxField ctx 0x18).toNat + 0x60000 + 512 * unitOf c)
      (wordBytes (lines.map fun l => BitVec.ofNat 64 (l % 2 ^ 46 + (s.keyOf (64 * l)).toNat * 2 ^ 46)))

/-- A copy that a halt stops: its count falls, and it takes CopyFault with code STOPPED if it is bound, else leaves COPY_FAULT pending with
value zero (R245, R384). Copies stop before the threads of their core are saved, so that a waiter of a bound one takes BARRIER_FAULT and its wait is not
abandoned (DESIGN CHOICE, log entry 87). -/
def State.haltCopy (s : State) (cp : Copy) : State := (s.copyFaulted cp 4 0).countDown cp.thread .cp 1

/-- A copy channel stops (R245, R383). -/
def State.channelRecord (s : State) (ctx : CtxId) (h : Halt) (c : Coord) (ch : Nat) : State :=
  let k := (s.coreAt c).chan ch
  match k.copies with
  | [] => s
  | cp :: _ =>
    if cp.ctx ≠ ctx then s
    else
      let w5 := k.w.toNat + (k.copies.length - 1) % 8 * 2 ^ 18 + 2 ^ 21
      let s := s.putRecord ctx (0x30000 + 128 * (4 * unitOf c + ch)) (recordHead 2 h.cause c.toNat ch (h.by 2 c) ctx)
        [cp.word, cp.caddy, cp.mem, BitVec.ofNat 64 w5, cp.iword.setWidth 64]
      let s := s.modCore c (·.setChan ch { k with copies := [], newest := false })
      k.copies.foldl State.haltCopy s

/-- A service core's record: the threads of the context stopped there, and those that ran a PL.MON handler (R382, R383). -/
def State.serviceRecord (s : State) (ctx : CtxId) (h : Halt) (n : Nat) : State :=
  let ts := (Tab.get s.svcs [] n).filter fun t => (s.thread t).ctx == ctx
  let origin := h.by 6 (BitVec.ofNat 9 n)
  if ts.isEmpty && !origin then s
  else s.putRecord ctx (0x90000 + 128 * n) (recordHead 6 h.cause n 0 origin ctx)
    [BitVec.ofNat 64 ts.length, BitVec.ofNat 64 (ts.filter fun t => (s.thread t).pl == 3).length]

/-- Threads away on a service core that a halt has stopped there, whose context had left their compute core before, have their roster entries
written again: what was pending then may have been taken since (R386, R388). -/
def State.renewRows (s : State) (ts : List Nat) : State :=
  ts.foldl (fun s t => match (s.thread t).rosterPa with
    | some a => s.putLine64 a { thread := t, parked := false, away := true }
    | none => s) s

/-- Every unit of one core stops for a halt, and its records are written (R382). -/
def State.stopCore (s : State) (ctx : CtxId) (h : Halt) (c : Coord) : State :=
  let k := s.coreAt c
  let s := (List.range 4).foldl (fun s ch => s.channelRecord ctx h c ch) s
  let s := ((s.engineRecord ctx h c).ringRecord ctx h c).infuserRecord ctx h c
  if !k.ctxs.contains ctx then
    -- switched out: its roster stands; a thread away on a service core stops there
    let ts := ((s.rosterOf ctx c).filter (·.away)).map (·.thread)
    (s.saveAll ts).renewRows ts
  else
    let rows := s.rosterOf ctx c
    let s := s.coreRecord ctx h c rows
    let s := s.saveAll (rows.map (·.thread))
    (s.clearSlots ctx c).putRoster ctx c rows (k.savedCaddy.contains ctx)

/-- A thread of a halting context on its way to a service core is taken off it, its trap undelivered, and stands where it set out from. One whose
trap cannot be undelivered is stopped on its way and set out again when it resumes; threads that move between cores, or back, stay on their way
until their context resumes (log entry 31). -/
def State.recallForHalt (s : State) (t : Nat) : State :=
  if (s.thread t).undeliver.isNone then s
  else match (s.coreAt (s.thread t).core).slots.find? fun e => e.2 == t with
    | some e => s.recall t (.slot e.1)
    | none => s.recall t .parkedOut

/-- The packet of a thread that has been stopped on its way to a service core. -/
def State.stoppedMove (s : State) : Packet → Bool
  | .move t _ (some _) _ => (s.thread t).place == .saved
  | _ => false

/-- HALT_COMPLETE: every unit has stopped, its record is written, and the context is HALTED (R382). -/
def haltComplete (s : State) (ctx : CtxId) : State :=
  match (s.ctxOf ctx).halt with
  | none => s
  | some h =>
    if h.complete || !(s.quiet fun x => x.ctx == ctx) then s
    else
      let s := ((s.threads.filter fun e => e.2.ctx == ctx && s.net.any (isServiceMove e.1)).map (·.1)).foldl State.recallForHalt s
      let area := (s.ctxField ctx 0x18).toNat
      let s := if (s.slotOf ctx).isSome then
          { s.unitPut (s.partOf ctx) .hall none area 0x90400 with mem := Memory.clear s.mem area (area + 0x90400) }
        else s
      let s := (List.range 8).foldl (fun s n => s.serviceRecord ctx h n) s
      let s := (s.partCores (s.partOf ctx)).foldl (fun s c => s.stopCore ctx h c) s
      let s := { s with net := s.net.filter fun k => !s.stoppedMove k }
      let s := s.modCtx ctx fun x => { x with halt := some { h with complete := true } }
      { s with answers := s.answers ++ [.halted ctx] }

/-- HALT_COMPLETE (R382). -/
def execHaltComplete (ctx : CtxId) (s : State) : Host.Outcome State Fault Refusal := .next (haltComplete s ctx)

/-! ## Switch-out (R387) -/

/-- The caddy and the latches of a core are read for a save: what is wrong there is corrected and counted, or logged (R395, R397). -/
def State.saveReads (s : State) (c : Coord) : State := (s.noticeErrors 4 c 0 (2 ^ 18)).noticeErrors 4 c latchLoc (4 * 24576)

/-- Steps 5 to 8 for a primary context: convene entries go to their objects, the ring interface to the ring save area, the caddy image and the
windows to the core save area (R160, R319, R387, R388). -/
def State.leavePrimary (s : State) (ctx : CtxId) (c : Coord) : State :=
  let k := s.coreAt c
  let groups := (k.convene.toList.filterMap id).filter (·.ctx == ctx)
  let groups := groups.map fun g => { g with leased := false, cmds := 0 }
  let s := s.saveReads c
  let s := groups.foldl (fun s g => s.putObject ctx c g.off g.words) s
  let s := match k.ring with
    | some i =>
      if i.ctx == ctx then
        let g := s.ringAt ctx i.ring
        s.setRing ctx i.ring { g with stopped := true, saved := Tab.set g.saved c.toNat { i with submitted := k.engine.steepQ } }
      else s
    | none => s
  let a := s.saveArea ctx c
  let wins := (List.range 8).flatMap fun w => [k.winRange[w]?.getD 0, k.winAccess[w]?.getD 0]
  let lo := caddyKey c 0
  let s := if (s.slotOf ctx).isSome then
      let s := (s.putRecordBytes ctx (a + 0x40) (wordBytes wins)).unitPut (s.partOf ctx) .hall none (a + 0x400) (2 ^ 18)
      { s with mem := Memory.copyRange s.mem lo (a + 0x400) (2 ^ 18) }
    else s
  let s := (s.clearCaddy c).mend 4 c latchLoc (4 * 24576)
  s.modCore c fun k => { k with
    primary := none
    convene := Vector.replicate 8 none
    savedConv := k.savedConv ++ groups
    engine := { k.engine with holder := none, idle := 0, steepQ := [] }
    ring := none
    savedCaddy := k.savedCaddy ++ [ctx]
    winRange := Vector.replicate 8 0
    winAccess := Vector.replicate 8 0 }

/-- An operand of a command has an error that cannot be corrected. -/
def State.operandsBad (s : State) (c : Coord) (cmd : Cmd) : Bool := (s.operandRanges c cmd).any fun r => s.badIn 4 c r.1 r.2

/-- Commands that the engine has accepted complete (R150). One whose operands cannot be read sends no line, and its issuers' counts fall (R384,
R397). -/
def State.flushEngine (s : State) (c : Coord) : Nat → State
  | 0 => s
  | n + 1 => match (s.coreAt c).engine.queue with
    | [] => s
    | cmd :: rest =>
      let unread := (s.coreAt c).engine.out.isEmpty
      let bad := unread && s.operandsBad c cmd
      let s := if unread then s.meetOperands c cmd else s
      if bad then ((s.sendLines c [] rest).groupAck cmd.group 16).flushEngine c n else (s.runCommand c cmd rest).flushEngine c n

/-- A context leaves a core: its threads are stopped, its roster, event flags, held lines and inbox entries are in memory, its cached lines are
another's to refetch (R181, R291, R387, R391). -/
def State.leaveCore (s : State) (ctx : CtxId) (c : Coord) : State :=
  let wasPrimary := s.primary ctx c
  let rows := s.rosterOf ctx c
  let s := s.saveAll ((rows.filter fun l => !l.away).map (·.thread))
  let s := s.clearSlots ctx c
  let s := if wasPrimary then (s.flushEngine c 2).leavePrimary ctx c else s
  let s := (s.putRoster ctx c rows ((s.coreAt c).savedCaddy.contains ctx)).saveRetry ctx c
  let left := s.modCore c fun k =>
    let i := k.inbox ctx
    let k := if i.entries.isEmpty then k else k.setInbox ctx { i with entries := i.entries.map fun e => { e with sram := false } }
    { k with
      ctxs := k.ctxs.filter (· != ctx)
      loops := k.loops.filter (·.ctx != ctx)
      l1 := k.l1.filter fun l => l.owned || l.ctx != ctx
      events := Tab.erase k.events ctx.toNat }
  left.settleInboxes s c

/-- What a switch-out waits for: threads at boundaries, and, of a primary context, its ring at a beat boundary, its accepted commands and its
copies done (R224, R245, R319, R387). A halted context has stopped already. -/
def State.mayLeave (s : State) (ctx : CtxId) (c : Coord) : Bool :=
  let k := s.coreAt c
  (s.quiet fun x => x.ctx == ctx && x.core == c && x.onService.isNone && x.place != .moving) &&
    (!s.primary ctx c || ((s.ctxOf ctx).halt.any (·.complete)) || (
      (k.engine.steepQ ++ k.engine.queue).isEmpty && k.chans.toList.all (·.copies.isEmpty) &&
      match k.ring with
      | some i => i.ctx != ctx || (!((s.ringAt ctx i.ring).running) || (s.ringAt ctx i.ring).stopped) && i.steeps.isEmpty
      | none => true))

/-- A request register reads DONE again. -/
def State.switchDone (s : State) (p : Nat) : State := s.modPart p fun b => { b with switchReq := none }

/-- SWITCH_OUT: the context leaves the core once every step of R387 can finish; a request that names no switched-in context of the partition
has nothing to do. -/
def switchOut (s : State) (p : Nat) (ctx : CtxId) (c : Coord) : State :=
  if (s.slotOf ctx).map (·.1) ≠ some p || !(s.coreAt c).ctxs.contains ctx then s.switchDone p
  else if (s.ctxOf ctx).halt.any (!·.complete) then s
  else
    let s := ((s.threads.filter fun e =>
        e.2.ctx == ctx && e.2.core == c && !e.2.steep && e.2.undeliver.isSome && s.net.any (isServiceMove e.1)).map (·.1)).foldl
      (fun s t => s.recall t .parkedOut) s
    if s.mayLeave ctx c then (s.leaveCore ctx c).switchDone p else s

/-- SWITCH_OUT (R387). -/
def execSwitchOut (part : BitVec 6) (ctx : CtxId) (c : Coord) (s : State) : Host.Outcome State Fault Refusal :=
  .next (switchOut s part.toNat ctx c)

/-! ## Switch-in and resume (R384, R385, R390) -/

/-- A pending trap as its roster entry has it; what the entry has no place for, the order of its issue, is kept (R280, R388). -/
def Pend.back (old : Option Pend) (cause : Nat) (val : Word) (now : Nat) : Pend :=
  { cause, val, since := now, due := true, seq := (old.map (·.seq)).getD 0, group := (old.map (·.group)).getD 0 }

/-- A thread restarts: its registers come from its image, its queue and pending traps from its roster entry; a steep takes its slot back, a thread
that was away goes to a service core, any other joins its run list (R384, R385, R386, R390). It acquires on its core, which may be another than the
one it left, and on its service core (R200, R224, R374). A status in the image that the thread's level refuses is BADSTAT, as at a TRET (R43, log
entry 72). -/
def State.restart (s : State) (t : Nat) (c : Coord) (row : Option Nat) : State :=
  let w (i : Nat) : Word := match row with
    | some a => s.word (a + 8 * i)
    | none => 0
  let due (p : Pend) : Pend := { p with due := true }
  let bad := s.badStatus t
  let s := match row with
    | some a => s.readRecord (s.thread t).ctx a 64
    | none => s
  let s := s.loadImage t
  let x := s.thread t
  let x := match row with
    | some _ =>
      let f := w 1
      { x with
        queue := Word.field f 0 9
        refusal := if f.getLsbD 11 then some (Pend.back x.refusal (if f.getLsbD 12 then cPOD else cREFUSED) (w 2) s.cycle) else none
        copyFault := if f.getLsbD 13 then some (Pend.back x.copyFault cCOPYFAULT (w 3) s.cycle) else none
        msgGone := if f.getLsbD 14 then some (Pend.back x.msgGone cGONE (w 4) s.cycle) else none }
    | none => { x with refusal := x.refusal.map due, copyFault := x.copyFault.map due, msgGone := x.msgGone.map due }
  let s := (s.setThread t { x with core := c }).acquire c 3
  let steep := (s.coreAt c).ring.bind fun i => i.steeps.find? (·.thread == t)
  let s := match steep with
    | some st => s.modCore c fun k => { k with slots := Tab.set k.slots st.slot t }
    | none => s
  let s : State :=
    if (w 1).getLsbD 10 then
      let n := t % 8
      if (s.thread t).st != 0 then { s.modThread t fun x => { x with place := .moving, undo := .done } with net := s.net ++ [.move t c (some n) false] }
      else { (s.modThread t fun x => { x with place := .service n }).acquire (svcUnit n) 3 with svcs := Tab.set s.svcs n (Tab.get s.svcs [] n ++ [t]) }
    else match steep with
      | some st => s.modThread t fun x => { x with place := .slot st.slot }
      | none => s.joinList t
  match bad with
  | some st => s.deliver t { cause := cBADSTAT, val := st, epc := (s.thread t).pc.setWidth 64, floor := (s.thread t).pl + 1, undo := .done }
  | none => s

/-- The threads of the roster of a core restart, in its order, wherever they were stopped; an entry names its thread by its image (R388, R390).
Threads whose context has no save area restart where they stopped. -/
def State.restartRoster (s : State) (ctx : CtxId) (c : Coord) : State :=
  if (s.slotOf ctx).isNone then
    (((s.threads.filter fun e => e.2.ctx == ctx && e.2.core == c && e.2.place == .saved).map (·.1)).foldl (fun s t => s.restart t c none) s).fillSlots c
  else
    let a := s.saveArea ctx c
    let s := s.readRecord ctx a 0x20
    let n := min (s.word (a + 0x10)).toNat (((s.ctxField ctx 0x28).toNat - 0x40400) / 64)
    let s := (List.range n).foldl (fun s j =>
      let row := a + 0x40400 + 64 * j
      match s.threads.find? fun e => e.2.ctx == ctx && e.2.place == .saved && e.2.image == s.word row with
      | some e => s.restart e.1 c (some row)
      | none => s) s
    let forget (x : Thread) : Thread := if x.ctx == ctx && x.core == c && x.place != .saved then { x with rosterPa := none } else x
    let s := { s with threads := Tab.mapVals (fun _ x => forget x) s.threads }
    (s.putRecordBytes ctx a (wordBytes [if (s.coreAt c).savedCaddy.contains ctx then 2 else 0])).fillSlots c

/-- A halted context resumes (R384): on every core where it is switched in, where its inboxes may use the SRAM again (R392), and on the service cores.
-/
def State.resume (s : State) (ctx : CtxId) : State :=
  let before := s
  let s := s.modCtx ctx fun x => { x with halt := none }
  let s := (s.partCores (s.partOf ctx)).foldl (fun s c => if (s.coreAt c).ctxs.contains ctx then s.settleInboxes before c else s) s
  let s := (s.partCores (s.partOf ctx)).foldl (fun s c => if (s.coreAt c).ctxs.contains ctx then s.restartRoster ctx c else s) s
  ((s.threads.filter fun e => e.2.ctx == ctx && e.2.place == .saved && s.isAway e.1).map (·.1)).foldl
    (fun s t => s.restart t (s.thread t).core (s.thread t).rosterPa) s

/-- What the primary place of a core gets back: caddy, windows, and the interface of the ring, which runs on once every position is back (R319, R390).
A context without a saved caddy finds a caddy of zeros and its windows closed, whatever an earlier context left there (R51, R333, log entry 12). -/
def State.regainPrimary (s : State) (ctx : CtxId) (c : Coord) : State :=
  let s := s.modCore c fun k =>
    { k with primary := some ctx, winRange := Vector.replicate 8 0, winAccess := Vector.replicate 8 0 }
  if !(s.coreAt c).savedCaddy.contains ctx then s.clearCaddy c
  else
    let a := s.saveArea ctx c
    let win (i : Nat) : Word := s.word (a + 0x40 + 8 * i)
    let s := (s.readRecord ctx (a + 0x40) 128).unitRead (s.partOf ctx) .hall (some ctx) (a + 0x400) (2 ^ 18)
    let s := State.mend { s with mem := Memory.copyRange s.mem (a + 0x400) (caddyKey c 0) (2 ^ 18) } 4 c 0 (2 ^ 18)
    let s := s.modCore c fun k => { k with
      savedCaddy := k.savedCaddy.filter (· != ctx)
      winRange := Vector.ofFn fun i => win (2 * i.val) &&& ~~~ winReserved false
      winAccess := Vector.ofFn fun i => win (2 * i.val + 1) &&& ~~~ winReserved true }
    match (List.range 64).find? fun r => (Tab.find (s.ringAt ctx r).saved c.toNat).isSome with
    | none => s
    | some r =>
      let g := s.ringAt ctx r
      let s := match Tab.find g.saved c.toNat with
        | some i => (s.setIf c { i with submitted := [] }).modCore c fun k => { k with engine := { k.engine with steepQ := i.submitted } }
        | none => s
      let g := { g with saved := Tab.erase g.saved c.toNat }
      let back := (ringCores (s.ringRec ctx r)).all fun d => (s.ifOf ctx r d).isSome
      s.setRing ctx r (if back then { g with stopped := false } else g)

/-- A context enters a core (R390); on a core that is idle for primary use it becomes the primary one (R332, R387, R390, log entry 11). -/
def State.enterCore (s : State) (ctx : CtxId) (c : Coord) : State :=
  let a := s.saveArea ctx c
  let valid := (s.slotOf ctx).isSome && (s.word a).getLsbD 0
  let before := s
  let s := if (s.slotOf ctx).isSome then s.readRecord ctx a 0xC8 else s
  let s := s.modCore c fun k => { k with
    ctxs := k.ctxs ++ [ctx]
    events := if valid && s.word (a + 0xC0) != 0 then Tab.set k.events ctx.toNat ((s.word (a + 0xC0)).setWidth 32) else k.events }
  let s := if (s.coreAt c).primary.isNone then s.regainPrimary ctx c else s
  let s := (s.settleInboxes before c).loadRetry ctx c
  if valid then s.restartRoster ctx c else s

/-- SWITCH_IN: a context of the partition enters a core of it that is awake and holds fewer than four (R332, R390). For a HALTED context it is
the resume of R384 too (log entry 32). -/
def switchIn (s : State) (p : Nat) (ctx : CtxId) (c : Coord) : State :=
  if (s.slotOf ctx).map (·.1) ≠ some p || (s.ctxOf ctx).gone || !s.coreIn p c || (s.coreAt c).powerGated || !s.awake then s.switchDone p
  else match (s.ctxOf ctx).halt with
    | some h =>
      if !h.complete || s.devReset then s
      else
        let s := s.resume ctx
        (if (s.coreAt c).ctxs.contains ctx || 4 ≤ (s.coreAt c).ctxs.length then s else s.enterCore ctx c).switchDone p
    | none =>
      (if (s.coreAt c).ctxs.contains ctx || 4 ≤ (s.coreAt c).ctxs.length then s else s.enterCore ctx c).switchDone p

/-- SWITCH_IN (R390). -/
def execSwitchIn (part : BitVec 6) (ctx : CtxId) (c : Coord) (s : State) : Host.Outcome State Fault Refusal :=
  .next (switchIn s part.toNat ctx c)

/-! ## Teardown (R393) -/

/-- A send that the sending interface of a context holds: refused, or waiting for an entry in transit (R275, R280, R291). -/
def State.heldSend (s : State) (ctx : CtxId) : Packet → Option Send
  | .held m => if m.sctx == ctx then some m else none
  | .sendReply m st => if m.sctx == ctx && m.blocking && st == 1 then some m else none
  | .send m => if m.sctx == ctx && (s.sendPlace m).isNone then some m else none
  | _ => none

/-- A packet that a teardown discards: partials, held sends, and threads on their way; a send that has left goes on, and accesses that were translated
are performed, for which the ID waits (R291, R393; State.idFree). -/
def tornPacket (s : State) (ctx : CtxId) (p : Packet) : Bool :=
  (s.heldSend ctx p).isSome || match p with
  | .red r => r.ctx == ctx
  | .move t _ _ _ => (s.thread t).ctx == ctx
  | _ => false

/-- What a core keeps of a context that is torn down: nothing. -/
def Core.forget (k : Core) (ctx : CtxId) (mine : Nat → Bool) : Core :=
  let prim := k.primary == some ctx
  { k with
    ctxs := k.ctxs.filter (· != ctx)
    primary := if prim then none else k.primary
    slots := Tab.keep (fun _ t => !mine t) k.slots
    lists := Tab.keep (fun _ l => !l.isEmpty) (Tab.mapVals (fun _ l => l.filter fun t => !mine t) k.lists)
    winRange := if prim then Vector.replicate 8 0 else k.winRange
    winAccess := if prim then Vector.replicate 8 0 else k.winAccess
    l1 := k.l1.filter fun l => l.owned || l.ctx != ctx
    icache := k.icache.filter (·.ctx != ctx)
    loops := k.loops.filter (·.ctx != ctx)
    tlb := k.tlb.filter (·.ctx != ctx)
    chans := k.chans.map fun ch => if ch.copies.any (·.ctx == ctx) then { ch with copies := [], newest := false } else ch
    convene := k.convene.map fun g => if g.any (·.ctx == ctx) then none else g
    savedConv := k.savedConv.filter (·.ctx != ctx)
    engine := { k.engine with
      holder := if prim then none else k.engine.holder
      steepQ := k.engine.steepQ.filter (·.ctx != ctx)
      queue := k.engine.queue.filter (·.ctx != ctx)
      out := k.engine.out.filter (·.ctx != ctx)
      failed := k.engine.failed && !prim }
    retry := k.retry.filter (·.ctx != ctx)
    inboxes := Tab.erase k.inboxes ctx.toNat
    events := Tab.erase k.events ctx.toNat
    ring := if k.ring.any (·.ctx == ctx) then none else k.ring
    savedCaddy := k.savedCaddy.filter (· != ctx) }

/-- A core is rid of a torn-down context. The caddy keeps its bytes, DONE and MISSED among them (R320), until another context takes the core. -/
def State.forgetOn (s : State) (ctx : CtxId) (c : Coord) : State :=
  ((s.modCore c (·.forget ctx fun t => (s.thread t).ctx == ctx)).settleInboxes s c).fillSlots c

/-- CONTEXT_TEARDOWN (R393): the context's work and its state are discarded, without records or traps, and its ID is freed, for another context once
its translated accesses have been performed (R380; State.idFree). -/
def contextTeardown (s : State) (ctx : CtxId) : State :=
  match s.slotOf ctx with
  | none => s
  | some (p, _) =>
    let s := (s.net.filterMap (s.heldSend ctx)).foldl (fun s m => s.unlist m.dst m.ctx m.id) s
    let s := { s with
      net := s.net.filter fun k => !tornPacket s ctx k
      parks := s.parks.filter (·.ctx != ctx)
      pours := s.pours.filter (·.ctx != ctx)
      queues := Tab.mapVals (fun _ q => if q.ctx == ctx then { q with cfg := Word.setField q.cfg 5 1 0, head := q.tail } else q) s.queues
      rings := Tab.keep (fun k _ => k / 64 != ctx.toNat) s.rings
      stlb := Tab.mapVals (fun _ h => { h with full := h.full.filter (·.ctx != ctx) }) s.stlb
      walks := s.walks.filter (·.ctx != ctx)
      svcs := Tab.mapVals (fun _ l => l.filter fun t => (s.thread t).ctx != ctx || (s.thread t).osThread) s.svcs }
    let s := (s.partCores p).foldl (fun s c => s.forgetOn ctx c) s
    let s := { s with cores := Tab.mapVals (fun i k => if coreExists (BitVec.ofNat 9 i) then k else k.forget ctx fun _ => false) s.cores }
    let s := { s with threads := Tab.keep (fun _ x => x.ctx != ctx || x.osThread) s.threads }
    s.modCtx ctx fun x => { x with gone := true, halt := none, ranks := [] }

/-- CONTEXT_TEARDOWN (R393). -/
def execContextTeardown (ctx : CtxId) (s : State) : Host.Outcome State Fault Refusal := .next (contextTeardown s ctx)

end Sys2Proof.Machine
end

