-- ==== Sys2Proof/Machine/Int.lean ====
section
/-!
DEFINITION. Majors 0x01 to 0x06 (05_integer_instructions.md R98 to R113) and the compact words (03_encoding.md R61, R62).
-/

namespace Sys2Proof.Machine

/-- The body that writes one general register (R98). -/
def putG (s : State) (d : BitVec 5) (r : Word) : Body := .ok (s.setG d r)

/-- The body that writes one predicate (R98). -/
def putP (s : State) (d : BitVec 3) (r : Bool) : Body := .ok (s.setP d r)

/-- The shift amount y[5:0] (R101). -/
def shAmt (y : Word) : Nat := y.toNat % 64

/-- ROT: left, by n (R101). -/
def rotl (x : Word) (n : Nat) : Word := x <<< n ||| x >>> (64 - n)

/-- x where the test holds, else y (R101). -/
def choose (c : Bool) (x y : Word) : Word := if c then x else y

/-- MOVH: the low `sh` bits of ga under a sign-extended immediate (R104). -/
def movh (x imm : Word) (sh : Nat) : Word := BitVec.ofNat 64 (x.toNat % 2 ^ sh) + imm <<< sh

/-- The comparison that a cc code names (R106, R107). -/
def compareBits (cc : BitVec 3) (x y : Word) : Bool :=
  match cc.toNat with
  | 0 => x == y
  | 1 => x != y
  | 2 => x.slt y
  | 3 => !x.slt y
  | 4 => x.ult y
  | _ => !x.ult y

/-- The lowest bit of a field descriptor (R110). -/
def bfLo (y : Word) : Nat := Word.field y 0 6
/-- The width of a field descriptor, clipped at bit 63 (R110). -/
def bfWidth (y : Word) : Nat := min (Word.field y 8 7) (64 - bfLo y)

/-- BFXN (R110). -/
def bfxn (x y : Word) : Word := BitVec.ofNat 64 (x.toNat / 2 ^ bfLo y % 2 ^ bfWidth y)

/-- BFX: the field sign-extended from its top bit (R110). -/
def bfx (x y : Word) : Word :=
  let w := bfWidth y
  let f := (bfxn x y).toNat
  if w = 0 then 0 else if 2 ^ (w - 1) ≤ f then BitVec.ofInt 64 ((f : Int) - 2 ^ w) else BitVec.ofNat 64 f

/-- BFI: the low bits of ga over the field of gd (R110). -/
def bfi (old x y : Word) : Word :=
  let w := bfWidth y
  let m := BitVec.ofNat 64 ((2 ^ w - 1) * 2 ^ bfLo y)
  (old &&& ~~~ m) ||| BitVec.ofNat 64 (x.toNat % 2 ^ w * 2 ^ bfLo y)

/-- Zero bits above the highest one bit of the low `n` bits (R111). -/
def clzFrom (x : Word) : Nat → Nat
  | 0 => 0
  | n + 1 => if x.getLsbD n then 0 else 1 + clzFrom x n

/-- Zero bits below the lowest one bit, of the top `n` bits (R111). -/
def ctzFrom (x : Word) : Nat → Nat
  | 0 => 0
  | n + 1 => if x.getLsbD (63 - n) then 0 else 1 + ctzFrom x n

/-- One bits among the low `n` (R111). -/
def onesIn (x : Word) : Nat → Nat
  | 0 => 0
  | n + 1 => (if x.getLsbD n then 1 else 0) + onesIn x n

/-- DIV: toward zero, with the stated values at zero and overflow (R113). -/
def divS (x y : Word) : Word :=
  if y = 0 then BitVec.allOnes 64
  else if x.toInt = -2 ^ 63 && y.toInt = -1 then BitVec.ofInt 64 (-2 ^ 63)
  else BitVec.ofInt 64 (x.toInt.tdiv y.toInt)
/-- DIVN (R113). -/
def divU (x y : Word) : Word := if y = 0 then BitVec.allOnes 64 else BitVec.ofNat 64 (x.toNat / y.toNat)
/-- REM: the sign of the dividend (R113). -/
def remS (x y : Word) : Word :=
  if y = 0 then x
  else if x.toInt = -2 ^ 63 && y.toInt = -1 then 0
  else BitVec.ofInt 64 (x.toInt.tmod y.toInt)
/-- REMN (R113). -/
def remU (x y : Word) : Word := if y = 0 then x else BitVec.ofNat 64 (x.toNat % y.toNat)

/-! ## Major 0x01 (R101) -/

/-- ADD (R101). -/
def execAdd (g : BitVec 4) (d a b : BitVec 5) (s : State) := guarded g s (putG s d (s.g a + s.g b))
/-- SUB (R101). -/
def execSub (g : BitVec 4) (d a b : BitVec 5) (s : State) := guarded g s (putG s d (s.g a - s.g b))
/-- AND (R101). -/
def execAnd (g : BitVec 4) (d a b : BitVec 5) (s : State) := guarded g s (putG s d (s.g a &&& s.g b))
/-- OR (R101). -/
def execOr (g : BitVec 4) (d a b : BitVec 5) (s : State) := guarded g s (putG s d (s.g a ||| s.g b))
/-- XOR (R101). -/
def execXor (g : BitVec 4) (d a b : BitVec 5) (s : State) := guarded g s (putG s d (s.g a ^^^ s.g b))
/-- ANDN (R101). -/
def execAndn (g : BitVec 4) (d a b : BitVec 5) (s : State) := guarded g s (putG s d (s.g a &&& ~~~ s.g b))
/-- SHL (R101). -/
def execShl (g : BitVec 4) (d a b : BitVec 5) (s : State) := guarded g s (putG s d (s.g a <<< shAmt (s.g b)))
/-- SHR (R101). -/
def execShr (g : BitVec 4) (d a b : BitVec 5) (s : State) := guarded g s (putG s d (s.g a >>> shAmt (s.g b)))
/-- SRA (R101). -/
def execSra (g : BitVec 4) (d a b : BitVec 5) (s : State) := guarded g s (putG s d ((s.g a).sshiftRight (shAmt (s.g b))))
/-- ROT (R101). -/
def execRot (g : BitVec 4) (d a b : BitVec 5) (s : State) := guarded g s (putG s d (rotl (s.g a) (shAmt (s.g b))))
/-- MIN (R101). -/
def execMin (g : BitVec 4) (d a b : BitVec 5) (s : State) := guarded g s (putG s d (choose ((s.g a).slt (s.g b)) (s.g a) (s.g b)))
/-- MAX (R101). -/
def execMax (g : BitVec 4) (d a b : BitVec 5) (s : State) := guarded g s (putG s d (choose ((s.g b).slt (s.g a)) (s.g a) (s.g b)))
/-- MINN (R101). -/
def execMinn (g : BitVec 4) (d a b : BitVec 5) (s : State) := guarded g s (putG s d (choose ((s.g a).ult (s.g b)) (s.g a) (s.g b)))
/-- MAXN (R101). -/
def execMaxn (g : BitVec 4) (d a b : BitVec 5) (s : State) := guarded g s (putG s d (choose ((s.g b).ult (s.g a)) (s.g a) (s.g b)))
/-- MOV (R101). -/
def execMov (g : BitVec 4) (d a : BitVec 5) (s : State) := guarded g s (putG s d (s.g a))
/-- SEL (R101). -/
def execSel (g : BitVec 4) (d a b : BitVec 5) (p : BitVec 3) (s : State) :=
  guarded g s (putG s d (choose (s.self.getP p) (s.g a) (s.g b)))

/-! ## Major 0x02 (R103) -/

/-- ADDI (R103). -/
def execAddi (d a : BitVec 5) (imm : BitVec 12) (s : State) := finish 4 s (putG s d (s.g a + sext12 imm))
/-- ANDI (R103). -/
def execAndi (d a : BitVec 5) (imm : BitVec 12) (s : State) := finish 4 s (putG s d (s.g a &&& sext12 imm))
/-- ORI (R103). -/
def execOri (d a : BitVec 5) (imm : BitVec 12) (s : State) := finish 4 s (putG s d (s.g a ||| sext12 imm))
/-- XORI (R103). -/
def execXori (d a : BitVec 5) (imm : BitVec 12) (s : State) := finish 4 s (putG s d (s.g a ^^^ sext12 imm))
/-- SHLI (R103). -/
def execShli (d a : BitVec 5) (sh : BitVec 6) (s : State) := finish 4 s (putG s d (s.g a <<< sh.toNat))
/-- SHRI (R103). -/
def execShri (d a : BitVec 5) (sh : BitVec 6) (s : State) := finish 4 s (putG s d (s.g a >>> sh.toNat))
/-- SRAI (R103). -/
def execSrai (d a : BitVec 5) (sh : BitVec 6) (s : State) := finish 4 s (putG s d ((s.g a).sshiftRight sh.toNat))

/-! ## Major 0x03 (R104, R105) -/

/-- MOVH with sh 12 to 48 (R104). -/
def execMovh (d a : BitVec 5) (imm : BitVec 12) (sh : BitVec 2) (s : State) :=
  finish 4 s (putG s d (movh (s.g a) (sext12 imm) (12 * (sh.toNat + 1))))
/-- MOVH with sh 60 (R104). -/
def execMovh60 (d a : BitVec 5) (imm : BitVec 4) (s : State) := finish 4 s (putG s d (movh (s.g a) (imm.signExtend 64) 60))
/-- ADDPC: minor3 5, 6, 7 shift by 0, 12, 24 (R104, R105). -/
def execAddpc (d : BitVec 5) (imm : BitVec 12) (sh : BitVec 3) (s : State) :=
  finish 4 s (putG s d (s.pcWord + sext12 imm <<< (12 * (sh.toNat - 5))))

/-! ## Major 0x04 (R107, R108) -/

/-- CMP (R107). -/
def execCmp (d : BitVec 3) (a b : BitVec 5) (cc : BitVec 3) (s : State) := finish 4 s (putP s d (compareBits cc (s.g a) (s.g b)))
/-- CMPI: minor3 is the code plus 1 (R106, R107). -/
def execCmpi (d : BitVec 3) (a : BitVec 5) (imm : BitVec 12) (cc : BitVec 3) (s : State) :=
  finish 4 s (putP s d (compareBits (cc - 1) (s.g a) (sext12 imm)))
/-- PAND (R108). -/
def execPand (d a b : BitVec 3) (s : State) := finish 4 s (putP s d (s.self.getP a && s.self.getP b))
/-- POR (R108). -/
def execPor (d a b : BitVec 3) (s : State) := finish 4 s (putP s d (s.self.getP a || s.self.getP b))
/-- PXOR (R108). -/
def execPxor (d a b : BitVec 3) (s : State) := finish 4 s (putP s d (s.self.getP a != s.self.getP b))
/-- PNOT (R108). -/
def execPnot (d a : BitVec 3) (s : State) := finish 4 s (putP s d (!s.self.getP a))
/-- PMOV (R108). -/
def execPmov (d a : BitVec 3) (s : State) := finish 4 s (putP s d (s.self.getP a))

/-! ## Major 0x05 (R110, R111) -/

/-- BFX (R110). -/
def execBfx (g : BitVec 4) (d a b : BitVec 5) (s : State) := guarded g s (putG s d (bfx (s.g a) (s.g b)))
/-- BFXN (R110). -/
def execBfxn (g : BitVec 4) (d a b : BitVec 5) (s : State) := guarded g s (putG s d (bfxn (s.g a) (s.g b)))
/-- BFI (R110). -/
def execBfi (g : BitVec 4) (d a b : BitVec 5) (s : State) := guarded g s (putG s d (bfi (s.g d) (s.g a) (s.g b)))
/-- CLZ (R111). -/
def execClz (g : BitVec 4) (d a : BitVec 5) (s : State) := guarded g s (putG s d (BitVec.ofNat 64 (clzFrom (s.g a) 64)))
/-- CTZ (R111). -/
def execCtz (g : BitVec 4) (d a : BitVec 5) (s : State) := guarded g s (putG s d (BitVec.ofNat 64 (ctzFrom (s.g a) 64)))
/-- POPC (R111). -/
def execPopc (g : BitVec 4) (d a : BitVec 5) (s : State) := guarded g s (putG s d (BitVec.ofNat 64 (onesIn (s.g a) 64)))
/-- BREV (R111). -/
def execBrev (g : BitVec 4) (d a : BitVec 5) (s : State) := guarded g s (putG s d ((s.g a).reverse))

/-! ## Major 0x06 (R113) -/

/-- MUL (R113). -/
def execMul (g : BitVec 4) (d a b : BitVec 5) (s : State) := guarded g s (putG s d (s.g a * s.g b))
/-- MULH (R113). -/
def execMulh (g : BitVec 4) (d a b : BitVec 5) (s : State) := guarded g s (putG s d (BitVec.ofInt 64 ((s.g a).toInt * (s.g b).toInt / 2 ^ 64)))
/-- MULHN (R113). -/
def execMulhn (g : BitVec 4) (d a b : BitVec 5) (s : State) := guarded g s (putG s d (BitVec.ofNat 64 ((s.g a).toNat * (s.g b).toNat / 2 ^ 64)))
/-- DIV (R113). -/
def execDiv (g : BitVec 4) (d a b : BitVec 5) (s : State) := guarded g s (putG s d (divS (s.g a) (s.g b)))
/-- DIVN (R113). -/
def execDivn (g : BitVec 4) (d a b : BitVec 5) (s : State) := guarded g s (putG s d (divU (s.g a) (s.g b)))
/-- REM (R113). -/
def execRem (g : BitVec 4) (d a b : BitVec 5) (s : State) := guarded g s (putG s d (remS (s.g a) (s.g b)))
/-- REMN (R113). -/
def execRemn (g : BitVec 4) (d a b : BitVec 5) (s : State) := guarded g s (putG s d (remU (s.g a) (s.g b)))

/-! ## Compact words: the effect of the 32-bit equivalent with guard 0, the PC advancing by 2 (R61, R62) -/

/-- C.MOV (R61). -/
def execCMov (d a : BitVec 5) (s : State) := finish 2 s (putG s d (s.g a))
/-- C.ADD (R61). -/
def execCAdd (d a : BitVec 5) (s : State) := finish 2 s (putG s d (s.g d + s.g a))
/-- C.SUB (R61). -/
def execCSub (d a : BitVec 5) (s : State) := finish 2 s (putG s d (s.g d - s.g a))
/-- C.AND (R61). -/
def execCAnd (d a : BitVec 5) (s : State) := finish 2 s (putG s d (s.g d &&& s.g a))
/-- C.OR (R61). -/
def execCOr (d a : BitVec 5) (s : State) := finish 2 s (putG s d (s.g d ||| s.g a))
/-- C.XOR (R61). -/
def execCXor (d a : BitVec 5) (s : State) := finish 2 s (putG s d (s.g d ^^^ s.g a))
/-- C.ADDI (R61). -/
def execCAddi (d : BitVec 5) (imm : BitVec 6) (s : State) := finish 2 s (putG s d (s.g d + imm.signExtend 64))
/-- C.LI (R61). -/
def execCLi (d : BitVec 5) (imm : BitVec 6) (s : State) := finish 2 s (putG s d (imm.signExtend 64))
/-- C.SHLI (R61). -/
def execCShli (d : BitVec 5) (sh : BitVec 6) (s : State) := finish 2 s (putG s d (s.g d <<< sh.toNat))
/-- C.LD: LD.D at offset 8 × s (R61). -/
def execCLd (d a : BitVec 5) (sc : BitVec 1) (s : State) := finish 2 s (loadBody s 2 d a (8 * sc.setWidth 12) 8 false)
/-- C.ST: ST.D at offset 8 × s (R61). -/
def execCSt (t a : BitVec 5) (sc : BitVec 1) (s : State) := finish 2 s (storeBody s t a (8 * sc.setWidth 12) 8)
/-- C.BR (R61). -/
def execCBr (off : BitVec 11) (s : State) := finish 2 s (branchBody s true (off.signExtend 64))
/-- C.RET (R61). -/
def execCRet (s : State) := finish 2 s (retBody s 2)
/-- C.WAITC: WAITC 0, 0, 0, 0, 0 (R61). -/
def execCWaitc (s : State) := finish 2 s (waitcBody s 0 0 0 0 0)
/-- C.NOP (R61). -/
def execCNop (s : State) := finish 2 s (.ok s)

end Sys2Proof.Machine
end

