-- ==== Sys2Proof/Machine/Reset.lean ====
section
/-!
DEFINITION. Link failures and the viral state, resets, scrubbing, power, and what agents outside the device do to its memory (22_errors_and_resets.md
R395 to R405; 19 R349, R350; 13 R260; 9 R204; 11 R241; 20 R361, R362, R367, R368).
-/

namespace Sys2Proof.Machine

/-! ## Link failures (R399 to R401) -/

/-- The device has the link: 4 CXL ports and 24 pod links (R31). -/
def linkExists (kind : LinkKind) (port : BitVec 5) : Bool :=
  match kind with
  | .host => port.toNat < 4
  | .pod => port.toNat < 24
  | .ucie => true

/-- A link fails: the device becomes viral; the status word keeps the first failure, and MULTI says that a further link failed (R399, R401). -/
def State.linkFailed (s : State) (src : Nat) (kind : LinkKind) (port : BitVec 5) (ld : BitVec 4) : State :=
  if !linkExists kind port then s
  else
  let v := s.viral
  let again := v.down.contains (kind, port)
  let v := { v with down := if again then v.down else v.down ++ [(kind, port)] }
  { s with viral := if v.on then { v with multi := v.multi || !again } else { v with on := true, src, port, ld } }

/-- CXL_LINK_DOWN: a CXL port leaves the link-up state; `restart` says that its host warm-restarted (R399). -/
def execCxlLinkDown (port : BitVec 5) (ld : BitVec 4) (restart : Bool) (s : State) : Host.Outcome State Fault Refusal :=
  .next (s.linkFailed (if restart then 2 else 1) .host port ld)

/-- POD_LINK_DOWN (R399). -/
def execPodLinkDown (port : BitVec 5) (s : State) : Host.Outcome State Fault Refusal := .next (s.linkFailed 4 .pod port 0)

/-- HOST_REQUEST_TIMEOUT (R399). -/
def execHostRequestTimeout (port : BitVec 5) (ld : BitVec 4) (s : State) : Host.Outcome State Fault Refusal :=
  .next (s.linkFailed 3 .host port ld)

/-- POD_REQUEST_TIMEOUT (R399). -/
def execPodRequestTimeout (port : BitVec 5) (s : State) : Host.Outcome State Fault Refusal := .next (s.linkFailed 5 .pod port 0)

/-- LINK_RETRY_EXHAUSTED (R395, R399). -/
def execLinkRetryExhausted (kind : LinkKind) (port : BitVec 5) (s : State) : Host.Outcome State Fault Refusal :=
  .next (s.linkFailed 6 kind port 0)

/-- LINK_UP: the link is no longer down; the device stays viral until a reset (R400, R403). -/
def linkUp (s : State) (kind : LinkKind) (port : BitVec 5) : State :=
  { s with viral := { s.viral with down := s.viral.down.filter (· != (kind, port)) } }

/-- LINK_UP (R403). -/
def execLinkUp (kind : LinkKind) (port : BitVec 5) (s : State) : Host.Outcome State Fault Refusal := .next (linkUp s kind port)

/-! ## Agents outside the device (R204, R241, R260, R349, R350) -/

/-- An answer to an outside agent. -/
def State.answer (s : State) (a : Answer) : State := { s with answers := s.answers ++ [a] }

/-- A partition is bound to a logical device (R348, R354). -/
def State.boundTo (s : State) (p : Nat) (ld : Nat) : Bool := Word.field ((s.part p).field 0x18) 0 4 == ld

/-- An outside agent's access to a doubleword of HBM, at its home (R204). -/
def State.outsideAccess (s : State) (pa : Nat) (write : Bool) (x : Word) : Word × State :=
  let a := pa / 8 * 8
  if write then (0, s.putOutside a x) else (s.word a, (s.requestLine (a / 64) none true).outsideLine a 8 false)

/-- A host's access is refused: a read gives zeros, a write is dropped, and the count of its logical device adds one (R349). -/
def State.hostRefused (s : State) (ld : Nat) (write : Bool) : State :=
  State.answer { s with ldRefusals := Tab.set s.ldRefusals ld (Tab.get s.ldRefusals 0 ld + 1) }
    (if write then .hostWritten s.viral.on else .hostRead 0 s.viral.on)

/-- A queue control block is exposed to a logical device through the one function to which the queue is assigned (R348). -/
def State.exposed (s : State) (q ld : Nat) : Bool := Config.functionDevice (s.queue q).vf == ld

/-- A host's read of the configuration space of its logical device: the two status words, its own refusal count, and the control blocks that its
functions expose (R249, R349, R363, R401). -/
def State.hostCfgRead (s : State) (ld pa : Nat) : Option Word :=
  match cfgPlace pa with
  | .security => some s.secWord
  | .viral => some s.viralWord
  | .ldRefusals d => if d = ld then some (s.cfgRead pa) else none
  | .queue q _ => if s.exposed q ld then some (s.cfgRead pa) else none
  | _ => none

/-- HOST_CXL_MEM_ACCESS: served at the home slice or refused by the ownership table; it wakes a sleeping partition. In D3hot and in recovery
mode memory gives no answer (R349, R361, R368, R400). An address of the configuration space stands for the register there, which answers in every
state (R363, R368, R401, log entry 74). -/
def hostCxlMemAccess (s : State) (ld : Nat) (pa : Nat) (write : Bool) (x : Word) : State :=
  match cfgPlace pa, (if write then none else s.hostCfgRead ld pa) with
  | _, some y => s.answer (.hostRead y s.viral.on)
  | .queue q o, none =>
    if write && s.awake && s.exposed q ld then (s.queueWrite q o 1 x).answer (.hostWritten s.viral.on) else s.hostRefused ld write
  | _, none =>
  if !s.awake then s
  else
    let ok := match s.ownerOf pa with
      | some p => if s.boundTo p ld then some p else none
      | none => none
    match ok with
    | some p =>
      let s := if (s.part p).asleep then s.wakePart p else s
      let (y, s) := s.outsideAccess pa write x
      s.answer (if write then .hostWritten s.viral.on else .hostRead y s.viral.on)
    | none => s.hostRefused ld write

/-- HOST_CXL_MEM_ACCESS (R349). -/
def execHostCxlMemAccess (ld : BitVec 4) (pa : BitVec 52) (write : Bool) (x : Word) (s : State) : Host.Outcome State Fault Refusal :=
  .next (hostCxlMemAccess s ld.toNat pa.toNat write x)

/-- The fields of an access-control entry; the spec gives no layout (R260, R350, log entry 33). -/
def aclNode (e : Word) : Nat := Word.field e 0 8
/-- The first queue. -/
def aclLo (e : Word) : Nat := Word.field e 8 9
/-- The last queue. -/
def aclHi (e : Word) : Nat := Word.field e 17 9
/-- LAUNCH. -/
def aclLaunch (e : Word) : Bool := e.getLsbD 26
/-- STATUS. -/
def aclStatus (e : Word) : Bool := e.getLsbD 27
/-- The target partition. -/
def aclPart (e : Word) : Nat := Word.field e 28 6
/-- MEMR. -/
def aclMemR (e : Word) : Bool := e.getLsbD 34
/-- MEMW. -/
def aclMemW (e : Word) : Bool := e.getLsbD 35
/-- The entry is configured. -/
def aclValid (e : Word) : Bool := e.getLsbD 63

/-- The lowest-numbered configured entry that a test matches. -/
def State.aclFind (s : State) (f : Word → Bool) : Option Word := (s.peerAcl.find? fun e => aclValid e.2 && f e.2).map (·.2)

/-- PEER_QUEUE_WRITE: a peer's packet or TAIL write, or its read of QHEAD, QLATE or QREJ, permitted by the lowest entry that matches node and
queue, or refused (R260). A sleeping partition's slices take no packet word, and a device that is not awake does not answer (R361, R368). A permitted packet
word that lies past the ring or has no place is refused too (DESIGN CHOICE, log entry 88). -/
def peerQueueWrite (s : State) (node q : Nat) (w : PeerWrite) : State :=
  if !s.awake then s
  else match s.aclFind fun e => aclNode e == node && aclLo e ≤ q && q ≤ aclHi e with
  | none => s.answer .peerNack
  | some e =>
    let allowed := match w with
      | .status off => aclStatus e && (off == 0x18 || off == 0x20 || off == 0x28)
      | _ => aclLaunch e
    if !allowed || 384 ≤ q then s.answer .peerNack
    else match w with
      | .status off => s.answer (.peerRead (s.queueWord q off))
      | .tail t => (s.queueWrite q 0x10 1 (t.setWidth 64)).answer .peerAck
      | .packetWord off x =>
        let k := s.queue q
        let va := k.base + BitVec.ofNat 64 (off / 8 * 8)
        if 128 * k.size ≤ off then s.answer .peerNack
        else match s.queuePlace k.ctx .store va with
          | none => s.answer .peerNack
          | some t =>
            if s.homeAsleep t.home then s.answer .peerNack
            else ((s.queueWalk k.ctx va 8).writeAt (queueAccess k.ctx va 8 t) (leBytes 8 x.toNat)).answer .peerAck

/-- PEER_QUEUE_WRITE (R260). -/
def execPeerQueueWrite (node : BitVec 8) (q : Nat) (w : PeerWrite) (s : State) : Host.Outcome State Fault Refusal :=
  .next (peerQueueWrite s node.toNat q w)

/-- POD_MEMORY_ACCESS: a peer's access to this device's memory is checked against the access-control table, then against the ownership table for
the entry's partition (R350). A device that is not awake does not answer (R361, R368). -/
def podMemoryAccess (s : State) (node part pa : Nat) (write : Bool) (x : Word) : State :=
  if !s.awake then s
  else match s.aclFind fun e => aclNode e == node && aclPart e == part with
  | none => s.answer .peerNack
  | some e =>
    if !(if write then aclMemW e else aclMemR e) || s.ownerOf pa ≠ some part || (s.part part).asleep then s.answer .peerNack
    else
      let (y, s) := s.outsideAccess pa write x
      s.answer (if write then .peerAck else .peerRead y)

/-- POD_MEMORY_ACCESS (R350). -/
def execPodMemoryAccess (node : BitVec 8) (part : BitVec 6) (pa : BitVec 52) (write : Bool) (x : Word) (s : State) :
    Host.Outcome State Fault Refusal := .next (podMemoryAccess s node.toNat part.toNat pa.toNat write x)

/-- CXL_CACHE_SNOOP: a host asks for a line of its memory that the device caches; a core that owns it gives it up first. A dirty line of a viral
device is not written back: it stays (R204, R400). A device that is not awake does not answer (R361, R368). -/
def cxlCacheSnoop (s : State) (line : Nat) (invalidate : Bool) : State :=
  if !s.awake then s
  else if !s.hostLines.contains line then s.answer (.snoop [])
  else if s.viral.on && s.hostDirty.any (·.1 == line) then s
  else
    let bs := s.bytes (64 * line) 64
    let s := s.requestLine line none true
    let s := { s with hostDirty := s.hostDirty.filter (·.1 != line) }
    let s := if invalidate then
        { s with hostLines := s.hostLines.filter (· != line), mem := Memory.clear s.mem (64 * line) (64 * line + 64) }
      else s
    s.answer (.snoop bs)

/-- CXL_CACHE_SNOOP (R204). -/
def execCxlCacheSnoop (line : BitVec 52) (invalidate : Bool) (s : State) : Host.Outcome State Fault Refusal :=
  .next (cxlCacheSnoop s line.toNat invalidate)

/-- POD_GBAR_ARRIVAL: a peer's arrival at a POD ID of a context (R241). -/
def podGbarArrival (s : State) (ctx : CtxId) (id : Nat) : State :=
  let n := s.gbarCount ctx 4 id
  if n = 0 then s
  else
    let key := gbarKey ctx 4 id 0
    s.gbarArrive key n false

/-- POD_GBAR_ARRIVAL (R241). -/
def execPodGbarArrival (ctx : CtxId) (id : BitVec 6) (s : State) : Host.Outcome State Fault Refusal := .next (podGbarArrival s ctx id.toNat)

/-! ## Scrubbing (R395 to R398) -/

/-- A unit has an error that nothing has read yet. -/
def State.seedError (s : State) (row : Nat) (unit : Coord) (loc : Nat) : ErrKind → State
  | .none => s
  | .correctable =>
    if s.softUnits.contains (unitAt row unit loc) then s else { s with softUnits := s.softUnits ++ [unitAt row unit loc] }
  | .uncorrectable => s.markBad row unit loc

/-- SCRUB: what a scrub finds in a protected unit, that stood there or came with `err`, is corrected and counted, or logged; no context halts (R395 to
R397). -/
def scrub (s : State) (row : Nat) (unit : Coord) (loc : Nat) (err : ErrKind) : State :=
  if row = 0 || 10 < row then s else (s.seedError row unit loc err).noticeErrors row unit loc 1

/-- SCRUB (R395). -/
def execScrub (row : Nat) (unit : Coord) (loc : Nat) (err : ErrKind) (s : State) : Host.Outcome State Fault Refusal :=
  .next (scrub s row unit loc err)

/-! ## Power (R362, R367, R368) -/

/-- A request register of power reads DONE again. -/
def State.powerDone (s : State) (p : Nat) : State := s.modPart p fun b => { b with powerReq := none }

/-- A core gives up every line that it owns; its changed words reach their homes first (log entry 88). -/
def State.disown (s : State) (c : Coord) : State :=
  let s := s.writeBackLines c fun _ => true
  { s with regions := s.regions.filter (·.core != c) }

/-- POWER_GATE_CORE: only for a core of the partition that is switched in to no context; its caddy, caches and TLB are lost (R368). -/
def powerGateCore (s : State) (p : Nat) (c : Coord) : State :=
  let k := s.coreAt c
  if !s.awake then s
  else if !s.coreIn p c || !k.ctxs.isEmpty then s.powerDone p
  else
    let s := (s.disown c).modCore c fun k => { k with l1 := [], icache := [], loops := [], tlb := [], powerGated := true }
    (s.clearCaddy c).powerDone p

/-- POWER_GATE_CORE (R368). -/
def execPowerGateCore (part : BitVec 6) (c : Coord) (s : State) : Host.Outcome State Fault Refusal := .next (powerGateCore s part.toNat c)

/-- POWER_WAKE_CORE (R368): a core of a sleeping partition stays gated. -/
def powerWakeCore (s : State) (p : Nat) (c : Coord) : State :=
  if !s.awake then s
  else if !s.coreIn p c || (s.part p).asleep then s.powerDone p
  else (s.modCore c fun k => { k with powerGated := false }).powerDone p

/-- POWER_WAKE_CORE (R368). -/
def execPowerWakeCore (part : BitVec 6) (c : Coord) (s : State) : Host.Outcome State Fault Refusal := .next (powerWakeCore s part.toNat c)

/-- A partition is being debugged (R369). -/
def State.debugged (s : State) (p : Nat) : Bool := s.sec.debugState == 1 && s.sec.dpart.toNat == p

/-- PARTITION_SLEEP: possible once every core of the partition is power-gated, and refused while it is debugged (R368, R369). -/
def partitionSleep (s : State) (p : Nat) : State :=
  if !s.awake then s
  else if (s.partCores p).all (fun c => (s.coreAt c).powerGated) && !s.debugged p then
    (s.modPart p fun b => { b with asleep := true }).powerDone p
  else s.powerDone p

/-- PARTITION_SLEEP (R368). -/
def execPartitionSleep (part : BitVec 6) (s : State) : Host.Outcome State Fault Refusal := .next (partitionSleep s part.toNat)

/-- PARTITION_WAKE (R368). -/
def partitionWake (s : State) (p : Nat) : State := if !s.awake then s else (s.wakePart p).powerDone p

/-- PARTITION_WAKE (R368). -/
def execPartitionWake (part : BitVec 6) (s : State) : Host.Outcome State Fault Refusal := .next (partitionWake s part.toNat)

/-- A partition has granules. -/
def Part.exists_ (b : Part) : Bool := b.field 8 != 0

/-- D3HOT_ENTRY: only when every partition sleeps; refused in DBG.PART, whose partition cannot (R368, R369). -/
def d3hotEntry (s : State) : State :=
  if (s.parts.all fun e => !e.2.exists_ || e.2.asleep) && s.sec.debugState != 1 && !s.sec.recovery then { s with sec := { s.sec with d3hot := true } } else s

/-- D3HOT_ENTRY (R368). -/
def execD3hotEntry (s : State) : Host.Outcome State Fault Refusal := .next (d3hotEntry s)

/-- D3HOT_EXIT (R368). -/
def execD3hotExit (s : State) : Host.Outcome State Fault Refusal := .next { s with sec := { s.sec with d3hot := false } }

/-- A core has nothing to do: no runnable thread, no busy engine, no pending arrival (R368). -/
def State.idleCore (s : State) (c : Coord) : Bool :=
  let k := s.coreAt c
  (s.threads.all fun e => e.2.core != c || !(e.2.runnable || (e.2.inSlot.isSome && e.2.park.isNone))) &&
    (k.engine.steepQ ++ k.engine.queue).isEmpty && k.chans.toList.all (·.copies.isEmpty) &&
    k.inboxes.all fun i => !k.ctxs.any (·.toNat == i.1) || i.2.entries.all (·.kind != 2)

/-- CORE_CLOCK_GATE: an idle core gates its clock; an arrival ends it (R368). -/
def coreClockGate (s : State) (c : Coord) : State :=
  if s.idleCore c && s.awake then s.modCore c fun k => { k with clockGated := true } else s

/-- CORE_CLOCK_GATE (R368). -/
def execCoreClockGate (c : Coord) (s : State) : Host.Outcome State Fault Refusal := .next (coreClockGate s c)

/-- THERMAL_THROTTLE: the level falls by one, towards P3, and THROTTLE is set (R367). -/
def thermalThrottle (s : State) : State :=
  { s with sec := { s.sec with plevel := if s.sec.plevel = 3 then 3 else s.sec.plevel + 1, throttle := true } }

/-- THERMAL_THROTTLE (R367). -/
def execThermalThrottle (s : State) : Host.Outcome State Fault Refusal := .next (thermalThrottle s)

/-- FULL_SERVICE_START: first-light service ends, outside recovery mode (R362). -/
def fullServiceStart (s : State) : State := if s.sec.recovery then s else { s with sec := { s.sec with firstLight := false } }

/-- FULL_SERVICE_START (R362). -/
def execFullServiceStart (s : State) : Host.Outcome State Fault Refusal := .next (fullServiceStart s)

/-! ## Resets (R402 to R405) -/

/-- VF_RESET: the control blocks of a virtual function's queues are cleared, and their unaccepted packets with them (R405). -/
def vfReset (s : State) (vf : BitVec 9) : State :=
  { s with queues := Tab.mapVals (fun _ q => if q.vf == some vf then { vf := q.vf } else q) s.queues }

/-- VF_RESET (R405). -/
def execVfReset (vf : BitVec 9) (s : State) : Host.Outcome State Fault Refusal := .next (vfReset s vf)

/-- A partition reset that was requested has been carried out; one of the device may still be wanted. -/
def State.resetDone (s : State) (p : Nat) : State :=
  s.modPart p fun b => { b with resetReq := if b.resetReq.any (·.getLsbD 1) then some 2 else none }

/-- What a partition's core is after a partition reset: cleared, its power state apart (R402, R404). -/
def State.clearCore (s : State) (c : Coord) : State :=
  (s.modCore c fun k => { powerGated := k.powerGated, clockGated := k.clockGated }).clearCaddy c

/-- A packet of some contexts: their accesses and what answers them, their partials, sends and moving threads. -/
def State.tornPacketOf (s : State) (ctxs : List CtxId) (p : Packet) : Bool :=
  let mine (t : Nat) : Bool := (Tab.find s.threads t).isSome && ctxs.contains (s.thread t).ctx
  match p with
  | .red r => ctxs.contains r.ctx
  | .send m | .held m | .sendReply m _ => ctxs.contains m.sctx
  | .clean a _ => ctxs.contains a.ctx
  | .loadReply t _ _ _ | .loadRefused t _ _ _ | .ack t _ | .storeRefused t _ _ _ _ | .move t _ _ _ => mine t
  | p => p.accesses.any fun a => ctxs.contains a.ctx

/-- The slices of some cores write their dirty lines to HBM and are cleared, with the errors that stand in them (R397, R404). -/
def State.clearSlices (s : State) (cs : List Coord) : State :=
  let mine (k : Nat) : Bool := cs.any (·.toNat == k)
  let lines := (s.l2.filter fun e => mine e.1).flatMap (·.2)
  let s := (lines.filter (·.dirty)).foldl (fun s l => if s.badIn 2 0 (64 * l.line) 64 then s.noticeErrors 2 0 (64 * l.line) 64 else s.writeBack l.line) s
  let s := lines.foldl (fun s l => (s.mend 2 0 (64 * l.line) 64).mend 3 0 (64 * l.line) 64) s
  { s with l2 := Tab.keep (fun k _ => !mine k) s.l2 }

/-- PARTITION_RESET (R404): its contexts are torn down and their packets discarded wherever they stand, its slices, cores, caddies, TLBs, barrier IDs,
rank tables and class metadata cleared; the granules stay its own. DBG.PART of the partition ends (R364). -/
def partitionReset (s : State) (p : Nat) : State :=
  let ctxs := (s.part p).slots.map fun sl => (BitVec.ofNat 16 (Word.field sl.2 0 16) : CtxId)
  let cs := s.partCores p
  let gone := s.net.filter (s.tornPacketOf ctxs)
  let s := ctxs.foldl contextTeardown s
  let s := cs.foldl State.disown { s with net := s.net.filter fun k => !gone.contains k }
  let s := s.clearSlices cs
  let s := cs.foldl State.clearCore s
  let own (pa : Nat) : Bool := s.ownerOf pa == some p
  let s := { s with
    regions := s.regions.filter fun r => !cs.contains r.core
    gbars := Tab.keep (fun k _ => !ctxs.any (·.toNat == k / 768)) s.gbars
    nextKey := Tab.keep (fun line _ => !own (64 * line)) s.nextKey
    detRec := Tab.keep (fun w _ => !own (8 * w)) s.detRec
    stlb := Tab.mapVals (fun _ h => { h with two := h.two.filter (·.part != p) }) s.stlb
    badUnits := s.badUnits.filter fun u => u.1 ≤ 3 || !cs.any (·.toNat == u.2.1)
    softUnits := s.softUnits.filter fun u => u.1 ≤ 3 || !cs.any (·.toNat == u.2.1)
    sec := if s.debugged p then { s.sec with debugState := 0, dpart := 0 } else s.sec }
  s.resetDone p

/-- PARTITION_RESET (R404). -/
def execPartitionReset (part : BitVec 6) (s : State) : Host.Outcome State Fault Refusal := .next (partitionReset s part.toNat)

/-- Every context that exists: partition, then slot. -/
def State.contexts (s : State) : List CtxId := s.parts.flatMap fun e => e.2.slots.map fun sl => BitVec.ofNat 16 (Word.field sl.2 0 16)

/-- A held external write is discarded: it is logged and its counter falls in the saved image, by the words that it counts; a copy's count fell when
the copy was stopped (R403). -/
def State.discardHeld (s : State) (h : HeldWrite) : State :=
  let s := s.logDiscard h.pa h.ctx
  if h.ctr == .cp then s else if h.group = 0 then s.countDown h.thread .st h.words else s.groupAck h.group 1

/-- What a core keeps of the reset of its die: what stands in memory. Its caddy is cleared, whether or not a context had it (R402, R403). -/
def State.resetCore (s : State) (c : Coord) : State :=
  let s := ((s.coreAt c).ctxs.foldl (fun s ctx => s.leaveCore ctx c) s).disown c
  (s.modCore c fun k => { retry := k.retry, inboxes := k.inboxes, savedConv := k.savedConv, savedCaddy := k.savedCaddy }).clearCaddy c

/-- POD phases that reached their counts while held arrivals of this device kept them from completing: once those are discarded, they complete, and
what arrived in excess belongs to later phases (R241, R400, R403). -/
def State.releaseGbars (s : State) : State :=
  let flip (key : Nat) (g : GBar) : GBar :=
    let n := if gbarScope key = 4 then s.gbarCount (BitVec.ofNat 16 (key / 768)) 4 (key % 64) else 0
    if n = 0 then g else { arrived := g.arrived % n, phase := g.phase != (g.arrived / n % 2 == 1) }
  { s with gbars := Tab.mapVals flip s.gbars }

/-- Nothing is in the mesh but what waits for a context to resume. -/
def State.meshQuiet (s : State) : Bool :=
  s.net.all fun p => match p with
    | .red _ | .held _ | .send _ | .move _ _ _ _ => true
    | _ => false

/-- HBM_PRESERVING_RESET: on the request every context takes a FORCED halt; when every stop record is written and what was under way is performed,
the saves are made, held writes are discarded and logged, and the dies, queue cores and links are reset (R402, R403). -/
def hbmPreservingReset (s : State) : State :=
  if !s.devReset then
    s.contexts.foldl (fun s ctx => if (s.ctxOf ctx).gone then s else s.haltCtx ctx { cause := 6, unit := none, kind := 0 }) { s with devReset := true }
  else if !(s.contexts.all fun ctx => (s.ctxOf ctx).gone || (s.ctxOf ctx).halt.any (·.complete)) || !s.meshQuiet then s
  else
    let s := (s.cores.map fun e => (BitVec.ofNat 9 e.1 : Coord)).foldl State.resetCore s
    let s := s.viral.held.foldl State.discardHeld s
    let s := s.viral.arrivals.foldl (fun s a => s.logDiscard (Config.arrivalAddress a.1.toNat a.2) a.1) s
    let s := s.hostDirty.foldl (fun s l => s.logDiscard (64 * l.1) l.2) s
    let s := s.releaseGbars
    let s := { s with mem := s.hostLines.foldl (fun m l => Memory.clear m (64 * l) (64 * l + 64)) s.mem }
    let s := s.clearSlices (s.l2.map fun e => BitVec.ofNat 9 e.1)
    { s with
      hostLines := []
      hostDirty := []
      regions := []
      stlb := []
      walks := []
      l2 := []
      group := []
      queues := Tab.mapVals (fun _ q => { q with cfg := Word.setField q.cfg 5 1 0 }) s.queues
      viral := { s.viral with on := false, src := 0, port := 0, ld := 0, multi := false, held := [], arrivals := [] }
      badUnits := s.badUnits.filter (·.1 ≤ 1)
      softUnits := s.softUnits.filter (·.1 ≤ 1)
      parts := Tab.mapVals (fun _ b => { b with resetReq := if b.resetReq.any (·.getLsbD 1) then none else b.resetReq }) s.parts
      devReset := false }

/-- HBM_PRESERVING_RESET (R403). -/
def execHbmPreservingReset (s : State) : Host.Outcome State Fault Refusal := .next (hbmPreservingReset s)

/-- COLD_RESET: everything is cleared but what does not depend on power: the firmware image and the lifecycle. Start-up measures its stages; an image
that fails verification leaves the device in recovery mode, where no more than the first stage has run (R359, R361, R363, R402). Firmware sets device
time (R30). -/
def coldReset (s : State) : State :=
  { State.reset with
    time := Config.startTime s.fresh
    sec := {
      lifecycle := s.sec.lifecycle
      image := s.sec.image
      imageValid := s.sec.imageValid
      recovery := !s.sec.imageValid
      measured := if s.sec.imageValid then startMeasured s.sec.image else (startMeasured s.sec.image).take 1 }
    answers := s.answers
    inputs := s.inputs
    sources := s.sources
    fresh := s.fresh }

/-- COLD_RESET (R402). -/
def execColdReset (s : State) : Host.Outcome State Fault Refusal := .next (coldReset s)

end Sys2Proof.Machine
end

