-- ==== Sys2Proof/Machine/Secure.lean ====
section
/-!
DEFINITION. The security engine (20_security_debug_power.md R359 to R369): measurements, the SPDM responder, debug tokens, debug requests,
firmware recovery and the lifecycle. The framing of SPDM messages is that of SPDM 1.3, which the spec does not repeat: an answer here names its
request, by its place in the list of R360, and holds the values that the spec gives it (log entry 34).
-/

namespace Sys2Proof.Machine

/-! ## Measurements (R359, R360) -/

/-- The raw value of index 0x10 (R359). -/
def State.stateMeasure (s : State) : List Byte :=
  [s.sec.lifecycle.setWidth 8, s.sec.debugState.setWidth 8,
    BitVec.ofNat 8 ((if s.sec.recovery then 1 else 0) + (if s.sec.firstLight then 2 else 0))]

/-- The value of a measurement index; none while it has not been written (R359, R360). -/
def State.measurement (s : State) (i : Nat) : Option (List Byte) :=
  if i = 0x10 then some s.stateMeasure else if 1 ≤ i && i ≤ 5 then Tab.find s.sec.measured i else none

/-- A measurement block in DMTF format: index, specification, size, type with the raw bit, value size, value. The field layout is that of SPDM 1.3,
which the spec names and does not repeat (R360, log entry 34). -/
def measurementBlock (i : Nat) (bs : List Byte) : List Byte :=
  [BitVec.ofNat 8 i, 1] ++ leBytes 2 (bs.length + 3) ++ [(Config.dmtfType i).setWidth 8 ||| (if i = 0x10 then 0x80 else 0)] ++ leBytes 2 bs.length ++ bs

/-- The block of an index; empty while the index has not been written. -/
def State.blockOf (s : State) (i : Nat) : List Byte := ((s.measurement i).map (measurementBlock i)).getD []

/-- The blocks of every index that has been written. -/
def State.allMeasurements (s : State) : List Byte := [1, 2, 3, 4, 5, 0x10].flatMap s.blockOf

/-! ## The SPDM responder (R360) -/

/-- ERROR code InvalidRequest. -/
def errInvalid : Nat := 1
/-- ERROR code UnsupportedRequest. -/
def errUnsupported : Nat := 7

/-- The responder hears a request: from a host port once index 1 is written, from a peer node where an entry of the access-control table grants it
STATUS, outside recovery mode (R360, R361). -/
def State.heard (s : State) (src : Option Byte) : Bool :=
  (Tab.find s.sec.measured 1).isSome && (match src with
    | none => true
    | some n => !s.sec.recovery && (s.aclFind fun e => aclNode e == n.toNat && aclStatus e).isSome)

/-- Where the request in hand comes from: a peer node, or none, a host port (R360, log entry 34). -/
def State.source (s : State) : Option Byte := s.sources.headD none

/-- The state that the request in hand finds: the next source belongs to the next request. -/
def State.nextRequest (s : State) : State := { s with sources := s.sources.tail }

/-- The responder answers a request that it hears. -/
def State.respond (s : State) (src : Option Byte) (a : Answer) : State := if s.heard src then s.answer a else s

/-- GET_VERSION: SPDM 1.3 (R360). -/
def execGetVersion (s : State) : Host.Outcome State Fault Refusal :=
  .next (s.nextRequest.respond s.source (.spdmVersion 1 3))
/-- GET_CAPABILITIES: neither mutual authentication nor pre-shared keys (R360). -/
def execGetCapabilities (s : State) : Host.Outcome State Fault Refusal :=
  .next (s.nextRequest.respond s.source (.spdmCapabilities false false))
/-- NEGOTIATE_ALGORITHMS (R360). -/
def execNegotiateAlgorithms (s : State) : Host.Outcome State Fault Refusal :=
  .next (s.nextRequest.respond s.source (.spdmAlgorithms [.ecdsaP384, .sha384, .secp384r1, .aes256Gcm, .spdm13KeySchedule]))
/-- GET_DIGESTS: the digest of the chain of slot 0 (R360). -/
def execGetDigests (s : State) : Host.Outcome State Fault Refusal :=
  .next (s.nextRequest.respond s.source (.spdm 4 (Config.sha384 Config.certificates)))

/-- GET_CERTIFICATE: slot 0 is the only slot (R360). -/
def getCertificate (s : State) (src : Option Byte) (slot : Nat) : State :=
  s.respond src (if slot = 0 then .spdm 5 Config.certificates else .spdmError errUnsupported)

/-- GET_CERTIFICATE (R360). -/
def execGetCertificate (slot : Nat) (s : State) : Host.Outcome State Fault Refusal :=
  .next (getCertificate s.nextRequest s.source slot)

/-- CHALLENGE: the digest of the chain and the measurements, signed with the device key over the nonce (R360). -/
def challenge (s : State) (src : Option Byte) (slot : Nat) (nonce : Word) : State :=
  let bs := Config.sha384 Config.certificates ++ s.allMeasurements
  s.respond src (if slot = 0 then .spdm 6 (bs ++ Config.deviceSign (wordBytes [nonce] ++ bs)) else .spdmError errUnsupported)

/-- CHALLENGE (R360). -/
def execChallenge (slot : Nat) (nonce : Word) (s : State) : Host.Outcome State Fault Refusal :=
  .next (challenge s.nextRequest s.source slot nonce)

/-- GET_MEASUREMENTS: one block, or with 0xFF every block; an index not yet written is absent (R360). -/
def getMeasurements (s : State) (src : Option Byte) (i : Nat) : State :=
  s.respond src (.spdm 7 (if i = 0xFF then s.allMeasurements else s.blockOf i))

/-- GET_MEASUREMENTS (R360). -/
def execGetMeasurements (index : Nat) (s : State) : Host.Outcome State Fault Refusal :=
  .next (getMeasurements s.nextRequest s.source index)

/-- KEY_EXCHANGE: a session begins (R360). -/
def keyExchange (s : State) (src : Option Byte) (share : Word) : State :=
  if !s.heard src then s
  else
    let x := Config.exchange s.fresh share
    State.answer { s with sec := { s.sec with session := some x, sessionOpen := false } } (.spdm 8 (wordBytes [x]))

/-- KEY_EXCHANGE (R360). -/
def execKeyExchange (share : Word) (s : State) : Host.Outcome State Fault Refusal :=
  .next (keyExchange s.nextRequest s.source share)

/-- FINISH: the session is established if its message authenticates (R360). -/
def finishSession (s : State) (src : Option Byte) (mac : Word) : State :=
  if !s.heard src then s
  else match s.sec.session with
  | none => s.answer (.spdmError errUnsupported)
  | some x =>
    if !s.sec.sessionOpen && Config.finishVerifies x mac then
      State.answer { s with sec := { s.sec with sessionOpen := true } } (.spdm 9 [])
    else s.answer (.spdmError errInvalid)

/-- FINISH (R360). -/
def execFinish (mac : Word) (s : State) : Host.Outcome State Fault Refusal :=
  .next (finishSession s.nextRequest s.source mac)

/-- END_SESSION (R360). -/
def endSession (s : State) (src : Option Byte) : State :=
  if !s.heard src then s
  else if s.sec.sessionOpen then State.answer { s with sec := { s.sec with session := none, sessionOpen := false } } (.spdm 10 [])
  else s.answer (.spdmError errUnsupported)

/-- END_SESSION (R360). -/
def execEndSession (s : State) : Host.Outcome State Fault Refusal := .next (endSession s.nextRequest s.source)

/-- SPDM_UNSUPPORTED_REQUEST (R360). -/
def execSpdmUnsupportedRequest (_code : Byte) (s : State) : Host.Outcome State Fault Refusal :=
  .next (s.nextRequest.respond s.source (.spdmError errUnsupported))

/-! ## Debug tokens (R364, R365) -/

/-- Every partition key is zeroised: what it encrypted can be read no more (R364, log entry 35). -/
def State.zeroiseKeys (s : State) : State :=
  { s.forgetBytes s.sealed with
    parts := Tab.mapVals (fun _ b => { b with key := none }) s.parts }

/-- Every partition is reset (R364). -/
def State.resetAll (s : State) : State := (s.parts.map (·.1)).foldl partitionReset s

/-- DBG.FULL is entered: keys, then resets, then the state (R364). -/
def State.enterFull (s : State) : State :=
  let s := s.zeroiseKeys.resetAll
  { s with sec := { s.sec with debugState := 2, dpart := 0 } }

/-- RMA is entered, after key zeroisation and partition reset (R369). -/
def State.enterRma (s : State) : State :=
  let s := s.zeroiseKeys.resetAll
  { s with sec := { s.sec with lifecycle := 2 } }

/-- A byte of a token. -/
def tokByte (tok : List Byte) (i : Nat) : Nat := (imgByte tok i).toNat

/-- A token passes the checks of R365 that do not depend on the target's transition: form, device, binding, signature. -/
def State.tokenOk (s : State) (tok : List Byte) (session : Word) : Bool :=
  let target := tokByte tok 1
  let part := tokByte tok 2
  let key := if target ≤ 1 then (s.part part).ownerKey else Config.debugAuthority
  tok.length == 200 && tokByte tok 0 == 1 && target ≤ 3 && (target ≤ 1 || part == 0) && ((tok.drop 3).take 5).all (· == 0) &&
    (tok.drop 8).take 48 == Config.sha384 Config.deviceKey && (tok.drop 0x38).take 48 == Config.transcript session &&
    ((target == 2 && s.sec.lifecycle != 1) || Config.verifies key (tok.take 0x68) (tok.drop 0x68))

/-- The transition that a token asks for, if its state permits it (R364, R369). DBG.PART of a sleeping partition wakes it, as it cannot sleep there, and
D3hot refuses it, as every partition sleeps there (log entry 77). -/
def State.tokenEffect (s : State) (target part : Nat) : Option State :=
  let x := s.sec
  match target with
  | 0 => if x.debugState = 1 && x.dpart.toNat = part then some { s with sec := { x with debugState := 0, dpart := 0 } } else none
  | 1 =>
    if x.lifecycle = 1 && x.debugState = 0 && !x.d3hot && part < 64 && (s.part part).exists_ then
      some { s.wakePart part with sec := { x with debugState := 1, dpart := BitVec.ofNat 6 part } }
    else none
  | 2 => if x.debugState = 2 then none else some s.enterFull
  | _ => if x.lifecycle = 1 then some s.enterRma else none

/-- A partition reset is in progress (R364, R404). -/
def State.resetting (s : State) : Bool := s.parts.any fun e => e.2.resetReq.any (·.getLsbD 0)

/-- An accepted token takes effect, and its response goes out (R364, R365). -/
def State.applyToken (s : State) (target part : Nat) : State :=
  match s.tokenEffect target part with
  | some s => s.answer (.spdm 11 [])
  | none => s.answer (.spdmError errInvalid)

/-- The tokens that waited for a partition reset take effect, in their order (R364). -/
def tokenDue (s : State) : State :=
  match s.sec.tokens with
  | [] => s
  | t :: ts => if s.resetting then s else State.applyToken { s with sec := { s.sec with tokens := ts } } t.1 t.2

/-- VENDOR_DEFINED_REQUEST: a debug token inside an established session (R360, R365). In recovery mode the engine accepts no token (R361). One that
arrives during a partition reset waits for its completion (R364). -/
def vendorDefinedRequest (s : State) (src : Option Byte) (inSession : Bool) (tok : List Byte) : State :=
  if !s.heard src then s
  else match (if inSession && s.sec.sessionOpen && !s.sec.recovery then s.sec.session else none) with
  | none => s.answer (.spdmError errUnsupported)
  | some x =>
    if !s.tokenOk tok x then s.answer (.spdmError errInvalid)
    else if s.resetting || !s.sec.tokens.isEmpty then
      { s with sec := { s.sec with tokens := s.sec.tokens ++ [(tokByte tok 1, tokByte tok 2)] } }
    else s.applyToken (tokByte tok 1) (tokByte tok 2)

/-- VENDOR_DEFINED_REQUEST (R365). -/
def execVendorDefinedRequest (inSession : Bool) (token : List Byte) (s : State) : Host.Outcome State Fault Refusal :=
  .next (vendorDefinedRequest s.nextRequest s.source inSession token)

/-! ## Lifecycle and firmware (R359, R361, R369) -/

/-- A partition that exists gets a key, with which its granules are encrypted from now on (R364, R369, log entry 77). -/
def State.keyPart (s : State) (p : Nat) : State :=
  if (s.part p).exists_ then s.modPart p fun b => { b with key := some (Config.partitionKey s.fresh p) } else s

/-- ENTER_DEPLOYED: the lifecycle moves forward from MANUFACTURE, and keys are in use from then on (R369); in DBG.FULL there are none (R364).
In recovery mode the engine accepts no such operation (R361). -/
def enterDeployed (s : State) : State :=
  if s.sec.lifecycle ≠ 0 || s.sec.recovery then s
  else
    let s := if s.sec.debugState = 2 then s else (s.parts.map (·.1)).foldl State.keyPart s
    { s with sec := { s.sec with lifecycle := 1 } }

/-- ENTER_DEPLOYED (R369). -/
def execEnterDeployed (s : State) : Host.Outcome State Fault Refusal := .next (enterDeployed s)

/-- RECOVERY_IMAGE_WRITE: in recovery mode a signed image is written, and the device resets (R361). -/
def recoveryImageWrite (s : State) (image : List Byte) : State :=
  if s.sec.recovery && Config.imageVerifies image then
    coldReset { s with sec := { s.sec with image := image, imageValid := true } }
  else s

/-- RECOVERY_IMAGE_WRITE (R361). -/
def execRecoveryImageWrite (image : List Byte) (s : State) : Host.Outcome State Fault Refusal := .next (recoveryImageWrite s image)

/-- POWER_LOSS: the device starts again from cold; an update cut short leaves an image that fails verification (R361). -/
def powerLoss (s : State) (duringUpdate : Bool) : State :=
  coldReset (if duringUpdate then { s with sec := { s.sec with imageValid := false } } else s)

/-- POWER_LOSS (R361). -/
def execPowerLoss (duringUpdate : Bool) (s : State) : Host.Outcome State Fault Refusal := .next (powerLoss s duringUpdate)

/-! ## Debug requests (R366, R369) -/

/-- The debugger reaches a partition: the one of DBG.PART, or any in DBG.FULL (R366, R369). -/
def State.reaches (s : State) (p : Nat) : Bool := s.awake && (s.sec.debugState == 2 || s.debugged p)

/-- The debugger reaches what belongs to a partition, or, in DBG.FULL, to none (R366, R369). -/
def State.reachesOf (s : State) (p : Option Nat) : Bool :=
  match p with
  | some p => s.reaches p
  | none => s.awake && s.sec.debugState == 2

/-- The partition of a core. -/
def State.partOfCore (s : State) (c : Coord) : Option Nat := (s.parts.find? fun e => s.coreIn e.1 c).map (·.1)

/-- The partition of a thread. -/
def State.partOfThread (s : State) (t : Nat) : Option Nat := (s.slotOf (s.thread t).ctx).map (·.1)

/-- Debug access to the slices of a partition wakes it (R369). -/
def State.wakeFor (s : State) (p : Option Nat) : State :=
  match p with
  | some p => s.wakePart p
  | none => s

/-- A request about a thread: performed, or refused where the debugger does not reach it. -/
def State.debugThread (s : State) (t : Nat) (f : Thread → Thread) : State :=
  if (Tab.find s.threads t).isSome && s.reachesOf (s.partOfThread t) then (s.modThread t f).answer (.debugDone 0)
  else s.answer .debugRefused

/-- The image of a thread as it stands: in memory while the thread is stopped, else its registers (R33, R366). A MSG.POP that is parked counts in LD
(R289). -/
def State.imageOf (s : State) (t : Nat) : List Byte :=
  let x := s.thread t
  match x.imagePa with
  | some a => s.bytes a 1024
  | none => (if x.park = some .inbox then { x with ld := min 63 (x.ld + 1) } else x).imageBytes

/-- A doubleword of a thread's image, or its replacement; the image of a stopped thread stands in the slices of its partition (R366, R369). -/
def State.debugImage (s : State) (t off : Nat) (w : Option Word) : State :=
  if (Tab.find s.threads t).isNone || !s.reachesOf (s.partOfThread t) || off % 8 ≠ 0 || 1024 ≤ off then s.answer .debugRefused
  else
    let s := if (s.thread t).imagePa.isSome then s.wakeFor (s.partOfThread t) else s
    match w with
    | none =>
      let read := match (s.thread t).imagePa with
        | some a => s.unitRead (s.partOf (s.thread t).ctx) (s.imagePlacement (s.thread t)) none (a + off) 8
        | none => s
      read.answer (.debugDone (imgWord (s.imageOf t) off))
    | some x => match (s.thread t).imagePa with
      | some a => (s.writeImage (s.thread t) a off (leBytes 8 x.toNat)).answer (.debugDone 0)
      | none =>
        let bs := (s.thread t).imageBytes
        (s.modThread t fun y => y.ofImage (bs.take off ++ leBytes 8 x.toNat ++ bs.drop (off + 8))).answer (.debugDone 0)

/-- A doubleword of a core's caddy; a power-gated core answers GATED (R366, R369). -/
def State.debugCaddy (s : State) (c : Coord) (off : Nat) (w : Option Word) : State :=
  if !s.reachesOf (s.partOfCore c) || !coreExists c || off % 8 ≠ 0 || 2 ^ 18 ≤ off then s.answer .debugRefused
  else if (s.coreAt c).powerGated then s.answer .debugGated
  else match w with
    | none => (s.noticeErrors 4 c off 8).answer (.debugDone (s.word (caddyKey c off)))
    | some x => (((s.putWord (caddyKey c off) x).mend 4 c off 8).breakConvene ((s.coreAt c).primary.getD 0) c off 8).answer (.debugDone 0)

/-- A doubleword of memory through the translations of a context, as PL.HYP (R366); it wakes a sleeping partition (R369). -/
def State.debugMem (s : State) (ctx : CtxId) (va : Word) (w : Option Word) : State :=
  match s.slotOf ctx with
  | none => s.answer .debugRefused
  | some (p, _) =>
    if !s.reaches p || isCaddy va || va.toNat % 8 ≠ 0 then s.answer .debugRefused
    else match s.translate { ctx, core := hwUnit, svc := true, pl := 2 } va (if w.isSome then .store else .load) with
      | .error _ => s.answer .debugRefused
      | .ok t =>
        if t.cls == .config || t.cls == .pod then s.answer .debugRefused
        else
          let s := s.wakeFor (some p)
          let a : Access := { queueAccess ctx va 8 t with pl := 2 }
          match w with
          | none => let (bs, s) := s.readAt a; s.answer (.debugDone (BitVec.ofNat 64 (leNat bs)))
          | some x => (s.writeAt a (leBytes 8 x.toNat)).answer (.debugDone 0)

/-- A doubleword of HBM, at its home slice, or of the configuration space, in DBG.FULL; only the latter answers in D3hot (R369). -/
def State.debugPhys (s : State) (pa : Nat) (w : Option Word) : State :=
  if s.sec.debugState ≠ 2 || s.sec.recovery || pa % 8 ≠ 0 then s.answer .debugRefused
  else if isHbm pa then
    if !s.awake then s.answer .debugRefused
    else
      let (y, s) := (s.wakeFor (s.ownerOf pa)).outsideAccess pa w.isSome (w.getD 0)
      s.answer (.debugDone y)
  else match cfgPlace pa, w with
    | .reserved, _ => s.answer .debugRefused
    | _, none => s.answer (.debugDone (s.cfgRead pa))
    | _, some x => (s.cfgWrite pa 3 x).answer (.debugDone 0)

/-- A FORCED halt of a context (R366, R381). -/
def State.debugHaltContext (s : State) (ctx : CtxId) : State :=
  if (s.slotOf ctx).isSome && s.reachesOf ((s.slotOf ctx).map (·.1)) then
    (s.haltCtx ctx { cause := 6, unit := none, kind := 0 }).answer (.debugDone 0)
  else s.answer .debugRefused

/-- DEBUG_REQUEST (R366, R369). -/
def debugRequest (s : State) (op : DebugOp) : State :=
  match op with
  | .enterFull => if s.sec.lifecycle ≠ 1 && s.sec.debugState ≠ 2 && s.awake then s.enterFull.answer (.debugDone 0) else s.answer .debugRefused
  | .halt t => s.debugThread t fun x => { x with debugHalt := true, debugStep := false }
  | .step t => s.debugThread t fun x => { x with debugStep := x.debugHalt }
  | .resume t => s.debugThread t fun x => { x with debugHalt := false, debugStep := false }
  | .readImage t off => s.debugImage t off none
  | .writeImage t off x => s.debugImage t off (some x)
  | .readCaddy c off => s.debugCaddy c off none
  | .writeCaddy c off x => s.debugCaddy c off (some x)
  | .readMem ctx va => s.debugMem ctx va none
  | .writeMem ctx va x => s.debugMem ctx va (some x)
  | .readPhys pa => s.debugPhys pa.toNat none
  | .writePhys pa x => s.debugPhys pa.toNat (some x)
  | .haltContext ctx => s.debugHaltContext ctx

/-- DEBUG_REQUEST (R366). -/
def execDebugRequest (op : DebugOp) (s : State) : Host.Outcome State Fault Refusal := .next (debugRequest s op)

end Sys2Proof.Machine
end

