-- ==== Sys2Proof/Machine/Dispatch.lean ====
section
/-!
DEFINITION. The meaning of every constructor of Instr: one direct call each.
-/

namespace Sys2Proof.Machine

def exec (i : Instr) (s : State) : Host.Outcome State Fault Refusal :=
  match i with
  | .add g d a b => Sys2Proof.Machine.execAdd g d a b s
  | .sub g d a b => Sys2Proof.Machine.execSub g d a b s
  | .and g d a b => Sys2Proof.Machine.execAnd g d a b s
  | .or g d a b => Sys2Proof.Machine.execOr g d a b s
  | .xor g d a b => Sys2Proof.Machine.execXor g d a b s
  | .andn g d a b => Sys2Proof.Machine.execAndn g d a b s
  | .shl g d a b => Sys2Proof.Machine.execShl g d a b s
  | .shr g d a b => Sys2Proof.Machine.execShr g d a b s
  | .sra g d a b => Sys2Proof.Machine.execSra g d a b s
  | .rot g d a b => Sys2Proof.Machine.execRot g d a b s
  | .min g d a b => Sys2Proof.Machine.execMin g d a b s
  | .max g d a b => Sys2Proof.Machine.execMax g d a b s
  | .minn g d a b => Sys2Proof.Machine.execMinn g d a b s
  | .maxn g d a b => Sys2Proof.Machine.execMaxn g d a b s
  | .mov g d a => Sys2Proof.Machine.execMov g d a s
  | .sel g d a b p => Sys2Proof.Machine.execSel g d a b p s
  | .addi d a imm => Sys2Proof.Machine.execAddi d a imm s
  | .andi d a imm => Sys2Proof.Machine.execAndi d a imm s
  | .ori d a imm => Sys2Proof.Machine.execOri d a imm s
  | .xori d a imm => Sys2Proof.Machine.execXori d a imm s
  | .shli d a sh => Sys2Proof.Machine.execShli d a sh s
  | .shri d a sh => Sys2Proof.Machine.execShri d a sh s
  | .srai d a sh => Sys2Proof.Machine.execSrai d a sh s
  | .movh d a imm sh => Sys2Proof.Machine.execMovh d a imm sh s
  | .movh60 d a imm => Sys2Proof.Machine.execMovh60 d a imm s
  | .addpc d imm sh => Sys2Proof.Machine.execAddpc d imm sh s
  | .cmp d a b cc => Sys2Proof.Machine.execCmp d a b cc s
  | .cmpi d a imm cc => Sys2Proof.Machine.execCmpi d a imm cc s
  | .pand d a b => Sys2Proof.Machine.execPand d a b s
  | .por d a b => Sys2Proof.Machine.execPor d a b s
  | .pxor d a b => Sys2Proof.Machine.execPxor d a b s
  | .pnot d a => Sys2Proof.Machine.execPnot d a s
  | .pmov d a => Sys2Proof.Machine.execPmov d a s
  | .bfx g d a b => Sys2Proof.Machine.execBfx g d a b s
  | .bfxn g d a b => Sys2Proof.Machine.execBfxn g d a b s
  | .bfi g d a b => Sys2Proof.Machine.execBfi g d a b s
  | .clz g d a => Sys2Proof.Machine.execClz g d a s
  | .ctz g d a => Sys2Proof.Machine.execCtz g d a s
  | .popc g d a => Sys2Proof.Machine.execPopc g d a s
  | .brev g d a => Sys2Proof.Machine.execBrev g d a s
  | .mul g d a b => Sys2Proof.Machine.execMul g d a b s
  | .mulh g d a b => Sys2Proof.Machine.execMulh g d a b s
  | .mulhn g d a b => Sys2Proof.Machine.execMulhn g d a b s
  | .div g d a b => Sys2Proof.Machine.execDiv g d a b s
  | .divn g d a b => Sys2Proof.Machine.execDivn g d a b s
  | .rem g d a b => Sys2Proof.Machine.execRem g d a b s
  | .remn g d a b => Sys2Proof.Machine.execRemn g d a b s
  | .brp p off neg => Sys2Proof.Machine.execBrp p off neg s
  | .jal off => Sys2Proof.Machine.execJal off s
  | .jalr a imm => Sys2Proof.Machine.execJalr a imm s
  | .jmp a imm => Sys2Proof.Machine.execJmp a imm s
  | .ret => Sys2Proof.Machine.execRet s
  | .loop a imm => Sys2Proof.Machine.execLoop a imm s
  | .nop => Sys2Proof.Machine.execNop s
  | .ldB t a imm => Sys2Proof.Machine.execLdB t a imm s
  | .ldH t a imm => Sys2Proof.Machine.execLdH t a imm s
  | .ldW t a imm => Sys2Proof.Machine.execLdW t a imm s
  | .ldD t a imm => Sys2Proof.Machine.execLdD t a imm s
  | .ldBN t a imm => Sys2Proof.Machine.execLdBN t a imm s
  | .ldHN t a imm => Sys2Proof.Machine.execLdHN t a imm s
  | .ldWN t a imm => Sys2Proof.Machine.execLdWN t a imm s
  | .stB t a imm => Sys2Proof.Machine.execStB t a imm s
  | .stH t a imm => Sys2Proof.Machine.execStH t a imm s
  | .stW t a imm => Sys2Proof.Machine.execStW t a imm s
  | .stD t a imm => Sys2Proof.Machine.execStD t a imm s
  | .ldAcq t a zx sz sc => Sys2Proof.Machine.execLdAcq t a zx sz sc s
  | .stRel t a sz sc => Sys2Proof.Machine.execStRel t a sz sc s
  | .fenceRel sc => Sys2Proof.Machine.execFenceRel sc s
  | .fenceAcq sc => Sys2Proof.Machine.execFenceAcq sc s
  | .fenceAr sc => Sys2Proof.Machine.execFenceAr sc s
  | .pref a imm l2 own => Sys2Proof.Machine.execPref a imm l2 own s
  | .discard a imm => Sys2Proof.Machine.execDiscard a imm s
  | .clean a imm depth => Sys2Proof.Machine.execClean a imm depth s
  | .invalD a imm => Sys2Proof.Machine.execInvalD a imm s
  | .invalI a imm => Sys2Proof.Machine.execInvalI a imm s
  | .amoAdd g d a b ord => Sys2Proof.Machine.execAmoAdd g d a b ord s
  | .amoAnd g d a b ord => Sys2Proof.Machine.execAmoAnd g d a b ord s
  | .amoOr g d a b ord => Sys2Proof.Machine.execAmoOr g d a b ord s
  | .amoXor g d a b ord => Sys2Proof.Machine.execAmoXor g d a b ord s
  | .amoMin g d a b ord => Sys2Proof.Machine.execAmoMin g d a b ord s
  | .amoMax g d a b ord => Sys2Proof.Machine.execAmoMax g d a b ord s
  | .amoMinn g d a b ord => Sys2Proof.Machine.execAmoMinn g d a b ord s
  | .amoMaxn g d a b ord => Sys2Proof.Machine.execAmoMaxn g d a b ord s
  | .amoSwap g d a b ord => Sys2Proof.Machine.execAmoSwap g d a b ord s
  | .amoCas g d a b ord => Sys2Proof.Machine.execAmoCas g d a b ord s
  | .amoFadd g d a b ord => Sys2Proof.Machine.execAmoFadd g d a b ord s
  | .vld t a off tag => Sys2Proof.Machine.execVld t a off tag s
  | .vst t a imm => Sys2Proof.Machine.execVst t a imm s
  | .vadd g d a b => Sys2Proof.Machine.execVadd g d a b s
  | .vsub g d a b => Sys2Proof.Machine.execVsub g d a b s
  | .vmul g d a b => Sys2Proof.Machine.execVmul g d a b s
  | .vdiv g d a b => Sys2Proof.Machine.execVdiv g d a b s
  | .vmin g d a b => Sys2Proof.Machine.execVmin g d a b s
  | .vmax g d a b => Sys2Proof.Machine.execVmax g d a b s
  | .vfma g d a b => Sys2Proof.Machine.execVfma g d a b s
  | .vfms g d a b => Sys2Proof.Machine.execVfms g d a b s
  | .vfnma g d a b => Sys2Proof.Machine.execVfnma g d a b s
  | .vfnms g d a b => Sys2Proof.Machine.execVfnms g d a b s
  | .vcmp g d a b cc => Sys2Proof.Machine.execVcmp g d a b cc s
  | .vabs g d a => Sys2Proof.Machine.execVabs g d a s
  | .vneg g d a => Sys2Proof.Machine.execVneg g d a s
  | .vsqrt g d a => Sys2Proof.Machine.execVsqrt g d a s
  | .vrcp g d a => Sys2Proof.Machine.execVrcp g d a s
  | .vrsq g d a => Sys2Proof.Machine.execVrsq g d a s
  | .vexp2 g d a => Sys2Proof.Machine.execVexp2 g d a s
  | .vlog2 g d a => Sys2Proof.Machine.execVlog2 g d a s
  | .viadd g d a b => Sys2Proof.Machine.execViadd g d a b s
  | .visub g d a b => Sys2Proof.Machine.execVisub g d a b s
  | .vimul g d a b => Sys2Proof.Machine.execVimul g d a b s
  | .vimac g d a b => Sys2Proof.Machine.execVimac g d a b s
  | .viaddS g d a b => Sys2Proof.Machine.execViaddS g d a b s
  | .visubS g d a b => Sys2Proof.Machine.execVisubS g d a b s
  | .vimulS g d a b => Sys2Proof.Machine.execVimulS g d a b s
  | .vimacS g d a b => Sys2Proof.Machine.execVimacS g d a b s
  | .vshl g d a b => Sys2Proof.Machine.execVshl g d a b s
  | .vshr g d a b => Sys2Proof.Machine.execVshr g d a b s
  | .vsra g d a b => Sys2Proof.Machine.execVsra g d a b s
  | .vand g d a b => Sys2Proof.Machine.execVand g d a b s
  | .vor g d a b => Sys2Proof.Machine.execVor g d a b s
  | .vxor g d a b => Sys2Proof.Machine.execVxor g d a b s
  | .vcvt g d a tag sat k => Sys2Proof.Machine.execVcvt g d a tag sat k s
  | .vqnt g d a b f => Sys2Proof.Machine.execVqnt g d a b f s
  | .vdeq g d a b f => Sys2Proof.Machine.execVdeq g d a b f s
  | .vdot g d a b => Sys2Proof.Machine.execVdot g d a b s
  | .vsplat g d a tag => Sys2Proof.Machine.execVsplat g d a tag s
  | .vmov g d a => Sys2Proof.Machine.execVmov g d a s
  | .vsel g d a b => Sys2Proof.Machine.execVsel g d a b s
  | .vshuf g d a b => Sys2Proof.Machine.execVshuf g d a b s
  | .vext g d a idx => Sys2Proof.Machine.execVext g d a idx s
  | .vins g d a idx => Sys2Proof.Machine.execVins g d a idx s
  | .vhsum g d a => Sys2Proof.Machine.execVhsum g d a s
  | .vhmax g d a => Sys2Proof.Machine.execVhmax g d a s
  | .mma a b c => Sys2Proof.Machine.execMma a b c s
  | .mmaL a b c => Sys2Proof.Machine.execMmaL a b c s
  | .mmaSp8 a b c => Sys2Proof.Machine.execMmaSp8 a b c s
  | .mmaSp16 a b c => Sys2Proof.Machine.execMmaSp16 a b c s
  | .mmaSp32 a b c => Sys2Proof.Machine.execMmaSp32 a b c s
  | .accInit a b => Sys2Proof.Machine.execAccInit a b s
  | .accSettle a b => Sys2Proof.Machine.execAccSettle a b s
  | .redV a b c => Sys2Proof.Machine.execRedV a b c s
  | .detNext a b => Sys2Proof.Machine.execDetNext a b s
  | .drain a b c f => Sys2Proof.Machine.execDrain a b c f s
  | .tmld a imm tm => Sys2Proof.Machine.execTmld a imm tm s
  | .cpyTLd a b c tm => Sys2Proof.Machine.execCpyTLd a b c tm s
  | .cpyTSt a b c tm => Sys2Proof.Machine.execCpyTSt a b c tm s
  | .cpyLLd a b c => Sys2Proof.Machine.execCpyLLd a b c s
  | .cpyLSt a b c => Sys2Proof.Machine.execCpyLSt a b c s
  | .cpyWp a ch => Sys2Proof.Machine.execCpyWp a ch s
  | .cpyStop a ch => Sys2Proof.Machine.execCpyStop a ch s
  | .waitc ms mx cp st ld => Sys2Proof.Machine.execWaitc ms mx cp st ld s
  | .barInit a b sc => Sys2Proof.Machine.execBarInit a b sc s
  | .barArr d a => Sys2Proof.Machine.execBarArr d a s
  | .barArrx d a b => Sys2Proof.Machine.execBarArrx d a b s
  | .barWait a b => Sys2Proof.Machine.execBarWait a b s
  | .barTry a b p => Sys2Proof.Machine.execBarTry a b p s
  | .gbarArr d a sc => Sys2Proof.Machine.execGbarArr d a sc s
  | .gbarWait a b sc => Sys2Proof.Machine.execGbarWait a b sc s
  | .gbarTry a b p sc => Sys2Proof.Machine.execGbarTry a b p sc s
  | .evSig a => Sys2Proof.Machine.execEvSig a s
  | .evWait a => Sys2Proof.Machine.execEvWait a s
  | .evTry a p => Sys2Proof.Machine.execEvTry a p s
  | .cnvJoin g d a b => Sys2Proof.Machine.execCnvJoin g d a b s
  | .cnvTry g d a b p => Sys2Proof.Machine.execCnvTry g d a b p s
  | .cnvLeave g => Sys2Proof.Machine.execCnvLeave g s
  | .spawn g a b => Sys2Proof.Machine.execSpawn g a b s
  | .spawnM g a b => Sys2Proof.Machine.execSpawnM g a b s
  | .spawnTry g d a b p => Sys2Proof.Machine.execSpawnTry g d a b p s
  | .spawnMTry g d a b p => Sys2Proof.Machine.execSpawnMTry g d a b p s
  | .migrate g a => Sys2Proof.Machine.execMigrate g a s
  | .migrateTry g d a => Sys2Proof.Machine.execMigrateTry g d a s
  | .suspend g a => Sys2Proof.Machine.execSuspend g a s
  | .yield g => Sys2Proof.Machine.execYield g s
  | .exit g => Sys2Proof.Machine.execExit g s
  | .msgApp g a b => Sys2Proof.Machine.execMsgApp g a b s
  | .msgAppRel g a b => Sys2Proof.Machine.execMsgAppRel g a b s
  | .msgTry g d a b p => Sys2Proof.Machine.execMsgTry g d a b p s
  | .msgTryRel g d a b p => Sys2Proof.Machine.execMsgTryRel g d a b p s
  | .msgPop g d b => Sys2Proof.Machine.execMsgPop g d b s
  | .msgPoll g d b p => Sys2Proof.Machine.execMsgPoll g d b p s
  | .ringCfg g a b => Sys2Proof.Machine.execRingCfg g a b s
  | .ringPut g a b => Sys2Proof.Machine.execRingPut g a b s
  | .ringGo g => Sys2Proof.Machine.execRingGo g s
  | .steepDone g => Sys2Proof.Machine.execSteepDone g s
  | .ringTry g d a b p => Sys2Proof.Machine.execRingTry g d a b p s
  | .ringTake g d p => Sys2Proof.Machine.execRingTake g d p s
  | .mfsr d r => Sys2Proof.Machine.execMfsr d r s
  | .mtsr a r => Sys2Proof.Machine.execMtsr a r s
  | .trap imm => Sys2Proof.Machine.execTrap imm s
  | .tret => Sys2Proof.Machine.execTret s
  | .tlbinvVa a c => Sys2Proof.Machine.execTlbinvVa a c s
  | .tlbinvCtx a c => Sys2Proof.Machine.execTlbinvCtx a c s
  | .tlbinvIpa a c => Sys2Proof.Machine.execTlbinvIpa a c s
  | .tlbinvPart a c => Sys2Proof.Machine.execTlbinvPart a c s
  | .bkpt imm => Sys2Proof.Machine.execBkpt imm s
  | .halt imm => Sys2Proof.Machine.execHalt imm s
  | .cMov d a => Sys2Proof.Machine.execCMov d a s
  | .cAdd d a => Sys2Proof.Machine.execCAdd d a s
  | .cSub d a => Sys2Proof.Machine.execCSub d a s
  | .cAnd d a => Sys2Proof.Machine.execCAnd d a s
  | .cOr d a => Sys2Proof.Machine.execCOr d a s
  | .cXor d a => Sys2Proof.Machine.execCXor d a s
  | .cAddi d imm => Sys2Proof.Machine.execCAddi d imm s
  | .cLi d imm => Sys2Proof.Machine.execCLi d imm s
  | .cShli d sh => Sys2Proof.Machine.execCShli d sh s
  | .cLd d a sc => Sys2Proof.Machine.execCLd d a sc s
  | .cSt t a sc => Sys2Proof.Machine.execCSt t a sc s
  | .cBr off => Sys2Proof.Machine.execCBr off s
  | .cRet => Sys2Proof.Machine.execCRet s
  | .cWaitc => Sys2Proof.Machine.execCWaitc s
  | .cNop => Sys2Proof.Machine.execCNop s
  | .configRegisterWrite pl r x => Sys2Proof.Machine.execConfigRegisterWrite pl r x s
  | .qtailDoorbell q tail => Sys2Proof.Machine.execQtailDoorbell q tail s
  | .packetRead q => Sys2Proof.Machine.execPacketRead q s
  | .materialiseThread qc => Sys2Proof.Machine.execMaterialiseThread qc s
  | .pourComplete ctx pour => Sys2Proof.Machine.execPourComplete ctx pour s
  | .queueBalance qc => Sys2Proof.Machine.execQueueBalance qc s
  | .rotationBoundary core => Sys2Proof.Machine.execRotationBoundary core s
  | .instantiateContinuation core => Sys2Proof.Machine.execInstantiateContinuation core s
  | .fullThreadArrival k => Sys2Proof.Machine.execFullThreadArrival k s
  | .registerCacheFill t line => Sys2Proof.Machine.execRegisterCacheFill t line s
  | .inboxAppend k => Sys2Proof.Machine.execInboxAppend k s
  | .sendReply k => Sys2Proof.Machine.execSendReply k s
  | .sendRetry k => Sys2Proof.Machine.execSendRetry k s
  | .holdLapse core ctx => Sys2Proof.Machine.execHoldLapse core ctx s
  | .pendingTrapDeadline t => Sys2Proof.Machine.execPendingTrapDeadline t s
  | .loadReply k => Sys2Proof.Machine.execLoadReply k s
  | .storeAck k => Sys2Proof.Machine.execStoreAck k s
  | .storeRefusal k => Sys2Proof.Machine.execStoreRefusal k s
  | .homeAccess k => Sys2Proof.Machine.execHomeAccess k s
  | .atomicAtHome k => Sys2Proof.Machine.execAtomicAtHome k s
  | .caddyAccessArrival k => Sys2Proof.Machine.execCaddyAccessArrival k s
  | .regionMerge base lg => Sys2Proof.Machine.execRegionMerge base lg s
  | .pageWalkComplete t va kind => Sys2Proof.Machine.execPageWalkComplete t va kind s
  | .copyLineTransfer core ch => Sys2Proof.Machine.execCopyLineTransfer core ch s
  | .copyComplete core ch => Sys2Proof.Machine.execCopyComplete core ch s
  | .engineArbitration core => Sys2Proof.Machine.execEngineArbitration core s
  | .leaseIdleExpiry core => Sys2Proof.Machine.execLeaseIdleExpiry core s
  | .matrixCommandComplete core => Sys2Proof.Machine.execMatrixCommandComplete core s
  | .infuserArrival k => Sys2Proof.Machine.execInfuserArrival k s
  | .reductionAck k => Sys2Proof.Machine.execReductionAck k s
  | .retryResend core k => Sys2Proof.Machine.execRetryResend core k s
  | .accLineEvict line => Sys2Proof.Machine.execAccLineEvict line s
  | .beatBoundary ctx ring => Sys2Proof.Machine.execBeatBoundary ctx ring s
  | .steepTailDone core k => Sys2Proof.Machine.execSteepTailDone core k s
  | .haltComplete ctx => Sys2Proof.Machine.execHaltComplete ctx s
  | .commit part pl => Sys2Proof.Machine.execCommit part pl s
  | .ccommit part slot pl => Sys2Proof.Machine.execCcommit part slot pl s
  | .plevel part level => Sys2Proof.Machine.execPlevel part level s
  | .powerGateCore part core => Sys2Proof.Machine.execPowerGateCore part core s
  | .powerWakeCore part core => Sys2Proof.Machine.execPowerWakeCore part core s
  | .partitionSleep part => Sys2Proof.Machine.execPartitionSleep part s
  | .partitionWake part => Sys2Proof.Machine.execPartitionWake part s
  | .switchOut part ctx core => Sys2Proof.Machine.execSwitchOut part ctx core s
  | .switchIn part ctx core => Sys2Proof.Machine.execSwitchIn part ctx core s
  | .haltreq part ctx => Sys2Proof.Machine.execHaltreq part ctx s
  | .rankcmd part slot rank all => Sys2Proof.Machine.execRankcmd part slot rank all s
  | .refusalsClear part pl => Sys2Proof.Machine.execRefusalsClear part pl s
  | .contextTeardown ctx => Sys2Proof.Machine.execContextTeardown ctx s
  | .partitionReset part => Sys2Proof.Machine.execPartitionReset part s
  | .hbmPreservingReset => Sys2Proof.Machine.execHbmPreservingReset s
  | .coldReset => Sys2Proof.Machine.execColdReset s
  | .recoveryImageWrite image => Sys2Proof.Machine.execRecoveryImageWrite image s
  | .fullServiceStart => Sys2Proof.Machine.execFullServiceStart s
  | .vfReset vf => Sys2Proof.Machine.execVfReset vf s
  | .cxlLinkDown port ld restart => Sys2Proof.Machine.execCxlLinkDown port ld restart s
  | .podLinkDown port => Sys2Proof.Machine.execPodLinkDown port s
  | .hostRequestTimeout port ld => Sys2Proof.Machine.execHostRequestTimeout port ld s
  | .podRequestTimeout port => Sys2Proof.Machine.execPodRequestTimeout port s
  | .linkRetryExhausted kind port => Sys2Proof.Machine.execLinkRetryExhausted kind port s
  | .hostCxlMemAccess ld pa write x => Sys2Proof.Machine.execHostCxlMemAccess ld pa write x s
  | .peerQueueWrite node q w => Sys2Proof.Machine.execPeerQueueWrite node q w s
  | .podMemoryAccess node part pa write x => Sys2Proof.Machine.execPodMemoryAccess node part pa write x s
  | .thermalThrottle => Sys2Proof.Machine.execThermalThrottle s
  | .coreClockGate core => Sys2Proof.Machine.execCoreClockGate core s
  | .d3hotEntry => Sys2Proof.Machine.execD3hotEntry s
  | .scrub row unit loc err => Sys2Proof.Machine.execScrub row unit loc err s
  | .debugRequest op => Sys2Proof.Machine.execDebugRequest op s
  | .getVersion => Sys2Proof.Machine.execGetVersion s
  | .getCapabilities => Sys2Proof.Machine.execGetCapabilities s
  | .negotiateAlgorithms => Sys2Proof.Machine.execNegotiateAlgorithms s
  | .getDigests => Sys2Proof.Machine.execGetDigests s
  | .getCertificate slot => Sys2Proof.Machine.execGetCertificate slot s
  | .challenge slot nonce => Sys2Proof.Machine.execChallenge slot nonce s
  | .getMeasurements index => Sys2Proof.Machine.execGetMeasurements index s
  | .keyExchange share => Sys2Proof.Machine.execKeyExchange share s
  | .finish mac => Sys2Proof.Machine.execFinish mac s
  | .endSession => Sys2Proof.Machine.execEndSession s
  | .vendorDefinedRequest inSession token => Sys2Proof.Machine.execVendorDefinedRequest inSession token s
  | .spdmUnsupportedRequest code => Sys2Proof.Machine.execSpdmUnsupportedRequest code s
  | .powerLoss duringUpdate => Sys2Proof.Machine.execPowerLoss duringUpdate s
  | .d3hotExit => Sys2Proof.Machine.execD3hotExit s
  | .enterDeployed => Sys2Proof.Machine.execEnterDeployed s
  | .podGbarArrival ctx id => Sys2Proof.Machine.execPodGbarArrival ctx id s
  | .cxlCacheSnoop line invalidate => Sys2Proof.Machine.execCxlCacheSnoop line invalidate s
  | .linkUp kind port => Sys2Proof.Machine.execLinkUp kind port s

end Sys2Proof.Machine
end

