-- ==== Sys2Proof/Machine/Interlock.lean ====
section
/-!
DEFINITION. The registers that an instruction reads or writes: it waits while one of them is pending (02_thread_state.md R38).
-/

namespace Sys2Proof.Machine

/-- A general register as a mask. -/
def rbit (r : BitVec 5) : BitVec 32 := BitVec.twoPow 32 r.toNat

/-- `n` general registers from one, as far as g31. -/
def rspan (r : BitVec 5) (n : Nat) : BitVec 32 := BitVec.ofNat 32 ((2 ^ n - 1) * 2 ^ r.toNat)

/-- A packed register as a mask. -/
def vbit (r : BitVec 4) : BitVec 16 := BitVec.twoPow 16 r.toNat

/-- `n` packed registers from one. -/
def vspan (r n : Nat) : BitVec 16 := BitVec.ofNat 16 ((2 ^ n - 1) * 2 ^ r)

/-- The general and packed registers that an instruction writes whole, and does not read for it. A form that may complete without writing them is
among these. -/
def writes : Instr → BitVec 32 × BitVec 16
  | .add _ d _ _ | .sub _ d _ _ | .and _ d _ _ | .or _ d _ _ | .xor _ d _ _ | .andn _ d _ _ | .shl _ d _ _ | .shr _ d _ _
  | .sra _ d _ _ | .rot _ d _ _ | .min _ d _ _ | .max _ d _ _ | .minn _ d _ _ | .maxn _ d _ _ => (rbit d, 0)
  | .mov _ d _ | .sel _ d _ _ _ => (rbit d, 0)
  | .addi d _ _ | .andi d _ _ | .ori d _ _ | .xori d _ _ | .shli d _ _ | .shri d _ _ | .srai d _ _ | .movh d _ _ _
  | .movh60 d _ _ | .addpc d _ _ => (rbit d, 0)
  | .bfx _ d _ _ | .bfxn _ d _ _ | .clz _ d _ | .ctz _ d _ | .popc _ d _ | .brev _ d _ => (rbit d, 0)
  | .mul _ d _ _ | .mulh _ d _ _ | .mulhn _ d _ _ | .div _ d _ _ | .divn _ d _ _ | .rem _ d _ _ | .remn _ d _ _ => (rbit d, 0)
  | .ldB t _ _ | .ldH t _ _ | .ldW t _ _ | .ldD t _ _ | .ldBN t _ _ | .ldHN t _ _ | .ldWN t _ _ | .ldAcq t _ _ _ _ | .cLd t _ _ => (rbit t, 0)
  | .amoAdd _ d _ _ _ | .amoAnd _ d _ _ _ | .amoOr _ d _ _ _ | .amoXor _ d _ _ _ | .amoMin _ d _ _ _ | .amoMax _ d _ _ _ | .amoMinn _ d _ _ _
  | .amoMaxn _ d _ _ _ | .amoSwap _ d _ _ _ | .amoFadd _ d _ _ _ => (rbit d, 0)
  | .vld t _ _ _ => (0, vbit t)
  | .vadd _ d _ _ | .vsub _ d _ _ | .vmul _ d _ _ | .vdiv _ d _ _ | .vmin _ d _ _ | .vmax _ d _ _ => (0, vbit d)
  | .vcmp _ d _ _ _ | .vext _ d _ _ => (rbit d, 0)
  | .vabs _ d _ | .vneg _ d _ | .vsqrt _ d _ | .vrcp _ d _ | .vrsq _ d _ | .vexp2 _ d _ | .vlog2 _ d _ => (0, vbit d)
  | .viadd _ d _ _ | .visub _ d _ _ | .vimul _ d _ _ | .viaddS _ d _ _ | .visubS _ d _ _ | .vimulS _ d _ _ | .vshl _ d _ _ | .vshr _ d _ _
  | .vsra _ d _ _ | .vand _ d _ _ | .vor _ d _ _ | .vxor _ d _ _ => (0, vbit d)
  | .vdeq _ d _ _ f => (0, vspan (4 * d.toNat) (deqRegs f))
  | .vsplat _ d _ _ | .vmov _ d _ | .vshuf _ d _ _ | .vhsum _ d _ | .vhmax _ d _ => (0, vbit d)
  | .cpyWp a _ | .cpyStop a _ => (rbit a, 0)
  | .barArr d _ | .barArrx d _ _ | .gbarArr d _ _ | .cnvJoin _ d _ _ | .cnvTry _ d _ _ _ | .spawnTry _ d _ _ _ | .spawnMTry _ d _ _ _
  | .migrateTry _ d _ | .msgTry _ d _ _ _ | .msgTryRel _ d _ _ _ | .ringTry _ d _ _ _ | .ringTake _ d _ | .mfsr d _ => (rbit d, 0)
  | .msgPop _ d b | .msgPoll _ d b _ => (rspan d 8 ||| rbit b, 0)
  | .cMov d _ | .cLi d _ => (rbit d, 0)
  | _ => (0, 0)

/-- The general and packed registers that an instruction reads. A message form may read up to 8 payload registers, a tile copy up to 5 coordinates; a
continuation's record holds g1 to g7. -/
def reads : Instr → BitVec 32 × BitVec 16
  | .add _ _ a b | .sub _ _ a b | .and _ _ a b | .or _ _ a b | .xor _ _ a b | .andn _ _ a b | .shl _ _ a b | .shr _ _ a b
  | .sra _ _ a b | .rot _ _ a b | .min _ _ a b | .max _ _ a b | .minn _ _ a b | .maxn _ _ a b | .sel _ _ a b _ => (rbit a ||| rbit b, 0)
  | .mov _ _ a | .addi _ a _ | .andi _ a _ | .ori _ a _ | .xori _ a _ | .shli _ a _ | .shri _ a _ | .srai _ a _ | .movh _ a _ _
  | .movh60 _ a _ => (rbit a, 0)
  | .cmp _ a b _ => (rbit a ||| rbit b, 0)
  | .cmpi _ a _ _ => (rbit a, 0)
  | .bfx _ _ a b | .bfxn _ _ a b => (rbit a ||| rbit b, 0)
  | .bfi _ d a b => (rbit d ||| rbit a ||| rbit b, 0)
  | .clz _ _ a | .ctz _ _ a | .popc _ _ a | .brev _ _ a => (rbit a, 0)
  | .mul _ _ a b | .mulh _ _ a b | .mulhn _ _ a b | .div _ _ a b | .divn _ _ a b | .rem _ _ a b | .remn _ _ a b => (rbit a ||| rbit b, 0)
  | .jalr a _ | .jmp a _ | .loop a _ => (rbit a, 0)
  | .ldB _ a _ | .ldH _ a _ | .ldW _ a _ | .ldD _ a _ | .ldBN _ a _ | .ldHN _ a _ | .ldWN _ a _ | .ldAcq _ a _ _ _ => (rbit a, 0)
  | .stB t a _ | .stH t a _ | .stW t a _ | .stD t a _ | .stRel t a _ _ => (rbit t ||| rbit a, 0)
  | .pref a _ _ _ | .discard a _ | .clean a _ _ | .invalD a _ | .invalI a _ => (rbit a, 0)
  | .amoAdd _ _ a b _ | .amoAnd _ _ a b _ | .amoOr _ _ a b _ | .amoXor _ _ a b _ | .amoMin _ _ a b _ | .amoMax _ _ a b _
  | .amoMinn _ _ a b _ | .amoMaxn _ _ a b _ | .amoSwap _ _ a b _ | .amoFadd _ _ a b _ => (rbit a ||| rbit b, 0)
  | .amoCas _ d a b _ => (rbit d ||| rbit a ||| rbit b, 0)
  | .vld _ a _ _ => (rbit a, 0)
  | .vst t a _ => (rbit a, vbit t)
  | .vadd _ _ a b | .vsub _ _ a b | .vmul _ _ a b | .vdiv _ _ a b | .vmin _ _ a b | .vmax _ _ a b | .vcmp _ _ a b _ => (0, vbit a ||| vbit b)
  | .vfma _ d a b | .vfms _ d a b | .vfnma _ d a b | .vfnms _ d a b | .vdot _ d a b => (0, vbit d ||| vbit a ||| vbit b)
  | .vabs _ _ a | .vneg _ _ a | .vsqrt _ _ a | .vrcp _ _ a | .vrsq _ _ a | .vexp2 _ _ a | .vlog2 _ _ a => (0, vbit a)
  | .viadd _ _ a b | .visub _ _ a b | .vimul _ _ a b | .viaddS _ _ a b | .visubS _ _ a b | .vimulS _ _ a b | .vshl _ _ a b | .vshr _ _ a b
  | .vsra _ _ a b | .vand _ _ a b | .vor _ _ a b | .vxor _ _ a b => (0, vbit a ||| vbit b)
  | .vimac _ d a b | .vimacS _ d a b => (0, vbit d ||| vbit a ||| vbit b)
  | .vcvt _ d a _ _ _ => (0, vbit d ||| vbit a)
  | .vqnt _ d a b _ => (rbit d ||| rbit b, vspan (8 * a.toNat) 8)
  | .vdeq _ _ a b _ => (rbit a ||| rbit b, 0)
  | .vsplat _ _ a _ => (rbit a, 0)
  | .vmov _ _ a | .vext _ _ a _ | .vhsum _ _ a | .vhmax _ _ a => (0, vbit a)
  | .vsel _ d a b => (rbit b, vbit d ||| vbit a)
  | .vshuf _ _ a b => (rbit b, vbit a)
  | .vins _ d a _ => (rbit a, vbit d)
  | .mma a b c | .mmaL a b c | .mmaSp8 a b c | .mmaSp16 a b c | .mmaSp32 a b c => (rbit a ||| rbit b ||| rbit c, 0)
  | .accInit a b | .accSettle a b => (rbit a ||| rbit b, 0)
  | .redV a b c => (rbit a ||| rbit c, vspan (4 * b.toNat) 4)
  | .detNext a b => (rbit a ||| rbit b, 0)
  | .drain a b c _ => (rbit a ||| rbit b ||| rbit (b + 1) ||| rbit c, 0)
  | .tmld a _ _ => (rbit a, 0)
  | .cpyTLd a b c _ | .cpyTSt a b c _ => (rbit a ||| rbit b ||| rspan c 5, 0)
  | .cpyLLd a b c | .cpyLSt a b c => (rbit a ||| rbit b ||| rbit c, 0)
  | .barInit a b _ => (rbit a ||| rbit b, 0)
  | .barArr _ a => (rbit a, 0)
  | .barArrx _ a b => (rbit a ||| rbit b, 0)
  | .barWait a b | .barTry a b _ => (rbit a ||| rbit b, 0)
  | .gbarArr _ a _ => (rbit a, 0)
  | .gbarWait a b _ | .gbarTry a b _ _ => (rbit a ||| rbit b, 0)
  | .evSig a | .evWait a | .evTry a _ => (rbit a, 0)
  | .cnvJoin _ _ a b | .cnvTry _ _ a b _ => (rbit a ||| rbit b, 0)
  | .spawn _ a b | .spawnTry _ _ a b _ => (rbit a ||| rbit b ||| 0xFE, 0)
  | .spawnM _ a b | .spawnMTry _ _ a b _ => (rbit a ||| rbit b, 0)
  | .migrate _ a | .migrateTry _ _ a | .suspend _ a => (rbit a ||| 0xFE, 0)
  | .msgApp _ a b | .msgAppRel _ a b | .msgTry _ _ a b _ | .msgTryRel _ _ a b _ => (rbit a ||| rspan b 8, 0)
  | .ringCfg _ a b | .ringPut _ a b | .ringTry _ _ a b _ => (rbit a ||| rbit b, 0)
  | .mtsr a _ => (rbit a, 0)
  | .tlbinvVa a c | .tlbinvCtx a c | .tlbinvIpa a c | .tlbinvPart a c => (rbit a ||| rbit c, 0)
  | .cMov _ a => (rbit a, 0)
  | .cAdd d a | .cSub d a | .cAnd d a | .cOr d a | .cXor d a => (rbit d ||| rbit a, 0)
  | .cAddi d _ | .cShli d _ => (rbit d, 0)
  | .cLd _ a _ => (rbit a, 0)
  | .cSt t a _ => (rbit t ||| rbit a, 0)
  | _ => (0, 0)

/-- The general and packed registers that an instruction reads or writes. -/
def uses (i : Instr) : BitVec 32 × BitVec 16 := ((reads i).1 ||| (writes i).1, (reads i).2 ||| (writes i).2)

/-- The guard of an instruction, of the form that always executes where it has none (R56). -/
def guardOf : Instr → BitVec 4
  | .add g _ _ _ | .sub g _ _ _ | .and g _ _ _ | .or g _ _ _ | .xor g _ _ _ | .andn g _ _ _ | .shl g _ _ _ | .shr g _ _ _ | .sra g _ _ _
  | .rot g _ _ _ | .min g _ _ _ | .max g _ _ _ | .minn g _ _ _ | .maxn g _ _ _ | .mov g _ _ | .sel g _ _ _ _ | .bfx g _ _ _ | .bfxn g _ _ _
  | .bfi g _ _ _ | .clz g _ _ | .ctz g _ _ | .popc g _ _ | .brev g _ _ | .mul g _ _ _ | .mulh g _ _ _ | .mulhn g _ _ _ | .div g _ _ _
  | .divn g _ _ _ | .rem g _ _ _ | .remn g _ _ _ | .amoAdd g _ _ _ _ | .amoAnd g _ _ _ _ | .amoOr g _ _ _ _ | .amoXor g _ _ _ _
  | .amoMin g _ _ _ _ | .amoMax g _ _ _ _ | .amoMinn g _ _ _ _ | .amoMaxn g _ _ _ _ | .amoSwap g _ _ _ _ | .amoCas g _ _ _ _ | .amoFadd g _ _ _ _
  | .vadd g _ _ _ | .vsub g _ _ _ | .vmul g _ _ _ | .vdiv g _ _ _ | .vmin g _ _ _ | .vmax g _ _ _ | .vfma g _ _ _ | .vfms g _ _ _
  | .vfnma g _ _ _ | .vfnms g _ _ _ | .vcmp g _ _ _ _ | .vabs g _ _ | .vneg g _ _ | .vsqrt g _ _ | .vrcp g _ _ | .vrsq g _ _ | .vexp2 g _ _
  | .vlog2 g _ _ | .viadd g _ _ _ | .visub g _ _ _ | .vimul g _ _ _ | .vimac g _ _ _ | .viaddS g _ _ _ | .visubS g _ _ _ | .vimulS g _ _ _
  | .vimacS g _ _ _ | .vshl g _ _ _ | .vshr g _ _ _ | .vsra g _ _ _ | .vand g _ _ _ | .vor g _ _ _ | .vxor g _ _ _ | .vcvt g _ _ _ _ _
  | .vqnt g _ _ _ _ | .vdeq g _ _ _ _ | .vdot g _ _ _ | .vsplat g _ _ _ | .vmov g _ _ | .vsel g _ _ _ | .vshuf g _ _ _ | .vext g _ _ _
  | .vins g _ _ _ | .vhsum g _ _ | .vhmax g _ _ | .cnvJoin g _ _ _ | .cnvTry g _ _ _ _ | .cnvLeave g | .spawn g _ _ | .spawnM g _ _
  | .spawnTry g _ _ _ _ | .spawnMTry g _ _ _ _ | .migrate g _ | .migrateTry g _ _ | .suspend g _ | .yield g | .exit g | .msgApp g _ _
  | .msgAppRel g _ _ | .msgTry g _ _ _ _ | .msgTryRel g _ _ _ _ | .msgPop g _ _ | .msgPoll g _ _ _ | .ringCfg g _ _ | .ringPut g _ _ | .ringGo g
  | .steepDone g | .ringTry g _ _ _ _ | .ringTake g _ _ => g
  | _ => 0

/-- The counters to which an instruction adds when it issues (R48). -/
def counted : Instr → List Ctr
  | .ldB _ _ _ | .ldH _ _ _ | .ldW _ _ _ | .ldD _ _ _ | .ldBN _ _ _ | .ldHN _ _ _ | .ldWN _ _ _ | .ldAcq _ _ _ _ _ | .cLd _ _ _
  | .vld _ _ _ _ | .vdeq _ _ _ _ _ | .msgPop _ _ _ | .msgPoll _ _ _ _ | .amoCas _ _ _ _ _ => [.ld]
  | .stB _ _ _ | .stH _ _ _ | .stW _ _ _ | .stD _ _ _ | .stRel _ _ _ _ | .cSt _ _ _ | .vst _ _ _ | .vqnt _ _ _ _ _ | .discard _ _ | .clean _ _ _
  | .accInit _ _ | .detNext _ _ | .drain _ _ _ _ | .barInit _ _ _ => [.st]
  | .amoAdd _ d _ _ _ | .amoAnd _ d _ _ _ | .amoOr _ d _ _ _ | .amoXor _ d _ _ _ | .amoMin _ d _ _ _ | .amoMax _ d _ _ _ | .amoMinn _ d _ _ _
  | .amoMaxn _ d _ _ _ | .amoSwap _ d _ _ _ | .amoFadd _ d _ _ _ => if d = 0 then [.st] else [.ld]
  | .cpyTLd _ _ _ _ | .cpyTSt _ _ _ _ | .cpyLLd _ _ _ | .cpyLSt _ _ _ => [.cp]
  | .mma _ _ _ | .mmaL _ _ _ | .mmaSp8 _ _ _ | .mmaSp16 _ _ _ | .mmaSp32 _ _ _ | .redV _ _ _ => [.mx]
  | .spawn _ _ _ | .spawnM _ _ _ | .spawnTry _ _ _ _ _ | .spawnMTry _ _ _ _ _ | .msgApp _ _ _ | .msgAppRel _ _ _ | .msgTry _ _ _ _ _
  | .msgTryRel _ _ _ _ _ => [.ms]
  | _ => []

/-- An instruction that makes no access to memory or to a caddy and sends nothing: a thread issues it while an acquire of its own is under way
(R192, R212). A call may spill and a return may refill, and a write of a special register may ask for a trap behind every instruction, so they are
not among these. -/
def noAccess : Instr → Bool
  | .add _ _ _ _ | .sub _ _ _ _ | .and _ _ _ _ | .or _ _ _ _ | .xor _ _ _ _ | .andn _ _ _ _ | .shl _ _ _ _ | .shr _ _ _ _ | .sra _ _ _ _
  | .rot _ _ _ _ | .min _ _ _ _ | .max _ _ _ _ | .minn _ _ _ _ | .maxn _ _ _ _ | .mov _ _ _ | .sel _ _ _ _ _ | .addi _ _ _ | .andi _ _ _
  | .ori _ _ _ | .xori _ _ _ | .shli _ _ _ | .shri _ _ _ | .srai _ _ _ | .movh _ _ _ _ | .movh60 _ _ _ | .addpc _ _ _ | .cmp _ _ _ _
  | .cmpi _ _ _ _ | .bfx _ _ _ _ | .bfxn _ _ _ _ | .bfi _ _ _ _ | .clz _ _ _ | .ctz _ _ _ | .popc _ _ _ | .brev _ _ _ | .mul _ _ _ _
  | .mulh _ _ _ _ | .mulhn _ _ _ _ | .div _ _ _ _ | .divn _ _ _ _ | .rem _ _ _ _ | .remn _ _ _ _ | .jmp _ _ | .loop _ _ | .nop
  | .vadd _ _ _ _ | .vsub _ _ _ _ | .vmul _ _ _ _ | .vdiv _ _ _ _ | .vmin _ _ _ _ | .vmax _ _ _ _ | .vfma _ _ _ _ | .vfms _ _ _ _
  | .vfnma _ _ _ _ | .vfnms _ _ _ _ | .vcmp _ _ _ _ _ | .vabs _ _ _ | .vneg _ _ _ | .vsqrt _ _ _ | .vrcp _ _ _ | .vrsq _ _ _ | .vexp2 _ _ _
  | .vlog2 _ _ _ | .viadd _ _ _ _ | .visub _ _ _ _ | .vimul _ _ _ _ | .vimac _ _ _ _ | .viaddS _ _ _ _ | .visubS _ _ _ _ | .vimulS _ _ _ _
  | .vimacS _ _ _ _ | .vshl _ _ _ _ | .vshr _ _ _ _ | .vsra _ _ _ _ | .vand _ _ _ _ | .vor _ _ _ _ | .vxor _ _ _ _ | .vcvt _ _ _ _ _ _
  | .vdot _ _ _ _ | .vsplat _ _ _ _ | .vmov _ _ _ | .vsel _ _ _ _ | .vshuf _ _ _ _ | .vext _ _ _ _ | .vins _ _ _ _ | .vhsum _ _ _
  | .vhmax _ _ _ | .mfsr _ _ | .cMov _ _ | .cAdd _ _ | .cSub _ _ | .cAnd _ _ | .cOr _ _ | .cXor _ _ | .cAddi _ _ | .cLi _ _
  | .cShli _ _ | .cNop => true
  | .pand _ _ _ | .por _ _ _ | .pxor _ _ _ | .pnot _ _ | .pmov _ _ | .brp _ _ _ | .cBr _ => true
  | _ => false

/-- No register that the instruction uses is pending (R38). -/
def Thread.operandsFree (x : Thread) (i : Instr) : Bool := (uses i).1 &&& x.pendG == 0 && (uses i).2 &&& x.pendV == 0

end Sys2Proof.Machine
end

