-- ==== Sys2Proof/Machine/Fetch.lean ====
section
/-!
DEFINITION. Instruction fetch (03_encoding.md R53, 10_memory_instructions.md R218, 13_scheduling_and_progress.md R268), the threads that
may issue and the one that does (R38, R263, R266), and the issue of its instruction (R57).
-/

namespace Sys2Proof.Machine

/-! ## Program text (R53, R218, R268) -/

/-- No more than `n` instructions stand from one address to another: the text is framed word by word (R52, R268). A halfword that does not
translate ends the count, as nothing behind it is fetched. -/
def State.atMost (s : State) (q : Who) (pc fin : Nat) : Nat → Bool
  | 0 => fin ≤ pc
  | n + 1 =>
    if fin ≤ pc then true
    else match s.translate q (BitVec.ofNat 64 pc) .exec with
      | .error _ => true
      | .ok t => s.atMost q (pc + (if (s.byte t.pa).getLsbD 0 then 4 else 2)) fin n

/-- A body that a loop buffer can hold: one of at most 64 instructions (R268). Up to 64 halfwords are that in any case. -/
def State.loopBody (s : State) (x : Thread) : Option (Word × Word) :=
  let fin := x.lend &&& 0xFFFFFFFFFFFE
  if x.lc != 0 && x.lbeg.toNat ≤ x.pc.toNat && x.pc.toNat < fin.toNat && fin.toNat ≤ x.lbeg.toNat + 256 &&
      (fin.toNat ≤ x.lbeg.toNat + 128 || s.atMost x.who x.lbeg.toNat fin.toNat 64) then some (x.lbeg, x.lend) else none

/-- A loop buffer holds the halfword at an address for a context (R268). -/
def LoopBuf.holds (l : LoopBuf) (ctx : CtxId) (va : Word) : Bool :=
  l.ctx == ctx && l.beg.toNat ≤ va.toNat && va.toNat < (l.fin &&& 0xFFFFFFFFFFFE).toNat && l.bytes.any (·.1 == va.toNat)

/-- A halfword that the thread has fetched inside its loop body, from a line and through a page, goes into a loop buffer of its core; a fifth body
takes the place of the buffer used least recently (R268). -/
def Core.keepLoop (k : Core) (ctx : CtxId) (body : Word × Word) (va : Word) (bs : List Byte) (line : Nat)
    (page : Nat × Nat) (now : Nat) : Core :=
  let same (l : LoopBuf) : Bool := l.ctx == ctx && l.beg == body.1 && l.fin == body.2
  let cells := (bs.zipIdx).map fun b => (va.toNat + b.2, b.1)
  match k.loops.find? same with
  | some l =>
    let l' := { l with
      bytes := l.bytes.filter (fun c => !cells.any (·.1 == c.1)) ++ cells
      lines := if l.lines.contains line then l.lines else l.lines ++ [line]
      pages := if l.pages.contains page then l.pages else l.pages ++ [page]
      used := now }
    { k with loops := k.loops.filter (fun o => !same o) ++ [l'] }
  | none =>
    let old := k.loops.foldl (fun b l => match b with
      | none => some l
      | some m => if l.used < m.used then some l else some m) (none : Option LoopBuf)
    let rest := if 4 ≤ k.loops.length then k.loops.filter (fun l => some l != old) else k.loops
    { k with loops := rest ++ [{ ctx, beg := body.1, fin := body.2, bytes := cells, lines := [line], pages := [page], used := now }] }

/-- The 64 bytes of a line of text, from its home, which brings the line to the slice and asks a core that owns it (R22, R189); an error is met
(R397). -/
def State.textLine (s : State) (q : Who) (t : Target) (va : Word) : Except Fail (List Byte × State) :=
  let line := t.pa / 64
  match t.cls with
  | .host =>
    if s.hostDown t.pa then .ok (List.replicate 64 0xFF, s)
    else
    let s := s.fetchHost line
    .ok (s.bytes (64 * line) 64, (s.requestLine line (some q.unit) false (some q.ctx)).sliceRead t.home (64 * line) 64 q.ctx 1)
  | .pod =>
    if s.podDown t.pa || Config.peerPermits s.fresh t.pa then
      .ok (s.readAt {
        thread := s.cur, ctx := q.ctx, core := q.core, svc := q.svc, pl := BitVec.ofNat 2 q.pl, va, pa := 64 * line, n := 64
        cls := .pod, home := t.home })
    else .error { cause := cPOD, val := va }
  | .config => .ok (List.replicate 64 0, s.cfgMisuse t.pa)
  | _ => .ok (s.bytes (64 * line) 64, (s.requestLine line (some q.unit) false (some q.ctx)).sliceRead t.home (64 * line) 64 q.ctx 1)

/-- The halfword at a translated address: from a loop buffer, the L1 instruction cache of 1,024 lines, or the home, which fills them (R19, R218,
R268); a line that the step has brought there is still there. A halfword that neither holds is fetched as it stands (log entry 17). `page` is the page
that maps it. -/
def State.readText (s : State) (x : Thread) (va : Word) (t : Target) (page : Nat × Nat) : Except Fail (List Byte × State) := do
  let cut (bs : List Byte) : List Byte := (bs.drop (t.pa % 64)).take 2
  let line := t.pa / 64
  let k := s.coreAt x.unit
  match k.loops.find? (·.holds x.ctx va), Config.stillCached s.fresh va.toNat with
  | some l, true =>
    let bs := [va.toNat, va.toNat + 1].map fun a => ((l.bytes.find? (·.1 == a)).map (·.2)).getD 0
    let touch (o : LoopBuf) : LoopBuf := if o == l then { o with used := s.fresh } else o
    pure (bs, s.setCore x.unit { k with loops := k.loops.map touch })
  | _, _ =>
    let keep (k : Core) (bs : List Byte) : Core := match s.loopBody x with
      | some b => k.keepLoop x.ctx b va (cut bs) line page s.fresh
      | none => k
    let held := k.icache.find? fun l => l.ctx == x.ctx && l.line == line && (l.since == s.fresh || Config.stillCached s.fresh t.pa)
    match held with
    | some l => pure (cut l.bytes, s.setCore x.unit (keep k l.bytes))
    | none =>
      let (bs, s) ← s.textLine x.who t va
      let new : ILine := { ctx := x.ctx, line, bytes := bs, since := s.fresh }
      let put (k : Core) : Core :=
        { k with icache := makeRoom l1Lines s.fresh line (k.icache.filter fun l => !(l.ctx == x.ctx && l.line == line)) ++ [new] }
      pure (cut bs, s.modCore x.unit fun k => keep (put k) bs)

/-- One halfword of a thread's program, translated with kind EXEC (R53). -/
def State.fetchHalf (s : State) (t : Nat) (va : Word) : Except Fail (List Byte × State) := do
  let x ← s.xlate (s.thread t).who va .exec
  (s.walkTouch (s.thread t).who va).readText (s.thread t) va (s.targetOf x va) (x.vbase, x.size)

/-- The instruction at a thread's PC: one halfword, or two (R52, R53). -/
def State.fetch (s : State) (t : Nat) : Except Fail (List Byte × State) := do
  let pc := (s.thread t).pc.setWidth 64
  let (b0, s) ← s.fetchHalf t pc
  if (b0.headD 0).getLsbD 0 then
    let (b1, s) ← s.fetchHalf t (pc + 2)
    pure (b0 ++ b1, s)
  else pure (b0, s)

/-! ## Who issues (R38, R266) -/

/-- The instruction at a thread's PC, as its fetch brings it now. -/
def State.nextInstr (s : State) (t : Nat) : Option Instr :=
  match s.fetch t with
  | .ok (bs, _) => decodeBytes bs
  | .error _ => none

/-- The instruction at the thread's PC may issue: its registers are free (R38), its counters too (R48, R266), and a thread with an acquire under way
issues nothing that makes an access (R192, R212), and nothing at all once a pending trap is due, which waits with it for the acquire (R210, R224). -/
def State.operandsReady (s : State) (t : Nat) : Bool :=
  let x := s.thread t
  let full := [Ctr.ld, .st, .cp, .mx, .ms].filter fun c => x.ctr c == 63
  let due := (x.duePending s.cycle).isSome
  (x.pendG == 0 && x.pendV == 0 && full.isEmpty && x.hold.isNone) ||
    (match s.nextInstr t with
      | some i => x.operandsFree i && !(full.any fun c => (counted i).contains c) && (x.hold.isNone || (noAccess i && !due))
      | none => x.hold.isNone)

/-- The thread waits for a reply for which nothing younger issues (R39, R47, R282). -/
def Thread.stopped (x : Thread) : Bool :=
  match x.hold with
  | some (.load _) | some (.send _ _ _ _ _) | some (.ack _ true) => true
  | _ => false

/-- The halfword at an address can be had: its translation needs no table of a partition that sleeps, and its home is awake, or a cache still holds it
(R347, R368). -/
def State.halfServed (s : State) (x : Thread) (va : Word) : Bool :=
  !s.walkAsleep x.who va &&
    (match s.translate x.who va .exec with
      | .error _ => true
      | .ok g => !(s.homeAsleep g.home && g.cls != .config && g.cls != .pod) || (s.coreAt x.unit).icache.any fun l =>
          l.ctx == x.ctx && l.line == g.pa / 64 && Config.stillCached s.fresh g.pa)

/-- The instruction at a thread's PC can be had, each halfword of it. -/
def State.textServed (s : State) (t : Nat) : Bool :=
  let x := s.thread t
  let pc := x.pc.setWidth 64
  !(s.parts.any (·.2.asleep)) || (s.halfServed x pc &&
    (match s.fetch t with
      | .ok ([_, _], _) => true
      | _ => s.halfServed x (pc + 2)))

/-- The bytes of the steep table that RING.CFG reads, as the descriptor at an address gives them (R295, R297). -/
def State.steepBytes (s : State) (ga : Word) : Nat :=
  match s.xlate s.self.who ga .load with
  | .ok x => 32 * min 16 (Word.field (s.word (s.targetOf x ga).pa) 12 5)
  | .error _ => 0

/-- The ranges of addresses that an instruction of the executing thread translates (R205). -/
def State.translated (s : State) : Instr → List (Word × Nat)
  | .ldB _ a i | .ldBN _ a i | .stB _ a i => [(ea s a i, 1)]
  | .ldH _ a i | .ldHN _ a i | .stH _ a i => [(ea s a i, 2)]
  | .ldW _ a i | .ldWN _ a i | .stW _ a i => [(ea s a i, 4)]
  | .ldD _ a i | .stD _ a i => [(ea s a i, 8)]
  | .cLd _ a sc | .cSt _ a sc => [(s.g a + 8 * sc.setWidth 64, 8)]
  | .ldAcq _ a _ sz _ | .stRel _ a sz _ => [(s.g a, 2 ^ sz.toNat)]
  | .pref a i _ _ | .discard a i | .clean a i _ | .invalD a i | .invalI a i => [(ea s a i, 1)]
  | .amoAdd g _ a _ _ | .amoAnd g _ a _ _ | .amoOr g _ a _ _ | .amoXor g _ a _ _ | .amoMin g _ a _ _ | .amoMax g _ a _ _ | .amoMinn g _ a _ _
  | .amoMaxn g _ a _ _ | .amoSwap g _ a _ _ | .amoCas g _ a _ _ | .amoFadd g _ a _ _ => if guardTrue s.self g then [(s.g a, 1)] else []
  | .vld _ a off _ => [(s.g a + 16 * off.signExtend 64, 16)]
  | .vst _ a i => [(ea s a i, 16)]
  | .vqnt g d _ b f => if guardTrue s.self g then [(s.g d, blockBytes (12 + f.toNat)), (s.g b, 1)] else []
  | .vdeq g _ a b f => if guardTrue s.self g then [(s.g a, blockBytes (12 + f.toNat)), (s.g b, 1)] else []
  | .mma _ _ c | .mmaL _ _ c | .mmaSp8 _ _ c | .mmaSp16 _ _ c | .mmaSp32 _ _ c => [(s.g c, 1)]
  | .accInit a _ | .redV a _ _ | .detNext a _ => [(s.g a, 1)]
  | .accSettle a _ => if s.g a = 0 then [] else [(s.g a, 1)]
  | .drain a b c f =>
    let step := Word.field (s.g c) 0 24
    let rowb := drainRowBytes f.toNat
    (s.g a, 1) :: ((List.range 16).flatMap fun r =>
      [(s.g b + BitVec.ofNat 64 (r * (if step = 0 then rowb else step)), rowb), (s.g (b + 1) + BitVec.ofNat 64 (r * max 1 (Word.field (s.g c) 24 24)), 1)])
  | .tmld a i _ => if ea s a i = 0 then [] else [(ea s a i, 64)]
  | .cpyTLd _ _ _ tm | .cpyTSt _ _ _ tm => if s.self.tmDesc[tm.toNat].isSome then [] else [(s.self.tm[tm.toNat], 64)]
  | .spawnM g _ b | .spawnMTry g _ _ b _ => if guardTrue s.self g then [(s.g b, 64)] else []
  | .suspend g a => if guardTrue s.self g then [(s.g a, 64)] else []
  | .ringCfg g a b => if guardTrue s.self g then [(s.g a, 64), (s.g b, s.steepBytes (s.g a))] else []
  | .jal _ | .jalr _ _ => if 8 ≤ s.self.ras.length then [(s.self.rsp, 8)] else []
  | .ret | .cRet => if s.self.ras.isEmpty then [(s.self.rsp - 8, 8)] else []
  | _ => []

/-- The translations that the instruction at a thread's PC asks for need no table of a partition that sleeps (R347, R368). -/
def State.tablesServed (s : State) (t : Nat) : Bool :=
  !(s.parts.any (·.2.asleep)) ||
    (match s.nextInstr t with
      | some i => (State.translated { s with cur := t } i).all fun r => (pagesOf r).all fun va => !s.walkAsleep (s.thread t).who va
      | none => true)

/-- The thread may try its instruction: it stands in a slot of a core that has power, or on a service core; it is not parked, waits for no reply, has
its register-cache lines and its text, is not stopped by a debugger, a halt or a switch-out, and its operands are free. A steep goes on while its
context is being switched out (R302, R319). -/
def State.canIssue (s : State) (t : Nat) : Bool :=
  let x := s.thread t
  let placed := match x.place with
    | .slot _ => !(s.coreAt x.core).powerGated && (x.steep || !s.switching x.ctx x.core false)
    | .service _ => true
    | _ => false
  placed && x.park.isNone && !x.stopped && x.fetchMiss == 0 && (!x.debugHalt || x.debugStep) && !s.halted x.ctx && s.awake &&
    s.textServed t && s.operandsReady t && s.tablesServed t

/-- The front end of a thread: its core, or, numbered from 512, its service core. -/
def Thread.frontEnd (x : Thread) : Nat :=
  match x.place with
  | .service n => 512 + n
  | _ => x.core.toNat

/-- When the slot of a thread last issued, and its number; on a service core, when the thread did (R266). -/
def State.issueOrder (s : State) (t : Nat) : Nat × Nat :=
  let x := s.thread t
  match x.place with
  | .slot n => (Tab.get (s.coreAt x.core).issuedAt 0 n, n)
  | _ => (x.lastIssue, t)

/-- The thread of a list whose slot issued longest ago, the lowest slot on a tie (R266). -/
def State.leader (s : State) : List Nat → Option Nat
  | [] => none
  | t :: ts => match s.leader ts with
    | none => some t
    | some u =>
      let a := s.issueOrder t
      let b := s.issueOrder u
      if a.1 < b.1 || (a.1 == b.1 && a.2 < b.2) then some t else some u

/-! ## Issue (R57, R266, R267) -/

/-- The walks that an instruction of the executing thread makes read their entries, whether they yield a translation or fault (R347). -/
def State.walkFor (s : State) (i : Instr) : State :=
  s.readEntries s.self.who ((s.translated i).flatMap fun r => (pagesOf r).flatMap (s.walkEntries s.self.who))

/-- The address of a barrier object that an instruction reads (R239, R240). -/
def objectRead : Instr → Option (BitVec 5)
  | .barArr _ a | .barArrx _ a _ | .barWait a _ | .barTry a _ _ => some a
  | _ => none

/-- A barrier object that an instruction reads is read in its caddy, or in the image of one, and meets the errors that stand there (R234, R389, R397).
-/
def State.meetObject (s : State) (i : Instr) : State :=
  match objectRead i with
  | none => s
  | some a => match s.caddyPlace s.self.who (s.g a) 16 with
    | .error _ => s
    | .ok (c, off) => s.meetCaddy s.self.ctx c off 16 s.self.haltUnit.2

/-- The registers that an instruction reads are read in the register cache, and meet the errors that stand there: those of the image of the thread, in
the place of a thread of its number (R32, R43, R397; log entry 41); and a barrier object that it reads. A false guard reads none (R56). -/
def State.meetRegs (s : State) (i : Instr) : State :=
  let x := s.self
  if s.errorFree || !guardTrue x (guardOf i) then s
  else
    let meet (s : State) (off n : Nat) : State := s.meetErrors 4 x.unit (regAt s.cur + off) n x.ctx x.haltUnit.2
    let s := ((List.range 32).filter fun r => r != 0 && (reads i).1.getLsbD r).foldl (fun s r => meet s (8 * r) 8) (s.meetObject i)
    ((List.range 16).filter fun r => (reads i).2.getLsbD r).foldl (fun s r => meet s (0x100 + 16 * r) 16) s

/-- The instruction has come to its end in the state `s'` and has written its registers: it issued in this step, neither waits nor has been put off, and
its guard held; of the forms that may find nothing, it found something (R289, R312). -/
def State.wrote (s s' : State) (i : Instr) : Bool :=
  let y := s'.thread s.cur
  guardTrue s.self (guardOf i) && y.lastIssue == s.fresh && !y.stalled && !y.deferred &&
    (match y.hold with
      | some (.send _ _ _ _ _) => false
      | _ => true) &&
    (match i with
      | .msgPoll _ _ _ p | .ringTake _ _ p => y.getP p
      | _ => true)

/-- The registers that an instruction has written whole hold new bits: what stood there of errors is gone (R397). Those that a load still owes follow
with its reply. -/
def State.mendRegs (s : State) (i : Instr) (o : Host.Outcome State Fault Refusal) : Host.Outcome State Fault Refusal :=
  if s.errorFree then o
  else match o with
    | .next s' =>
      let y := s'.thread s.cur
      if s.wrote s' i then .next (s'.mendMarks s.cur ((writes i).1 &&& ~~~ y.pendG) ((writes i).2 &&& ~~~ y.pendV)) else .next s'
    | o => o

/-- An instruction of the executing thread is executed, once its registers have been read and its walks made (R57). -/
def State.execute (s : State) (i : Instr) : Host.Outcome State Fault Refusal :=
  let s := (s.meetRegs i).walkFor i
  if s.halted s.self.ctx then .next s else s.mendRegs i (exec i s)

/-- A fetch that fails has made its walks: that of the first halfword, and of the second where the first translates (R53, R347). -/
def State.walkFailed (s : State) (t : Nat) : State :=
  let q := (s.thread t).who
  let pc := (s.thread t).pc.setWidth 64
  match s.translate q pc .exec with
  | .ok _ => s.walkRange q (pc, 4)
  | .error _ => s.walkTouch q pc

/-- The instruction of the thread that executes: fetched, decoded, executed (R57 steps 1 and 2). -/
def State.runInstr (s : State) : Host.Outcome State Fault Refusal :=
  match s.fetch s.cur with
  | .error f => .next ((s.walkFailed s.cur).raise f.cause f.val f.floor)
  | .ok (bs, s') =>
    if s'.halted s'.self.ctx then .next s'
    else match decodeBytes bs with
      | none => .next (s'.raise cILLEGAL (frame bs).bits)
      | some i => s'.execute i

/-! ## Who comes next (R266) -/

/-- The thread would issue now: a pending trap is due, or its instruction would not have to wait for a counter or an older access (R48, R188, R266). -/
def State.issuable (s : State) (t : Nat) : Bool :=
  ((s.thread t).duePending s.cycle).isSome ||
    (match State.runInstr { s.modThread t fun x => { x with deferred := false } with cur := t } with
      | .next s' => !(s'.thread t).deferred
      | _ => true)

/-- The threads of one front end that may come next: the ready slot whose turn it is, and those that wait, which look again whether the wait is over
(R244, R266). -/
def State.frontChoices (s : State) (ts : List Nat) : List Nat :=
  (s.leader (ts.filter fun t => !(s.thread t).stalled && s.issuable t)).toList ++ ts.filter fun t => (s.thread t).stalled

/-- The thread that issues in this step, if any can: the next of the group that is issuing, else, of the front ends that have one, whichever comes
next (R14, R266). -/
def State.nextIssuer (s : State) : Option Nat :=
  match s.group.find? s.canIssue with
  | some t => some t
  | none =>
    match (s.threads.map (·.1)).filter s.canIssue with
    | [] => none
    | [t] => some t
    | ts =>
      let fronts := risingSet (ts.map fun t => (s.thread t).frontEnd)
      let front := (fronts[Config.pick s.fresh fronts.length % fronts.length]?).getD 0
      match s.frontChoices (ts.filter fun t => (s.thread t).frontEnd == front) with
      | [t] => some t
      | cs => cs[Config.pick (s.fresh + 1) cs.length % max 1 cs.length]?

/-- The threads that issue in one group with a leader: the other ready slots of its core with the same context, PC and instruction word, lowest slots
first, sixteen threads in all (R266). -/
def State.groupWith (s : State) (t : Nat) : List Nat :=
  let x := s.thread t
  let word (u : Nat) : Option (List Byte) := match s.fetch u with
    | .ok (bs, _) => some bs
    | .error _ => none
  match x.place with
  | .slot _ =>
    (((s.coreAt x.core).slots.map (·.2)).filter fun u =>
      u != t && (s.thread u).ctx == x.ctx && (s.thread u).pc == x.pc && !(s.thread u).stalled && s.canIssue u && word u == word t && s.issuable u).take 15
  | _ => []

/-- A thread takes its turn: it is the one that executes. The members of its group follow in the next steps, which is an order of the same cycle
(R267). -/
def State.begin (s : State) (t : Nat) : State :=
  { s.modThread t fun x => { x with deferred := false } with
    cur := t, group := if s.group.contains t then s.group.filter (· != t) else if (s.thread t).stalled then [] else s.groupWith t }

/-- The thread in its slot has issued in this rotation if `b` says so. -/
def State.markIssued (s : State) (t : Nat) (p : Place) (b : Bool) : State :=
  if (Tab.find s.threads t).isSome && (s.thread t).place == p then s.modThread t fun x => { x with issuedNow := b } else s

/-- The slot of a thread that has issued from `s` becomes the most recent, and has issued in this rotation; where the instruction had issued before and
waits, or does not issue yet, it does not (R48, R210, R265, R266). -/
def State.noteIssue (s : State) (t : Nat) (o : Host.Outcome State Fault Refusal) : Host.Outcome State Fault Refusal :=
  let x := s.thread t
  match o with
  | .next s' =>
    if (s'.thread t).deferred then .next s'
    else if x.stalled then .next (s'.markIssued t x.place x.issuedNow)
    else match x.place with
      | .slot n => .next ((s'.markIssued t x.place true).modCore x.core fun k => { k with issuedAt := Tab.set k.issuedAt n s.fresh })
      | _ => .next s'
  | o => o

/-- A debugger's single step is over once the thread has issued (R366). -/
def endDebugStep (single : Bool) (t : Nat) (o : Host.Outcome State Fault Refusal) : Host.Outcome State Fault Refusal :=
  if single then
    match o with
    | .next s =>
      if (Tab.find s.threads t).isSome && !(s.thread t).stalled && !(s.thread t).deferred then
        .next (s.modThread t fun x => { x with debugStep := false }) else .next s
    | o => o
  else o

/-- A thread issues, unless a pending trap is due at this instruction boundary, which is then taken (R210, R386). -/
def State.issue (s : State) (t : Nat) : Host.Outcome State Fault Refusal :=
  match (if (s.thread t).stalled || (s.thread t).hold.isSome then none else (s.thread t).duePending s.cycle) with
  | some (p, y) => .next (State.raiseAsync (State.setThread { s with cur := t, group := s.group.filter (· != t) } t y) t p)
  | none => endDebugStep (s.thread t).debugStep t (s.noteIssue t (s.begin t).runInstr)

end Sys2Proof.Machine
end

