-- ==== Sys2Proof/Machine/Mapping.lean ====
section
/-!
DEFINITION. The pages that the translation tables map as ACC or DET, and what mapping one does: every NEXTKEY of the page is 0, every
identity record of it empty (08_infusers_and_determinism.md R165, R173).
-/

namespace Sys2Proof.Machine

/-- The entries of a table that hold a byte, by index; every other entry is 0, and so invalid. -/
def State.tableEntries (s : State) (ta : Nat) : List (Nat × Word) :=
  let cells := (s.mem.dropWhile fun c => c.1 < ta).takeWhile fun c => c.1 < ta + 4096
  (risingSet (cells.map fun c => (c.1 - ta) / 8)).map fun i => (i, s.word (ta + 8 * i))

/-- The ACC and DET leaves that a table at stage 1 leads to, as output address, size, and whether the class is ACC (R337, R338). -/
def State.classLeaves (s : State) (part : Nat) (s2en : Bool) (ta : Nat) : Nat → List (Nat × Nat × Bool)
  | 0 => []
  | lvl + 1 =>
    match s.s2 [] part 1 false s2en ta with
    | .error _ => []
    | .ok t =>
      if !isHbm t.pa then []
      else (s.tableEntries t.pa).flatMap fun ie =>
        match entryShape ie.2 lvl false (s.uniformGroup (t.pa + 8 * ie.1) ie.2) with
        | none => []
        | some 0 => s.classLeaves part s2en (Word.field ie.2 12 40 * 2 ^ 12) lvl
        | some size => if 2 ≤ Word.field ie.2 7 2 then [(Word.field ie.2 12 40 * 2 ^ 12, size, Word.field ie.2 7 2 == 2)] else []

/-- Pages mapped as ACC or DET by the tables of a context: its partition, whether stage 2 is on, the leaf, and its class. -/
structure ClassPage where
  part : Nat
  s2en : Bool
  base : Nat
  size : Nat
  acc : Bool
  deriving DecidableEq, Repr

/-- Every ACC and DET leaf of every context that has an enabled slot (R341). -/
def State.classPages (s : State) : List ClassPage :=
  s.parts.flatMap fun p => p.2.slots.flatMap fun sl =>
    let s2en := sl.2.getLsbD 23
    (s.classLeaves p.1 s2en (Word.field (p.2.field (slotBase sl.1 + 8)) 12 40 * 2 ^ 12) 5).map fun l =>
      { part := p.1, s2en, base := l.1, size := l.2.1, acc := l.2.2 }

/-- A physical address lies in a page. -/
def State.inClassPage (s : State) (pa : Nat) (g : ClassPage) : Bool :=
  if g.s2en then
    (List.range (g.size / 4096)).any fun k =>
      match s.s2 [] g.part 1 false true (g.base + 4096 * k) with
      | .ok o => o.pa / 4096 == pa / 4096
      | .error _ => false
  else g.base ≤ pa && pa < g.base + g.size

/-- The state after a step from `old`, with the pages that the step mapped as ACC or DET, or changed to that class, started anew: NEXTKEY of every line
of an ACC page 0, every identity record of a DET page empty (R165, R173). -/
def State.noteMaps (old s : State) : State :=
  if (s.nextKey.isEmpty && s.detRec.isEmpty) || (s.mem == old.mem && s.parts == old.parts) then s
  else
    let was := old.classPages
    let now := s.classPages
    let isNew (acc : Bool) (pa : Nat) : Bool :=
      (now.filter (·.acc == acc)).any (s.inClassPage pa) && !(was.filter (·.acc == acc)).any (old.inClassPage pa)
    { s with
      nextKey := Tab.keep (fun l _ => !isNew true (64 * l)) s.nextKey
      detRec := Tab.keep (fun w _ => !isNew false (8 * w)) s.detRec }

end Sys2Proof.Machine
end

