-- ==== Sys2Proof/Machine/Units.lean ====
section
/-!
DEFINITION. What the units of the device may do next, each as the move of the event of opcode_table.json that does it: the traffic, the cores'
engines, copies, inboxes and slots, the rings, the queue cores, and the requests and halts that are under way. Which comes first is open (R4).
-/

namespace Sys2Proof.Machine

/-- The move of a unit: what its event does to the device. -/
abbrev Move := State → State

/-- The move that takes the packet at place `k` of the traffic further. -/
def packetMove (k : Nat) : Packet → Move
  | .load a => if a.cls == .caddy then (caddyAccessArrival · k) else (homeAccess · k)
  | .store a _ => if a.cls == .caddy then (caddyAccessArrival · k) else (homeAccess · k)
  | .discard _ => (homeAccess · k)
  | .clean _ _ => (homeAccess · k)
  | .atomic _ _ _ _ _ => (atomicAtHome · k)
  | .accInit _ _ _ => (homeAccess · k)
  | .detNext _ _ => (homeAccess · k)
  | .drainRow _ _ _ _ _ => (homeAccess · k)
  | .loadReply _ _ _ _ => (loadReply · k)
  | .loadRefused _ _ _ _ => (loadReply · k)
  | .ack _ _ => (storeAck · k)
  | .storeRefused _ _ _ _ _ => (storeRefusal · k)
  | .red _ => (infuserArrival · k)
  | .redAck _ => (reductionAck · k)
  | .send _ => (inboxAppend · k)
  | .held _ => (sendRetry · k)
  | .sendReply _ _ => (sendReply · k)
  | .move _ _ _ _ => (fullThreadArrival · k)

/-- The walks that an access on its way may cause (R345). -/
def Packet.walks (p : Packet) : List Move :=
  let kind : BitVec 3 := match p with
    | .load _ => 0
    | .atomic _ _ _ _ _ => 2
    | _ => 1
  (p.accesses.filter fun a => a.cls != .caddy).map fun a => (walkBegin · a.thread a.va kind)

/-- The moves of the traffic. -/
def State.netMoves (s : State) : List Move := s.net.zipIdx.flatMap fun p => packetMove p.2 p.1 :: p.1.walks

/-- The moves that concern a thread: the walk of a fetch, the fill of a register line, a pending trap that may be due. -/
def threadMoves (t : Nat) (x : Thread) : List Move :=
  (if x.inSlot.isSome || x.onService.isSome then [(walkBegin · t (x.pc.setWidth 64) 3)] else []) ++
  (((List.range 16).filter fun i => x.fetchMiss.getLsbD i && x.place != .moving).map fun i => (registerCacheFill · t (BitVec.ofNat 4 i).toNat)) ++
  (if x.warm then [(registerCacheEvict · t)] else []) ++
  (if x.refusal.isSome || x.copyFault.isSome || x.msgGone.isSome then [(pendingTrapDeadline · t)] else [])

/-- The moves of a channel: its active copy moves on or completes, with the walk of its next byte. -/
def Channel.moves (k : Channel) (c : Coord) (ch : BitVec 2) : List Move :=
  match k.copies with
  | [] => []
  | cp :: _ =>
    if cp.region ≤ cp.done then [(copyComplete · c ch.toNat)]
    else (copyLineTransfer · c ch.toNat) :: (match cp.byteAt cp.done with
      | .mem va => if isCaddy va then [] else [(walkBegin · cp.thread va (if cp.load then 0 else 4))]
      | _ => [])

/-- The moves of a core. -/
def State.coreMoves (s : State) (c : Coord) (k : Core) : List Move :=
  ((List.range 4).flatMap fun ch => (k.chan ch).moves c (BitVec.ofNat 2 ch)) ++
  (if k.engine.holder.isSome || !k.engine.steepQ.isEmpty || k.convene.toList.any (·.any (·.ready)) then [(engineArbitration · c)] else []) ++
  (if k.engine.queue.isEmpty then [] else [(matrixCommandComplete · c), (matrixLine · c)]) ++
  ((List.range k.retry.length).map fun i => (retryResend · c i)) ++
  (if k.ctxs.isEmpty then [] else [(rotationBoundary · c)]) ++
  (if k.inboxes.any fun i => i.2.entries.any (·.kind == 2) then [(instantiateContinuation · c)] else []) ++
  ((k.inboxes.filter fun i => !i.2.holds.isEmpty).map fun i => (holdLapse · c (BitVec.ofNat 16 i.1))) ++
  ((List.range ((k.ring.map (·.tails.length)).getD 0)).map fun i => (steepTailDone · c i)) ++
  (if s.idleCore c && !k.clockGated then [(coreClockGate · c)] else [])

/-- The moves of the queue cores (R249, R257, R258). -/
def State.queueMoves (s : State) : List Move :=
  ((s.queues.filter fun q => q.2.en && q.2.head != q.2.tail).map fun q => (packetRead · q.1)) ++
  ((risingSet (s.pours.map fun p => p.queue / 8)).map fun qc => (materialiseThread · qc)) ++
  ((s.pours.filter fun p => p.count ≤ p.made && p.live == 0).map fun p => (pourComplete · p.ctx p.num)) ++
  ((risingSet (s.threads.map fun e => e.2.queue / 8)).map fun qc => (queueBalance · qc))

/-- What a partition's pending POWER request does (table Partition configuration block). -/
def powerMove (p : BitVec 6) (x : Word) : Move :=
  let c : Coord := BitVec.ofNat 9 (Word.field x 0 9)
  if x.getLsbD 11 then (partitionWake · p.toNat)
  else if x.getLsbD 10 then (partitionSleep · p.toNat)
  else if x.getLsbD 9 then (powerGateCore · p.toNat c)
  else (powerWakeCore · p.toNat c)

/-- What a pending SWITCH request does (R387, R390). -/
def switchMove (p : BitVec 6) (x : Word) : Move :=
  let ctx : CtxId := BitVec.ofNat 16 (Word.field x 0 16)
  let c : Coord := BitVec.ofNat 9 (Word.field x 16 9)
  if x.getLsbD 25 then (switchIn · p.toNat ctx c) else (switchOut · p.toNat ctx c)

/-- What a pending RANKCMD does (R357). -/
def rankMove (p : BitVec 6) (x : Word) : Move :=
  (rankcmd · p.toNat (BitVec.ofNat 6 (Word.field x 16 6)).toNat (BitVec.ofNat 16 (Word.field x 0 16)).toNat (x.getLsbD 22))

/-- What a pending RESETREQ does: the partition reset first, then that of the device (R403, R404). -/
def resetMove (p : BitVec 6) (x : Word) : Move := if x.getLsbD 0 then (partitionReset · p.toNat) else hbmPreservingReset

/-- The moves that the requests in a partition's registers ask for (R354). -/
def partMoves (n : Nat) (p : Part) : List Move :=
  let i : BitVec 6 := BitVec.ofNat 6 n
  (if p.commitReq.isSome then [(commitStep · i.toNat)] else []) ++ p.powerReq.toList.map (powerMove i) ++ p.switchReq.toList.map (switchMove i) ++ p.resetReq.toList.map (resetMove i) ++
    p.rankReq.toList.map (rankMove i)

/-- The moves that the device's units may make now. -/
def State.unitMoves (s : State) : List Move :=
  s.netMoves ++ (s.threads.flatMap fun e => threadMoves e.1 e.2) ++ ((s.cores.filter fun e => coreExists (BitVec.ofNat 9 e.1)).flatMap fun e => s.coreMoves (BitVec.ofNat 9 e.1) e.2) ++
  ((s.rings.filter fun e => e.2.running).map fun e => (beatBoundary · (BitVec.ofNat 16 (e.1 / 64)) (BitVec.ofNat 6 e.1).toNat)) ++
  s.queueMoves ++
  ((s.ctxs.filter fun e => e.2.halt.any (!·.complete)).map fun e => (haltComplete · (BitVec.ofNat 16 e.1))) ++
  (s.parts.flatMap fun e => partMoves e.1 e.2) ++
  (if s.sec.tokens.isEmpty then [] else [tokenDue]) ++ (if s.devReset then [hbmPreservingReset] else []) ++
  (s.walks.map fun w => (pageWalkComplete · w.thread w.va)) ++ (s.regions.map fun r => (regionMerge · r.base r.lg))

/-- Threads parked at an inbox that holds messages wake (R289). -/
def State.wakeInboxes (s : State) : State :=
  if s.threads.any fun e => e.2.park == some .inbox then
    s.cores.foldl (fun s e => e.2.ctxs.foldl (fun s ctx => s.wakePoppers (BitVec.ofNat 9 e.1) ctx) s) s
  else s

/-- One unit moves, among those that may. -/
def State.unitTurn (s : State) : Host.Outcome State Fault Refusal :=
  let s := s.wakeInboxes.wakeBarriers
  let ms := s.unitMoves
  match ms[Config.pick s.fresh ms.length % max 1 ms.length]? with
  | some f => .next (f s)
  | none => .next s

/-- The counters that every step advances: the source of fresh values, device time and core cycles; and the soft errors that strike (log entry 2,
R395). Less than 2^32 ns pass in a step, so that device time does not pass its end unseen (R30). -/
def State.tick (s : State) : State :=
  State.landStrikes { s with
    fresh := s.fresh + 1
    time := s.time + BitVec.ofNat 64 (Config.elapsedNs s.fresh % 2 ^ 32)
    cycle := s.cycle + Config.elapsedCycles s.fresh }

/-- An operation or event of the device, which no thread issues: it has no encoding. -/
def isEvent (i : Instr) : Bool := (encode i).size == 0

/-- One step: an event given from outside, else a thread's instruction or a unit's event, turn about, whichever there is. -/
def State.advance (s : State) : Host.Outcome State Fault Refusal :=
  match s.inputs with
  | i :: rest =>
    let s := { s with inputs := rest }
    if isEvent i then exec i s else .next s
  | [] =>
    let s' := { s with turn := !s.turn }
    match (if s.turn || s.unitMoves.isEmpty then s.nextIssuer else none) with
    | some t => s'.issue t
    | none => s'.unitTurn

/-- A step from `s`, and the pages that it mapped (R165, R173). -/
def State.mapped (s : State) (o : Host.Outcome State Fault Refusal) : Host.Outcome State Fault Refusal :=
  match o with
  | .next t => .next (s.noteMaps t)
  | .fault f => .fault f
  | .refused r => .refused r

end Sys2Proof.Machine
end

