-- ==== Sys2Proof/Machine/Step.lean ====
section
/-!
DEFINITION. The step of the device, and the placing of one instruction where it fetches.
-/

namespace Sys2Proof.Machine

/-- One step of the device: the counters, the move, and what a page newly mapped brings. -/
def step (s : State) : Host.Outcome State Fault Refusal := s.mapped s.tick.advance

/-- The state with one instruction placed where the next step fetches. -/
def State.withFetchWord (s : State) (nbits w : Nat) : State := s.placeWord nbits w

end Sys2Proof.Machine
end

