-- ==== Sys2Proof/Safety.lean ====
section
/-!
DEFINITION. What counts as a safe run: every step has an outcome (00_scope.md R4), and memory stays in its canonical form, so that equal
bytes are equal states. And the traffic of a partition, which no other partition's changes (19_isolation_translation.md R352).
-/

namespace Sys2Proof.Machine

/-- The step from a state has an outcome: the device neither stops nor meets an operation without a meaning (R4). -/
def State.Definite (s : State) : Prop := ∃ t, step s = .next t

/-- The memory of a state lists its bytes in order of address, and none that is zero. -/
def State.Canonical (s : State) : Prop := Memory.wf s.mem = true

/-- The contexts for whose threads a group is counted. -/
def State.groupCtxs (s : State) (g : Nat) : List CtxId :=
  match Tab.find s.groups g with
  | some x => x.threads.map fun t => (s.thread t).ctx
  | none => []

/-- The contexts that an access serves: its own, that of its thread, and those of its group. -/
def State.accessCtxs (s : State) (a : Access) : List CtxId := a.ctx :: (s.thread a.thread).ctx :: s.groupCtxs a.id

/-- The contexts that a packet of the mesh serves (R352). -/
def State.packetCtxs (s : State) : Packet → List CtxId
  | .load a | .store a _ | .discard a | .clean a _ | .atomic a _ _ _ _ | .accInit a _ _ | .detNext a _ => s.accessCtxs a
  | .drainRow ls _ _ es sc => (ls ++ es ++ sc).flatMap s.accessCtxs
  | .loadReply t _ _ _ | .loadRefused t _ _ _ | .move t _ _ _ => [(s.thread t).ctx]
  | .ack t g | .storeRefused t g _ _ _ => (s.thread t).ctx :: s.groupCtxs g
  | .red r => r.ctx :: r.groups.flatMap s.groupCtxs
  | .redAck g => s.groupCtxs g
  | .send m | .held m | .sendReply m _ => [m.sctx, m.ctx]

/-- A packet is one of a partition: it serves a context of it (R352). -/
def State.packetOf (s : State) (p : Nat) (x : Packet) : Bool :=
  (s.packetCtxs x).any fun c => (s.slotOf c).map (·.1) == some p

/-- The packets of a partition in the mesh, in their order (R352). -/
def State.traffic (s : State) (p : Nat) : List Packet := s.net.filter (s.packetOf p)

/-- A packet of an ordinary access or of its answer. -/
def Packet.ordinary : Packet → Bool
  | .load a | .store a _ | .discard a | .clean a _ | .atomic a _ _ _ _ => a.cls != .caddy
  | .loadReply _ _ _ _ | .loadRefused _ _ _ _ | .ack _ _ | .storeRefused _ _ _ _ _ => true
  | _ => false

/-- `k` steps, each with an outcome, all from states with canonical memory. -/
def State.SafeFor : Nat → State → Prop
  | 0, s => s.Canonical
  | k + 1, s => s.Canonical ∧ ∃ t, step s = .next t ∧ State.SafeFor k t

end Sys2Proof.Machine
end

