-- ==== Sys2Proof/Certificates/Slice0/Obligations.lean ====
section
/-!
DEFINITION. The obligations: what this model claims of the hardware, rule by rule. `Claims` holds the words that the statements share.
-/

namespace Sys2Proof.Claims

open Sys2Proof.Machine

/-- An outcome of an instruction. -/
abbrev Out := Host.Outcome State Fault Refusal

/-- An instruction of `size` bytes of the executing thread completes by going to the next address: SSTEP is 0 (R377), and no loop ends at that
address (R273). -/
abbrev Plain (s : State) (size : Nat) : Prop :=
  s.self.sstep = false ∧
  ¬ (s.self.pc.setWidth 64 + BitVec.ofNat 64 size = s.self.lend &&& 0xFFFFFFFFFFFE ∧
      Word.field s.self.lend 48 2 = s.self.pl ∧ s.self.lc ≠ 0)

/-- What every instruction that completes leaves in its thread beside its own effect: the next PC, and the record that it has issued. -/
def issuedAt (now : Nat) (pc : BitVec 48) (x : Thread) : Thread :=
  { x with pc := pc, stalled := false, deferred := false, lastIssue := now, issuedNow := true, woken := false }

/-- `t`, in which the executing thread has moved past an instruction of `size` bytes of `s`. -/
def past (s : State) (size : Nat) (t : State) : State :=
  t.modSelf (issuedAt s.fresh (s.self.pc + BitVec.ofNat 48 size))

/-- Only the executing thread differs, by `f`, and the instruction of `size` bytes completes in sequence: every other thread, every byte of
memory and every other field of the state is unchanged. -/
def onlySelf (s : State) (size : Nat) (f : Thread → Thread) : Out := .next (past s size (s.modSelf f))

/-- `gd := v` and nothing else; a write to g0 is discarded (R35). -/
def writesG (s : State) (size : Nat) (d : BitVec 5) (v : Word) : Out :=
  onlySelf s size fun x => x.setG d v

/-- `pd := c` and nothing else; a write to p0 is discarded (R35). -/
def writesP (s : State) (size : Nat) (d : BitVec 3) (c : Bool) : Out := onlySelf s size fun x => x.setP d c

/-- A guard of F-R, satisfied (R56). -/
abbrev Guard (s : State) (g : BitVec 4) : Prop := s.self.getP (g.extractLsb' 0 3) = !g.getLsbD 3

/-- The guard field of an instruction of a guarded major (R56). -/
def guardOf : Instr → Option (BitVec 4)
  | .add g _ _ _ | .sub g _ _ _ | .and g _ _ _ | .or g _ _ _ | .xor g _ _ _ | .andn g _ _ _ | .shl g _ _ _ | .shr g _ _ _ | .sra g _ _ _
  | .rot g _ _ _ | .min g _ _ _ | .max g _ _ _ | .minn g _ _ _ | .maxn g _ _ _ | .mov g _ _ | .sel g _ _ _ _ | .bfx g _ _ _ | .bfxn g _ _ _
  | .bfi g _ _ _ | .clz g _ _ | .ctz g _ _ | .popc g _ _ | .brev g _ _ | .mul g _ _ _ | .mulh g _ _ _ | .mulhn g _ _ _ | .div g _ _ _
  | .divn g _ _ _ | .rem g _ _ _ | .remn g _ _ _ | .amoAdd g _ _ _ _ | .amoAnd g _ _ _ _ | .amoOr g _ _ _ _ | .amoXor g _ _ _ _
  | .amoMin g _ _ _ _ | .amoMax g _ _ _ _ | .amoMinn g _ _ _ _ | .amoMaxn g _ _ _ _ | .amoSwap g _ _ _ _ | .amoCas g _ _ _ _
  | .amoFadd g _ _ _ _ | .vadd g _ _ _ | .vsub g _ _ _ | .vmul g _ _ _ | .vdiv g _ _ _ | .vmin g _ _ _ | .vmax g _ _ _ | .vfma g _ _ _
  | .vfms g _ _ _ | .vfnma g _ _ _ | .vfnms g _ _ _ | .vcmp g _ _ _ _ | .vabs g _ _ | .vneg g _ _ | .vsqrt g _ _ | .vrcp g _ _
  | .vrsq g _ _ | .vexp2 g _ _ | .vlog2 g _ _ | .viadd g _ _ _ | .visub g _ _ _ | .vimul g _ _ _ | .vimac g _ _ _ | .viaddS g _ _ _
  | .visubS g _ _ _ | .vimulS g _ _ _ | .vimacS g _ _ _ | .vshl g _ _ _ | .vshr g _ _ _ | .vsra g _ _ _ | .vand g _ _ _ | .vor g _ _ _
  | .vxor g _ _ _ | .vcvt g _ _ _ _ _ | .vqnt g _ _ _ _ | .vdeq g _ _ _ _ | .vdot g _ _ _ | .vsplat g _ _ _ | .vmov g _ _ | .vsel g _ _ _
  | .vshuf g _ _ _ | .vext g _ _ _ | .vins g _ _ _ | .vhsum g _ _ | .vhmax g _ _ | .cnvJoin g _ _ _ | .cnvTry g _ _ _ _ | .cnvLeave g
  | .spawn g _ _ | .spawnM g _ _ | .spawnTry g _ _ _ _ | .spawnMTry g _ _ _ _ | .migrate g _ | .migrateTry g _ _ | .suspend g _ | .yield g
  | .exit g | .msgApp g _ _ | .msgAppRel g _ _ | .msgTry g _ _ _ _ | .msgTryRel g _ _ _ _ | .msgPop g _ _ | .msgPoll g _ _ _
  | .ringCfg g _ _ | .ringPut g _ _ | .ringGo g | .steepDone g | .ringTry g _ _ _ _ | .ringTake g _ _ => some g
  | _ => none

/-- The acquire at a scope: at CLUS and wider, the lines that the thread's core does not own go (R192). -/
def acquired (s : State) (scope : Nat) : State :=
  if scope = 0 then s else s.modCore s.self.unit fun k => { k with l1 := k.l1.filter (·.owned) }

/-- Nothing that a release at a scope waits for: no older load or store of the thread is on its way, no refusal is pending, and at SYS no write
of its context to host memory is (R191, R210). -/
abbrev Released (s : State) (scope : Nat) : Prop :=
  s.self.loads = [] ∧ s.self.st = 0 ∧ s.self.refusal = none ∧ (scope = 5 → s.hostWritesOut s.self.ctx = false)

/-- No access of the executing thread is on its way, and no send of it whose append is a release (R191, R288). -/
abbrev Quiet (s : State) : Prop := ∀ p ∈ s.net, (∀ a ∈ p.accesses, a.thread ≠ s.cur) ∧ p.releases ≠ some s.cur

/-- No soft error stands in the device (R395). -/
abbrev Sound (s : State) : Prop := s.softUnits = [] ∧ s.badUnits = []

/-- The core's caddy is in place and holds no convene object that is known there. -/
abbrev NoConvene (k : Core) : Prop := k.savedCaddy = [] ∧ k.savedConv = [] ∧ k.convene = Vector.replicate 8 none

/-- `va` names bytes of the caddy of the executing thread's own core, whose primary context is the thread's, at `g` (R49, R50); the caddy holds
no live convene object, no older access or release of the thread is on its way, and no soft error stands. -/
abbrev OwnCaddy (s : State) (va : Word) (n : Nat) (k : Kind) (g : Target) : Prop :=
  isCaddy va = true ∧ va.toNat % 8 + n ≤ 8 ∧ s.locate s.self.who va n k = .ok g ∧ s.ownCaddy g = true ∧ NoConvene (s.coreAt s.self.core) ∧
  Quiet s ∧ Sound s

/-- `va` names bytes of memory, of one aligned doubleword, at `g`: neither a caddy nor a pod peer (R205). -/
abbrev InMemory (s : State) (va : Word) (n : Nat) (k : Kind) (g : Target) : Prop :=
  va.toNat % 8 + n ≤ 8 ∧ s.locate s.self.who va n k = .ok g ∧ g.cls ≠ .caddy ∧ g.cls ≠ .pod

/-- A place in the caddy of the executing thread's own core, as `OwnCaddy`, for a range of `n` bytes, whose first byte has the key `key`. -/
abbrev OwnCaddyAt (s : State) (va : Word) (n key : Nat) : Prop :=
  isCaddy va = true ∧ s.caddyPlace s.self.who va n = .ok (s.self.core, key % 2 ^ 18) ∧ key = caddyKey s.self.core (key % 2 ^ 18) ∧
  s.self.onService = none ∧ s.primary s.self.ctx s.self.core = true ∧ NoConvene (s.coreAt s.self.core) ∧ Quiet s ∧ Sound s

/-- The pieces of an access to memory of `n` bytes: `us`, none of them in a caddy or at a pod peer (R205, R118). -/
abbrev InMemoryAs (s : State) (va : Word) (n unit : Nat) (k : Kind) (us : List Unit8) : Prop :=
  s.locateUnits k va n unit = .ok us ∧ ∀ u ∈ us, u.t.cls ≠ .caddy ∧ u.t.cls ≠ .pod

/-- The requests of a load for its pieces: each with its place in the load's buffer (R205). -/
def loadsFor (s : State) (us : List Unit8) : List Packet :=
  (withOffsets 0 us).map fun l => .load { s.accessTo l.2 with id := s.nextId, off := l.1 }

/-- The requests of a store of `bs` for its pieces, each with the bytes that are its own (R205). -/
def storesFor (s : State) (us : List Unit8) (bs : List Byte) : List Packet :=
  (withOffsets 0 us).map fun l => .store (s.accessTo l.2) ((bs.drop l.1).take l.2.n)

/-- The flags of `n` lanes together (R86). -/
def flagsOf (n : Nat) (r : Nat → Nat × Flags) : Flags := (List.range n).foldl (fun f k => f ||| (r k).2) 0

/-- `vd` gets the tag and, in its `n` lanes of `w` bits, the values of `r`; the flags of the lanes become sticky in sr.fcsr; nothing else
changes (R86, R114). -/
def writesLanes (i : Instr) (s : State) (d tag : BitVec 4) (n w : Nat) (r : Nat → Nat × Flags) : Prop :=
  ∃ x : BitVec 128, (∀ k, k < n → lane x w k = (r k).1 % 2 ^ w) ∧
    exec i s = onlySelf s 4 fun t => (t.setV d x tag).addFlags (flagsOf n r)

/-- An exact value rounded once to a format, with the flags of the operation and of the rounding (R82, R85). -/
def rounded (k : Fmt) (mode : RMode) (r : FVal × Flags) : Nat × Flags := ((k.round mode false r.1).1, (k.round mode false r.1).2 ||| r.2)

/-- The balanced tree over 2^j lanes from `i` on (R137). -/
def treeOf (op : Nat → Nat → Nat × Flags) (x : Nat → Nat) : Nat → Nat → Nat × Flags
  | 0, i => (x i, 0)
  | j + 1, i => ((op (treeOf op x j i).1 (treeOf op x j (i + 2 ^ j)).1).1,
      (op (treeOf op x j i).1 (treeOf op x j (i + 2 ^ j)).1).2 ||| (treeOf op x j i).2 ||| (treeOf op x j (i + 2 ^ j)).2)

/-- The number that a finite value stands for (R79). -/
def numberOf : FVal → Option ℚ
  | .fin neg m e => some ((if neg then -1 else 1) * (m : ℚ) * (2 : ℚ) ^ e)
  | _ => none

/-- The value of `n` bytes, sign- or zero-extended (R207). -/
def extended (bs : List Byte) (n : Nat) (signed : Bool) : Word :=
  if signed then (BitVec.ofNat (8 * n) (leNat bs)).signExtend 64 else (BitVec.ofNat (8 * n) (leNat bs)).setWidth 64

/-- Of every thread, `u` changes no more than waking does: whether and where it waits, and for how long it has (R263, R289). -/
def wakesOnly (s u : State) : Prop :=
  ∀ t, let x := u.thread t
    x = { s.thread t with park := x.park, woken := x.woken, place := x.place, joinedAt := x.joinedAt, issuedNow := x.issuedNow }

/-- Every key is gone in `u`, and every partition of `s` has been reset: its cores are cleared but for their power state, and what a key sealed reads
zero (R364, R404; log entry 35). -/
def wiped (s u : State) : Prop :=
  (∀ p, (u.part p).key = none) ∧ (∀ a, s.sealed a = true → u.byte a = 0) ∧
  ∀ e ∈ s.parts, ∀ c ∈ s.partCores e.1, u.coreAt c = { powerGated := (s.coreAt c).powerGated, clockGated := (s.coreAt c).clockGated }

/-- An operation answers a next state of which `P` holds. -/
def answers (i : Instr) (s : State) (P : State → Prop) : Prop := ∃ t, exec i s = .next t ∧ P t

/-- Every thread but `t` is as it was. -/
def othersKeep (s u : State) (t : Nat) : Prop := ∀ v, v ≠ t → u.thread v = s.thread v

/-- The thread is not at an instruction boundary, or no pending trap of it is due there (R210, R224, R386). -/
abbrev NoneDue (s : State) (t : Nat) : Prop :=
  (s.thread t).stalled = true ∨ (s.thread t).hold.isSome = true ∨ (s.thread t).duePending s.tick.cycle = none

/-- Every counter of the executing thread is zero, nothing of it is on its way, and no trap is pending (R48, R210). -/
abbrev Idle (s : State) : Prop :=
  s.self.drained = true ∧ s.self.loads = [] ∧ s.self.refusal = none ∧ s.self.copyFault = none ∧ s.self.msgGone = none

/-- The executing thread is gone: the state after is `w` without it, where `w` has the memory of `s` and the traffic `net`. -/
def gone (i : Instr) (s : State) (net : List Packet) (P : State → Prop) : Prop :=
  ∃ w, exec i s = .next { w with threads := Tab.erase w.threads s.cur } ∧ w.net = net ∧ w.mem = s.mem ∧ P w

/-- A thread that is in the device, not stopped, and waits neither for counters nor for a reply. -/
abbrev Running (s : State) (t : Nat) : Prop :=
  (Tab.find s.threads t).isSome ∧ (s.thread t).park = none ∧ (s.thread t).hold = none ∧ (s.thread t).imagePa = none ∧
  (s.thread t).rosterPa = none

/-- Control passes to `pc`, and only the executing thread differs, by `f` (R271). -/
def goesTo (s : State) (pc : BitVec 48) (f : Thread → Thread) : Out :=
  .next ((s.modSelf f).modSelf (issuedAt s.fresh pc))

/-- A precise trap of the executing thread: its instruction has no effect, and the trap is delivered at its address (R370, R373). While an acquire
of the thread is under way the instruction waits with it, since the acquire completes first (R224). -/
def traps (s : State) (cause : Nat) (val : Word) : Out :=
  if s.self.hold = none then .next (s.deliver s.cur { cause, val, epc := s.self.pc.setWidth 64 })
  else .next (s.modSelf fun x => { x with deferred := true })

/-- A barrier object after the first fault of its phase, by a copy with the word `w`: the code, the address below bit 57 and the channel that the word
names are recorded, and nothing else of it changes (R234, R235). -/
def faulted (o q : Bar) (code : Nat) (va : Word) (w : Word) : Prop :=
  q.fault = true ∧ Word.field q.w0 50 3 = code ∧ Word.field q.w1 0 57 = va.toNat % 2 ^ 57 ∧ Word.field q.w1 57 2 = cwChan w ∧
  q.count = o.count ∧ q.pend = o.pend ∧ q.xfer = o.xfer ∧ q.phase = o.phase ∧ q.scope = o.scope

/-- An address that the PC can hold: below 2^48 and even (R44). -/
abbrev GoodPc (x : Word) : Prop := x.toNat < 2 ^ 48 ∧ x.toNat % 2 = 0

end Sys2Proof.Claims

open Sys2Proof Sys2Proof.Machine Sys2Proof.Claims

/-! ## Encoding -/

/-- R101, R106, R61: words that the manual works out, and what they stand for; and a word with a reserved bit set, which stands for nothing. -/
def Obligations.WorkedWordsDecode : Prop :=
  decode (.word 0xA00A4183) = some (.add 0xA 3 4 5) ∧
  decode (.word 0xFFFA7189) = some (.cmpi 3 7 0xFFF 5) ∧
  decode (.word 0xFFFA7589) = none ∧
  decode (.half 0x1064) = some (.cAdd 3 4) ∧
  decode (.word 0x00083183) = some (.add 0 3 3 4)

/-- For every well-formed instruction that has an encoding, decoding its code gives it back. -/
def Obligations.DecodeOfEncode : Prop :=
  ∀ i : Instr, wellFormed i = true → encode i ≠ .none → decode (encode i) = some i

/-- R52, R53: whatever code decodes, the instruction's code is that code, so that no bit of a word is dropped and no two words mean one instruction;
and the bytes of an instruction, whatever follows them, are framed and decoded as that instruction. -/
def Obligations.EncodeOfDecode : Prop :=
  (∀ (c : Code) (i : Instr), decode c = some i → encode i = c ∧ wellFormed i = true) ∧
  (∀ (i : Instr) (rest : List Byte), wellFormed i = true → encode i ≠ .none →
     decodeBytes ((encode i).bytes ++ rest) = some i)

/-! ## Step -/

/-- R57: a step in which a thread has its turn is the execution of the instruction that its fetch yields, on the state that the fetch leaves, with
the record that its slot has issued (R266) and then what a page that it mapped brings (R165). Before it executes, its registers are read and its
walks made, which may meet a soft error and halt it, and a register that it writes whole is free of one after (R347, R397; log entry 41); with no
error and no owned line these change nothing but which lines the slices hold. -/
def Obligations.StepRunsTheDecodedInstruction : Prop :=
  ∀ (s s' : State) (t : Nat) (bs : List Byte) (i : Instr),
    let u : State := { s.tick with turn := false }
    let v := (s'.meetRegs i).walkFor i
    s.inputs = [] → s.turn = true → s.tick.nextIssuer = some t → (s.thread t).debugStep = false → NoneDue s t →
    (u.begin t).fetch t = .ok (bs, s') → s'.halted s'.self.ctx = false → decodeBytes bs = some i →
    step s = s.mapped (u.noteIssue t (if v.halted v.self.ctx then .next v else v.mendRegs i (exec i v))) ∧
    (s'.regions = [] → Sound s' → ∃ l2, step s = s.mapped (u.noteIssue t (exec i { s' with l2 := l2 })))

/-- R57 step 2: bytes that do not decode raise ILLEGAL, with the word as the trap's value. An operation or event given to the device is the next
thing that it does (log entry 6). -/
def Obligations.UndecodedWordsAndGivenEvents : Prop :=
  (∀ (s s' : State) (t : Nat) (bs : List Byte),
     s.inputs = [] → s.turn = true → s.tick.nextIssuer = some t → (s.thread t).debugStep = false → NoneDue s t →
     let u : State := { s.tick with turn := false }
     (u.begin t).fetch t = .ok (bs, s') → s'.halted s'.self.ctx = false → decodeBytes bs = none →
     step s = s.mapped (u.noteIssue t (traps s' 1 (frame bs).bits))) ∧
  (∀ (s : State) (i : Instr) (rest : List Instr), s.inputs = i :: rest → encode i = .none →
     step s = s.mapped (exec i { s.tick with inputs := rest }))

/-- R6, R53: on a core whose instruction cache and loop buffers hold nothing, the fetch of a halfword of HBM text yields the two bytes of memory at
its physical address, where no soft error stands (that a halfword in neither is fetched as it stands is the model's choice, log entry 17). -/
def Obligations.FetchReadsMemory : Prop :=
  ∀ (s : State) (t : Nat) (va : Word) (g : Target),
    s.translate (s.thread t).who va .exec = .ok g → g.cls = .trk ∨ g.cls = .unt → g.pa % 2 = 0 →
    Sound s → (s.coreAt (s.thread t).unit).icache = [] → (s.coreAt (s.thread t).unit).loops = [] →
    ∃ s', s.fetchHalf t va = .ok ([s.byte g.pa, s.byte (g.pa + 1)], s') ∧ s'.mem = s.mem ∧ s'.threads = s.threads

/-! ## Invariants -/

/-- R6, log entry 1: memory keeps its canonical form through every step, whatever moves: keys strictly rising and no zero byte listed, so that
two states with the same bytes have the same memory. -/
def Obligations.MemoryStaysCanonical : Prop :=
  ∀ s t : State, Memory.wf s.mem = true → step s = .next t → Memory.wf t.mem = true

/-- R4: every outcome is definite: no step faults or is refused, whatever the state. -/
def Obligations.EveryStepAnswers : Prop := ∀ s : State, ∃ t, step s = .next t

/-- R363, R402: after reset the debug state is CLOSED, the power level P3 and first light in progress; no thread, pour, packet or listed byte of
memory is there. Memory is then in its canonical form, and so it is once an instruction has been placed for the fetch (log entries 1, 3 and 6). -/
def Obligations.ResetState : Prop :=
  (State.reset.threads = [] ∧ State.reset.pours = [] ∧ State.reset.mem = [] ∧ State.reset.net = [] ∧
   State.reset.sec.debugState = 0 ∧ State.reset.sec.plevel = 3 ∧ State.reset.sec.firstLight = true ∧ State.reset.viral.on = false ∧
   (∀ q, State.reset.queue q = {}) ∧ (∀ c, State.reset.coreAt c = {})) ∧
  (Memory.wf State.reset.mem = true ∧ ∀ nbits w : Nat, Memory.wf (State.reset.withFetchWord nbits w).mem = true)
/-! ## Integer instructions -/

/-- R35, R6, R185: g0 reads zero and p0 reads true, whatever has been written, and a write to either leaves the thread as it is; any other register
reads what was written to it, and keeps it while others are written. A packed register and its tag read what was written to them, and the fifteen
others keep theirs (R36, R114); the five flags of an operation are joined to bits 8 to 4 of sr.fcsr, where a flag once set stays set, and no other bit
of it changes (R42, R86). A write of bytes changes the bytes that it names and no other, and keeps memory canonical. -/
def Obligations.ReadsAfterWrites : Prop :=
  (∀ (x : Thread) (v : Word) (c : Bool),
     (x.getG 0 = 0) ∧ (x.getP 0 = true) ∧ (x.setG 0 v = x) ∧ (x.setP 0 c = x) ∧
     (∀ d r : BitVec 5, d ≠ 0 → (x.setG d v).getG r = if r = d then v else x.getG r) ∧
     (∀ d r : BitVec 3, d ≠ 0 → (x.setP d c).getP r = if r = d then c else x.getP r)) ∧
  (∀ (x : Thread) (w : BitVec 128) (t : BitVec 4) (f : Flags),
     (∀ d r : BitVec 4, (x.setV d w t).v[r.toNat] = (if r = d then w else x.v[r.toNat]) ∧
       (x.setV d w t).tag[r.toNat] = (if r = d then t else x.tag[r.toNat]) ∧
       x.setV d w t = { x with v := (x.setV d w t).v, tag := (x.setV d w t).tag }) ∧
     (∀ k, (x.addFlags f).fcsr.getLsbD k = (x.fcsr.getLsbD k || (decide (4 ≤ k ∧ k < 9) && f.getLsbD (k - 4)))) ∧
     x.addFlags f = { x with fcsr := (x.addFlags f).fcsr }) ∧
  (∀ (m : List Host.Cell) (a : Nat) (bs : List Byte), Memory.wf m = true →
     Memory.wf (Memory.writeList m a bs) = true ∧
     (∀ x, a ≤ x → x < a + bs.length → Memory.read (Memory.writeList m a bs) x = bs.getD (x - a) 0) ∧
     (∀ x, x < a ∨ a + bs.length ≤ x → Memory.read (Memory.writeList m a bs) x = Memory.read m x))

/-- R101, R112, R113: the value that each form of majors 0x01 and 0x06 writes to gd, and that nothing else changes; division by zero and the one
overflow have their stated values. The words of major 0x06 stand for these forms, whatever the guard, and those of another minor6 for none. -/
def Obligations.IntegerRegisterForms : Prop :=
  (∀ (s : State) (g : BitVec 4) (d a b : BitVec 5) (p : BitVec 3), Plain s 4 → Guard s g →
     let x := s.g a
     let y := s.g b
     let n := y.toNat % 64
     ∀ e ∈ ([
       (.add g d a b, BitVec.ofNat 64 (x.toNat + y.toNat)),
       (.sub g d a b, BitVec.ofInt 64 ((x.toNat : Int) - y.toNat)),
       (.and g d a b, x &&& y),
       (.or g d a b, x ||| y),
       (.xor g d a b, x ^^^ y),
       (.andn g d a b, x &&& ~~~ y),
       (.shl g d a b, BitVec.ofNat 64 (x.toNat * 2 ^ n)),
       (.shr g d a b, BitVec.ofNat 64 (x.toNat / 2 ^ n)),
       (.sra g d a b, BitVec.ofInt 64 (x.toInt / 2 ^ n)),
       (.rot g d a b, BitVec.ofNat 64 (x.toNat * 2 ^ n) ||| BitVec.ofNat 64 (x.toNat / 2 ^ (64 - n))),
       (.min g d a b, if x.toInt < y.toInt then x else y),
       (.max g d a b, if x.toInt > y.toInt then x else y),
       (.minn g d a b, if x.toNat < y.toNat then x else y),
       (.maxn g d a b, if x.toNat > y.toNat then x else y),
       (.mov g d a, x),
       (.sel g d a b p, if s.self.getP p then x else y)] : List (Instr × Word)),
       exec e.1 s = writesG s 4 d e.2) ∧
  (∀ (s : State) (g : BitVec 4) (d a b : BitVec 5), Plain s 4 → Guard s g →
     let x := s.g a
     let y := s.g b
     let ovf := x.toInt = -2 ^ 63 ∧ y.toInt = -1
     ∀ e ∈ ([
       (.mul g d a b, BitVec.ofInt 64 (x.toInt * y.toInt)),
       (.mulh g d a b, BitVec.ofInt 64 (x.toInt * y.toInt / 2 ^ 64)),
       (.mulhn g d a b, BitVec.ofNat 64 (x.toNat * y.toNat / 2 ^ 64)),
       (.div g d a b, if y = 0 then BitVec.ofInt 64 (-1) else if ovf then BitVec.ofInt 64 (-2 ^ 63)
         else BitVec.ofInt 64 (x.toInt.tdiv y.toInt)),
       (.divn g d a b, if y = 0 then BitVec.ofNat 64 (2 ^ 64 - 1) else BitVec.ofNat 64 (x.toNat / y.toNat)),
       (.rem g d a b, if y = 0 then x else if ovf then 0
         else BitVec.ofInt 64 (x.toInt - y.toInt * x.toInt.tdiv y.toInt)),
       (.remn g d a b, if y = 0 then x else BitVec.ofNat 64 (x.toNat - y.toNat * (x.toNat / y.toNat)))] : List (Instr × Word)),
       exec e.1 s = writesG s 4 d e.2) ∧
  (∀ (g : BitVec 4) (m : BitVec 6) (d a b : BitVec 5), g ≠ 8 →
     decode (.word (g ++ m ++ b ++ a ++ d ++ 6#6 ++ 1#1)) =
       if m = 0 then some (.mul g d a b) else if m = 1 then some (.mulh g d a b) else if m = 2 then some (.mulhn g d a b)
       else if m = 4 then some (.div g d a b) else if m = 5 then some (.divn g d a b) else if m = 6 then some (.rem g d a b)
       else if m = 7 then some (.remn g d a b) else none)

/-- R103 to R105: the immediate forms, the immediate sign-extended from 12 bits and the shift amount taken as it stands; MOVH keeps the bits below
its shift and puts the sign-extended immediate above them; ADDPC adds to its own address. -/
def Obligations.IntegerImmediateForms : Prop :=
  (∀ (s : State) (d a : BitVec 5) (imm : BitVec 12) (sh : BitVec 6), Plain s 4 →
     let x := s.g a
     let y := BitVec.ofInt 64 imm.toInt
     ∀ e ∈ ([
       (.addi d a imm, BitVec.ofInt 64 (x.toNat + imm.toInt)),
       (.andi d a imm, x &&& y),
       (.ori d a imm, x ||| y),
       (.xori d a imm, x ^^^ y),
       (.shli d a sh, BitVec.ofNat 64 (x.toNat * 2 ^ sh.toNat)),
       (.shri d a sh, BitVec.ofNat 64 (x.toNat / 2 ^ sh.toNat)),
       (.srai d a sh, BitVec.ofInt 64 (x.toInt / 2 ^ sh.toNat))] : List (Instr × Word)),
       exec e.1 s = writesG s 4 d e.2) ∧
  (∀ (s : State) (d a : BitVec 5) (imm : BitVec 12) (i4 : BitVec 4) (sh : BitVec 2), Plain s 4 →
     let x := s.g a
     let pc := (s.self.pc.toNat : Int)
     let k := 12 * (sh.toNat + 1)
     ∀ e ∈ ([
       (.movh d a imm sh, BitVec.ofInt 64 ((x.toNat % 2 ^ k : Nat) + imm.toInt * 2 ^ k)),
       (.movh60 d a i4, BitVec.ofInt 64 ((x.toNat % 2 ^ 60 : Nat) + i4.toInt * 2 ^ 60)),
       (.addpc d imm 5, BitVec.ofInt 64 (pc + imm.toInt)),
       (.addpc d imm 6, BitVec.ofInt 64 (pc + imm.toInt * 2 ^ 12)),
       (.addpc d imm 7, BitVec.ofInt 64 (pc + imm.toInt * 2 ^ 24))] : List (Instr × Word)),
       exec e.1 s = writesG s 4 d e.2)

/-- R107, R108: what each compare and predicate form writes to pd; CMPI's minor code is the condition plus 1. -/
def Obligations.CompareAndPredicateForms : Prop :=
  ∀ (s : State) (d pa pb : BitVec 3) (a b : BitVec 5) (imm : BitVec 12), Plain s 4 →
    let x := s.g a
    let y := s.g b
    let z := BitVec.ofInt 64 imm.toInt
    let u := s.self.getP pa
    let v := s.self.getP pb
    ∀ e ∈ ([
      (.cmp d a b 0, decide (x = y)), (.cmp d a b 1, decide (x ≠ y)),
      (.cmp d a b 2, decide (x.toInt < y.toInt)), (.cmp d a b 3, decide (x.toInt ≥ y.toInt)),
      (.cmp d a b 4, decide (x.toNat < y.toNat)), (.cmp d a b 5, decide (x.toNat ≥ y.toNat)),
      (.cmpi d a imm 1, decide (x = z)), (.cmpi d a imm 2, decide (x ≠ z)),
      (.cmpi d a imm 3, decide (x.toInt < z.toInt)), (.cmpi d a imm 4, decide (x.toInt ≥ z.toInt)),
      (.cmpi d a imm 5, decide (x.toNat < z.toNat)), (.cmpi d a imm 6, decide (x.toNat ≥ z.toNat)),
      (.pand d pa pb, u && v), (.por d pa pb, u || v), (.pxor d pa pb, u != v), (.pnot d pa, !u), (.pmov d pa, u)] :
        List (Instr × Bool)),
      exec e.1 s = writesP s 4 d e.2

/-- R110, R111: the field that a descriptor names, clipped at bit 63, extracted or inserted; counts of bits, by the bits that they count. -/
def Obligations.BitFieldForms : Prop :=
  ∀ (s : State) (g : BitVec 4) (d a b : BitVec 5), Plain s 4 → Guard s g →
    let x := s.g a
    let lo := (s.g b).toNat % 64
    let w := min ((s.g b).toNat / 256 % 128) (64 - lo)
    let f := x.toNat / 2 ^ lo % 2 ^ w
    exec (.bfxn g d a b) s = writesG s 4 d (BitVec.ofNat 64 f) ∧
    exec (.bfx g d a b) s = writesG s 4 d ((BitVec.ofNat w f).signExtend 64) ∧
    exec (.bfi g d a b) s = writesG s 4 d
      ((s.g d &&& ~~~ BitVec.ofNat 64 ((2 ^ w - 1) * 2 ^ lo)) ||| BitVec.ofNat 64 (x.toNat % 2 ^ w * 2 ^ lo)) ∧
    (x = 0 → exec (.clz g d a) s = writesG s 4 d 64 ∧ exec (.ctz g d a) s = writesG s 4 d 64) ∧
    (∀ n, n < 64 → x.getLsbD n = true → (∀ k < 64, n < k → x.getLsbD k = false) →
      exec (.clz g d a) s = writesG s 4 d (BitVec.ofNat 64 (63 - n))) ∧
    (∀ n, x.getLsbD n = true → (∀ k, k < n → x.getLsbD k = false) → exec (.ctz g d a) s = writesG s 4 d (BitVec.ofNat 64 n)) ∧
    exec (.popc g d a) s = writesG s 4 d (BitVec.ofNat 64 ((List.range 64).countP fun k => x.getLsbD k)) ∧
    (∀ r : Word, (∀ k, k < 64 → r.getLsbD k = x.getLsbD (63 - k)) → exec (.brev g d a) s = writesG s 4 d r)

/-- R61, R62: the compact register forms have the values of their 32-bit forms, with gd as the first source, and the PC moves by 2. -/
def Obligations.CompactRegisterForms : Prop :=
  ∀ (s : State) (d a : BitVec 5) (imm sh : BitVec 6), Plain s 2 →
    let x := s.g d
    let y := s.g a
    (∀ e ∈ ([
      (.cMov d a, y),
      (.cAdd d a, BitVec.ofNat 64 (x.toNat + y.toNat)),
      (.cSub d a, BitVec.ofInt 64 ((x.toNat : Int) - y.toNat)),
      (.cAnd d a, x &&& y),
      (.cOr d a, x ||| y),
      (.cXor d a, x ^^^ y),
      (.cAddi d imm, BitVec.ofInt 64 (x.toNat + imm.toInt)),
      (.cLi d imm, BitVec.ofInt 64 imm.toInt),
      (.cShli d sh, BitVec.ofNat 64 (x.toNat * 2 ^ sh.toNat))] : List (Instr × Word)),
      exec e.1 s = writesG s 2 d e.2) ∧
    exec .cNop s = onlySelf s 2 id

/-- R56: every instruction of a guarded major whose guard is false completes with no effect but the next PC, on a compute core whatever it is. -/
def Obligations.FalseGuardHasNoEffect : Prop :=
  ∀ (s : State) (i : Instr) (g : BitVec 4), Claims.guardOf i = some g → Plain s 4 → ¬ Guard s g → s.self.onService = none →
    exec i s = onlySelf s 4 id
/-! ## Memory -/

/-- R205, R207, R208, R50, R61: a load from the thread's own caddy writes its bytes, extended as the form says, and nothing else changes; a store
there replaces exactly the bytes from the place that its address names, and nothing else changes; one that touches two aligned doublewords does so
too, and has to find room for both in its counter. C.LD and C.ST act as LD.D and ST.D at offset 0 or 8, the PC moving by 2. -/
def Obligations.OwnCaddyLoadsAndStores : Prop :=
  (∀ (s : State) (t a : BitVec 5) (imm : BitVec 12),
     let va := s.g a + BitVec.ofInt 64 imm.toInt
     ∀ e ∈ ([(.ldB t a imm, 1, true), (.ldH t a imm, 2, true), (.ldW t a imm, 4, true), (.ldD t a imm, 8, false),
       (.ldBN t a imm, 1, false), (.ldHN t a imm, 2, false), (.ldWN t a imm, 4, false)] : List (Instr × Nat × Bool)),
     ∀ g : Target, Plain s 4 → OwnCaddy s va e.2.1 .load g → s.self.ld < 63 →
       exec e.1 s = writesG s 4 t (extended (s.bytes g.pa e.2.1) e.2.1 e.2.2)) ∧
  (∀ (s : State) (t a : BitVec 5) (imm : BitVec 12),
     let va := s.g a + BitVec.ofInt 64 imm.toInt
     ∀ e ∈ ([(.stB t a imm, 1), (.stH t a imm, 2), (.stW t a imm, 4), (.stD t a imm, 8)] : List (Instr × Nat)),
     ∀ g : Target, Plain s 4 → OwnCaddy s va e.2 .store g → s.self.st < 63 →
       exec e.1 s = .next (past s 4 (s.putBytes g.pa (leBytes e.2 (s.g t).toNat)))) ∧
  (∀ (s : State) (t a : BitVec 5) (imm : BitVec 12) (key : Nat),
     let va := s.g a + BitVec.ofInt 64 imm.toInt
     Plain s 4 →
     (∀ e ∈ ([(.ldH t a imm, 2, true), (.ldW t a imm, 4, true), (.ldD t a imm, 8, false), (.ldHN t a imm, 2, false),
        (.ldWN t a imm, 4, false)] : List (Instr × Nat × Bool)),
       8 < va.toNat % 8 + e.2.1 → OwnCaddyAt s va e.2.1 key → s.self.ld + 2 ≤ 63 →
         exec e.1 s = writesG s 4 t (extended (s.bytes key e.2.1) e.2.1 e.2.2)) ∧
     (∀ e ∈ ([(.stH t a imm, 2), (.stW t a imm, 4), (.stD t a imm, 8)] : List (Instr × Nat)),
       8 < va.toNat % 8 + e.2 → OwnCaddyAt s va e.2 key → s.self.st + 2 ≤ 63 →
         exec e.1 s = .next (past s 4 (s.putBytes key (leBytes e.2 (s.g t).toNat))))) ∧
  (∀ (s : State) (t a : BitVec 5) (sc : BitVec 1) (g : Target),
     let va := s.g a + BitVec.ofNat 64 (8 * sc.toNat)
     Plain s 2 →
     (OwnCaddy s va 8 .load g → s.self.ld < 63 → exec (.cLd t a sc) s = writesG s 2 t (extended (s.bytes g.pa 8) 8 false)) ∧
     (OwnCaddy s va 8 .store g → s.self.st < 63 → exec (.cSt t a sc) s = .next (past s 2 (s.putBytes g.pa (leBytes 8 (s.g t).toNat)))))

/-- R205, R208, R38, R48: a load from memory sets out: LD counts it, its register is pending, one request leaves; a store to memory sets out: ST
counts it and one request with its bytes leaves. Nothing else changes: memory and every register keep their values. An access that touches two
aligned doublewords, or of a packed register two aligned blocks (R118), is two pieces, each counted and each with its own request, the second translated
anew where it lies in another page; in a line of ACC class and in the configuration space they are one (R166, R353). -/
def Obligations.LoadsAndStoresSetOut : Prop :=
  (∀ (s : State) (t a : BitVec 5) (imm : BitVec 12),
     let va := s.g a + BitVec.ofInt 64 imm.toInt
     ∀ e ∈ ([(.ldB t a imm, 1, true), (.ldH t a imm, 2, true), (.ldW t a imm, 4, true), (.ldD t a imm, 8, false),
       (.ldBN t a imm, 1, false), (.ldHN t a imm, 2, false), (.ldWN t a imm, 4, false)] : List (Instr × Nat × Bool)),
     ∀ g : Target, Plain s 4 → InMemory s va e.2.1 .load g → s.self.ld < 63 →
       exec e.1 s = .next (past s 4 { s.modSelf (fun x => { x with
           ld := x.ld + 1
           pendG := x.pendG ||| (if t = 0 then 0 else BitVec.twoPow 32 t.toNat)
           loads := x.loads ++ [{ id := s.nextId, dest := .g t e.2.1 e.2.2, buf := List.replicate e.2.1 0, left := 1, words := 1 }]
           hold := none }) with
         nextId := s.nextId + 1
         net := s.net ++ [.load { s.accessOf va e.2.1 g with id := s.nextId }] })) ∧
  (∀ (s : State) (t a : BitVec 5) (imm : BitVec 12),
     let va := s.g a + BitVec.ofInt 64 imm.toInt
     ∀ e ∈ ([(.stB t a imm, 1), (.stH t a imm, 2), (.stW t a imm, 4), (.stD t a imm, 8)] : List (Instr × Nat)),
     ∀ g : Target, Plain s 4 → InMemory s va e.2 .store g → s.self.st < 63 →
       exec e.1 s = .next (past s 4 { s.modSelf (fun x => { x with st := x.st + 1 }) with
         net := s.net ++ [.store (s.accessOf va e.2 g) (leBytes e.2 (s.g t).toNat)] })) ∧
  (∀ (s : State) (t a : BitVec 5) (imm : BitVec 12) (us : List Unit8),
     let va := s.g a + BitVec.ofInt 64 imm.toInt
     Plain s 4 →
     (∀ e ∈ ([(.ldH t a imm, 2, true), (.ldW t a imm, 4, true), (.ldD t a imm, 8, false), (.ldHN t a imm, 2, false),
        (.ldWN t a imm, 4, false)] : List (Instr × Nat × Bool)),
       InMemoryAs s va e.2.1 8 .load us → s.self.ld + countOf us ≤ 63 →
       exec e.1 s = .next (past s 4 { s.modSelf (fun x => { x with
           ld := x.ld + countOf us
           pendG := x.pendG ||| (if t = 0 then 0 else BitVec.twoPow 32 t.toNat)
           loads := x.loads ++ [{
             id := s.nextId, dest := .g t e.2.1 e.2.2, buf := List.replicate e.2.1 0, left := us.length, words := countOf us }]
           hold := none }) with
         nextId := s.nextId + 1, net := s.net ++ loadsFor s us })) ∧
     (∀ e ∈ ([(.stH t a imm, 2), (.stW t a imm, 4), (.stD t a imm, 8)] : List (Instr × Nat)),
       InMemoryAs s va e.2 8 .store us → s.self.st + countOf us ≤ 63 →
       exec e.1 s = .next (past s 4 { s.modSelf (fun x => { x with st := x.st + countOf us }) with
         net := s.net ++ storesFor s us (leBytes e.2 (s.g t).toNat) }))) ∧
  (∀ (s : State) (va : Word) (n unit : Nat) (k : Kind) (x y : Xlat), unit = 8 ∨ unit = 16 →
     let m := unit - va.toNat % unit
     let vb := va + BitVec.ofNat 64 m
     let first : Unit8 := { va, n := m, t := s.targetOf x va, words := 1 }
     let second (z : Xlat) : Unit8 := { va := vb, n := n - m, t := s.targetOf z vb, words := 1 }
     m < n → n ≤ unit → isCaddy va = false → isCaddy vb = false → s.xlate s.self.who va k = .ok x →
     (x.covers s.self.ctx vb = true → (x.cls = .trk ∨ x.cls = .unt ∨ x.cls = .det ∨ x.cls = .host) →
       s.locateUnits k va n unit = .ok [first, second x]) ∧
     (x.covers s.self.ctx vb = true → (x.cls = .acc → (s.targetOf x va).pa / 64 = (s.targetOf x vb).pa / 64 ∧ (s.targetOf x va).home = (s.targetOf x vb).home) →
       (x.cls = .acc ∨ x.cls = .config) → x.vbase ≤ va.toNat → vb.toNat = va.toNat + m →
       s.locateUnits k va n unit = .ok [{ va, n, t := s.targetOf x va, words := 2 }]) ∧
     (x.covers s.self.ctx vb = false → s.xlate s.self.who vb k = .ok y → (y.cls = .trk ∨ y.cls = .unt) →
       s.locateUnits k va n unit = .ok [first, second y]) ∧
     (∀ f, x.covers s.self.ctx vb = false → s.xlate s.self.who vb k = .error f → s.locateUnits k va n unit = .error f))

/-- R212, R213: LD.ACQ, ST.REL and the fences, where nothing of the thread's is on its way: the access is made in the own caddy, a release completes
at once, and an acquire at CLUS or wider drops the lines that the core does not own. To memory they set out, LD.ACQ past the copies that no L1 owns
and with its acquire under way, ST.REL marked as the own write of its release. An ordered access that is not aligned to its size raises MISALIGN, and
nothing is accessed. -/
def Obligations.OrderedAccessesAndFences : Prop :=
  (∀ (s : State) (t a : BitVec 5) (zx : BitVec 1) (sz : BitVec 2) (sc : BitVec 3) (g : Target),
     let n := 2 ^ sz.toNat
     let va := s.g a
     Plain s 4 →
     (va.toNat % n = 0 → OwnCaddy s va n .load g → s.self.ld < 63 →
       exec (.ldAcq t a zx sz sc) s =
         .next (past s 4 (acquired (s.modSelf (·.setG t (extended (s.bytes g.pa n) n (zx == 0)))) sc.toNat))) ∧
     (va.toNat % n = 0 → InMemory s va n .load g → s.self.ld < 63 →
       exec (.ldAcq t a zx sz sc) s = .next (past s 4 { s.modSelf (fun x => { x with
           ld := x.ld + 1
           pendG := x.pendG ||| (if t = 0 then 0 else BitVec.twoPow 32 t.toNat)
           loads := x.loads ++ [{
             id := s.nextId, dest := .g t n (zx == 0), buf := List.replicate n 0, left := 1, words := 1, acq := some sc }]
           hold := some (.acq s.nextId) }) with
         nextId := s.nextId + 1
         net := s.net ++ [.load { s.accessOf va n g with id := s.nextId, fresh := true }] })) ∧
     (va.toNat % n = 0 → InMemory s va n .store g → Released s sc.toNat →
       exec (.stRel t a sz sc) s = .next (past s 4 { s.modSelf (fun x => { x with st := x.st + 1 }) with
         net := s.net ++ [.store { s.accessOf va n g with rel := true } (leBytes n (s.g t).toNat)] })) ∧
     (va.toNat % n = 0 → OwnCaddy s va n .store g → Released s sc.toNat →
       exec (.stRel t a sz sc) s = .next (past s 4 (s.putBytes g.pa (leBytes n (s.g t).toNat)))) ∧
     (Released s sc.toNat → exec (.fenceRel sc) s = onlySelf s 4 id) ∧
     (s.self.loads = [] → exec (.fenceAcq sc) s = .next (past s 4 (acquired s sc.toNat))) ∧
     (Released s sc.toNat → exec (.fenceAr sc) s = .next (past s 4 (acquired s sc.toNat)))) ∧
  (∀ (s : State) (t a : BitVec 5) (zx : BitVec 1) (sz : BitVec 2) (sc : BitVec 3), (s.g a).toNat % 2 ^ sz.toNat ≠ 0 →
     exec (.ldAcq t a zx sz sc) s = traps s 7 (s.g a) ∧ exec (.stRel t a sz sc) s = traps s 7 (s.g a))

/-- R214 to R217: PREF traps on nothing, whatever its address and form, sends nothing and changes no register, and no byte but those of a host line
that it brings into the device (log entry 86); DISCARD and CLEAN send one counted
request for the line; INVAL.D drops the core's copy of a line that it does not own, and INVAL.I the line of text and the loop buffers that hold a
halfword of it. -/
def Obligations.CacheOperations : Prop :=
  ∀ (s : State) (a : BitVec 5) (imm : BitVec 12) (o l d : BitVec 1),
    let va := s.g a + BitVec.ofInt 64 imm.toInt
    Plain s 4 →
    (isCaddy va = true → exec (.pref a imm l o) s = onlySelf s 4 id) ∧
    answers (.pref a imm l o) s (fun u => u.net = s.net ∧ u.threads = (past s 4 s).threads ∧
      ((∀ g, s.translate s.self.who va (if o = 1 then .store else .load) = .ok g → g.cls ≠ .host) → u.mem = s.mem)) ∧
    (∀ g, isCaddy va = false → s.translate s.self.who va .load = .ok g → g.cls = .trk →
      (va.toNat % 64 = 0 → s.translate s.self.who va .store = .ok g → s.lineOwner (g.pa / 64) ≠ some s.self.unit → s.self.st < 63 →
        exec (.discard a imm) s = .next (past s 4 { s.modCore s.self.unit (fun k =>
              { k with l1 := k.l1.filter fun x => x.line != g.pa / 64 }) with
            threads := (s.modSelf fun x => { x with st := x.st + 1 }).threads
            net := s.net ++ [.discard (s.accessOf va 64 g)] })) ∧
      (s.self.st < 63 → exec (.clean a imm d) s =
        .next (past s 4 { s.modSelf (fun x => { x with st := x.st + 1 }) with net := s.net ++ [.clean (s.accessOf va 1 g) (d == 1)] })) ∧
      (s.lineOwner (g.pa / 64) ≠ some s.self.unit → exec (.invalD a imm) s =
        .next (past s 4 (s.modCore s.self.unit fun k => { k with l1 := k.l1.filter fun x => x.line != g.pa / 64 }))) ∧
      (s.translate s.self.who va .exec = .ok g → exec (.invalI a imm) s =
        .next (past s 4 (s.modCore s.self.unit fun k => { k with
          icache := k.icache.filter fun x => x.line != g.pa / 64
          loops := k.loops.filter fun b => !b.lines.contains (g.pa / 64) }))))

/-- R219 to R221: an atomic on the thread's own caddy replaces the word by the result of its operation, gives the word that was there to gd, and
changes nothing else; with .REL it is made only once the thread's older accesses have been, and with .ACQ it acquires at PKG. An atomic elsewhere sets
out as one request: with a value to return LD counts it and its register is pending, without one ST counts it; with .ACQ its acquire is under way, and
with .REL it is the own write of its release. One that a caddy or a peer judges lets nothing younger issue until the reply, and the PC stays (R39). -/
def Obligations.AtomicsOnTheOwnCaddy : Prop :=
  (∀ (s : State) (g : BitVec 4) (d a b : BitVec 5) (ord : BitVec 2) (p : Target),
    let x := s.g b
    let y := s.g d
    let old := BitVec.ofNat 64 (leNat (s.bytes p.pa 8))
    let old4 := BitVec.ofNat 64 (leNat (s.bytes p.pa 4))
    Plain s 4 → Guard s g → Released s 3 → s.self.ld < 63 →
    ∀ e ∈ ([
      (.amoAdd g d a b ord, 8, old, BitVec.ofNat 64 (old.toNat + x.toNat)),
      (.amoAnd g d a b ord, 8, old, old &&& x),
      (.amoOr g d a b ord, 8, old, old ||| x),
      (.amoXor g d a b ord, 8, old, old ^^^ x),
      (.amoMin g d a b ord, 8, old, if old.toInt < x.toInt then old else x),
      (.amoMax g d a b ord, 8, old, if old.toInt < x.toInt then x else old),
      (.amoMinn g d a b ord, 8, old, if old.toNat < x.toNat then old else x),
      (.amoMaxn g d a b ord, 8, old, if old.toNat < x.toNat then x else old),
      (.amoSwap g d a b ord, 8, old, x),
      (.amoCas g d a b ord, 8, old, if old = y then x else old),
      (.amoFadd g d a b ord, 4, old4, (fadd32 (old4.setWidth 32) (x.setWidth 32)).setWidth 64)] : List (Instr × Nat × Word × Word)),
      (s.g a).toNat % e.2.1 = 0 → OwnCaddy s (s.g a) e.2.1 .atomic p →
      exec e.1 s = .next (past s 4
        (let t := (s.putBytes p.pa (leBytes e.2.1 e.2.2.2.toNat)).modSelf (·.setG d e.2.2.1)
         if ord.getLsbD 0 then acquired t 3 else t))) ∧
  ∀ (s : State) (g : BitVec 4) (d a b : BitVec 5) (ord : BitVec 2) (p : Target),
    let acq := ord.getLsbD 0
    let judged : Bool := p.cls == .caddy || p.cls == .pod
    Plain s 4 → Guard s g → Released s 3 → s.ownCaddy p = false →
    ∀ e ∈ ([
      (.amoAdd g d a b ord, 8, .add), (.amoAnd g d a b ord, 8, .and), (.amoOr g d a b ord, 8, .or), (.amoXor g d a b ord, 8, .xor),
      (.amoMin g d a b ord, 8, .min), (.amoMax g d a b ord, 8, .max), (.amoMinn g d a b ord, 8, .minn), (.amoMaxn g d a b ord, 8, .maxn),
      (.amoSwap g d a b ord, 8, .swap), (.amoCas g d a b ord, 8, .cas), (.amoFadd g d a b ord, 4, .fadd)] : List (Instr × Nat × Amo)),
      let w := e.2.1
      let acc : Access := { s.accessOf (s.g a) w p with rel := ord.getLsbD 1, id := s.nextId }
      (s.g a).toNat % w = 0 → s.locate s.self.who (s.g a) w .atomic = .ok p →
      (d ≠ 0 ∨ e.2.2 = .cas → s.self.ld < 63 →
        let u : State := { s.modSelf (fun x => { x with
            ld := x.ld + 1
            pendG := x.pendG ||| (if d = 0 then 0 else BitVec.twoPow 32 d.toNat)
            loads := x.loads ++ [{
              id := s.nextId, dest := .g d w false, buf := List.replicate w 0, left := 1, words := 1
              acq := if acq then some 3 else none, held := if judged then some 4 else none }]
            hold := if judged then some (.load s.nextId) else if acq then some (.acq s.nextId) else none }) with
          nextId := s.nextId + 1, net := s.net ++ [.atomic acc e.2.2 (s.g b) (s.g d) true] }
        exec e.1 s = .next (if judged then u.modSelf (issuedAt s.fresh s.self.pc) else past s 4 u)) ∧
      (d = 0 → e.2.2 ≠ .cas → s.self.st < 63 →
        exec e.1 s = .next (past s 4 { s.modSelf (fun x => { x with
            st := x.st + 1, hold := if acq then some (.ack s.nextId false) else x.hold }) with
          nextId := s.nextId + 1
          groups := Tab.set s.groups s.nextId { left := 1, ctr := .st, threads := [s.cur] }
          net := s.net ++ [.atomic acc e.2.2 (s.g b) 0 false] }))
/-! ## What becomes of accesses -/

/-- R38, R39, R48, R207, R209, R210: the reply of a load reaches its register, extended as the load asked; its mark and its count go; memory, every
other register and every other thread keep their values. With the reply of an acquiring load its acquire is made. A load that a caddy or a peer
judges is the instruction at which its thread waits: with its reply the register is written, the thread waits no more, and its PC moves past the
instruction; refused, it leaves the registers as they are, and its cause is raised at the instruction. An acknowledged store lowers ST; a refused one
does too, and is pending from then on, its address the trap's value; a pending trap whose 4,096 core cycles have passed, or with which the thread has
been stopped, is delivered at the thread's next instruction boundary, and a thread whose turn comes takes it before it issues anything (that it does so
at its turn is the model's choice, log entry 39). -/
def Obligations.RepliesReachTheThread : Prop :=
  (∀ (s : State) (k t id off : Nat) (data : List Byte) (l : PendLoad) (d : BitVec 5) (n : Nat) (sg : Bool),
     Running s t → (s.thread t).loads.find? (·.id == id) = some l → l.left = 1 → l.dest = .g d n sg → l.acq = none → l.held = none →
     (s.net[k]? = some (.loadReply t id off data) → 1 ≤ n → n ≤ 8 →
       answers (.loadReply k) s fun u =>
         (u.thread t).getG d = (if d = 0 then 0 else extended ((putBuf l.buf off data).take n) n sg) ∧
         (∀ r, r ≠ d → (u.thread t).getG r = (s.thread t).getG r) ∧
         (u.thread t).ld = (s.thread t).ld - l.words ∧ (d ≠ 0 → (u.thread t).pendG.getLsbD d.toNat = false) ∧
         (u.thread t).pc = (s.thread t).pc ∧ (u.thread t).p = (s.thread t).p ∧ (u.thread t).v = (s.thread t).v ∧
         u.mem = s.mem ∧ u.net = dropAt s.net k ∧ othersKeep s u t)) ∧
  (∀ (s : State) (k t id off cause size : Nat) (va : Word) (data : List Byte) (l : PendLoad) (d : BitVec 5) (n : Nat) (sg : Bool),
     let x := s.thread t
     (Tab.find s.threads t).isSome → x.park = none → x.imagePa = none → x.hold = some (.load id) →
     x.loads.find? (·.id == id) = some l → l.held = some size →
     (s.net[k]? = some (.loadRefused t id cause va) →
       ∃ w : State, exec (.loadReply k) s = .next (w.deliver t { cause, val := va, epc := x.pc.setWidth 64 }) ∧
         (w.thread t).g = x.g ∧ (w.thread t).v = x.v ∧ (w.thread t).pc = x.pc ∧ (w.thread t).hold = none ∧ (w.thread t).ld = x.ld - l.words ∧
         w.mem = s.mem ∧ w.net = dropAt s.net k ∧ othersKeep s w t) ∧
     (s.net[k]? = some (.loadReply t id off data) → l.left = 1 → l.dest = .g d n sg → 1 ≤ n → n ≤ 8 → x.sstep = false →
       ¬ (x.pc.setWidth 64 + BitVec.ofNat 64 size = x.lend &&& 0xFFFFFFFFFFFE ∧ Word.field x.lend 48 2 = x.pl ∧ x.lc ≠ 0) →
       answers (.loadReply k) s fun u =>
         (u.thread t).getG d = (if d = 0 then 0 else extended ((putBuf l.buf off data).take n) n sg) ∧
         (∀ r, r ≠ d → (u.thread t).getG r = x.getG r) ∧
         (u.thread t).hold = none ∧ (u.thread t).pc = x.pc + BitVec.ofNat 48 size ∧ (u.thread t).ld = x.ld - l.words ∧
         (d ≠ 0 → (u.thread t).pendG.getLsbD d.toNat = false) ∧ (u.thread t).p = x.p ∧ (u.thread t).v = x.v ∧
         u.mem = s.mem ∧ u.net = dropAt s.net k ∧ othersKeep s u t)) ∧
  (∀ (s : State) (k t id off : Nat) (data : List Byte) (l : PendLoad) (d : BitVec 5) (n : Nat) (sg : Bool) (sc : BitVec 3),
     (Tab.find s.threads t).isSome → (s.thread t).park = none → (s.thread t).imagePa = none → (s.thread t).hold = some (.acq id) →
     (s.thread t).loads.find? (·.id == id) = some l → l.left = 1 → l.dest = .g d n sg → l.acq = some sc → l.held = none → 1 ≤ n → n ≤ 8 →
     s.net[k]? = some (.loadReply t id off data) →
     answers (.loadReply k) s fun u =>
       (u.thread t).getG d = (if d = 0 then 0 else extended ((putBuf l.buf off data).take n) n sg) ∧ (u.thread t).hold = none ∧
       (u.thread t).ld = (s.thread t).ld - l.words ∧ (u.thread t).pc = (s.thread t).pc ∧
       (u.coreAt (s.thread t).unit).l1 = (if sc = 0 then (s.coreAt (s.thread t).unit).l1 else (s.coreAt (s.thread t).unit).l1.filter (·.owned)) ∧
       u.mem = s.mem ∧ u.net = dropAt s.net k ∧ othersKeep s u t) ∧
  (∀ (s : State) (k t cause : Nat) (va : Word), Running s t →
     (s.net[k]? = some (.ack t 0) → answers (.storeAck k) s fun u =>
       u = { s.modThread t (fun x => { x with st := x.st - 1 }) with net := dropAt s.net k }) ∧
     (∀ seq, s.net[k]? = some (.storeRefused t 0 cause va seq) → (s.thread t).refusal = none → answers (.storeRefusal k) s fun u =>
       (u.thread t).refusal = some { cause, val := va &&& 0x1FFFFFFFFFFFFFF, since := s.cycle, seq } ∧
       (u.thread t).st = (s.thread t).st - 1 ∧ (u.thread t).g = (s.thread t).g ∧ (u.thread t).pc = (s.thread t).pc ∧
       u.mem = s.mem ∧ u.net = dropAt s.net k ∧ othersKeep s u t) ∧
     (∀ p, (s.thread t).refusal = some p → p.due = true ∨ p.since + 4096 ≤ s.cycle → (s.thread t).atBoundary = true →
       s.halted (s.thread t).ctx = false → s.switching (s.thread t).ctx (s.thread t).core false = false → (s.thread t).debugHalt = false →
       exec (.pendingTrapDeadline t) s = .next ((s.modThread t fun x => { x with refusal := none }).raiseAsync t p))) ∧
  (∀ (s : State) (t : Nat) (p : Pend) (y : Thread),
     s.inputs = [] → s.turn = true → s.tick.nextIssuer = some t → (s.thread t).stalled = false → (s.thread t).hold = none →
     (s.thread t).duePending s.tick.cycle = some (p, y) →
     let u := { s.tick with turn := false, cur := t, group := s.group.filter (· != t) }
     step s = s.mapped (.next ((u.setThread t y).raiseAsync t p)))

/-- R187, R202, R50, R51: a load, a store or an atomic that nothing older holds back is performed at its home: the reply of a load that finds no older
copy in its L1 carries the bytes that memory holds, a store changes exactly the bytes from its address, an atomic exactly its word, by its operation
on the word that it answers. An access to another core's caddy is performed where a window of the owner permits it, and otherwise refused with
CADDY_REFUSED and no effect on any caddy. R352: what is done for a packet of an ordinary access, or of its answer, reads, alters, drops and reorders
no packet of a partition that it does not serve. -/
def Obligations.AccessesAtTheirHomes : Prop :=
  (∀ (s : State) (k : Nat) (a : Access) (bs : List Byte) (op : Amo) (b d : Word), s.ready k = true → a.cls = .unt ∨ a.cls = .trk →
     (s.net[k]? = some (.load a) → s.staleHit a = none → answers (.homeAccess k) s fun u =>
       u.mem = s.mem ∧ u.threads = s.threads ∧ u.net = dropAt s.net k ++ [.loadReply a.thread a.id a.off (s.bytes a.pa a.n)]) ∧
     (s.net[k]? = some (.store a bs) → answers (.homeAccess k) s fun u =>
       u.mem = Memory.writeList s.mem a.pa bs ∧ u.threads = s.threads ∧
       u.net = dropAt s.net k ++ List.replicate a.words (.ack a.thread a.id)) ∧
     (s.net[k]? = some (.atomic a op b d true) → answers (.atomicAtHome k) s fun u =>
       u.mem = Memory.writeList s.mem a.pa
         (leBytes a.n (amoResult op (BitVec.ofNat 64 (leNat (s.bytes a.pa a.n))) b d).toNat) ∧
       u.threads = s.threads ∧ u.net = dropAt s.net k ++ [.loadReply a.thread a.id a.off (s.bytes a.pa a.n)])) ∧
  (∀ (s : State) (k : Nat) (a : Access) (bs : List Byte), s.ready k = true → a.cls = .caddy →
     let off := a.pa % 2 ^ 18
     (s.net[k]? = some (.load a) → answers (.caddyAccessArrival k) s fun u => u.mem = s.mem ∧ u.threads = s.threads ∧
       u.net = dropAt s.net k ++
         [if s.caddyOk a.ctx a.core a.svc a.home off a.n .rd then
             .loadReply a.thread a.id a.off (s.bytes (s.caddyAt a.ctx a.home off) a.n)
           else .loadRefused a.thread a.id 14 a.va]) ∧
     (s.net[k]? = some (.store a bs) → (s.coreAt a.home).convene = Vector.replicate 8 none → (s.coreAt a.home).savedConv = [] →
       answers (.caddyAccessArrival k) s fun u => u.threads = s.threads ∧
       (if s.caddyOk a.ctx a.core a.svc a.home off a.n .wr then
           u.mem = Memory.writeList s.mem (s.caddyAt a.ctx a.home off) bs ∧ u.net = dropAt s.net k ++ List.replicate a.words (.ack a.thread a.id)
         else u.mem = s.mem ∧
           u.net = dropAt s.net k ++ .storeRefused a.thread a.id 14 a.va a.seq :: List.replicate (a.words - 1) (.ack a.thread a.id)))) ∧
  (∀ (s : State) (k p : Nat) (x : Packet), s.net[k]? = some x → x.ordinary = true → s.packetOf p x = false →
     ∀ i ∈ [Instr.homeAccess k, .atomicAtHome k, .loadReply k, .storeAck k, .storeRefusal k],
       answers i s fun u => u.traffic p = s.traffic p)

/-! ## Control transfers -/

/-- R271, R47, R61: a branch that is taken goes to its target, one that is not goes on, and a target that no PC can hold raises BADPC with the
target as its value and no effect. A call pushes the address after it, a return pops the newest address and goes there; a call with eight addresses
in the store spills the oldest to memory at sr.rsp, which grows by 8; a return from an empty store loads the address below sr.rsp, which falls by
8, and waits for it; a return with nothing to pop, in the store or in memory, raises RAS_UNDERFLOW with sr.rsp. A call, or a return, to an address
that no PC can hold raises BADPC with it, and the store and sr.rsp are as before. -/
def Obligations.ControlTransfers : Prop :=
  (∀ (s : State) (p : BitVec 3) (neg : BitVec 1) (off : BitVec 20) (o11 : BitVec 11) (a : BitVec 5) (imm : BitVec 12),
     let dest (d : Int) : Word := BitVec.ofInt 64 (s.self.pc.toNat + 2 * d)
     let taken := s.self.getP p != (neg == 1)
     let reg := s.g a + BitVec.ofInt 64 imm.toInt
     (s.self.sstep = false →
       (taken = true → GoodPc (dest off.toInt) → exec (.brp p off neg) s = goesTo s ((dest off.toInt).setWidth 48) id) ∧
       (GoodPc (dest o11.toInt) → exec (.cBr o11) s = goesTo s ((dest o11.toInt).setWidth 48) id) ∧
       (GoodPc reg → exec (.jmp a imm) s = goesTo s (reg.setWidth 48) id)) ∧
     (taken = false → Plain s 4 → exec (.brp p off neg) s = onlySelf s 4 id) ∧
     (taken = true → ¬ GoodPc (dest off.toInt) → exec (.brp p off neg) s = traps s 3 (dest off.toInt)) ∧
     (¬ GoodPc reg → exec (.jmp a imm) s = traps s 3 reg)) ∧
  (∀ (s : State) (off : BitVec 25) (a : BitVec 5) (imm : BitVec 12),
     let dest : Word := BitVec.ofInt 64 (s.self.pc.toNat + 2 * off.toInt)
     let reg := s.g a + BitVec.ofInt 64 imm.toInt
     let back : Word := BitVec.ofNat 64 (s.self.pc.toNat + 4)
     (s.self.sstep = false → s.self.ras.length < 8 →
       (GoodPc dest → exec (.jal off) s = goesTo s (dest.setWidth 48) fun x => { x with ras := x.ras ++ [back] }) ∧
       (GoodPc reg → exec (.jalr a imm) s = goesTo s (reg.setWidth 48) fun x => { x with ras := x.ras ++ [back] })) ∧
     (¬ GoodPc dest → exec (.jal off) s = traps s 3 dest) ∧
     (¬ GoodPc reg → exec (.jalr a imm) s = traps s 3 reg) ∧
     (∀ (rs : List Word) (ra : Word), s.self.ras = rs ++ [ra] → ¬ GoodPc ra → exec .ret s = traps s 3 ra ∧ exec .cRet s = traps s 3 ra) ∧
     (∀ (rs : List Word) (ra : Word), s.self.sstep = false → s.self.ras = rs ++ [ra] → GoodPc ra →
       exec .ret s = goesTo s (ra.setWidth 48) (fun x => { x with ras := rs }) ∧
       exec .cRet s = goesTo s (ra.setWidth 48) (fun x => { x with ras := rs })) ∧
     (s.self.ras = [] → s.self.rsp.toNat ≤ s.self.rspb.toNat → exec .ret s = traps s 6 s.self.rsp ∧ exec .cRet s = traps s 6 s.self.rsp)) ∧
  (∀ (s : State) (off : BitVec 25) (a : BitVec 5) (imm : BitVec 12) (oldest : Word) (rs : List Word) (g : Target),
     let dest : Word := BitVec.ofInt 64 (s.self.pc.toNat + 2 * off.toInt)
     let reg := s.g a + BitVec.ofInt 64 imm.toInt
     let pushed (x : Thread) : Thread := { x with rsp := x.rsp + 8, ras := rs ++ [BitVec.ofNat 64 (s.self.pc.toNat + 4)] }
     let spills (pc : Word) : Out := .next (State.modSelf { s.modSelf (fun x => { pushed x with st := x.st + 1 }) with
       net := s.net ++ [.store (s.accessOf s.self.rsp 8 g) (leBytes 8 oldest.toNat)] } (issuedAt s.fresh (pc.setWidth 48)))
     s.self.sstep = false → s.self.ras = oldest :: rs → rs.length = 7 → s.self.st < 63 →
     (InMemory s s.self.rsp 8 .store g →
       (GoodPc dest → exec (.jal off) s = spills dest) ∧ (GoodPc reg → exec (.jalr a imm) s = spills reg)) ∧
     (OwnCaddy s s.self.rsp 8 .store g →
       let kept (pc : Word) : Out := .next (((s.putBytes g.pa (leBytes 8 oldest.toNat)).modSelf pushed).modSelf (issuedAt s.fresh (pc.setWidth 48)))
       (GoodPc dest → exec (.jal off) s = kept dest) ∧ (GoodPc reg → exec (.jalr a imm) s = kept reg))) ∧
  (∀ (s : State) (g : Target),
     let va := s.self.rsp - 8
     let ra := BitVec.ofNat 64 (leNat (s.bytes g.pa 8))
     s.self.ras = [] → s.self.rspb.toNat < s.self.rsp.toNat → OwnCaddy s va 8 .load g →
     ∀ i ∈ [Instr.ret, .cRet],
       (s.self.sstep = false → GoodPc ra → exec i s = goesTo s (ra.setWidth 48) fun x => { x with rsp := va }) ∧
       (¬ GoodPc ra → exec i s = traps s 3 ra)) ∧
  (∀ (s : State) (g : Target),
     let va := s.self.rsp - 8
     s.self.ras = [] → s.self.rspb.toNat < s.self.rsp.toNat → InMemory s va 8 .load g →
     ∀ i ∈ [Instr.ret, .cRet], answers i s fun u => u.self.pc = s.self.pc ∧ u.self.rsp = s.self.rsp ∧ u.self.ras = [] ∧
       u.self.hold = some (.load s.nextId) ∧ u.self.ld = s.self.ld ∧ u.mem = s.mem ∧
       u.net = s.net ++ [.load { s.accessOf va 8 g with id := s.nextId }] ∧ othersKeep s u s.cur) ∧
  (∀ (s : State) (k t id : Nat) (data : List Byte) (l : PendLoad),
     (Tab.find s.threads t).isSome → (s.thread t).park = none → (s.thread t).imagePa = none → (s.thread t).hold = some (.load id) →
     (s.thread t).loads.find? (·.id == id) = some l → l.left = 1 → l.dest = .ret → l.words = 0 → l.acq = none → l.buf.length = 8 →
     data.length = 8 → (s.thread t).sstep = false → s.net[k]? = some (.loadReply t id 0 data) →
     let ra := BitVec.ofNat 64 (leNat data)
     (GoodPc ra → answers (.loadReply k) s fun u => (u.thread t).pc = ra.setWidth 48 ∧ (u.thread t).rsp = (s.thread t).rsp - 8 ∧
       (u.thread t).hold = none ∧ (u.thread t).ras = (s.thread t).ras ∧ (u.thread t).g = (s.thread t).g ∧ u.mem = s.mem ∧ u.net = dropAt s.net k ∧
       othersKeep s u t) ∧
     (¬ GoodPc ra → ∃ w : State, exec (.loadReply k) s = .next (w.deliver t { cause := 3, val := ra, epc := (s.thread t).pc.setWidth 64 }) ∧
       (w.thread t).rsp = (s.thread t).rsp ∧ (w.thread t).pc = (s.thread t).pc ∧ w.mem = s.mem ∧ othersKeep s w t))

/-- R271, R273: LOOP with a count sets sr.lc, sr.lbeg and sr.lend and goes on; with a count of 0 it skips the body. An instruction that completes in
sequence before sr.lend, at the loop's own level, goes back to sr.lbeg with sr.lc one less while it was 2 or more, and leaves the loop with sr.lc 0
when it was 1. NOP does nothing. -/
def Obligations.LoopsAndNop : Prop :=
  (∀ (s : State) (a : BitVec 5) (imm : BitVec 12),
     let fin := s.self.pc.toNat + 4 + 2 * imm.toNat
     s.self.sstep = false → imm ≠ 0 → fin < 2 ^ 48 →
     (s.g a ≠ 0 → exec (.loop a imm) s = .next (past s 4 (s.modSelf fun x => { x with
       lc := s.g a, lbeg := BitVec.ofNat 64 (s.self.pc.toNat + 4), lend := BitVec.ofNat 64 (fin + s.self.pl * 2 ^ 48) }))) ∧
     (s.g a = 0 → exec (.loop a imm) s = goesTo s (BitVec.ofNat 48 fin) fun x => { x with lc := 0 })) ∧
  (∀ (s : State), s.self.sstep = false →
     s.self.pc.setWidth 64 + 4 = s.self.lend &&& 0xFFFFFFFFFFFE → Word.field s.self.lend 48 2 = s.self.pl →
     (2 ≤ s.self.lc.toNat → exec .nop s = goesTo s (s.self.lbeg.setWidth 48) fun x => { x with lc := x.lc - 1 }) ∧
     (s.self.lc.toNat = 1 → exec .nop s = goesTo s (s.self.pc + 4) fun x => { x with lc := 0 })) ∧
  (∀ s : State, Plain s 4 → exec .nop s = onlySelf s 4 id)

/-! ## Special registers -/

/-- R40, R41, R42, R47, R48, R272, R376: what MFSR reads of each register that a USER thread may read; what MTSR writes to the registers of a user
thread, where the value sets no reserved bit, and to SSTEP of sr.status from DRV up; of the trap registers of every level up to the thread's own, those
of HYP and MON with the vector and delegation of the partition; and of the windows of the thread's core from DRV up: of the primary context in the
core, of one whose caddy is switched out in its save area, and of a secondary context none (that a thread of the service core itself has none, and that
a register which is none reads 0 and takes no value, is the model's choice, log entry 83). A register below its level raises PRIV; a number that names no
register, a write to one that no level may write, one that sets a reserved bit, and one of a rounding mode from 5 to 7, raise ILLEGAL: each with the
instruction's word as its value, and nothing is read or written. -/
def Obligations.SpecialRegisters : Prop :=
  (∀ (s : State) (d : BitVec 5), Plain s 4 → flagsOwed s.self = false →
     let x := s.self
     ∀ e ∈ ([(0, x.tid.setWidth 64), (1, x.pour.setWidth 64), (2, x.core.setWidth 64),
       (3, BitVec.ofNat 64 (s.rankOf x.ctx x.core)), (4, x.ctx.setWidth 64),
       (5, BitVec.ofNat 64 (s.partOf x.ctx)), (6, BitVec.ofNat 64 (x.status.toNat % 4)), (7, x.status), (8, x.fcsr), (9, s.time), (10, x.detid),
       (11, x.rsp), (12, x.rspb), (16, x.lc), (17, x.lbeg), (18, x.lend),
       (32, BitVec.ofNat 64 x.ld), (33, BitVec.ofNat 64 x.st), (34, BitVec.ofNat 64 x.cp), (35, BitVec.ofNat 64 x.mx),
       (36, BitVec.ofNat 64 x.ms),
       (0x100, (x.frame 0).cause), (0x101, (x.frame 0).epc), (0x102, (x.frame 0).val), (0x103, (x.frame 0).stat),
       (0x104, x.tvec[0]), (0x105, x.tdeleg[0])] : List (BitVec 12 × Word)),
       exec (.mfsr d e.1) s = writesG s 4 d e.2) ∧
  (∀ (s : State) (a : BitVec 5), Plain s 4 → flagsOwed s.self = false →
     let v := s.g a
     (v.toNat < 2 ^ 9 → v.getLsbD 3 = false → v.toNat % 8 ≤ 4 → exec (.mtsr a 8) s = onlySelf s 4 fun x => { x with fcsr := v }) ∧
     (v.toNat < 2 ^ 32 → exec (.mtsr a 10) s = onlySelf s 4 fun x => { x with detid := v }) ∧
     exec (.mtsr a 11) s = onlySelf s 4 (fun x => { x with rsp := BitVec.ofNat 64 (v.toNat / 8 * 8) }) ∧
     exec (.mtsr a 12) s = onlySelf s 4 (fun x => { x with rspb := BitVec.ofNat 64 (v.toNat / 8 * 8) }) ∧
     (s.self.pc.setWidth 64 + 4 ≠ s.self.lend &&& 0xFFFFFFFFFFFE → exec (.mtsr a 16) s = onlySelf s 4 fun x => { x with lc := v }) ∧
     (v.toNat < 2 ^ 48 → exec (.mtsr a 17) s = onlySelf s 4 fun x => { x with lbeg := BitVec.ofNat 64 (v.toNat / 2 * 2) }) ∧
     (v.toNat < 2 ^ 48 → s.self.pc.toNat + 4 ≠ v.toNat / 2 * 2 → exec (.mtsr a 18) s = onlySelf s 4 fun x => { x with
       lend := BitVec.ofNat 64 (v.toNat / 2 * 2 + x.pl * 2 ^ 48) }) ∧
     (1 ≤ s.self.pl → v.toNat < 2 ^ 5 → exec (.mtsr a 7) s = onlySelf s 4 fun x => { x with
       status := Word.setField x.status 2 1 (Word.field v 2 1) }) ∧
     (v.toNat < 2 ^ 48 → exec (.mtsr a 0x101) s = onlySelf s 4 fun x => x.setFrame 0 { x.frame 0 with epc := v }) ∧
     exec (.mtsr a 0x102) s = onlySelf s 4 (fun x => x.setFrame 0 { x.frame 0 with val := v }) ∧
     exec (.mtsr a 0x104) s = onlySelf s 4 (fun x => { x with tvec := x.tvec.set 0 v })) ∧
  (∀ (s : State) (d a : BitVec 5) (l : Nat), Plain s 4 → l < 4 → l ≤ s.self.pl →
     let x := s.self
     let f := x.frame l
     let v := s.g a
     let reg (i : Nat) : BitVec 12 := BitVec.ofNat 12 (0x100 + 16 * l + i)
     let part (g : Part → Part) : Out := .next (past s 4 (s.modPart (s.partOf x.ctx) g))
     (∀ e ∈ ([(0, f.cause), (1, f.epc), (2, f.val), (3, f.stat), (4, s.tvecOf x l), (5, s.tdelegOf x l)] : List (Nat × Word)),
       exec (.mfsr d (reg e.1)) s = writesG s 4 d e.2) ∧
     (v &&& 0x7FFFFFE00000F000 = 0 → exec (.mtsr a (reg 0)) s = onlySelf s 4 fun x => x.setFrame l { f with cause := v }) ∧
     (v &&& 0x7FFFFFE00000F000 ≠ 0 → exec (.mtsr a (reg 0)) s = traps s 1 (encode (.mtsr a (reg 0))).bits) ∧
     (v.toNat < 2 ^ 48 → exec (.mtsr a (reg 1)) s = onlySelf s 4 fun x => x.setFrame l { f with epc := v }) ∧
     (2 ^ 48 ≤ v.toNat → exec (.mtsr a (reg 1)) s = traps s 1 (encode (.mtsr a (reg 1))).bits) ∧
     exec (.mtsr a (reg 2)) s = onlySelf s 4 (fun x => x.setFrame l { f with val := v }) ∧
     exec (.mtsr a (reg 3)) s = onlySelf s 4 (fun x => x.setFrame l { f with stat := v }) ∧
     (l < 2 → exec (.mtsr a (reg 4)) s = onlySelf s 4 (fun x => { x with tvec := x.tvec.setIfInBounds l v }) ∧
       exec (.mtsr a (reg 5)) s = onlySelf s 4 (fun x => { x with tdeleg := x.tdeleg.setIfInBounds l v })) ∧
     (2 ≤ l → exec (.mtsr a (reg 4)) s = part (fun p => { p with tvec := p.tvec.setIfInBounds (l - 2) v }) ∧
       exec (.mtsr a (reg 5)) s = part (fun p => { p with tdeleg := p.tdeleg.setIfInBounds (l - 2) v }))) ∧
  (∀ (s : State) (d a : BitVec 5) (w : Nat), Plain s 4 → w < 8 → 1 ≤ s.self.pl →
     let v := s.g a
     let rg : BitVec 12 := BitVec.ofNat 12 (0x200 + 2 * w)
     let ac : BitVec 12 := BitVec.ofNat 12 (0x201 + 2 * w)
     (s.self.osThread = false → s.primary s.self.ctx s.self.core = true →
       exec (.mfsr d rg) s = writesG s 4 d ((s.myCore.winRange[w]?).getD 0) ∧ exec (.mfsr d ac) s = writesG s 4 d ((s.myCore.winAccess[w]?).getD 0) ∧
       (v &&& 0x7FFFFFFFF000F000 = 0 →
         exec (.mtsr a rg) s = .next (past s 4 (s.modMyCore fun k => { k with winRange := k.winRange.setIfInBounds w v }))) ∧
       (v &&& 0xFFFFFFFFE0FC0000 = 0 →
         exec (.mtsr a ac) s = .next (past s 4 (s.modMyCore fun k => { k with winAccess := k.winAccess.setIfInBounds w v })))) ∧
     (v &&& 0x7FFFFFFFF000F000 ≠ 0 → exec (.mtsr a rg) s = traps s 1 (encode (.mtsr a rg)).bits) ∧
     (v &&& 0xFFFFFFFFE0FC0000 ≠ 0 → exec (.mtsr a ac) s = traps s 1 (encode (.mtsr a ac)).bits) ∧
     (s.self.osThread = false → s.primary s.self.ctx s.self.core = false → s.myCore.savedCaddy.contains s.self.ctx = true →
       s.regions = [] → Sound s →
       let at_ (i : Nat) : Nat := s.saveArea s.self.ctx s.self.core + 0x40 + 16 * w + i
       (∃ l2, exec (.mfsr d rg) s = writesG { s with l2 := l2 } 4 d (s.word (at_ 0) &&& ~~~ 0x7FFFFFFFF000F000)) ∧
       (∃ l2, exec (.mfsr d ac) s = writesG { s with l2 := l2 } 4 d (s.word (at_ 8) &&& ~~~ 0xFFFFFFFFE0FC0000)) ∧
       (v &&& 0x7FFFFFFFF000F000 = 0 → ∃ l2, exec (.mtsr a rg) s = .next (past s 4 (State.putBytes { s with l2 := l2 } (at_ 0) (leBytes 8 v.toNat)))) ∧
       (v &&& 0xFFFFFFFFE0FC0000 = 0 → ∃ l2, exec (.mtsr a ac) s = .next (past s 4 (State.putBytes { s with l2 := l2 } (at_ 8) (leBytes 8 v.toNat))))) ∧
     (s.self.osThread = true ∨ (s.primary s.self.ctx s.self.core = false ∧ s.myCore.savedCaddy.contains s.self.ctx = false) →
       exec (.mfsr d rg) s = writesG s 4 d 0 ∧ exec (.mfsr d ac) s = writesG s 4 d 0 ∧
       (v &&& 0x7FFFFFFFF000F000 = 0 → exec (.mtsr a rg) s = onlySelf s 4 id) ∧ (v &&& 0xFFFFFFFFE0FC0000 = 0 → exec (.mtsr a ac) s = onlySelf s 4 id))) ∧
  (∀ (s : State) (a : BitVec 5),
     let v := s.g a
     let wr (r : BitVec 12) : Word := (encode (.mtsr a r)).bits
     (v &&& 0xFFFFFFFFFFFFFE08 ≠ 0 ∨ 4 < v.toNat % 8 → exec (.mtsr a 8) s = traps s 1 (wr 8)) ∧
     (2 ^ 32 ≤ v.toNat → exec (.mtsr a 10) s = traps s 1 (wr 10)) ∧
     (2 ^ 48 ≤ v.toNat → exec (.mtsr a 17) s = traps s 1 (wr 17)) ∧
     (2 ^ 50 ≤ v.toNat → exec (.mtsr a 18) s = traps s 1 (wr 18)) ∧
     (1 ≤ s.self.pl → 2 ^ 5 ≤ v.toNat → exec (.mtsr a 7) s = traps s 1 (wr 7))) ∧
  (∀ (s : State) (d a : BitVec 5) (r : BitVec 12),
     let rd := (encode (.mfsr d r)).bits
     let wr := (encode (.mtsr a r)).bits
     (srOf r = none → exec (.mfsr d r) s = traps s 1 rd ∧ exec (.mtsr a r) s = traps s 1 wr) ∧
     (∀ i : Nat, i < 6 → r = BitVec.ofNat 12 (0x110 + i) → s.self.pl < 1 → exec (.mfsr d r) s = traps s 2 rd ∧ exec (.mtsr a r) s = traps s 2 wr) ∧
     (∀ i : Nat, i < 6 → r = BitVec.ofNat 12 (0x120 + i) → s.self.pl < 2 → exec (.mfsr d r) s = traps s 2 rd ∧ exec (.mtsr a r) s = traps s 2 wr) ∧
     (∀ i : Nat, i < 6 → r = BitVec.ofNat 12 (0x130 + i) → s.self.pl < 3 → exec (.mfsr d r) s = traps s 2 rd ∧ exec (.mtsr a r) s = traps s 2 wr) ∧
     (∀ w : Nat, w < 16 → r = BitVec.ofNat 12 (0x200 + w) → s.self.pl < 1 → exec (.mfsr d r) s = traps s 2 rd ∧ exec (.mtsr a r) s = traps s 2 wr) ∧
     (r ∈ ([0, 1, 2, 3, 4, 5, 6, 9, 32, 33, 34, 35, 36] : List (BitVec 12)) → exec (.mtsr a r) s = traps s 1 wr))

/-! ## Traps -/

/-- R373: a trap is delivered at the lowest level, not below the thread's own and the cause's floor, whose frame is free and which takes the cause
or is MON: the frame is written, the level entered with SSTEP 0, and the PC is the vector; nothing else changes, but that a thread on a compute core
that enters HYP sets out for a service core, a steep keeping its slot (R374). A vector that no PC can hold raises BADPC from the next level on, its
value the vector, with the first cause in ORIG. A trap taken at MON, or while MON's frame is in use, or whose vector at MON is none, halts the context;
its record names the trap and the thread's core or service core. That the service core is the unit which raises the halt, kind 6, and that the
recorded status of the trap is that of the thread's level with the fatal cause, is the model's choice (log entries 42 and 87). -/
def Obligations.TrapEntry : Prop :=
  (∀ (s : State) (t : Nat) (e : Exc) (l : Nat),
     let x := s.thread t
     let takes (k : Nat) : Prop := ((x.frame k).act = false ∧ (s.tdelegOf x k).getLsbD e.cause = true) ∨ k = 3
     let entered : Thread := { x with
       frames := x.frames.setIfInBounds l
         { cause := causeWord e.cause e.async e.step x.pl e.orig e.tpend, epc := e.epc, val := e.val, stat := x.status }
       status := Word.setField (Word.setField x.status 0 2 l) 2 1 0
       pc := (s.tvecOf x l).setWidth 48
       park := none, stalled := false, deferred := false, hold := none, woken := false }
     x.pl ≠ 3 → (x.frame 3).act = false → l ≤ 3 → x.pl ≤ l → e.floor ≤ l → takes l → (∀ k < l, x.pl ≤ k → e.floor ≤ k → ¬ takes k) →
     (GoodPc (s.tvecOf x l) →
       ((l = 2 → x.onService.isSome) → s.deliver t e = s.setThread t entered) ∧
       (l = 2 → x.onService = none → let u := s.deliver t e
         (∃ n < 8, u.net = s.net ++ [.move t x.core (some n) false]) ∧ u.thread t = { entered with place := .moving, undo := e.undo } ∧ u.mem = s.mem ∧
         (x.steep = true → u.threads = (s.setThread t (u.thread t)).threads ∧ u.cores = s.cores))) ∧
     (¬ GoodPc (s.tvecOf x l) → l < 3 → s.deliver t e = s.deliver t
       { cause := 3, val := s.tvecOf x l, epc := e.epc, async := e.async, orig := e.cause, floor := l + 1, undo := e.undo })) ∧
  (∀ (s : State) (t : Nat) (e : Exc),
     let x := s.thread t
     let noLevel : Prop := ∀ k < 3, x.pl ≤ k → e.floor ≤ k → (x.frame k).act = true ∨ (s.tdelegOf x k).getLsbD e.cause = false
     x.pl = 3 ∨ (x.frame 3).act = true ∨ (noLevel ∧ ¬ GoodPc (s.tvecOf x 3)) → (s.ctxOf x.ctx).halt = none →
     s.deliver t e = s.modCtx x.ctx fun c => { c with halt := some {
       cause := 1
       unit := some (match x.onService with
         | some n => BitVec.ofNat 9 n
         | none => x.core)
       kind := if x.onService.isSome then 6 else 1
       image := x.image, pc := e.epc, tcause := Word.setField (x.frame x.pl).cause 0 8 e.cause, val := e.val } })

/-- R377, R378: TRAP completes and then raises cause 5 with its immediate, its resume address the next instruction; BKPT raises cause 4 at itself;
HALT halts the context from DRV up, its record naming it, and raises PRIV at USER. That a service core is the unit which raises the halt, kind 6, and
that the record's status of the trap is that of the thread's level as it stands, is the model's choice (log entries 42 and 87). -/
def Obligations.TrapBkptHalt : Prop :=
  ∀ (s : State) (imm : BitVec 12),
    (Plain s 4 → exec (.trap imm) s = .next ((s.modSelf (issuedAt s.fresh (s.self.pc + 4))).deliver s.cur
      { cause := 5, val := imm.setWidth 64, epc := (s.self.pc + 4).setWidth 64, undo := .done })) ∧
    exec (.bkpt imm) s = traps s 4 (imm.setWidth 64) ∧
    (s.self.pl = 0 → exec (.halt imm) s = traps s 2 (encode (.halt imm)).bits) ∧
    (1 ≤ s.self.pl → (s.ctxOf s.self.ctx).halt = none → exec (.halt imm) s = .next (s.modCtx s.self.ctx fun c => { c with halt := some {
      cause := 2
      unit := some (match s.self.onService with
        | some n => BitVec.ofNat 9 n
        | none => s.self.core)
      kind := if s.self.onService.isSome then 6 else 1
      image := s.self.image, pc := s.self.pc.setWidth 64, tcause := (s.self.frame s.self.pl).cause, val := imm.setWidth 64 } }))

/-- R379, R377, R374: TRET restores the saved status and PC and frees the frame; the trap registers keep their other bits, and nothing else changes. Then
a frame whose TPEND is 1 has its TRAP delivered, with the immediate that it keeps, and else an SSTEP that stood raises the step trap, each with the
restored PC as its resume address. On a service core, a thread that left a compute core and is below HYP now goes back there; one of the service core
itself stays, and a thread that is at HYP now on a compute core sets out for a service core. Without a frame in use TRET raises PRIV at USER, and above
it ILLEGAL at the level itself, whose frame is free; at MON, or while MON's frame is in use, it halts the context instead. With a saved status that is
none, it raises BADSTAT one level up and the frame stays; with a saved PC that no PC can hold it raises BADPC, and the frame stays. -/
def Obligations.TrapReturn : Prop :=
  (∀ (s : State) (f : Frame),
     let x := s.self
     x.frame x.pl = f → f.act = true → f.stat.toNat < 2 ^ 5 → Word.field f.stat 0 2 ≤ x.pl → f.stat.getLsbD 3 = x.conv → f.stat.getLsbD 4 = x.steep →
     GoodPc f.epc →
     let restored (x : Thread) : Thread := { x with
       frames := x.frames.setIfInBounds x.pl { f with cause := Word.setField f.cause 63 1 0 }
       status := f.stat }
     let lvl := Word.field f.stat 0 2
     let back := (s.modSelf restored).modSelf (issuedAt s.fresh (f.epc.setWidth 48))
     let tpend := f.cause.getLsbD 24
     (tpend = false → x.sstep = false →
       ((x.onService = none ∧ lvl ≠ 2) ∨ (x.onService.isSome ∧ (x.osThread = true ∨ 2 ≤ lvl)) → exec .tret s = .next back) ∧
       (x.onService.isSome → x.osThread = false → lvl < 2 → answers .tret s fun u => u.net = s.net ++ [.move s.cur x.core none true] ∧
         u.self = { back.self with place := .moving } ∧ u.mem = s.mem ∧ othersKeep s u s.cur) ∧
       (x.onService = none → x.place ≠ .moving → lvl = 2 → answers .tret s fun u => (∃ n < 8, u.net = s.net ++ [.move s.cur x.core (some n) false]) ∧
         u.self = { back.self with place := .moving, park := none, undo := .done } ∧ u.mem = s.mem)) ∧
     (tpend = true ∨ x.sstep = true →
       let w := back.deliver s.cur (if tpend then { cause := 5, val := BitVec.ofNat 64 (Word.field f.cause 25 12), epc := f.epc, undo := .done }
         else { cause := 4, val := x.pc.setWidth 64, epc := f.epc, step := true, undo := .done })
       ((x.onService = none ∧ (w.self.pl ≠ 2 ∨ w.self.place = .moving)) ∨ (x.onService.isSome ∧ (x.osThread = true ∨ 2 ≤ w.self.pl)) →
         exec .tret s = .next w) ∧
       (x.onService.isSome → x.osThread = false → w.self.pl < 2 → answers .tret s fun u => u.net = w.net ++ [.move s.cur w.self.core none true] ∧
         u.self = { w.self with place := .moving } ∧ u.mem = w.mem ∧ othersKeep w u s.cur))) ∧
  (∀ (s : State) (f : Frame),
     let x := s.self
     x.frame x.pl = f →
     let word := (encode .tret).bits
     let vec := s.tvecOf x x.pl
     (f.act = false → x.pl = 0 → exec .tret s = traps s 2 word) ∧
     (f.act = false → x.pl ≠ 0 → x.pl ≠ 3 → (x.frame 3).act = false →
       (GoodPc vec → exec .tret s = .next (s.setThread s.cur { x with
         frames := x.frames.setIfInBounds x.pl
           { cause := causeWord 1 false false x.pl 0 none, epc := x.pc.setWidth 64, val := word, stat := x.status }
         status := Word.setField x.status 2 1 0
         pc := vec.setWidth 48 })) ∧
       (¬ GoodPc vec → exec .tret s = .next (s.deliver s.cur
         { cause := 3, val := vec, epc := x.pc.setWidth 64, orig := 1, floor := x.pl + 1 }))) ∧
     (f.act = false → x.pl ≠ 0 → x.pl = 3 ∨ (x.frame 3).act = true → (s.ctxOf x.ctx).halt = none →
       answers .tret s fun u => ∃ h, u = (s.modCtx x.ctx fun c => { c with halt := some h }) ∧ h.cause = 1 ∧ h.pc = x.pc.setWidth 64 ∧ h.val = word ∧
         Word.field h.tcause 0 8 = 1) ∧
     (f.act = true → f.stat.toNat < 2 ^ 5 → Word.field f.stat 0 2 ≤ x.pl → f.stat.getLsbD 3 = x.conv → f.stat.getLsbD 4 = x.steep → ¬ GoodPc f.epc →
       exec .tret s = traps s 3 f.epc) ∧
     (f.act = true → 2 ^ 5 ≤ f.stat.toNat ∨ x.pl < Word.field f.stat 0 2 ∨ f.stat.getLsbD 3 ≠ x.conv ∨ f.stat.getLsbD 4 ≠ x.steep →
       exec .tret s = .next (s.deliver s.cur { cause := 29, val := f.stat, epc := x.pc.setWidth 64, floor := x.pl + 1 })))

/-- R190, R345, R347, R32, R380, R375: two halves of a region merge when both have been quiet for 65,536 core cycles; a completed walk leaves its
translation in the TLB of the core or service core of its thread and in the shared TLB, and ends every walk that it serves; a failed one leaves
nothing but what reading its entries does, and a walk that is not under way completes nothing. A fill brings one line of a thread's image, through its home slice, and where
the image holds what was written there, no register changes. TLBINV, once the thread's older stores are done and no access of the target is on its
way, leaves no translation of its target in any TLB and keeps those of others; while one is, the translations go and it waits; it is privileged, and
its forms with a named target and the stage-2 kinds belong to HYP. That a service core's walks fill a TLB of its own and the shared TLB of the die that
its thread left is the model's choice (log entry 65). -/
def Obligations.TranslationsComeAndGo : Prop :=
  ((∀ (s : State) (r q : Region), s.regions.find? (fun x => x.base == r.base && x.lg == r.lg) = some r →
     s.regions.find? (fun x => x.base == r.base + 2 ^ r.lg && x.lg == r.lg) = some q → r.core = q.core → r.lg < 10 →
     r.base % 2 ^ (r.lg + 1) = 0 → r.since + 65536 ≤ s.cycle → q.since + 65536 ≤ s.cycle →
     exec (.regionMerge r.base r.lg) s = .next { s with
       regions := (s.regions.filter fun x => x != r && x != q) ++ [{ r with lg := r.lg + 1, since := max r.since q.since }] }) ∧
   (∀ (s : State) (t : Nat) (va : Word) (kind : BitVec 3),
     let who := (s.thread t).who
     (s.walks.find? (fun w => w.thread == t && w.va == va) = none → exec (.pageWalkComplete t va kind) s = .next s) ∧
     (∀ w : Walk, s.walks.find? (fun w => w.thread == t && w.va == va) = some w → w.ctx = (s.thread t).ctx → (s.ctxOf w.ctx).gone = false →
       let v := State.walkTouch { s with walks := s.walks.erase w } who va
       (∀ e, v.walk who va (kindOf w.kind) = .ok e → answers (.pageWalkComplete t va kind) s fun u =>
         e ∈ (u.coreAt (s.thread t).unit).tlb ∧
         (∀ c, e.s2en = false → v.tlbSliceOf who w.part va = some c → e ∈ (Tab.get u.stlb {} c.toNat).full) ∧
         (∀ y ∈ u.walks, e.covers y.ctx y.va = false) ∧ u.mem = s.mem ∧ u.threads = s.threads) ∧
       (∀ f, v.walk who va (kindOf w.kind) = .error f → exec (.pageWalkComplete t va kind) s = .next v))) ∧
   (∀ (s : State) (t : Nat) (line : BitVec 4), (Tab.find s.threads t).isSome →
     let x := s.thread t
     answers (.registerCacheFill t line) s (fun u => (u.thread t).fetchMiss.getLsbD line.toNat = false) ∧
     (∀ a, s.imagePlace x = some a → (s.cachedLines x.core).length < 2048 → x.fetchMiss.getLsbD line.toNat = true →
       s.bytes (a + 64 * line.toNat) 64 = Tab.get x.evicted (s.bytes (a + 64 * line.toNat) 64) line.toNat → s.regions = [] → Sound s →
       ∃ l2, exec (.registerCacheFill t line) s = .next (State.setThread { s with l2 := l2 } t { x with
         fetchMiss := x.fetchMiss &&& ~~~ BitVec.twoPow 16 line.toNat, evicted := Tab.erase x.evicted line.toNat })))) ∧
  (∀ (s : State) (a c : BitVec 5),
     let done (u : State) : Prop := u.mem = s.mem ∧ u.self.pc = s.self.pc + 4 ∧ u.self.g = s.self.g
     let none_ (u : State) (P : Xlat → Prop) : Prop :=
       (∀ e ∈ u.stlb, ∀ y ∈ e.2.full, ¬ P y) ∧ (∀ k, ∀ y ∈ (u.coreAt k).tlb, ¬ P y) ∧
       (∀ e ∈ s.stlb, ∀ y ∈ e.2.full, ¬ P y → ∃ f ∈ u.stlb, f.1 = e.1 ∧ y ∈ f.2.full) ∧
       (∀ k, ∀ y ∈ (s.coreAt k).tlb, ¬ P y → y ∈ (u.coreAt k).tlb)
     let ga := (s.g a).toNat
     (Plain s 4 → Released s 3 → s.self.pl = 1 → s.xlatedOut (· == s.self.ctx) .ctx 0 = true →
       answers (.tlbinvCtx a 0) s fun u => u.mem = s.mem ∧ u.self.pc = s.self.pc ∧ u.self.g = s.self.g ∧ u.self.stalled = true ∧
         none_ u fun y => y.ctx = s.self.ctx) ∧
     (Plain s 4 → Released s 3 → s.xlatedOut (fun _ => true) .ctx 0 = false →
       (1 ≤ s.self.pl → (s.self.pl = 1 → c = 0) →
         let target := if s.self.pl = 1 then s.self.ctx.toNat else Word.field (s.g c) 0 16
         answers (.tlbinvVa a c) s (fun u => done u ∧ none_ u fun y => y.ctx.toNat = target ∧ y.vbase ≤ ga ∧ ga < y.vbase + y.size) ∧
         answers (.tlbinvCtx a c) s (fun u => done u ∧ none_ u fun y => y.ctx.toNat = target)) ∧
       (2 ≤ s.self.pl →
         let part := Word.field (s.g c) 0 6
         answers (.tlbinvIpa a c) s (fun u => done u ∧
           (none_ u fun y => s.partOf y.ctx = part ∧ ∃ g ∈ y.via, g.1 ≤ ga ∧ ga < g.1 + g.2) ∧
           (∀ e ∈ u.stlb, ∀ y ∈ e.2.two, y.part = part → ¬ (y.ipa ≤ ga ∧ ga < y.ipa + y.out.size))) ∧
         answers (.tlbinvPart a c) s (fun u => done u ∧ (none_ u fun y => s.partOf y.ctx = part) ∧
           (∀ e ∈ u.stlb, ∀ y ∈ e.2.two, y.part ≠ part)))) ∧
     (s.self.pl = 0 ∨ (s.self.pl = 1 ∧ c ≠ 0) → exec (.tlbinvVa a c) s = traps s 2 (encode (.tlbinvVa a c)).bits ∧
       exec (.tlbinvCtx a c) s = traps s 2 (encode (.tlbinvCtx a c)).bits) ∧
     (s.self.pl < 2 → exec (.tlbinvIpa a c) s = traps s 2 (encode (.tlbinvIpa a c)).bits ∧
       exec (.tlbinvPart a c) s = traps s 2 (encode (.tlbinvPart a c)).bits))

/-! ## Packed vectors -/

/-- R79 to R82, R120: the exact operations on finite values are those of the rational numbers, and raise nothing; the sum of two values of opposite
sign that are equal in magnitude is +0, or −0 when rounding down. In every element format, rounding what a finite encoding stands for, in any mode,
gives the encoding back and raises nothing. -/
def Obligations.ExactArithmetic : Prop :=
  (∀ (mode : RMode) (a b : Bool) (m n : Nat) (e f : Int),
     let x := FVal.fin a m e
     let y := FVal.fin b n f
     (∃ c k g, x.add mode y = (.fin c k g, 0) ∧ (do let u ← numberOf x; let v ← numberOf y; pure (u + v)) = numberOf (.fin c k g) ∧
       (k = 0 → c = if m = 0 ∧ n = 0 ∧ a = b then a else decide (mode = .rdn))) ∧
     (∃ k g, x.mul y = (.fin (a != b) k g, 0) ∧ (do let u ← numberOf x; let v ← numberOf y; pure (u * v)) = numberOf (.fin (a != b) k g))) ∧
  (∀ k ∈ [fmtF64, fmtF32, fmtF16, fmtBF16, fmtE4M3, fmtE5M2, fmtE2M3, fmtE3M2, fmtE2M1], ∀ (mode : RMode) (sat : Bool) (b : Nat),
     b < 2 ^ k.bits → (numberOf (k.decode b)).isSome → k.round mode sat (k.decode b) = (b, 0))

/-- R82, R83: a finite value that does not overflow rounds, in the modes RNE and RNA, to a value of the format to which none is nearer, on a tie in RNE
to the one with an even fraction and in RNA to the one of larger magnitude; and in the directed modes to the nearest that is not above, not below, or
not further from zero. -/
def Obligations.RoundingIsNearest : Prop :=
  ∀ k ∈ [fmtF64, fmtF32, fmtF16, fmtBF16, fmtE4M3, fmtE5M2, fmtE2M3, fmtE3M2, fmtE2M1], ∀ (mode : RMode) (neg : Bool) (m : Nat) (e : Int) (q : ℚ),
    numberOf (.fin neg m e) = some q → (k.round mode false (.fin neg m e)).2 &&& fOF = 0 →
    ∃ r, numberOf (k.decode (k.round mode false (.fin neg m e)).1) = some r ∧
      ∀ (b : Nat) (v : ℚ), b < 2 ^ k.bits → numberOf (k.decode b) = some v →
        match mode with
        | .rne => |q - r| ≤ |q - v| ∧ (|q - r| = |q - v| → v ≠ r → (k.round mode false (.fin neg m e)).1 % 2 = 0)
        | .rna => |q - r| ≤ |q - v| ∧ (|q - r| = |q - v| → |v| ≤ |r|)
        | .rdn => r ≤ q ∧ (v ≤ q → v ≤ r)
        | .rup => q ≤ r ∧ (q ≤ v → r ≤ v)
        | .rtz => |r| ≤ |q| ∧ (0 ≤ q → 0 ≤ v → v ≤ q → v ≤ r) ∧ (q ≤ 0 → v ≤ 0 → q ≤ v → r ≤ v)

/-- R117, R118, R132, R133: VLD and VST move sixteen bytes between a packed register and memory or the own caddy; where they are not aligned to 16,
the two blocks that they touch count and set out each on its own. VQNT and VDEQ: one block quantised and stored, its elements and, of an MX format, its
scale; one block read, each element rounded to binary32 in its place, with the flags of all sticky in sr.fcsr. In the own caddy they are complete at
once; in memory the requests of a VQNT form one count of ST for each address, and those of a VDEQ count once in LD for each, its registers pending. -/
def Obligations.VectorMemoryForms : Prop :=
  (∀ (s : State) (t tag : BitVec 4) (a : BitVec 5) (off : BitVec 8) (imm : BitVec 12) (g : Target) (key : Nat), Plain s 4 →
     let la := s.g a + BitVec.ofInt 64 (16 * off.toInt)
     let sa := s.g a + BitVec.ofInt 64 imm.toInt
     (la.toNat % 16 = 0 → OwnCaddyAt s la 16 key → s.self.ld < 63 →
       exec (.vld t a off tag) s = onlySelf s 4 fun x => x.setV t (BitVec.ofNat 128 (leNat (s.bytes key 16))) tag) ∧
     (la.toNat % 16 = 0 → s.locate s.self.who la 16 .load = .ok g → g.cls ≠ .caddy → g.cls ≠ .pod → s.self.ld < 63 →
       answers (.vld t a off tag) s fun u => u.mem = s.mem ∧ u.self.v = s.self.v ∧ u.self.g = s.self.g ∧ u.self.ld = s.self.ld + 1 ∧
         u.self.pendV = s.self.pendV ||| BitVec.twoPow 16 t.toNat ∧
         u.net = s.net ++ [.load { s.accessOf la 16 g with id := s.nextId }] ∧ othersKeep s u s.cur) ∧
     (sa.toNat % 16 = 0 → OwnCaddyAt s sa 16 key → s.self.st < 63 →
       exec (.vst t a imm) s = .next (past s 4 (s.putBytes key (leBytes 16 s.self.v[t.toNat].toNat)))) ∧
     (sa.toNat % 16 = 0 → s.locate s.self.who sa 16 .store = .ok g → g.cls ≠ .caddy → g.cls ≠ .pod → s.self.st < 63 →
       exec (.vst t a imm) s = .next (past s 4 { s.modSelf (fun x => { x with st := x.st + 1 }) with
         net := s.net ++ [.store (s.accessOf sa 16 g) (leBytes 16 s.self.v[t.toNat].toNat)] })) ∧
     (la.toNat % 16 ≠ 0 → OwnCaddyAt s la 16 key → s.self.ld + 2 ≤ 63 →
       exec (.vld t a off tag) s = onlySelf s 4 fun x => x.setV t (BitVec.ofNat 128 (leNat (s.bytes key 16))) tag) ∧
     (sa.toNat % 16 ≠ 0 → OwnCaddyAt s sa 16 key → s.self.st + 2 ≤ 63 →
       exec (.vst t a imm) s = .next (past s 4 (s.putBytes key (leBytes 16 s.self.v[t.toNat].toNat)))) ∧
     (∀ us, InMemoryAs s la 16 16 .load us → s.self.ld + countOf us ≤ 63 →
       exec (.vld t a off tag) s = .next (past s 4 { s.modSelf (fun x => { x with
           ld := x.ld + countOf us
           pendV := x.pendV ||| BitVec.twoPow 16 t.toNat
           loads := x.loads ++ [{ id := s.nextId, dest := .v t tag, buf := List.replicate 16 0, left := us.length, words := countOf us }]
           hold := none }) with
         nextId := s.nextId + 1, net := s.net ++ loadsFor s us })) ∧
     (∀ us, InMemoryAs s sa 16 16 .store us → s.self.st + countOf us ≤ 63 →
       exec (.vst t a imm) s = .next (past s 4 { s.modSelf (fun x => { x with st := x.st + countOf us }) with
         net := s.net ++ storesFor s us (leBytes 16 s.self.v[t.toNat].toNat) }))) ∧
  (∀ (s : State) (g f : BitVec 4) (d a b : BitVec 5) (h : BitVec 1) (q : BitVec 2) (ke kc : Nat), Plain s 4 → Guard s g → f.toNat < 9 →
     let code := 12 + f.toNat
     let mx : Bool := f.toNat ≤ 5
     let n := blockBytes code
     (let r0 : BitVec 4 := BitVec.ofNat 4 (8 * h.toNat)
      let T := s.tag r0
      let per := tagLanes T
      let count := if mx then 32 else 16
      let x (i : Nat) : FVal := (fpOf T).decode (lane (s.v (r0 + BitVec.ofNat 4 (i / per))) (tagBits T) (i % per))
      let block := quantBlock code ((List.range count).map x)
      T ∈ [2#4, 3#4, 4#4] → (∀ j < count / per, s.tag (r0 + BitVec.ofNat 4 j) = T) → s.self.st < 62 →
      (OwnCaddyAt s (s.g d) n ke →
        (mx = true → OwnCaddyAt s (s.g b) 1 kc →
          exec (.vqnt g d h b f) s = .next (past s 4 ((s.putBytes ke (leBytes n block.1)).putBytes kc (leBytes 1 block.2)))) ∧
        (mx = false → exec (.vqnt g d h b f) s = .next (past s 4 (s.putBytes ke (leBytes n block.1))))) ∧
      (∀ us uc : List Unit8, InMemoryAs s (s.g d) n 8 .store us → (mx = true → InMemoryAs s (s.g b) 1 8 .store uc) →
        let sent (id : Nat) (us : List Unit8) (bs : List Byte) : List Packet :=
          (withOffsets 0 us).map fun l => .store { s.accessOf l.2.va l.2.n l.2.t with id } ((bs.drop l.1).take l.2.n)
        let part (us : List Unit8) : Group := { left := us.length, ctr := .st, threads := [s.cur] }
        let one : Tab Group := Tab.set s.groups s.nextId (part us)
        (mx = true → exec (.vqnt g d h b f) s = .next (past s 4 { s.modSelf (fun x => { x with st := x.st + 2 }) with
          nextId := s.nextId + 2
          groups := Tab.set one (s.nextId + 1) (part uc)
          net := s.net ++ sent s.nextId us (leBytes n block.1) ++ sent (s.nextId + 1) uc (leBytes 1 block.2) })) ∧
        (mx = false → exec (.vqnt g d h b f) s = .next (past s 4 { s.modSelf (fun x => { x with st := x.st + 1 }) with
          nextId := s.nextId + 1, groups := one, net := s.net ++ sent s.nextId us (leBytes n block.1) })))) ∧
     (wellFormed (.vdeq g q a b f) = true → s.self.ld < 62 → ∀ us uc : List Unit8, InMemoryAs s (s.g a) n 8 .load us →
       (if mx then InMemoryAs s (s.g b) 1 8 .load uc else uc = []) →
       let regs := if mx then 8 else 4
       let words := if mx then 2 else 1
       exec (.vdeq g q a b f) s = .next (past s 4 { s.modSelf (fun x => { x with
           ld := x.ld + words
           pendV := x.pendV ||| BitVec.ofNat 16 ((2 ^ regs - 1) * 2 ^ (4 * q.toNat))
           loads := x.loads ++ [{
             id := s.nextId, dest := .deq q f (x.fcsr.setWidth 3), buf := List.replicate (if mx then n + 1 else n) 0
             left := (us ++ uc).length, words }]
           hold := none }) with
         nextId := s.nextId + 1, net := s.net ++ loadsFor s (us ++ uc) })) ∧
     (wellFormed (.vdeq g q a b f) = true → s.self.ld < 62 → OwnCaddyAt s (s.g a) n ke → (mx = true → OwnCaddyAt s (s.g b) 1 kc) →
       let bytes := leNat (s.bytes ke n)
       let scale := if mx then (s.byte kc).toNat else 0
       let regs := if mx then 8 else 4
       answers (.vdeq g q a b f) s fun u =>
         (∀ j, j < 4 * regs →
           let r := BitVec.ofNat 4 (4 * q.toNat + j / 4)
           lane (u.v r) 32 (j % 4) = (fmtF32.round s.self.rm false (blockElem code bytes scale j)).1 % 2 ^ 32 ∧ u.tag r = 2) ∧
         (∀ r : BitVec 4, r.toNat < 4 * q.toNat ∨ 4 * q.toNat + regs ≤ r.toNat → u.v r = s.v r ∧ u.tag r = s.tag r) ∧
         u.self.fcsr = s.self.fcsr |||
           ((flagsOf (4 * regs) fun j => fmtF32.round s.self.rm false (blockElem code bytes scale j)).setWidth 64 <<< 4) ∧
         u.self.g = s.self.g ∧ u.self.p = s.self.p ∧ u.self.pc = s.self.pc + 4 ∧ u.mem = s.mem ∧ othersKeep s u s.cur))

/-- R120 to R123, R125, R126: the floating-point forms, lane by lane: each the exact operation on the values of the lanes, rounded once.
The series behind VEXP2 and VLOG2 is the model's choice (log entry 16). -/
def Obligations.VectorFloatForms : Prop :=
  ∀ (s : State) (g d a b : BitVec 4), Plain s 4 → Guard s g → s.tag a ∈ [1#4, 2#4, 3#4, 4#4] → s.tag b = s.tag a →
    let T := s.tag a
    let k := fpOf T
    let w := tagBits T
    let n := tagLanes T
    let rm := s.self.rm
    let X (i : Nat) : FVal := k.decode (lane (s.v a) w i)
    let Y (i : Nat) : FVal := k.decode (lane (s.v b) w i)
    let Z (i : Nat) : FVal := k.decode (lane (s.v d) w i)
    let fused (np nz : Bool) (i : Nat) : Nat × Flags :=
      let p := (X i).mul (Y i)
      let r := (if np then p.1.neg else p.1).add rm (if nz then (Z i).neg else Z i)
      rounded k rm (r.1, r.2 ||| p.2)
    let p := if T = 1 then 24 else if T = 2 then 12 else if T = 3 then 11 else 8
    let pick (i : Nat) (second : Bool) : Nat × Flags :=
      (if (X i).isNan && (Y i).isNan then k.nanBits
        else if (X i).isNan || (!(Y i).isNan && second) then lane (s.v b) w i else lane (s.v a) w i,
       if (X i).isSig || (Y i).isSig then fNV else 0)
    (∀ e ∈ ([
      (.vadd g d a b, fun i => rounded k rm ((X i).add rm (Y i))),
      (.vsub g d a b, fun i => rounded k rm ((X i).add rm (Y i).neg)),
      (.vmul g d a b, fun i => rounded k rm ((X i).mul (Y i))),
      (.vdiv g d a b, fun i => rounded k rm ((X i).div (Y i))),
      (.vmin g d a b, fun i => pick i ((Y i).lt (X i))),
      (.vmax g d a b, fun i => pick i ((X i).lt (Y i))),
      (.vabs g d a, fun i => (lane (s.v a) w i % 2 ^ (w - 1), 0)),
      (.vneg g d a, fun i => (lane (s.v a) w i + 2 ^ (w - 1), 0)),
      (.vsqrt g d a, fun i => rounded k rm (X i).sqrt),
      (.vrcp g d a, fun i => k.estimate p (X i).rcp),
      (.vrsq g d a, fun i => k.estimate p (X i).rsq),
      (.vexp2 g d a, fun i => k.estimate p (X i).exp2),
      (.vlog2 g d a, fun i => k.estimate p (X i).log2)] : List (Instr × (Nat → Nat × Flags))),
      writesLanes e.1 s d T n w e.2) ∧
    (s.tag d = T → ∀ e ∈ ([(.vfma g d a b, fused false false), (.vfms g d a b, fused false true),
      (.vfnma g d a b, fused true false), (.vfnms g d a b, fused true true)] : List (Instr × (Nat → Nat × Flags))),
      writesLanes e.1 s d T n w e.2)

/-- R128, R129: the integer forms, lane by lane, wrapping or saturating; the shifts, by the count's low bits; and the logical forms, on every tag. -/
def Obligations.VectorIntegerForms : Prop :=
  ∀ (s : State) (g d a b : BitVec 4), Plain s 4 → Guard s g →
    let T := s.tag a
    let k := tagInt T
    let w := tagBits T
    let n := tagLanes T
    let X (i : Nat) : Int := k.decode (lane (s.v a) w i)
    let Y (i : Nat) : Int := k.decode (lane (s.v b) w i)
    let Z (i : Nat) : Int := k.decode (lane (s.v d) w i)
    let c (i : Nat) : Nat := lane (s.v b) w i % w
    let wrap (x : Int) : Nat × Flags := ((x % 2 ^ w).toNat, 0)
    let sat (x : Int) : Nat × Flags := ((max k.lo (min k.hi x) % 2 ^ w).toNat, 0)
    (T ∈ [7#4, 8#4, 9#4, 10#4, 11#4] → s.tag b = T →
      (∀ e ∈ ([
        (.viadd g d a b, fun i => wrap (X i + Y i)),
        (.visub g d a b, fun i => wrap (X i - Y i)),
        (.vimul g d a b, fun i => wrap (X i * Y i)),
        (.viaddS g d a b, fun i => sat (X i + Y i)),
        (.visubS g d a b, fun i => sat (X i - Y i)),
        (.vimulS g d a b, fun i => sat (X i * Y i)),
        (.vshl g d a b, fun i => (lane (s.v a) w i * 2 ^ c i, 0)),
        (.vshr g d a b, fun i => (lane (s.v a) w i / 2 ^ c i, 0)),
        (.vsra g d a b, fun i => wrap (X i / 2 ^ c i))] : List (Instr × (Nat → Nat × Flags))),
        writesLanes e.1 s d T n w e.2) ∧
      (s.tag d = T → ∀ e ∈ ([(.vimac g d a b, fun i => wrap (Z i + X i * Y i)),
        (.vimacS g d a b, fun i => sat (Z i + X i * Y i))] : List (Instr × (Nat → Nat × Flags))), writesLanes e.1 s d T n w e.2)) ∧
    (∀ e ∈ ([(.vand g d a b, s.v a &&& s.v b), (.vor g d a b, s.v a ||| s.v b), (.vxor g d a b, s.v a ^^^ s.v b)] : List (Instr × BitVec 128)),
      exec e.1 s = onlySelf s 4 fun t => t.setV d e.2 T)

/-- R123: VCMP writes one bit for each lane, and zeros above them: integers by their order, floating-point values by theirs, the unordered
pairs as each condition says. A signalling NaN raises NV, and under LT, LE, GT and GE so does a quiet one; no other flag is raised, and none on
integers. -/
def Obligations.VectorCompare : Prop :=
  ∀ (s : State) (g a b : BitVec 4) (d : BitVec 5) (cc : BitVec 3), Plain s 4 → Guard s g → s.tag a ≠ 0 → (s.tag a).toNat ≤ 11 →
    s.tag b = s.tag a →
    let T := s.tag a
    let w := tagBits T
    let nv (i : Nat) : Nat × Flags := (0, match tagFp T with
      | some k =>
        let x := k.decode (lane (s.v a) w i)
        let y := k.decode (lane (s.v b) w i)
        if x.isSig || y.isSig || (2 ≤ cc.toNat && cc.toNat ≤ 5 && (x.isNan || y.isNan)) then fNV else 0
      | none => 0)
    ∃ r : Word, exec (.vcmp g d a b cc) s = onlySelf s 4 (fun t => (t.setG d r).addFlags (flagsOf (tagLanes T) nv)) ∧
      (∀ i, tagLanes T ≤ i → r.getLsbD i = false) ∧
      (T.toNat ≥ 7 → ∀ i < tagLanes T,
        let x := (tagInt T).decode (lane (s.v a) w i)
        let y := (tagInt T).decode (lane (s.v b) w i)
        r.getLsbD i = (([decide (x = y), decide (x ≠ y), decide (x < y), decide (x ≤ y), decide (x > y), decide (x ≥ y), false, true] :
          List Bool).getD cc.toNat false)) ∧
      (∀ k, tagFp T = some k → ∀ i < tagLanes T,
        let x := k.decode (lane (s.v a) w i)
        let y := k.decode (lane (s.v b) w i)
        (x.isNan || y.isNan → r.getLsbD i = decide (cc = 1 ∨ cc = 6)) ∧
        (!x.isNan && !y.isNan → r.getLsbD i =
          (([decide (x.cmp y = 0), decide (x.cmp y ≠ 0), decide (x.cmp y < 0), decide (x.cmp y ≤ 0), decide (x.cmp y > 0),
            decide (x.cmp y ≥ 0), false, true] : List Bool).getD cc.toNat false)))

/-- R131, R134: VCVT converts as many lanes as the narrower of the two shapes has, a group of the source's or into a group of the destination's;
VDOT adds to each 32-bit lane of vd the products of its group of lanes. -/
def Obligations.VectorConversions : Prop :=
  ∀ (s : State) (g d a b tag : BitVec 4) (sat : BitVec 1) (k : BitVec 3), Plain s 4 → Guard s g → s.tag a ≠ 0 →
    let T := s.tag a
    let ns := tagLanes T
    let nd := tagLanes tag
    let conv (i : Nat) : Nat × Flags := cvtLane s.self.rm (sat == 1) T tag (lane (s.v a) (tagBits T) i)
    (nd ≤ ns → writesLanes (.vcvt g d a tag sat k) s d tag nd (tagBits tag) fun i => conv (k.toNat % (ns / nd) * nd + i)) ∧
    (ns < nd → s.tag d = tag ∨ s.tag d = 0 →
      let at0 := k.toNat % (nd / ns) * ns
      ∃ x : BitVec 128, exec (.vcvt g d a tag sat k) s = onlySelf s 4 (fun t => (t.setV d x tag).addFlags (flagsOf ns conv)) ∧
        (∀ i < ns, lane x (tagBits tag) (at0 + i) = (conv i).1 % 2 ^ tagBits tag) ∧
        (∀ i < nd, i < at0 ∨ at0 + ns ≤ i → lane x (tagBits tag) i = lane (s.v d) (tagBits tag) i)) ∧
    (T = 10 ∨ T = 11 → s.tag b = 10 ∨ s.tag b = 11 → s.tag d = 8 →
      let X (i : Nat) : Int := (tagInt T).decode (lane (s.v a) 8 i)
      let Y (i : Nat) : Int := (tagInt (s.tag b)).decode (lane (s.v b) 8 i)
      writesLanes (.vdot g d a b) s d 8 4 32 fun j =>
        (((lane (s.v d) 32 j : Int) + X (4 * j) * Y (4 * j) + X (4 * j + 1) * Y (4 * j + 1) + X (4 * j + 2) * Y (4 * j + 2) +
          X (4 * j + 3) * Y (4 * j + 3)) % 2 ^ 32 |>.toNat, 0)) ∧
    (T = 3 ∨ T = 4 → s.tag b = T → s.tag d = 2 →
      let term (i : Nat) : FVal × Flags := ((fpOf T).decode (lane (s.v a) 16 i)).mul ((fpOf T).decode (lane (s.v b) 16 i))
      writesLanes (.vdot g d a b) s d 2 4 32 fun j =>
        rounded fmtF32 .rne (exactSum [(fmtF32.decode (lane (s.v d) 32 j), 0), term (2 * j), term (2 * j + 1)])) ∧
    (T = 5 ∨ T = 6 → s.tag b = 5 ∨ s.tag b = 6 → s.tag d = 2 →
      let term (i : Nat) : FVal × Flags := ((fpOf T).decode (lane (s.v a) 8 i)).mul ((fpOf (s.tag b)).decode (lane (s.v b) 8 i))
      writesLanes (.vdot g d a b) s d 2 4 32 fun j =>
        rounded fmtF32 .rne (exactSum
          [(fmtF32.decode (lane (s.v d) 32 j), 0), term (4 * j), term (4 * j + 1), term (4 * j + 2), term (4 * j + 3)]))

/-- R136, R137: moves of packed registers and lanes, and the horizontal forms over the balanced tree of the lanes. -/
def Obligations.VectorMoves : Prop :=
  ∀ (s : State) (g d a idx tag : BitVec 4) (r : BitVec 5), Plain s 4 → Guard s g →
    let T := s.tag a
    let w := tagBits T
    let n := tagLanes T
    let D := s.tag d
    let k := fpOf T
    let j := if T = 1 ∨ T = 7 then 1 else if T = 2 ∨ T = 8 then 2 else if T = 3 ∨ T = 4 ∨ T = 9 then 3 else 4
    let at0 (x : Nat × Flags) (i : Nat) : Nat × Flags := if i = 0 then x else (0, 0)
    let horizontal (op : Nat → Nat → Nat × Flags) : Nat × Flags := treeOf op (lane (s.v a) w) j 0
    let imax (x y : Nat) : Nat × Flags := (if (tagInt T).decode x < (tagInt T).decode y then y else x, 0)
    writesLanes (.vsplat g d r tag) s d tag (tagLanes tag) (tagBits tag) (fun _ => ((s.g r).toNat, 0)) ∧
    (exec (.vmov g d a) s = onlySelf s 4 fun t => t.setV d (s.v a) T) ∧
    (s.tag d = T → writesLanes (.vsel g d a r) s d T n w fun i => (lane (if (s.g r).getLsbD i then s.v a else s.v d) w i, 0)) ∧
    writesLanes (.vshuf g d a r) s d T n w (fun i => (lane (s.v a) w ((s.g r).toNat / 2 ^ (4 * i) % 16 % n), 0)) ∧
    (T ≠ 0 → exec (.vext g r a idx) s = writesG s 4 r
      (if 7 ≤ T.toNat ∧ T.toNat ≤ 10 then (BitVec.ofNat w (lane (s.v a) w (idx.toNat % n))).signExtend 64
        else BitVec.ofNat 64 (lane (s.v a) w (idx.toNat % n)))) ∧
    (D ≠ 0 → writesLanes (.vins g d r idx) s d D (tagLanes D) (tagBits D) fun i =>
      (if i = idx.toNat % tagLanes D then (s.g r).toNat else lane (s.v d) (tagBits D) i, 0)) ∧
    (T ∈ [1#4, 2#4, 3#4, 4#4] →
      (∃ x : BitVec 128, x = BitVec.ofNat 128 (horizontal fun x y => rounded k s.self.rm ((k.decode x).add s.self.rm (k.decode y))).1 ∧
        exec (.vhsum g d a) s = onlySelf s 4 fun t => (t.setV d x T).addFlags
          (horizontal fun x y => rounded k s.self.rm ((k.decode x).add s.self.rm (k.decode y))).2) ∧
      (exec (.vhmax g d a) s = onlySelf s 4 fun t => (t.setV d (BitVec.ofNat 128 (horizontal (minMax k true)).1) T).addFlags
        (horizontal (minMax k true)).2)) ∧
    (T ∈ [7#4, 8#4, 9#4, 10#4, 11#4] →
      writesLanes (.vhsum g d a) s d T n w (at0 ((((List.range n).map fun i => lane (s.v a) w i).sum) % 2 ^ w, 0)) ∧
      writesLanes (.vhmax g d a) s d T n w (at0 (horizontal imax)))

/-- R91, R115, R119: an operand whose tag the form does not accept raises BADTAG, its value the tag wanted or the lowest of those accepted, and
nothing is written. -/
def Obligations.VectorTagsAreChecked : Prop :=
  ∀ (s : State) (g d a b : BitVec 4), Guard s g →
    let T := s.tag a
    let fp := T ∈ [1#4, 2#4, 3#4, 4#4]
    let int := T ∈ [7#4, 8#4, 9#4, 10#4, 11#4]
    let bad (i : Instr) (low : Nat) : Prop := exec i s = traps s 16 (BitVec.ofNat 64 low)
    (¬ fp → ∀ i ∈ ([.vadd g d a b, .vsub g d a b, .vmul g d a b, .vdiv g d a b, .vmin g d a b, .vmax g d a b, .vfma g d a b,
      .vfms g d a b, .vfnma g d a b, .vfnms g d a b, .vabs g d a, .vneg g d a, .vsqrt g d a, .vrcp g d a, .vrsq g d a, .vexp2 g d a,
      .vlog2 g d a] : List Instr), bad i 1) ∧
    (fp → s.tag b ≠ T → ∀ i ∈ ([.vadd g d a b, .vsub g d a b, .vmul g d a b, .vdiv g d a b, .vmin g d a b, .vmax g d a b, .vfma g d a b,
      .vfms g d a b, .vfnma g d a b, .vfnms g d a b] : List Instr), bad i T.toNat) ∧
    (fp → s.tag b = T → s.tag d ≠ T → ∀ i ∈ ([.vfma g d a b, .vfms g d a b, .vfnma g d a b, .vfnms g d a b] : List Instr), bad i T.toNat) ∧
    (¬ int → ∀ i ∈ ([.viadd g d a b, .visub g d a b, .vimul g d a b, .vimac g d a b, .viaddS g d a b, .visubS g d a b, .vimulS g d a b,
      .vimacS g d a b, .vshl g d a b, .vshr g d a b, .vsra g d a b] : List Instr), bad i 7) ∧
    (int → s.tag b ≠ T → ∀ i ∈ ([.viadd g d a b, .visub g d a b, .vimul g d a b, .vimac g d a b, .viaddS g d a b, .visubS g d a b,
      .vimulS g d a b, .vimacS g d a b, .vshl g d a b, .vshr g d a b, .vsra g d a b] : List Instr), bad i T.toNat) ∧
    (int → s.tag b = T → s.tag d ≠ T → bad (.vimac g d a b) T.toNat ∧ bad (.vimacS g d a b) T.toNat) ∧
    (∀ (r : BitVec 5) (cc : BitVec 3), (T = 0 → bad (.vcmp g r a b cc) 1) ∧ (T ≠ 0 → s.tag b ≠ T → bad (.vcmp g r a b cc) T.toNat)) ∧
    (∀ (tag : BitVec 4) (sat : BitVec 1) (k : BitVec 3), (T = 0 → bad (.vcvt g d a tag sat k) 1) ∧
      (T ≠ 0 → tagLanes T < tagLanes tag → s.tag d ≠ tag → s.tag d ≠ 0 → bad (.vcvt g d a tag sat k) 0)) ∧
    (let half := T = 3 ∨ T = 4
     let eight := T = 5 ∨ T = 6
     let bytes := T = 10 ∨ T = 11
     (¬ half → ¬ eight → ¬ bytes → bad (.vdot g d a b) 3) ∧
     (half → s.tag b ≠ T → bad (.vdot g d a b) T.toNat) ∧
     (eight → s.tag b ≠ 5 → s.tag b ≠ 6 → bad (.vdot g d a b) 5) ∧
     (bytes → s.tag b ≠ 10 → s.tag b ≠ 11 → bad (.vdot g d a b) 10) ∧
     ((half ∧ s.tag b = T) ∨ (eight ∧ (s.tag b = 5 ∨ s.tag b = 6)) → s.tag d ≠ 2 → bad (.vdot g d a b) 2) ∧
     (bytes → s.tag b = 10 ∨ s.tag b = 11 → s.tag d ≠ 8 → bad (.vdot g d a b) 8)) ∧
    (∀ (x y : BitVec 5) (h : BitVec 1) (f : BitVec 4),
      let r0 : BitVec 4 := BitVec.ofNat 4 (8 * h.toNat)
      let Q := s.tag r0
      (Q ∉ [2#4, 3#4, 4#4] → bad (.vqnt g x h y f) 2) ∧
      (Q ∈ [2#4, 3#4, 4#4] → (∃ j < (if f.toNat ≤ 5 then 32 else 16) / tagLanes Q, s.tag (r0 + BitVec.ofNat 4 j) ≠ Q) → f.toNat < 9 →
        bad (.vqnt g x h y f) Q.toNat)) ∧
    (∀ (r : BitVec 5) (idx : BitVec 4), (s.tag d ≠ T → bad (.vsel g d a r) T.toNat) ∧ (T = 0 → bad (.vext g r a idx) 1) ∧
      (s.tag d = 0 → bad (.vins g d r idx) 1)) ∧
    (¬ fp → ¬ int → bad (.vhsum g d a) 1 ∧ bad (.vhmax g d a) 1)

/-! ## The matrix engine -/

/-- R144, R145, R159: a member of a formed group issues a command: the first gives the group its pending command with the destination as it
translates then, the others with the same words join it; MX counts it once. A member that has issued to a command which the engine has not accepted
waits, with no effect. A steep's MMA.L waits at the engine. -/
def Obligations.MatrixCommandsIssue : Prop :=
  ∀ (s : State) (a b c : BitVec 5) (i : Nat) (g : Convene) (y : Xlat), Plain s 4 → Memory.wf s.mem = true → s.self.onService = none →
    s.primary s.self.ctx s.self.core = true → isCaddy (s.g c) = false → s.xlate s.self.who (s.g c) .reduce = .ok y → s.self.mx < 63 → Sound s →
    let core := (cnvPlace s.self.cnv).1
    let off := (cnvPlace s.self.cnv).2.1
    let idx := (cnvPlace s.self.cnv).2.2
    let key := s.caddyAt s.self.ctx core off
    let cmd (form : BitVec 6) : Cmd := {
      ctx := s.self.ctx, form, a := s.g a, b := s.g b, c := s.g c
      pa := (s.targetOf y (s.g c)).pa, place := y.place, page := (y.vbase, y.size), issuers := [s.cur], group := s.nextId }
    (s.self.conv = true → s.convAt core s.self.ctx off = some (i, g) → g.formed = true → g.broken = false →
      ∀ e ∈ ([(.mma a b c, 0), (.mmaSp8 a b c, 2), (.mmaSp16 a b c, 3), (.mmaSp32 a b c, 4)] : List (Instr × BitVec 6)),
        let joins (g' : Convene) : Prop := answers e.1 s fun u => u.conv core i = some g' ∧ u.self.mx = s.self.mx + 1 ∧
          u.self.pc = s.self.pc + 4 ∧ u.self.g = s.self.g ∧ othersKeep s u s.cur ∧ ∀ x, x < key ∨ key + 64 ≤ x → u.byte x = s.byte x
        (checkWords (s.g a) (s.g b) (s.g c) e.2 = 0 →
          (g.pending = none → s.self.loads = [] → s.self.st = 0 → joins { g with pending := some (cmd e.2), issued := BitVec.twoPow 32 idx }) ∧
          (∀ q, g.pending = some q → q.a = s.g a → q.b = s.g b → q.c = s.g c → q.form = e.2 → g.issued.getLsbD idx = false →
            s.self.loads = [] → s.self.st = 0 →
            joins { g with pending := some { q with issuers := q.issuers ++ [s.cur] }, issued := g.issued ||| BitVec.twoPow 32 idx }) ∧
          (∀ q, g.pending = some q → ¬ (q.a = s.g a ∧ q.b = s.g b ∧ q.c = s.g c ∧ q.form = e.2) → g.issued.getLsbD idx = false →
            exec e.1 s = traps s 18 8)) ∧
        (g.pending.isSome = true → g.issued.getLsbD idx = true → answers e.1 s fun u => u.conv core i = some g ∧ u.self.mx = s.self.mx ∧
          u.self.pc = s.self.pc ∧ u.self.g = s.self.g ∧ u.self.stalled = true ∧ u.mem = s.mem ∧ u.net = s.net ∧ othersKeep s u s.cur) ∧
        (g.pending = none ∨ g.issued.getLsbD idx = false → ∀ r, checkWords (s.g a) (s.g b) (s.g c) e.2 = r → r ≠ 0 →
          exec e.1 s = traps s 18 (BitVec.ofNat 64 r))) ∧
    (s.self.conv = false → ∀ j ∈ ([.mma a b c, .mmaSp8 a b c, .mmaSp16 a b c, .mmaSp32 a b c] : List Instr), exec j s = traps s 20 1) ∧
    (s.self.steep = true → checkWords (s.g a) (s.g b) (s.g c) 1 = 0 → answers (.mmaL a b c) s fun u =>
      (∃ slot, (u.coreAt s.self.core).engine.steepQ = (s.coreAt s.self.core).engine.steepQ ++ [{ cmd 1 with slot := some slot, cycle := s.cycle }]) ∧
      u.self.mx = s.self.mx + 1 ∧ u.self.pc = s.self.pc + 4 ∧ u.self.g = s.self.g ∧ u.mem = s.mem ∧ othersKeep s u s.cur) ∧
    (s.self.steep = false → exec (.mmaL a b c) s = traps s 20 2)

/-- R142, R146, R149, R161: the arbiter leases the engine to a group with a formed command, accepts its commands and, without a lease, those of
steeps, the one that has waited longest first and of one cycle that of the lowest slot, sixteen between two leases; a lease whose group has none ends;
the oldest command's sixteen lines set out, those that have not been sent yet, each word of a dense BF16 command of one group the exact sum of its
products rounded once and added to +0; a command whose operands cannot be read halts its context and sends none (R397). That a command is read and
computed in one step is the model's choice (log entry 18). -/
def Obligations.TheEngineRunsItsCommands : Prop :=
  ∀ (s : State) (c : Coord) (h : Nat) (g : Convene) (cmd : Cmd) (rest : List Cmd),
    let e := (s.coreAt c).engine
    let calm : Prop := Sound s ∧ ∀ i, (s.coreAt c).ring = some i → i.held = none
    (s.engineStopped c = false → e.queue.length < 2 → calm →
      (e.holder = none → e.steepQ = [] → s.nextReady c e.last = some h → s.conv c h = some g →
        answers (.engineArbitration c) s fun u => (u.coreAt c).engine = { e with holder := some h, last := h, idle := 0, run := 0 } ∧
          u.conv c h = some { g with leased := true, cmds := 0 } ∧ u.threads = s.threads ∧ u.net = s.net) ∧
      (e.holder = some h → s.conv c h = some g → g.ready = true → g.pending = some cmd → g.present ≠ 0 → g.cmds + 1 < 16 →
        answers (.engineArbitration c) s fun u => (u.coreAt c).engine = { e with queue := e.queue ++ [cmd], idle := 0 } ∧
          u.conv c h = some { g with pending := none, issued := 0, cmds := g.cmds + 1 } ∧ u.threads = s.threads ∧ u.net = s.net) ∧
      (e.holder = none → cmd ∈ e.steepQ →
        (∀ m ∈ e.steepQ, m ≠ cmd → cmd.cycle < m.cycle ∨ (cmd.cycle = m.cycle ∧ cmd.slot.getD 64 < m.slot.getD 64)) →
        (e.run < 16 ∨ s.nextReady c e.last = none → exec (.engineArbitration c) s = .next (s.modCore c fun k =>
          { k with engine := { e with steepQ := e.steepQ.erase cmd, queue := e.queue ++ [cmd], run := e.run + 1 } })) ∧
        (16 ≤ e.run → s.nextReady c e.last = some h → s.conv c h = some g →
          answers (.engineArbitration c) s fun u => (u.coreAt c).engine = { e with holder := some h, last := h, idle := 0, run := 0 } ∧
            u.conv c h = some { g with leased := true, cmds := 0 } ∧ u.threads = s.threads ∧ u.net = s.net))) ∧
    (e.holder = some h → s.conv c h = some g → g.ready = false → calm →
      answers (.leaseIdleExpiry c) s fun u => (u.coreAt c).engine = { e with holder := none, idle := 0 } ∧
        u.conv c h = some { g with leased := false, cmds := 0 } ∧ u.threads = s.threads ∧ u.net = s.net) ∧
    (e.queue = cmd :: rest → s.halted cmd.ctx = false → e.out ≠ [] →
      exec (.matrixCommandComplete c) s = .next { s.modCore c (fun k => { k with engine := { e with queue := rest, out := [] } }) with
        net := s.net ++ e.out.map .red }) ∧
    (e.queue = cmd :: rest → s.halted cmd.ctx = false → e.out = [] →
      let s0 := s
      let s := s0.meetOperands c cmd
      exec (.matrixCommandComplete c) s0 = .next (if s.halted cmd.ctx then s.modCore c fun k => { k with engine := { k.engine with failed := true } } else
        { s.modCore c (fun k => { k with engine := { e with queue := rest, out := [] } }) with
          net := s.net ++ (List.range 16).map fun i => .red {
            ctx := cmd.ctx, pa := cmd.pa + 64 * i, home := s.homeSlice (s.partOf cmd.ctx) cmd.place (cmd.pa + 64 * i)
            words := (s.compute c cmd).getD i [], key := BitVec.ofNat 16 (Word.field cmd.b 48 16), ord := cmd.b.getLsbD 35
            scope := BitVec.ofNat 3 (Word.field cmd.b 32 3), cores := [c], groups := [cmd.group] } })) ∧
    (cmd.form = 0 → Word.field cmd.a 24 5 = 4 → Word.field cmd.b 24 5 = 4 → Word.field cmd.a 32 16 = 16 → (s.coreAt c).savedCaddy = [] →
      ∀ i < 16, ∀ j < 16,
        let x (w : Word) (r t : Nat) : FVal := fmtBF16.decode (leNat (s.bytes (caddyKey c (Word.field w 0 18 + 32 * r + 2 * t)) 2))
        ((s.compute c cmd).getD i []).getD j 0 = fadd32 0 (BitVec.ofNat 32
          (fmtF32.round .rne false (exactSum ((List.range 16).map fun t => (x cmd.a i t).mul (x cmd.b j t))).1).1))

/-- R151, R174 to R180: the instructions of accumulation, where their operands are in order: ACC.INIT, RED.V, DET.NEXT and DRAIN count once and send
their requests; ACC.SETTLE, with MX at 0, acquires; TMLD loads a descriptor into its slot, or empties it. That DET.NEXT is owed by every slice of the
placement and that its range lies in one page (log entry 38), and that TMLD reads its descriptor in its own step (log entry 27), are the model's
choice. -/
def Obligations.AccumulationInstructions : Prop :=
  ∀ (s : State) (a b c f : BitVec 5) (q : BitVec 2) (imm : BitVec 12) (tm : BitVec 4) (y : Xlat) (key : Nat), Plain s 4 →
    let x := s.g a
    let w := s.g b
    let line (base : Word) (i : Nat) : Access :=
      { s.accessOf (base + BitVec.ofNat 64 (64 * i)) 64 (s.targetOf y (base + BitVec.ofNat 64 (64 * i))) with id := s.nextId }
    let counted (i : Instr) (ps : List Packet) : Prop := answers i s fun u => u.self.st = s.self.st + 1 ∧ u.net = s.net ++ ps ∧ u.mem = s.mem ∧
      u.nextKey = s.nextKey ∧ u.detRec = s.detRec ∧ u.self.g = s.self.g ∧ u.self.pc = s.self.pc + 4 ∧ othersKeep s u s.cur
    (x.toNat % 1024 = 0 → x.toNat < 2 ^ 57 → Word.field w 48 16 = 0 → isCaddy x = false → s.xlate s.self.who x .store = .ok y → y.cls = .acc →
      s.self.st < 63 →
      counted (.accInit a b) ((List.range 16).map fun i => .accInit (line x i) (w.setWidth 32) (BitVec.ofNat 16 (Word.field w 32 16)))) ∧
    (Word.field w 4 12 = 0 → Word.field w 32 32 = 0 → Word.field w 0 3 ≤ 5 → s.self.mx = 0 →
      (x = 0 → w.getLsbD 3 = false → exec (.accSettle a b) s = .next (past s 4 (acquired s (Word.field w 0 3)))) ∧
      (x ≠ 0 → x.toNat % 1024 = 0 → x.toNat < 2 ^ 57 → isCaddy x = false → s.xlate s.self.who x .load = .ok y → y.cls = .acc →
        (w.getLsbD 3 = true → ∀ i < 16, s.keyOf ((s.targetOf y x).pa + 64 * i) = BitVec.ofNat 16 (Word.field w 16 16)) →
        exec (.accSettle a b) s = .next (past s 4 (acquired s (Word.field w 0 3))))) ∧
    (let w := s.g c
     let scope := Word.field w 32 3
     x.toNat % 64 = 0 → x.toNat < 2 ^ 57 → Word.field w 0 32 = 0 → Word.field w 36 12 = 0 → scope ≤ 5 →
     (w.getLsbD 35 = false → Word.field w 48 16 = 0) → (w.getLsbD 35 = true → scope = 0) → isCaddy x = false →
     s.xlate s.self.who x .reduce = .ok y → y.cls = .acc → (∀ j < 4, s.tag (BitVec.ofNat 4 (4 * q.toNat + j)) = 2) → s.self.mx < 63 → Quiet s →
     answers (.redV a q c) s fun u => u.self.mx = s.self.mx + 1 ∧ u.self.st = s.self.st ∧ u.mem = s.mem ∧ u.self.g = s.self.g ∧ othersKeep s u s.cur ∧
       u.net = s.net ++ [.red {
         ctx := s.self.ctx, pa := (s.targetOf y x).pa, home := (s.targetOf y x).home
         words := (List.range 16).map fun k => BitVec.ofNat 32 (lane (s.v (BitVec.ofNat 4 (4 * q.toNat + k / 4))) 32 (k % 4))
         key := BitVec.ofNat 16 (Word.field w 48 16), ord := w.getLsbD 35, scope := BitVec.ofNat 3 scope
         cores := [s.self.core], groups := [s.nextId], by_ := [(s.cur, s.fresh)] }]) ∧
    (x.toNat % 64 = 0 → x.toNat < 2 ^ 57 → w ≠ 0 → w.toNat % 64 = 0 → isCaddy x = false → s.xlate s.self.who x .store = .ok y → y.cls = .det →
      x.toNat + w.toNat ≤ y.vbase + y.size → s.self.st < 63 →
      counted (.detNext a b) ((s.slicesFor (s.partOf s.self.ctx) y.place).map fun h =>
        .detNext { s.accessOf x w.toNat { s.targetOf y x with home := h } with id := s.nextId } y.place)) ∧
    (let code := f.toNat
     let mx := isMxCode code
     let n := drainRowBytes code
     let w1 := s.g (b + 1)
     let v := s.g c
     let es := Word.field v 0 24
     let ss := Word.field v 24 24
     let acc (l : Word × Nat × Target) : Access := { s.accessOf l.1 l.2.1 l.2.2 with id := s.nextId, bypass := true }
     ∀ rows scales : Nat → List (Word × Nat × Target),
       x.toNat % (if mx then 2048 else 1024) = 0 → x.toNat < 2 ^ 57 → w.toNat < 2 ^ 57 → (mx = true → w1.toNat < 2 ^ 57) → Word.field v 49 15 = 0 →
       es = 0 ∨ n ≤ es → (mx = false → ss = 0) → isCaddy x = false → s.xlate s.self.who x .load = .ok y → y.cls = .acc →
       (∀ r < 16, drainPlace s (w + BitVec.ofNat 64 (r * if es = 0 then n else es)) n = .ok (rows r)) →
       (if mx then ∀ r < 16, drainPlace s (w1 + BitVec.ofNat 64 (r * if ss = 0 then 1 else ss)) 1 = .ok (scales r) else ∀ r, scales r = []) →
       s.self.st < 63 →
       counted (.drain a b c f) ((List.range 16).map fun r =>
         .drainRow (line x r :: if mx then [line (x + 1024) r] else []) f (v.getLsbD 48) ((rows r).map acc) ((scales r).map acc))) ∧
    (let va := x + BitVec.ofInt 64 imm.toInt
     let put (d : Option (List Byte)) (t : Thread) : Thread := { t with tm := t.tm.set tm.toNat va, tmDesc := t.tmDesc.set tm.toNat d }
     (va = 0 → exec (.tmld a imm tm) s = onlySelf s 4 (put none)) ∧
     (va ≠ 0 → va.toNat % 64 ≠ 0 → exec (.tmld a imm tm) s = traps s 17 va) ∧
     (va ≠ 0 → va.toNat % 64 = 0 → OwnCaddyAt s va 64 key → s.homeAsleep s.self.core = false →
       (tmValid (s.bytes key 64) = true → exec (.tmld a imm tm) s = onlySelf s 4 (put (some (s.bytes key 64)))) ∧
       (tmValid (s.bytes key 64) = false → exec (.tmld a imm tm) s = traps s 17 va)))

/-- R165 to R172, R176, R179, R180: what reaches the infusers: an ordered partial with the awaited key is added, word by word, and the key advances;
one with another key is parked, in a place of its own, while there is room, and refused to its core otherwise, which keeps it in the lowest place of the
retry area or, with no place left, halts the context; parked successors follow until none has the awaited key; a free one is added and the key stays;
every partial that is added is acknowledged. A line that is evicted leaves its slice, and no value, key, record or parked entry changes. ACC.INIT, DET.NEXT and DRAIN do their part at the home of each line: DRAIN in every format, with or without the clear. That the
places are counted over the context, and that a line without a place is kept, are the model's choice (log entry 30), as is the one step for a line and
its successors (log entry 85). -/
def Obligations.TheInfusersAccumulate : Prop :=
  (∀ (s : State) (k : Nat) (p : RedLine), s.net[k]? = some (.red p) → Memory.wf s.mem = true → s.halted p.ctx = false → s.homeAsleep p.home = false →
      p.words.length = 16 → p.pa % 64 = 0 → s.redWaits k (.red p) = false →
    let e := s.meetRed p
    let met (P : State → Prop) : Prop := answers (.infuserArrival k) s fun u => if e.halted p.ctx then u = e else P u
    let adds (u : State) : Prop := u.lineWords p.pa = (s.lineWords p.pa).zipWith fadd32 p.words ∧ (∀ x, x < p.pa ∨ p.pa + 64 ≤ x → u.byte x = s.byte x) ∧
      (∀ l, l / 64 ≠ p.pa / 64 → u.keyOf l = s.keyOf l) ∧ u.net = dropAt s.net k ++ p.groups.map .redAck ∧ u.threads = s.threads ∧ u.parks = s.parks
    (p.ord = true → p.key = s.keyOf p.pa → (∀ r ∈ s.parks, r.pa ≠ p.pa) →
      met fun u => adds u ∧ u.keyOf p.pa = p.key + 1) ∧
    (p.ord = true → p.key = s.keyOf p.pa → Sound s → (∀ r ∈ s.parks, r.pa = p.pa → s.halted r.ctx = false) →
      met fun u => ∀ r ∈ u.parks, r.pa = p.pa → r.key ≠ u.keyOf p.pa) ∧
    (∀ r ∈ s.parks, p.ord = true → p.key = s.keyOf p.pa → r.pa = p.pa → r.key = p.key + 1 → r.words.length = 16 →
      (∀ q ∈ s.parks, q ≠ r → q.pa ≠ p.pa) → Sound s → s.halted r.ctx = false →
      met fun u => u.lineWords p.pa = ((s.lineWords p.pa).zipWith fadd32 p.words).zipWith fadd32 r.words ∧ u.keyOf p.pa = p.key + 2 ∧
        u.parks = s.parks.erase r ∧ u.net = dropAt s.net k ++ p.groups.map .redAck ++ r.groups.map .redAck ∧
        ∀ x, x < p.pa ∨ p.pa + 64 ≤ x → u.byte x = s.byte x) ∧
    (p.ord = true → p.key ≠ s.keyOf p.pa → (s.parks.filter (·.home == p.home)).length < 64 →
      met fun u => (∃ n < 64, (∀ r ∈ s.parks, r.home = p.home → r.slot ≠ n) ∧ u.parks = s.parks ++ [{ p with slot := n }]) ∧
        u.net = dropAt s.net k ∧ u.mem = s.mem ∧ u.nextKey = s.nextKey ∧ u.threads = s.threads) ∧
    (p.ord = true → p.key ≠ s.keyOf p.pa → 64 ≤ (s.parks.filter (·.home == p.home)).length →
      let c := p.cores.headD 0
      let n := s.retrySlot p.ctx
      let held : State := { e.modCore c (fun q => { q with retry := q.retry ++ [{ p with slot := n }] }) with net := dropAt s.net k }
      (n < s.retryPlaces p.ctx → p.ctx ∈ (s.coreAt c).ctxs → met fun u => u = held) ∧
      (∀ a, n < s.retryPlaces p.ctx → p.ctx ∉ (s.coreAt c).ctxs → Sound s → s.regions = [] → held.retryAt { p with slot := n } = some a →
        met fun u => ∃ l2, u = State.putLine { held with l2 := l2 } a p.words) ∧
      (s.retryPlaces p.ctx ≤ n → met fun u => u = held.haltCtx p.ctx { cause := 4, unit := some c, kind := 1 })) ∧
    (p.ord = false → s.net.length = k + 1 → met fun u => adds u ∧ u.keyOf p.pa = s.keyOf p.pa)) ∧
  (∀ (s : State) (k id : Nat) (g : Group) (t : Nat), s.net[k]? = some (.redAck id) → Tab.find s.groups id = some g → g.ctr = .mx → g.threads = [t] →
    g.pour = none → Running s t →
    (g.left = 1 → answers (.reductionAck k) s fun u => u.thread t = { s.thread t with mx := (s.thread t).mx - 1 } ∧ u.groups = Tab.erase s.groups id ∧
      u.mem = s.mem ∧ u.net = dropAt s.net k ∧ othersKeep s u t) ∧
    (1 < g.left → exec (.reductionAck k) s = .next { s with
      net := dropAt s.net k, groups := Tab.set s.groups id { g with left := g.left - 1 } })) ∧
  (∀ (s : State) (c : Coord) (i : Nat) (r : RedLine), (s.coreAt c).retry[i]? = some r → r.ctx ∈ (s.coreAt c).ctxs → s.halted r.ctx = false → Sound s →
    exec (.retryResend c i) s = .next { s.modCore c (fun q => { q with retry := dropAt q.retry i }) with net := s.net ++ [.red r] }) ∧
  (∀ (s : State) (line : Nat), answers (.accLineEvict line) s fun u => u.mem = s.mem ∧ u.nextKey = s.nextKey ∧ u.parks = s.parks ∧
    u.detRec = s.detRec ∧ u.threads = s.threads ∧ u.net = s.net ∧
    (Sound s → u = { s with l2 := u.l2 } ∧ ∀ e ∈ u.l2, ∀ l ∈ e.2, l.line ≠ line)) ∧
  (∀ (s : State) (k : Nat) (a : Access) (v : BitVec 32) (key : BitVec 16), s.ready k = true → s.net[k]? = some (.accInit a v key) → Sound s →
    (∀ r ∈ s.parks, r.pa ≠ a.pa) →
    answers (.homeAccess k) s fun u => u.mem = Memory.writeList s.mem a.pa ((List.replicate 16 (leBytes 4 v.toNat)).flatten) ∧ u.keyOf a.pa = key ∧
      u.threads = s.threads ∧ u.net = dropAt s.net k ++ List.replicate a.words (.ack a.thread a.id)) ∧
  (∀ (s : State) (k : Nat) (a : Access) (p : Placement), s.ready k = true → s.net[k]? = some (.detNext a p) → Sound s →
    answers (.homeAccess k) s fun u => u.mem = s.mem ∧ u.threads = s.threads ∧
      u.net = dropAt s.net k ++ List.replicate a.words (.ack a.thread a.id) ∧
      ∀ w, Tab.find u.detRec w = if a.pa ≤ 8 * w ∧ 8 * w < a.pa + a.n ∧ s.homeSlice (s.partOf a.ctx) p (8 * w) = a.home then none
        else Tab.find s.detRec w) ∧
  (∀ (s : State) (k : Nat) (ls es sc : List Access) (f : BitVec 5) (clr : Bool), s.ready k = true → s.net[k]? = some (.drainRow ls f clr es sc) →
    Sound s → (∀ r ∈ s.parks, ∀ l ∈ ls, r.pa ≠ l.pa) →
    let ws := ls.flatMap fun l => s.lineWords l.pa
    let val (w : BitVec 32) : FVal := fmtF32.decode w.toNat
    let q := quantBlock f.toNat (ws.map val)
    let out : List Byte × List Byte :=
      if f = 2 then (ws.flatMap fun w => leBytes 4 w.toNat, [])
      else if f = 4 then (ws.flatMap fun w => leBytes 2 (fmtBF16.round .rne true (val w)).1, [])
      else (leBytes (blockBytes f.toNat) q.1, if isMxCode f.toNat then leBytes 1 q.2 else [])
    answers (.homeAccess k) s fun u =>
      u.net = s.net.take k ++ (storesOf es out.1 ++ storesOf sc out.2) ++ s.net.drop (k + 1) ∧ u.threads = s.threads ∧
      (clr = false → u.mem = s.mem ∧ u.nextKey = s.nextKey) ∧
      (clr = true → Memory.wf s.mem = true →
        (∀ l ∈ ls, u.keyOf l.pa = 0 ∧ ∀ x, l.pa ≤ x → x < l.pa + 64 → u.byte x = 0) ∧
        (∀ x, (∀ l ∈ ls, x < l.pa ∨ l.pa + 64 ≤ x) → u.byte x = s.byte x)))

/-! ## Copies and barriers -/

/-- R225 to R233: a copy whose operands are in order takes its place in its channel, with the state its issuer has at issue; CP counts it, and the
channel's W becomes its first offset. CPY.WP reads W, and CPY.STOP takes the thread's copies out, each bound one recording that it was stopped. The
active copy moves the bytes up to the next 64-byte line of its region, from a caddy or memory to its caddy, or from its caddy to memory, fills what
lies out of bounds and leaves what lies between rows; it may go past the line to the end of a word of memory; W goes with the bytes delivered, and of a
copy out of the caddy with the bytes read; a fault stops it, and is recorded in the object that it is bound to or pending at its issuer (into which
fault code each cause of a failed translation sorts is the model's choice, log entry 23); and when every byte is moved it completes, its object
counting one copy less and flipping with the last. -/
def Obligations.CopiesIssueAndRun : Prop :=
  (∀ (s : State) (a b c : BitVec 5) (tm : BitVec 4) (off : Nat), Plain s 4 → s.self.onService = none → s.primary s.self.ctx s.self.core = true →
    isCaddy (s.g a) = true → s.caddyPlace s.self.who (s.g a) 1 = .ok (s.self.core, off) → off % 16 = 0 → s.self.cp < 63 → Quiet s →
    let w := s.g b
    let x := s.g c
    let core := s.self.core
    let ch := cwChan w
    ((s.coreAt core).chan ch).copies.length < 8 →
    (cwBind w = true → cwBar w + 16 ≤ 2 ^ 18 ∧ (s.bar s.self.ctx core (cwBar w)).count ≠ 0) →
    let issues (i : Instr) (tile load : Bool) (mem : Word) (d : List Byte) (coords : List Word) (region : Nat) : Prop :=
      answers i s fun u =>
        (u.coreAt core).chan ch = {
          copies := ((s.coreAt core).chan ch).copies ++ [{
            thread := s.cur, ctx := s.self.ctx, pl := BitVec.ofNat 2 s.self.pl, core, word := w, caddy := s.g a, tile, load, mem, desc := d
            coords, iword := (encode i).bits.setWidth 32, dst := core, off, region, id := s.nextId, seq := s.fresh }]
          w := BitVec.ofNat 18 off, newest := true } ∧
        u.self.cp = s.self.cp + 1 ∧ u.self.g = s.self.g ∧ u.self.pc = s.self.pc + 4 ∧ u.mem = s.mem ∧ u.net = s.net ∧ othersKeep s u s.cur
    (cwBad w false = false → Word.field x 0 4 = 0 → off + cwLen w ≤ 2 ^ 18 →
      issues (.cpyLLd a b c) false true x [] [] (cwLen w) ∧ (isCaddy x = false → issues (.cpyLSt a b c) false false x [] [] (cwLen w))) ∧
    (∀ (d : List Byte) (bits blk bytes : Nat), cwBad w true = false → s.self.tm[tm.toNat] ≠ 0 → s.self.tmDesc[tm.toNat] = some d → tmValid d = true →
      fmtShape (descField d 8 1) = some (bits, blk, bytes) → c.toNat + tmRank d ≤ 32 → x.toInt % blk = 0 →
      let region := (tmRows d - 1) * tmPitch d + tmRowBytes d
      let coords := (List.range (tmRank d)).map fun i => s.g (BitVec.ofNat 5 (c.toNat + i))
      off + region ≤ 2 ^ 18 →
      issues (.cpyTLd a b c tm) true true (BitVec.ofNat 64 (tmBase d)) d coords region ∧
      issues (.cpyTSt a b c tm) true false (BitVec.ofNat 64 (tmBase d)) d coords region)) ∧
  (∀ (s : State) (a : BitVec 5) (ch : BitVec 2), Plain s 4 → s.self.onService = none → s.primary s.self.ctx s.self.core = true →
    let core := s.self.core
    let k := (s.coreAt core).chan ch.toNat
    let mine := k.copies.filter (·.thread == s.cur)
    exec (.cpyWp a ch) s = writesG s 4 a (k.w.setWidth 64) ∧
    ((∀ e ∈ s.threads, e.2.park ≠ some (.channel ch.toNat)) → Running s s.cur →
      let stops (P : State → Prop) : Prop := answers (.cpyStop a ch) s fun u => (a ≠ 0 → u.self.getG a = BitVec.ofNat 64 mine.length) ∧
        ((u.coreAt core).chan ch.toNat).copies = k.copies.filter (·.thread != s.cur) ∧ u.self.cp = s.self.cp - mine.length ∧
        u.net = s.net ∧ othersKeep s u s.cur ∧ P u
      ((∀ cp ∈ mine, cwBind cp.word = false) → stops fun u => u.mem = s.mem) ∧
      (∀ cp, mine = [cp] → cwBind cp.word = true → cp.dst = core → cp.ctx = s.self.ctx →
        let bar := cwBar cp.word
        let o := s.bar cp.ctx core bar
        let key := caddyKey core bar
        (s.coreAt core).savedCaddy = [] → NoConvene (s.coreAt core) → Memory.wf s.mem = true →
        (∀ e ∈ s.threads, ∀ ga par, e.2.park ≠ some (.barrier key ga par)) → o.fault = false →
        stops fun u => faulted o (u.bar cp.ctx core bar) 4 0 cp.word ∧ ∀ x, x < key ∨ key + 16 ≤ x → u.byte x = s.byte x))) ∧
  (∀ (s : State) (c : Coord) (ch : BitVec 2) (cp : Copy) (rest : List Copy),
    let k := (s.coreAt c).chan ch.toNat
    let n := min (cp.region - cp.done) (64 - (cp.off + cp.done) % 64)
    let bar := cwBar cp.word
    let o := s.bar cp.ctx cp.dst bar
    let key := caddyKey cp.dst bar
    let free : Prop := (s.coreAt cp.dst).savedCaddy = [] ∧ NoConvene (s.coreAt cp.dst) ∧ Memory.wf s.mem = true ∧
      ∀ e ∈ s.threads, ∀ ga par, e.2.park ≠ some (.barrier key ga par)
    let moves (src : Word → Nat) (dst : Nat → Nat) (u : State) : Prop := ∃ (m : Nat) (pages : List Xlat) (buf : List (Option Byte)),
      n ≤ m ∧ cp.done + m ≤ cp.region ∧
      ((u.coreAt c).chan ch.toNat).copies = { cp with done := cp.done + m, buf := buf, pages := pages } :: rest ∧
      (¬ (k.newest = true ∧ rest = []) → ((u.coreAt c).chan ch.toNat).w = k.w) ∧
      (k.newest = true → rest = [] → ∃ r, ((u.coreAt c).chan ch.toNat).w = BitVec.ofNat 18 (cp.off + r) ∧ cp.done + m + (if cp.load then 0 else buf.length) ≤ r ∧
        r ≤ cp.region ∧ ∀ j, cp.done + m + (if cp.load then 0 else buf.length) ≤ j → j < r → ¬ cp.load ∧ ¬ ∃ va, cp.byteAt j = .mem va) ∧
      u.threads = s.threads ∧
      (∀ i < m, match cp.byteAt (cp.done + i), cp.load with
        | .mem va, true => u.byte (dst (cp.done + i)) = s.byte (src va)
        | .fill b, true => u.byte (dst (cp.done + i)) = b
        | .gap, true => u.byte (dst (cp.done + i)) = s.byte (dst (cp.done + i))
        | .mem va, false => u.byte (src va) = s.byte (dst (cp.done + i))
        | _, false => True) ∧
      (∀ x, (∀ i < m, if cp.load then x ≠ dst (cp.done + i) else ∀ va, cp.byteAt (cp.done + i) = .mem va → x ≠ src va) → u.byte x = s.byte x)
    k.copies = cp :: rest → s.halted cp.ctx = false → (∀ e ∈ s.threads, e.2.park ≠ some (.channel ch.toNat)) →
    (Sound s → Memory.wf s.mem = true → cp.dst = cp.core → n ≠ 0 → s.net = [] → s.primary cp.ctx cp.core = true → NoConvene (s.coreAt cp.core) →
      cp.off + cp.region ≤ 2 ^ 18 → cp.buf = [] →
      let dst (i : Nat) : Nat := caddyKey cp.core (cp.off + i)
      (∀ o, cp.load = true → cp.tile = false →
        (∀ i < cp.region, isCaddy (cp.mem + BitVec.ofNat 64 i) = true ∧ s.caddyPlace cp.who (cp.mem + BitVec.ofNat 64 i) 1 = .ok (cp.core, o + i)) →
        (o + cp.region ≤ cp.off ∨ cp.off + cp.region ≤ o) →
        answers (.copyLineTransfer c ch) s (moves (fun va => caddyKey cp.core (o + (va - cp.mem).toNat)) dst)) ∧
      (∀ y : Xlat, y.cls = .trk ∨ y.cls = .unt →
        (cp.pages = [y] ∨ cp.pages = [] ∧ ∀ i < cp.region, ∀ va, cp.byteAt i = .mem va → s.xlate cp.who va (if cp.load then .load else .copy) = .ok y) →
        (∀ i < cp.region, ∀ va, cp.byteAt i = .mem va → isCaddy va = false ∧ y.covers cp.ctx va = true ∧ isHbm (s.targetOf y va).pa = true) →
        (∀ i < cp.region, ∀ j < cp.region, ∀ va, cp.load = false → cp.byteAt i = .mem va → cp.byteAt j = .mem va → i = j) →
        answers (.copyLineTransfer c ch) s (moves (fun va => (s.targetOf y va).pa) dst))) ∧
    (∀ va f, Sound s → cp.dst = cp.core → n ≠ 0 → s.net = [] → s.primary cp.ctx cp.core = true → cp.buf = [] →
      cp.pages = [] → cp.byteAt cp.done = .mem va → isCaddy va = false → s.xlate cp.who va (if cp.load then .load else .copy) = .error f →
      Running s cp.thread → (s.thread cp.thread).copyFault = none →
      (cwBind cp.word = false → answers (.copyLineTransfer c ch) s fun u => ((u.coreAt c).chan ch.toNat).copies = rest ∧
        (u.thread cp.thread).cp = (s.thread cp.thread).cp - 1 ∧
        ((u.thread cp.thread).copyFault.map fun p => (p.cause, p.val)) = some (23, BitVec.ofNat 64 (va.toNat % 2 ^ 57)) ∧ u.mem = s.mem ∧ othersKeep s u cp.thread) ∧
      (cwBind cp.word = true → free → o.fault = false → answers (.copyLineTransfer c ch) s fun u => ((u.coreAt c).chan ch.toNat).copies = rest ∧
        u.thread cp.thread = { s.thread cp.thread with cp := (s.thread cp.thread).cp - 1 } ∧
        faulted o (u.bar cp.ctx cp.dst bar) (failCode f) va cp.word ∧ (∀ x, x < key ∨ key + 16 ≤ x → u.byte x = s.byte x) ∧
        othersKeep s u cp.thread)) ∧
    (cp.region ≤ cp.done → s.copyHeld cp = false → Running s cp.thread →
      (cwBind cp.word = false → answers (.copyComplete c ch) s fun u => ((u.coreAt c).chan ch.toNat).copies = rest ∧
        u.thread cp.thread = { s.thread cp.thread with cp := (s.thread cp.thread).cp - 1 } ∧ u.mem = s.mem ∧ u.net = s.net ∧ othersKeep s u cp.thread) ∧
      (cwBind cp.word = true → free → answers (.copyComplete c ch) s fun u =>
        let q := u.bar cp.ctx cp.dst bar
        ((u.coreAt c).chan ch.toNat).copies = rest ∧ u.thread cp.thread = { s.thread cp.thread with cp := (s.thread cp.thread).cp - 1 } ∧
        u.net = s.net ∧ (∀ x, x < key ∨ key + 16 ≤ x → u.byte x = s.byte x) ∧ othersKeep s u cp.thread ∧
        q.count = o.count ∧ q.scope = o.scope ∧ q.w1 = o.w1 ∧
        (o.fault = true → q = o) ∧
        (o.fault = false → o.xfer = -32768 → q.fault = true ∧ Word.field q.w0 50 3 = 5 ∧ q.xfer = o.xfer ∧ q.pend = o.pend ∧ q.phase = o.phase) ∧
        (o.fault = false → o.xfer ≠ -32768 → q.xfer = o.xfer - 1 ∧
          (o.pend ≠ 0 ∨ 1 < o.xfer → q.fault = false ∧ q.pend = o.pend ∧ q.phase = o.phase) ∧
          (o.pend = 0 → o.xfer = 1 → q.fault = false ∧ q.pend = o.count ∧ q.phase = !o.phase) ∧
          (o.pend = 0 → o.xfer < 1 → q.fault = true ∧ Word.field q.w0 50 3 = 5 ∧ q.pend = 0 ∧ q.phase = o.phase)))))

/-- R234 to R240: a barrier object in the thread's own caddy: initialised; an arrival takes one from its pending count and declares its copies; the last
arrival of a phase without outstanding copies flips the phase and restores the count, with copies outstanding it leaves the flip to them, and with more
copies done than declared it faults the object with code 5; a wait passes when the phase differs from the parity that the thread holds, and parks
otherwise; a test tells which; a fault of the object ends a wait for its phase. What is not in order traps with its reason: an address 1, an operand 2,
an object that was never initialised 3, an arrival too many 4, an object out of the thread's reach 5; a steep waits for none. -/
def Obligations.BarrierObjects : Prop :=
  (∀ (s : State) (d a b : BitVec 5) (p : BitVec 3) (sc : BitVec 1) (off : Nat), Plain s 4 → Memory.wf s.mem = true → s.self.onService = none →
    s.primary s.self.ctx s.self.core = true → NoConvene (s.coreAt s.self.core) → isCaddy (s.g a) = true →
    s.caddyPlace s.self.who (s.g a) 16 = .ok (s.self.core, off) → off % 16 = 0 →
    Quiet s → s.self.st < 63 → (∀ e ∈ s.threads, ∀ ga par, e.2.park ≠ some (.barrier (caddyKey s.self.core off) ga par)) →
    let o := s.bar s.self.ctx s.self.core off
    let key := caddyKey s.self.core off
    let n := (s.g b).toNat
    let becomes (i : Instr) (fin : State → Prop) (ok : Bar → Prop) : Prop := answers i s fun u => fin u ∧ ok (u.bar s.self.ctx s.self.core off) ∧
      (∀ x, x < key ∨ key + 16 ≤ x → u.byte x = s.byte x) ∧ u.self.pc = s.self.pc + 4 ∧ u.net = s.net ∧ othersKeep s u s.cur
    let gets (u : State) : Prop := (d ≠ 0 → u.self.getG d = if o.phase then 1 else 0) ∧ ∀ r, r ≠ d → u.self.getG r = s.self.getG r
    (1 ≤ n → n ≤ 65535 → becomes (.barInit a b sc) (fun u => u.self.g = s.self.g) fun q =>
      q.count = n ∧ q.pend = n ∧ q.xfer = 0 ∧ q.phase = false ∧ q.fault = false ∧ q.scope = sc.toNat ∧ q.w1 = 0) ∧
    (n = 0 ∨ 65535 < n → exec (.barInit a b sc) s = traps s 24 2) ∧
    (32767 < n → exec (.barArrx d a b) s = traps s 24 2) ∧
    (o.count ≠ 0 → o.scope ≤ 1 → Released s 1 → ∀ e ∈ ([(.barArr d a, 0), (.barArrx d a b, n)] : List (Instr × Nat)), e.2 ≤ 32767 →
      let x := o.xfer + e.2
      let same (q : Bar) : Prop := q.xfer = x ∧ q.count = o.count ∧ q.scope = o.scope ∧ q.w1 = o.w1
      (1 < o.pend → x ≤ 32767 → becomes e.1 gets fun q => same q ∧ q.pend = o.pend - 1 ∧ q.phase = o.phase ∧ q.fault = o.fault) ∧
      (o.pend = 1 → x = 0 → o.fault = false → becomes e.1 gets fun q => same q ∧ q.pend = o.count ∧ q.phase = (!o.phase) ∧ q.fault = false) ∧
      (o.pend = 1 → x ≤ 32767 → 0 < x ∨ o.fault = true → becomes e.1 gets fun q => same q ∧ q.pend = 0 ∧ q.phase = o.phase ∧ q.fault = o.fault) ∧
      (o.pend = 1 → x < 0 → o.fault = false → becomes e.1 gets fun q =>
        same q ∧ q.pend = 0 ∧ q.phase = o.phase ∧ q.fault = true ∧ Word.field q.w0 50 3 = 5) ∧
      (o.pend = 0 ∨ 32767 < x → exec e.1 s = traps s 24 4)) ∧
    (o.count = 0 ∨ 1 < o.scope → (Released s 1 → exec (.barArr d a) s = traps s 24 3) ∧ exec (.barTry a b p) s = traps s 24 3 ∧
      (s.self.steep = false → exec (.barWait a b) s = traps s 24 3)) ∧
    (s.self.steep = true → exec (.barWait a b) s = traps s 20 3) ∧
    (o.count ≠ 0 → o.scope ≤ 1 → s.self.steep = false →
      (o.phase ≠ (s.g b).getLsbD 0 → exec (.barWait a b) s = .next (past s 4 (acquired s o.scope)) ∧
        exec (.barTry a b p) s = .next (past s 4 ((acquired s o.scope).modSelf (·.setP p true)))) ∧
      (o.phase = (s.g b).getLsbD 0 → o.fault = false → exec (.barTry a b p) s = writesP s 4 p false ∧
        answers (.barWait a b) s fun u => u.self.park = some (.barrier key (s.g a) ((s.g b).getLsbD 0)) ∧ u.self.pc = s.self.pc ∧ u.self.g = s.self.g ∧ u.mem = s.mem ∧
          othersKeep s u s.cur) ∧
      (o.phase = (s.g b).getLsbD 0 → o.fault = true → exec (.barTry a b p) s = traps s 25 (s.g a) ∧ exec (.barWait a b) s = traps s 25 (s.g a)))) ∧
  (∀ (s : State) (d a b : BitVec 5) (p : BitVec 3) (sc : BitVec 1), Plain s 4 → s.self.steep = false →
    let forms : List Instr := [.barInit a b sc, .barArr d a, .barArrx d a b, .barWait a b, .barTry a b p]
    (isCaddy (s.g a) = false → ∀ i ∈ forms, exec i s = traps s 24 1) ∧
    (∀ c off, isCaddy (s.g a) = true → s.caddyPlace s.self.who (s.g a) 16 = .ok (c, off) →
      (off % 16 ≠ 0 → ∀ i ∈ forms, exec i s = traps s 24 1) ∧
      (off % 16 = 0 → c ≠ s.self.core → 1 ≤ (s.g b).toNat → (s.g b).toNat ≤ 32767 →
        exec (.barInit a b 0) s = traps s 24 5 ∧
        (s.clusterOf s.self.ctx s.self.core ≠ s.clusterOf s.self.ctx c → ∀ i ∈ forms, exec i s = traps s 24 5))))

/-- R241 to R243, R400: global barriers count the arrivals of an ID and change its phase with the last; an arrival of this device at a POD ID is held
while it is viral, and no POD phase completes from the first held arrival on; event flags are set, taken and tested, in the save area while the
context is switched out of the core; WAITC passes when every counter is at or below its immediate, and parks otherwise. That a thread on a service
core uses the event unit of the compute core that it left, and a thread of the service core itself one of that core, is the model's choice (log entry
81). -/
def Obligations.GlobalBarriersEventsAndWaits : Prop :=
  ∀ (s : State), Plain s 4 → s.self.steep = false →
    (∀ (d a b : BitVec 5) (p sc : BitVec 3), 2 ≤ sc.toNat → sc.toNat ≤ 4 → Quiet s → Word.field (s.g a) 6 58 = 0 →
      let id := (s.g a).toNat % 64
      let n := s.gbarCount s.self.ctx sc.toNat id
      let key := gbarKey s.self.ctx sc.toNat id s.self.core
      let g := Tab.get s.gbars {} key
      n ≠ 0 → (∀ e ∈ s.threads, e.2.park ≠ some (.gbar key)) →
      let arrives (g' : GBar) : Prop := exec (.gbarArr d a sc) s = .next (past s 4
        { s.modSelf (fun x => x.setG d (if g.phase then 1 else 0)) with gbars := Tab.set s.gbars key g' })
      (Released s sc.toNat → (sc = 4 → s.viral.on = false ∧ s.viral.arrivals = []) →
        (g.arrived + 1 < n → arrives { g with arrived := g.arrived + 1 }) ∧
        (g.arrived + 1 = n → arrives { g with arrived := 0, phase := !g.phase })) ∧
      (Released s sc.toNat → sc = 4 → s.viral.on = true → exec (.gbarArr d a sc) s = .next (past s 4
        { s.modSelf (fun x => x.setG d (if g.phase then 1 else 0)) with
          viral := { s.viral with arrivals := s.viral.arrivals ++ [(s.self.ctx, id)] } })) ∧
      (g.phase ≠ (s.g b).getLsbD 0 → exec (.gbarWait a b sc) s = .next (past s 4 (acquired s sc.toNat)) ∧
        exec (.gbarTry a b p sc) s = .next (past s 4 ((acquired s sc.toNat).modSelf (·.setP p true)))) ∧
      (g.phase = (s.g b).getLsbD 0 → exec (.gbarTry a b p sc) s = writesP s 4 p false ∧
        answers (.gbarWait a b sc) s fun u => u.self.park = some (.gbar key) ∧ u.self.pc = s.self.pc ∧ u.mem = s.mem ∧ othersKeep s u s.cur)) ∧
    (∀ (ctx : CtxId) (id : BitVec 6),
      let key := gbarKey ctx 4 id.toNat 0
      let g := Tab.get s.gbars {} key
      (∀ e ∈ s.threads, e.2.park ≠ some (.gbar key)) → s.gbarCount ctx 4 id.toNat ≠ 0 →
      (g.arrived + 1 < s.gbarCount ctx 4 id.toNat ∨ s.viral.arrivals ≠ [] →
        exec (.podGbarArrival ctx id) s = .next { s with gbars := Tab.set s.gbars key { g with arrived := g.arrived + 1 } }) ∧
      (g.arrived + 1 = s.gbarCount ctx 4 id.toNat → s.viral.arrivals = [] →
        exec (.podGbarArrival ctx id) s = .next { s with gbars := Tab.set s.gbars key { g with arrived := 0, phase := !g.phase } })) ∧
    (∀ (a : BitVec 5) (p : BitVec 3),
      let n := (s.g a).toNat % 32
      let f := ((s.coreAt s.self.core).flags s.self.ctx).getLsbD n
      let flagged (x : Bool) : State := s.modCore s.self.core (·.setFlag s.self.ctx n x)
      (s.self.loads = [] → s.self.st = 0 → (∀ e ∈ s.threads, e.2.park ≠ some (.event n)) →
        (s.self.ctx ∈ (s.coreAt s.self.core).ctxs → exec (.evSig a) s = .next (past s 4 (flagged true))) ∧
        (s.self.ctx ∉ (s.coreAt s.self.core).ctxs → (s.slotOf s.self.ctx).isSome → s.regions = [] → Sound s →
          let w := s.saveArea s.self.ctx s.self.core + 0xC0
          ∃ l2, exec (.evSig a) s = .next (past s 4 (State.putWord { s with l2 := l2 } w (s.word w ||| BitVec.twoPow 64 n))))) ∧
      (f = true → exec (.evWait a) s = .next (past s 4 (flagged false)) ∧
        exec (.evTry a p) s = .next (past s 4 ((flagged false).modSelf (·.setP p true)))) ∧
      (f = false → exec (.evTry a p) s = writesP s 4 p false ∧
        answers (.evWait a) s fun u => u.self.park = some (.event n) ∧ u.self.pc = s.self.pc ∧ u.mem = s.mem ∧ othersKeep s u s.cur)) ∧
    (∀ (ms mx cp st ld : BitVec 4), s.self.refusal = none → s.self.copyFault = none → s.self.msgGone = none →
      let met := ∀ e ∈ [(s.self.ld, ld), (s.self.st, st), (s.self.cp, cp), (s.self.mx, mx), (s.self.ms, ms)], e.2 = 15 ∨ e.1 ≤ e.2.toNat
      (met → exec (.waitc ms mx cp st ld) s = onlySelf s 4 id) ∧
      (¬ met → answers (.waitc ms mx cp st ld) s fun u => u.self.park = some .counters ∧ u.self.pc = s.self.pc ∧ u.mem = s.mem ∧ othersKeep s u s.cur)) ∧
    (Plain s 2 → s.self.refusal = none → s.self.copyFault = none → s.self.msgGone = none → s.self.drained = true →
      exec .cWaitc s = onlySelf s 2 id)

/-! ## Convened groups, threads and messages -/

/-- R152 to R157: a thread joins the group of an object on its own core: it gets the lowest free place; with the last member the group is formed;
CNV.TRY tells whether it is, CNV.JOIN waits for it. A formed group takes nobody: CNV.TRY says so, and CNV.JOIN waits for it to dissolve; and a count
that differs is refused. The object is named by bits [56:0] of the address. CNV.LEAVE takes the member out, and the group without members dissolves.
-/
def Obligations.ConvenedGroups : Prop :=
  ∀ (s : State) (g : BitVec 4) (d a b : BitVec 5) (p : BitVec 3) (off idx i : Nat) (q : Convene), Plain s 4 → Memory.wf s.mem = true → Guard s g →
    s.self.onService = none → s.primary s.self.ctx s.self.core = true → Sound s →
    (Word.field (s.g a) 48 9 = 0x1FF ∨ Word.field (s.g a) 48 9 = 0x1FE →
      s.caddyPlace s.self.who (BitVec.ofNat 64 (Word.field (s.g a) 0 57)) 1 = .ok (s.self.core, off) → off % 64 = 0 → s.self.steep = false →
      s.self.conv = false → s.self.foundNow = none →
      let core := s.self.core
      let n := (s.g b).toNat
      let key := s.caddyAt s.self.ctx core off
      let present := q.present ||| BitVec.twoPow 32 idx
      let full : Bool := popcount present == n
      let joined (u : State) : Prop := u.conv core i = some { q with present, formed := full } ∧ u.self.conv = true ∧
        u.self.cnv = BitVec.ofNat 64 (off / 64 + core.toNat * 2 ^ 12 + idx * 2 ^ 21) ∧ (∀ x, x < key ∨ key + 64 ≤ x → u.byte x = s.byte x) ∧
        othersKeep s u s.cur
      let fresh : Convene := { off, ctx := s.self.ctx, count := n, gen := BitVec.ofNat 16 (Word.field (s.word key) 16 16) }
      1 ≤ n → n ≤ 32 → q.broken = false →
      (s.convAt core s.self.ctx off = some (i, q) ∨
        (s.convAt core s.self.ctx off = none ∧ s.savedGroup core s.self.ctx off = none ∧ s.convFree core = some i ∧ q = fresh)) →
      (q.formed = false → q.count = n → idx < 32 → q.present.getLsbD idx = false → (∀ k < idx, q.present.getLsbD k = true) →
        answers (.cnvTry g d a b p) s (fun u => joined u ∧ (d ≠ 0 → u.self.getG d = BitVec.ofNat 64 idx) ∧ (p ≠ 0 → u.self.getP p = full) ∧
          u.self.pc = s.self.pc + 4) ∧
        (full = true → answers (.cnvJoin g d a b) s fun u => joined u ∧ (d ≠ 0 → u.self.getG d = BitVec.ofNat 64 idx) ∧ u.self.pc = s.self.pc + 4) ∧
        (full = false → answers (.cnvJoin g d a b) s fun u => joined u ∧ u.self.g = s.self.g ∧ u.self.pc = s.self.pc)) ∧
      (q.formed = true → exec (.cnvTry g d a b p) s = onlySelf s 4 (fun x => (x.setP p false).setG d (BitVec.allOnes 64)) ∧
        answers (.cnvJoin g d a b) s fun u => u.conv core i = s.conv core i ∧ u.self.conv = false ∧ u.self.g = s.self.g ∧ u.self.pc = s.self.pc ∧
          u.self.stalled = true ∧ u.mem = s.mem ∧ othersKeep s u s.cur) ∧
      (q.formed = false → q.count ≠ n → exec (.cnvJoin g d a b) s = traps s 21 1 ∧ exec (.cnvTry g d a b p) s = traps s 21 1)) ∧
    (let core := (cnvPlace s.self.cnv).1
     let off := (cnvPlace s.self.cnv).2.1
     let key := s.caddyAt s.self.ctx core off
     let present := q.present &&& ~~~ BitVec.twoPow 32 (cnvPlace s.self.cnv).2.2
     s.self.conv = true → s.convAt core s.self.ctx off = some (i, q) →
     answers (.cnvLeave g) s fun u => u.self.conv = false ∧ u.self.cnv = 0 ∧
       u.conv core i = (if present = 0 ∧ q.pending = none then none else some { q with present }) ∧
       (∀ x, x < key ∨ key + 64 ≤ x → u.byte x = s.byte x) ∧ u.self.g = s.self.g ∧ u.self.pc = s.self.pc + 4 ∧ othersKeep s u s.cur)

/-- R281 to R286: with its counters at 0, a thread sends continuations of its context to a rank: SPAWN and SPAWN.M leave the thread running, MIGRATE
ends it, SUSPEND stores its record and ends it, EXIT ends it and its pour counts one thread less; the TRY forms wait for their answer, or say at once
that the rank is in transit. YIELD gives the slot to the thread that waits for it. A form that waited sends what it found when it issued: that SPAWN.M
reads its record then, and once, is the model's reading (log entry 49). -/
def Obligations.ThreadsSpawnMoveAndEnd : Prop :=
  ∀ (s : State) (g : BitVec 4) (d a b : BitVec 5) (p : BitVec 3), Plain s 4 → Guard s g → Idle s → s.self.steep = false → s.self.conv = false →
    let x := s.self
    let w := s.g a
    let y := s.g b
    let r := Word.field w 0 16
    let e := s.rankEntry x.ctx r
    let rank := BitVec.ofNat 16 r
    let live (f : Nat → Nat) : List Pour := (s.modLive x.ctx x.pour f).pours
    let sends (i : Instr) (m : Send) : Prop := answers i s fun u => u.net = s.net ++ [.send m] ∧ u.self.ms = 1 ∧ u.pours = live (· + 1) ∧
      u.self.g = x.g ∧ u.self.p = x.p ∧ u.self.pc = x.pc + 4 ∧ u.mem = s.mem ∧ othersKeep s u s.cur
    let asks (i : Instr) (m : Send) (q : Option (BitVec 3)) (leaves : Bool) : Prop := answers i s fun u => u.net = s.net ++ [.send m] ∧
      u.self.ms = 1 ∧ u.self.hold = some (.send m.id d q 4 leaves) ∧ u.self.g = x.g ∧ u.self.p = x.p ∧ u.self.pc = x.pc ∧ u.mem = s.mem ∧
      othersKeep s u s.cur
    (∀ f, x.foundNow = some f → sends (.spawn g a b) (s.sendOf s.nextId f.rank 2 f.record x.contHdr true true) ∧
      sends (.spawnM g a b) (s.sendOf s.nextId f.rank 2 f.record x.contHdr true true)) ∧
    (x.foundNow = none → threadDestBad w = false → w.getLsbD 63 = false → r ≠ 0xFFFF → r < s.rankLen x.ctx → e.getLsbD 63 = true → Word.field e 16 16 = x.ctx.toNat →
      (GoodPc y →
        sends (.spawn g a b) (s.sendOf s.nextId rank 2 (x.record y) x.contHdr true true) ∧
        (e.getLsbD 62 = false →
          asks (.spawnTry g d a b p) (s.sendOf s.nextId rank 2 (x.record y) x.contHdr false true) (some p) false) ∧
        (e.getLsbD 62 = true → exec (.spawnTry g d a b p) s = onlySelf s 4 fun x => (x.setG d 3).setP p false)) ∧
      (∀ t, y.toNat % 64 = 0 → isCaddy y = false → s.translate x.who y .load = .ok t → t.cls = .trk ∨ t.cls = .unt → Quiet s → Sound s →
        s.homeAsleep t.home = false →
        let payload := wordsOf (s.bytes t.pa 64)
        Word.field payload[0] 48 16 = x.ctx.toNat → payload[0].getLsbD 0 = false →
        answers (.spawnM g a b) s (fun u => ∃ m, u.net = s.net ++ [.send m] ∧ m.payload = payload ∧ m.kind = 2 ∧ m.hdr = x.contHdr ∧
          m.rank = rank ∧ m.blocking = true ∧ u.self.ms = 1 ∧ u.self.g = x.g ∧ u.self.pc = x.pc + 4 ∧ u.mem = s.mem ∧ othersKeep s u s.cur) ∧
        (e.getLsbD 62 = false →
          answers (.spawnMTry g d a b p) s fun u => ∃ m, u.net = s.net ++ [.send m] ∧ m.payload = payload ∧ m.kind = 2 ∧ m.hdr = x.contHdr ∧
            m.rank = rank ∧ m.blocking = false ∧ u.self.ms = 1 ∧ u.self.hold = some (.send m.id d (some p) 4 false) ∧ u.self.g = x.g ∧
            u.self.pc = x.pc ∧ u.mem = s.mem ∧ othersKeep s u s.cur)) ∧
      gone (.migrate g a) s (s.net ++ [.send (s.sendOf s.nextId rank 2 (x.record (x.pc.setWidth 64 + 4)) x.contHdr true false)])
        (fun u => u.pours = s.pours) ∧
      (e.getLsbD 62 = false →
        let rec0 := x.record (x.pc.setWidth 64 + 4)
        asks (.migrateTry g d a) (s.sendOf s.nextId rank 2 (if 1 ≤ d.toNat ∧ d.toNat ≤ 7 then rec0.setIfInBounds d.toNat 0 else rec0)
          x.contHdr false true) none true) ∧
      (e.getLsbD 62 = true → exec (.migrateTry g d a) s = writesG s 4 d 3)) ∧
    (∀ t, x.foundNow = none → w.toNat % 64 = 0 → isCaddy w = false → s.translate x.who w .store = .ok t → t.cls ≠ .acc → t.cls ≠ .det →
      gone (.suspend g a) s (s.net ++ [.store { s.accessOf w 64 t with id := s.nextId }
        ((x.record (x.pc.setWidth 64 + 4)).toList.flatMap fun w => leBytes 8 w.toNat)]) fun u => u.pours = s.pours) ∧
    gone (.exit g) s s.net (fun u => u.pours = live (· - 1)) ∧
    (∀ n, x.place = .slot n →
      ((s.coreAt x.core).list (s.slotQueue s.cur) = [] → exec (.yield g) s = onlySelf s 4 id) ∧
      (∀ v vs, (s.coreAt x.core).list (s.slotQueue s.cur) = v :: vs → v ≠ s.cur →
        answers (.yield g) s fun u => (u.thread v).place = .slot n ∧ u.self.place = .waiting ∧ u.self.pc = x.pc + 4 ∧ u.self.g = x.g ∧
          (u.thread v).g = (s.thread v).g ∧ (u.thread v).pc = (s.thread v).pc ∧ u.mem = s.mem ∧ ∀ o, o ≠ v → o ≠ s.cur → u.thread o = s.thread o))

/-- R34, R156, R200, R374: a continuation that its core instantiates becomes a thread with the record's registers and address, the trap registers of the
context's template where that lies in memory, and everything else of it cleared; a thread on its way arrives on a service core, or on a compute core,
with all that it had, its image written back, so that its lines and its descriptors are fetched again; each arrival is an acquire, which leaves the
core no copy that it does not own. -/
def Obligations.ThreadsArrive : Prop :=
  (∀ (s : State) (c : Coord) (ctx : CtxId) (n : Nat) (e : Entry), s.nextArrival c = some (ctx, n, e) →
    answers (.instantiateContinuation c) s fun u =>
      let x := u.thread s.nextThread
      let w := s.takeEntry c ctx n
      x = { g := Vector.ofFn fun i => if h : 1 ≤ i.val ∧ i.val < 8 then e.payload[i.val]'h.2 else 0
            pc := e.payload[0].setWidth 48, tid := e.hdr.setWidth 32, pour := BitVec.ofNat 32 (Word.field e.hdr 32 32), ctx, core := c
            queue := e.queue, pinned := e.pinned, tvec := x.tvec, tdeleg := x.tdeleg, image := x.image, place := x.place
            joinedAt := x.joinedAt, fetchMiss := x.fetchMiss, evicted := x.evicted } ∧
      (∀ g : Target, w.translate { ctx, core := c, svc := false, pl := 3 } (w.ctxField ctx 0x10 + 0x3C0) .load = .ok g → g.cls = .trk ∨ g.cls = .unt →
        x.tvec[0] = w.word g.pa ∧ x.tdeleg[0] = w.word (g.pa + 8) ∧ x.tvec[1] = w.word (g.pa + 16) ∧ x.tdeleg[1] = w.word (g.pa + 24)) ∧
      (x.place = .waiting ∨ ∃ k < 60, x.place = .slot k) ∧ u.nextThread = s.nextThread + 1 ∧ ∀ l ∈ (u.coreAt c).l1, l.owned = true) ∧
  (∀ (s : State) (k t svc : Nat) (c : Coord) (f : Bool), s.net[k]? = some (.move t c (some svc) f) → (s.thread t).st = 0 →
    s.halted (s.thread t).ctx = false → s.switching (s.thread t).ctx (s.thread t).core false = false ∨ (s.thread t).steep = true →
    answers (.fullThreadArrival k) s fun u =>
      (∃ miss kept desc, u.thread t = { s.thread t with place := .service svc, fetchMiss := miss, evicted := kept, tmDesc := desc } ∧
        ((s.imagePlace (s.thread t)).isSome → miss = BitVec.allOnes 16 ∧ desc = Vector.replicate 16 none)) ∧
      u.net = dropAt s.net k ∧ u.svcs = Tab.set s.svcs svc (Tab.get s.svcs [] svc ++ [t]) ∧ (∀ l ∈ (u.coreAt (svcUnit svc)).l1, l.owned = true) ∧
      (∀ a, s.imagePlace (s.thread t) = some a → u.mem = Memory.writeList s.mem a (s.thread t).imageBytes) ∧
      (s.imagePlace (s.thread t) = none → u.mem = s.mem) ∧ othersKeep s u t) ∧
  (∀ (s : State) (k t : Nat) (c : Coord) (f : Bool), s.net[k]? = some (.move t c none f) →
    s.mayInstantiate (s.thread t).ctx c = true ∨ (f = true ∧ (s.thread t).ctx ∈ (s.coreAt c).ctxs ∧ s.halted (s.thread t).ctx = false ∧
      ((s.thread t).steep = true ∨ s.switching (s.thread t).ctx c false = false)) →
    answers (.fullThreadArrival k) s fun u => let x := u.thread t
      x = { s.thread t with
        core := c, place := x.place, joinedAt := x.joinedAt, issuedNow := x.issuedNow, fetchMiss := x.fetchMiss, evicted := x.evicted
        tmDesc := x.tmDesc } ∧
      (f = false → x.tmDesc = (s.thread t).tmDesc) ∧ (f = true → (s.imagePlace (s.thread t)).isSome → x.tmDesc = Vector.replicate 16 none) ∧
      (x.place = .waiting ∨ ∃ n, x.place = .slot n) ∧ u.net = dropAt s.net k ∧ ∀ l ∈ (u.coreAt c).l1, l.owned = true)

/-- R277, R287, R288: the sending forms of messages: one message leaves for the rank's core with its payload, header and scope, MS counting it, or is
held behind an earlier one of its line that stands refused; the TRY forms wait for their answer. MSG.POP and MSG.POLL take the oldest message of the
higher kind into the registers, as an acquire where its sender released; without one, MSG.POP parks and MSG.POLL says so. That a thread on a service
core uses the inbox of the compute core that it left, and a thread of the service core itself one of that core, is the model's choice (log entry 81).
-/
def Obligations.MessagesAreSentAndTaken : Prop :=
  ∀ (s : State) (g : BitVec 4) (d a b : BitVec 5) (p : BitVec 3), Plain s 4 → Guard s g → s.self.steep = false →
    let x := s.self
    let w := s.g a
    let r := Word.field w 0 16
    let e := s.rankEntry x.ctx r
    let n := Word.field w 20 3 + 1
    let m (rel blocking : Bool) : Send := { s.sendOf s.nextId (BitVec.ofNat 16 r) (Word.field w 19 1)
      (Vector.ofFn fun i => if i.val < n then s.g (BitVec.ofNat 5 (b.toNat + i.val)) else 0)
      (BitVec.ofNat 64 (s.rankOf x.ctx x.core + Word.field w 20 3 * 2 ^ 16 + Word.field w 19 1 * 2 ^ 19 + (if rel then 2 ^ 20 else 0) +
        x.tid.toNat * 2 ^ 32)) blocking true with scope := Word.field w 16 3 }
    (x.foundNow = none → r < s.rankLen x.ctx → e.getLsbD 63 = true → b.toNat + n ≤ 32 → x.ms < 63 →
      ∀ rel : Bool, msgDestBad w rel = false → (rel = true → Released s (Word.field w 16 3)) →
        let stands := s.net.any (standsRefused (m rel true))
        answers (if rel then .msgAppRel g a b else .msgApp g a b) s (fun u =>
          u.net = s.net ++ [if stands then .held (m rel true) else .send (m rel true)] ∧ u.self.ms = x.ms + 1 ∧ u.self.g = x.g ∧
          u.self.p = x.p ∧ u.self.pc = x.pc + 4 ∧ u.mem = s.mem ∧ othersKeep s u s.cur) ∧
        (e.getLsbD 62 = false → r ≠ 0xFFFF → stands = false → answers (if rel then .msgTryRel g d a b p else .msgTry g d a b p) s fun u =>
          u.net = s.net ++ [.send (m rel false)] ∧ u.self.hold = some (.send s.nextId d (some p) 4 false) ∧ u.self.ms = x.ms + 1 ∧ u.self.g = x.g ∧
          u.self.p = x.p ∧ u.self.pc = x.pc ∧ u.mem = s.mem ∧ othersKeep s u s.cur) ∧
        (e.getLsbD 62 = true → r ≠ 0xFFFF → exec (if rel then .msgTryRel g d a b p else .msgTry g d a b p) s =
          onlySelf s 4 fun x => (x.setG d 3).setP p false)) ∧
    (x.ld < 63 →
      let i := (s.coreAt x.core).inbox x.ctx
      (i.nextMessage = none → exec (.msgPoll g d b p) s = writesP s 4 p false ∧
        answers (.msgPop g d b) s fun u => u.self.park = some .inbox ∧ u.self.g = x.g ∧ u.self.pc = x.pc ∧ u.mem = s.mem ∧ othersKeep s u s.cur) ∧
      (∀ k q, i.nextMessage = some k → i.entries[k]? = some q → Sound s →
        let placeless (l : List Entry) : List Entry := l.map fun e => { e with sram := false }
        let len := Word.field q.hdr 16 3 + 1
        d.toNat + len ≤ 32 → b.toNat < d.toNat ∨ d.toNat + len ≤ b.toNat →
        let took (u : State) : Prop := (∀ (j : Fin 8), j.val < len → d.toNat + j.val ≠ 0 → u.self.getG (BitVec.ofNat 5 (d.toNat + j.val)) = q.payload[j]) ∧
          (b ≠ 0 → u.self.getG b = q.hdr) ∧
          (∀ r : BitVec 5, r ≠ b → r.toNat < d.toNat ∨ d.toNat + len ≤ r.toNat → u.self.getG r = x.getG r) ∧
          (q.hdr.getLsbD 20 = true → q.scope ≠ 0 → ∀ l ∈ (u.coreAt x.unit).l1, l.owned = true) ∧
          placeless ((u.coreAt x.core).inbox x.ctx).entries = placeless (dropAt i.entries k) ∧ u.self.pc = x.pc + 4 ∧ u.mem = s.mem ∧ u.net = s.net ∧ othersKeep s u s.cur
        answers (.msgPop g d b) s (fun u => took u ∧ u.self.p = x.p) ∧ answers (.msgPoll g d b p) s (fun u => took u ∧ (p ≠ 0 → u.self.getP p = true))))

/-- R278 to R280: a send whose line has nothing earlier to decide takes a place of the inbox, or is refused for want of one or behind a refused one,
or finds its context gone; the answer reaches the sender: accepted, its count falls; refused, a blocking send is held and sent again; gone, the thread
has a pending MSG_GONE, which names the rank of the oldest such send and says when there was more than one; a TRY form completes with the status. A
hold that lapses goes to the next refused send. That a send is resolved where it reaches the inbox is the model's reading (log entry 50). -/
def Obligations.SendsAreAnswered : Prop :=
  ∀ (s : State) (k : Nat) (m : Send),
    (∀ c ctx, s.net[k]? = some (.send m) → (s.net.take k).any (undecided m) = false → s.sendPlace m = some (c, ctx) →
      let m' : Send := { m with dst := c, ctx := ctx }
      let w := if c = m.dst ∧ ctx = m.ctx then s else s.unlist m.dst m.ctx m.id
      let i := (w.coreAt c).inbox ctx
      let room := if m.id ∈ i.holds then 0 < w.freePlaces c ctx else i.holds.length < w.freePlaces c ctx
      let behind := (s.net.take k).any fun p => standsRefused m' p || refusedAt m' p
      (s.ctxGone ctx = true → exec (.inboxAppend k) s = .next { w with net := s.net.set k (.sendReply m' 2) }) ∧
      (s.ctxGone ctx = false → room → behind = false → (∀ e ∈ s.threads, e.2.park ≠ some .inbox) →
        answers (.inboxAppend k) s fun u => u.net = s.net.set k (.sendReply m' 0) ∧ u.threads = s.threads ∧ u.mem = s.mem ∧
          ∃ sram, ((u.coreAt c).inbox ctx).entries = i.entries ++ [{
            kind := m.kind, payload := m.payload, hdr := m.hdr, queue := m.queue, scope := m.scope, pinned := m.pinned, sram := sram
            rank := m.rank, sctx := m.sctx, age := s.fresh }]) ∧
      (s.ctxGone ctx = false → ¬ room ∨ behind = true → m.id ∉ i.refused → i.refused.length < 64 →
        answers (.inboxAppend k) s fun u => u.net = s.net.set k (.sendReply m' 1) ∧ u.threads = s.threads ∧ u.mem = s.mem ∧
          (u.coreAt c).inbox ctx = if m.blocking then { i with refused := i.refused ++ [m.id] } else i)) ∧
    (m.counted = true → Running s m.thread →
      (s.net[k]? = some (.sendReply m 0) → m.blocking = true → exec (.sendReply k) s = .next
        { s.modThread m.thread (fun x => { x with ms := x.ms - 1 }) with net := dropAt s.net k }) ∧
      (s.net[k]? = some (.sendReply m 1) → m.blocking = true → exec (.sendReply k) s = .next { s with net := s.net.set k (.held m) }) ∧
      (s.net[k]? = some (.sendReply m 2) → m.blocking = true → (s.thread m.thread).msgGone = none → answers (.sendReply k) s fun u =>
        ((u.thread m.thread).msgGone.map fun p => (p.cause, p.val)) = some (27, m.rank.setWidth 64) ∧
        (u.thread m.thread).ms = (s.thread m.thread).ms - 1 ∧ u.mem = s.mem ∧ u.net = dropAt s.net k ∧ othersKeep s u m.thread) ∧
      (∀ p, s.net[k]? = some (.sendReply m 2) → m.blocking = true → (s.thread m.thread).msgGone = some p → answers (.sendReply k) s fun u =>
        (u.thread m.thread).msgGone = some { p with
          val := (if m.seq < p.seq then m.rank.setWidth 64 else p.val) ||| BitVec.twoPow 64 63, seq := min m.seq p.seq } ∧
        (u.thread m.thread).ms = (s.thread m.thread).ms - 1 ∧ u.mem = s.mem ∧ u.net = dropAt s.net k ∧ othersKeep s u m.thread)) ∧
    (∀ st d p, s.net[k]? = some (.sendReply m st) → m.blocking = false → m.counted = true → (Tab.find s.threads m.thread).isSome →
      (s.thread m.thread).park = none → (s.thread m.thread).imagePa = none → (s.thread m.thread).hold = some (.send m.id d (some p) 4 false) →
      (s.thread m.thread).sstep = false → (s.thread m.thread).lc = 0 →
      answers (.sendReply k) s fun u => let x := u.thread m.thread
        (d ≠ 0 → x.getG d = BitVec.ofNat 64 st) ∧ (p ≠ 0 → x.getP p = (st == 0)) ∧ x.hold = none ∧ x.pc = (s.thread m.thread).pc + 4 ∧
        x.ms = (s.thread m.thread).ms - 1 ∧ u.mem = s.mem ∧ u.net = dropAt s.net k ∧ othersKeep s u m.thread) ∧
    (s.net[k]? = some (.held m) → (s.net.take k).any (fun q => undecided m q || standsRefused m q) = false →
      exec (.sendRetry k) s = .next { s with net := s.net.set k (.send m) }) ∧
    (∀ c ctx h hs n rest, ((s.coreAt c).inbox ctx).holds = h :: hs → ((s.coreAt c).inbox ctx).refused = h :: n :: rest → n ∉ hs →
      exec (.holdLapse c ctx) s = .next (s.modCore c fun q => q.setInbox ctx { (s.coreAt c).inbox ctx with holds := hs ++ [n] }))

/-! ## Rings -/

/-- R309 to R318: RING.CFG binds a core to its position; RING.GO records the position; RING.PUT and RING.TRY queue a tile while there is room, CP
counting it; RING.TAKE takes the oldest retire record; STEEP.DONE releases what its steep binds and counts it at its entry; a tail ends when its
reductions are acknowledged. That a tile put to a ring that has stopped for a pre-emption waits in its queue too is the model's choice (log entry 78).
-/
def Obligations.RingInstructions : Prop :=
  ∀ (s : State) (g : BitVec 4) (d a b : BitVec 5) (p : BitVec 3), Plain s 4 → Guard s g → s.self.onService = none →
    s.primary s.self.ctx s.self.core = true →
    let x := s.self
    let core := s.self.core
    (∀ t pos, s.self.steep = false → (s.g a).toNat % 64 = 0 → (s.g b).toNat % 32 = 0 → isCaddy (s.g a) = false → isCaddy (s.g b) = false →
      s.translate x.who (s.g a) .load = .ok t → t.cls = .unt ∨ (t.cls = .trk ∧ (s.coreAt core).l1 = []) → Quiet s →
      Sound s → s.homeAsleep t.home = false → (s.coreAt core).ring = none → (∀ e ∈ s.threads, e.2.park ≠ some .ring) →
      let desc := wordsOf (s.bytes t.pa 64)
      let r := desc[0].toNat % 64
      let rec0 := s.ringRec x.ctx r
      descBad desc (if ringSize rec0 = 24 then 6 else 2) = false → dNent desc = 0 → (ringCores rec0).findIdx? (· == core) = some pos →
      (s.ringAt x.ctx r).running = false →
      answers (.ringCfg g a b) s fun u =>
        (∃ queue, (u.coreAt core).ring = some { ctx := x.ctx, ring := r, pos, size := ringSize rec0, desc, table := [], pour := x.pour, queue }) ∧
        u.self.pc = x.pc + 4 ∧ u.self.g = x.g ∧ u.mem = s.mem ∧ othersKeep s u s.cur) ∧
    ((s.coreAt core).ring = none → exec (.ringTry g d a b p) s = traps s 28 1 ∧ exec (.ringTake g d p) s = traps s 28 1 ∧
      (s.self.steep = false → exec (.ringPut g a b) s = traps s 28 1 ∧ exec (.ringGo g) s = traps s 28 1)) ∧
    (∀ i : RingIf, (s.coreAt core).ring = some i →
      let k := s.ringAt i.ctx i.ring
      (s.self.steep = false → k.running = false → i.pos ∉ k.started → (k.started = [] ∨ ringWide k.first = ringWide i.desc) →
        k.started.length + 1 < i.size →
        exec (.ringGo g) s = .next (past s 4 (s.setRing i.ctx i.ring
          { k with started := k.started ++ [i.pos], first := if k.started = [] then i.desc else k.first }))) ∧
      (∀ off, putPlace s i (s.g a) (s.g b) = .ok off → k.running = true → x.cp < 63 → Quiet s →
        let leaf := !(s.g a).getLsbD 16
        let queued (f : Thread → Thread) : Out := .next (past s 4 ((s.modSelf fun y => f { y with cp := y.cp + 1 }).setIf core
          (i.setInj leaf (i.inj leaf ++ [{ word := s.g a, off, thread := s.cur }]))))
        ((i.inj leaf).length < 4 → (s.self.steep = false → exec (.ringPut g a b) s = queued id) ∧
          exec (.ringTry g d a b p) s = queued fun y => (y.setG d 0).setP p true) ∧
        (4 ≤ (i.inj leaf).length → exec (.ringTry g d a b p) s = onlySelf s 4 (fun y => (y.setG d 1).setP p false) ∧
          (s.self.steep = false → answers (.ringPut g a b) s fun u => u.self.park = some .ring ∧ u.self.pc = x.pc ∧ u.mem = s.mem ∧
            othersKeep s u s.cur))) ∧
      (i.retire = [] → exec (.ringTake g d p) s = writesP s 4 p false) ∧
      (∀ w ws, i.retire = w :: ws → exec (.ringTake g d p) s =
        .next (past s 4 ((s.setIf core { i with retire := ws }).modSelf fun y => (y.setG d w).setP p true))) ∧
      (∀ st key, s.self.steep = true → Idle s → (s.coreAt core).engine.free s.cur = true → i.steeps.find? (·.thread == s.cur) = some st →
        st.area = none → i.held = none → i.owed = false → i.logging = none → i.oldestPair = none → NoConvene (s.coreAt core) →
        key = caddyKey core (i.doneOff st.ent) →
        answers (.steepDone g) s fun u => (u.coreAt core).ring = some { i with steeps := i.steeps.filter (·.slot != st.slot) } ∧
          u.threads = Tab.erase s.threads s.cur ∧ u.net = s.net ∧
          u.mem = Memory.writeList s.mem key (leBytes 8 (leNat (s.bytes key 8) + 1))) ∧
      (∀ n tl key, i.tails[n]? = some tl → (s.thread tl.thread).mx = 0 → NoConvene (s.coreAt core) →
        key = caddyKey core tl.off →
        answers (.steepTailDone core n) s fun u => (u.coreAt core).ring = some { i with tails := dropAt i.tails n } ∧
          u.threads = Tab.erase s.threads tl.thread ∧ u.net = s.net ∧
          u.mem = Memory.writeList s.mem key (leBytes 8 (leNat (s.bytes key 8) + 1))))

/-- R299, R310, R312, R319: at a beat boundary of a running ring on which nothing waits, is injected, retires or meets, the tiles of the beat's family
move one position on, every tile one beat older; a ring that is to be pre-empted and runs no steep stops there. That a ring's saved state is not laid
out in memory is the model's choice (log entry 56). -/
def Obligations.BeatsMoveTiles : Prop :=
  ∀ (s : State) (ctx : CtxId) (ring : BitVec 6) (I : Nat → RingIf),
    let r := ring.toNat
    let k := s.ringAt ctx r
    let cs := ringCores (s.ringRec ctx r)
    let n := cs.length
    let aged (t : Tile) : Tile := { t with age := t.age + 1 }
    k.running = true → k.stopped = false → s.halted ctx = false →
    (s.ringPreempted ctx r = true → (∀ e ∈ s.ringIfs ctx r, e.2.steeps = []) →
      exec (.beatBoundary ctx ring) s = .next (s.setRing ctx r { k with stopped := true })) ∧
    (s.ringPreempted ctx r = false → cs.Nodup → Sound s → (∀ e ∈ s.threads, e.2.park ≠ some .ring) →
      (∀ (q : Nat) (h : q < n), s.ifOf ctx r cs[q] = some (I q) ∧ (I q).held = none ∧ (I q).owed = false ∧ (I q).logging = none ∧ (I q).area0 = .free ∧ (I q).area1 = .free ∧ (I q).steeps = [] ∧
        (I q).table = [] ∧ (I q).injL = [] ∧ (I q).injW = [] ∧
        (∀ t, (I q).curL = some t ∨ (I q).curW = some t → t.age + 1 < t.life)) →
      (∃ q < n, (I q).curL.isSome = true ∨ (I q).curW.isSome = true) →
      answers (.beatBoundary ctx ring) s fun u =>
        (u.ringAt ctx r).beat = k.beat + 1 ∧ (u.ringAt ctx r).running = true ∧ u.mem = s.mem ∧ u.threads = s.threads ∧ u.net = s.net ∧
        ∀ (q : Nat) (h : q < n), ∃ j, u.ifOf ctx r cs[q] = some j ∧
          (k.beat % 2 = 0 → j.curL = (I ((q + n - 1) % n)).curL.map aged ∧ j.curW = (I q).curW.map aged) ∧
          (k.beat % 2 = 1 → j.curW = (I ((q + 1) % n)).curW.map aged ∧ j.curL = (I q).curL.map aged))

/-! ## Queues, pours and slots -/

/-- R249 to R258, R264: QTAIL and the registers of a queue take what is written; a packet that a queue core reads, without dependences and with nothing
to refuse, becomes a pour, and one that no translation gives is rejected; a pour's next thread is sent to its core; a pour whose threads have all
ended completes. Balancing moves only threads that wait and may move, and writes no memory where there are none; it and the rotation boundary change no
register, and the boundary no byte of memory. -/
def Obligations.QueuesPoursAndSlots : Prop :=
  (∀ (s : State) (q : Nat) (tail : BitVec 32) (pl : BitVec 2) (x : Word), q < 384 → s.awake = true →
    exec (.qtailDoorbell q tail) s = .next (s.modQueue q fun k => { k with tail }) ∧
    (1 ≤ pl.toNat →
      exec (.configRegisterWrite pl (.queue q 0) x) s = .next (s.modQueue q fun k => { k with base := x &&& 0x01FFFFFFFFFFFF80 }) ∧
      exec (.configRegisterWrite pl (.queue q 0x10) x) s = .next (s.modQueue q fun k => { k with tail := x.setWidth 32 })) ∧
    (pl = 0 → exec (.configRegisterWrite pl (.queue q 0) x) s = .next s)) ∧
  (∀ (s : State) (q : Nat),
    let k := s.queue q
    let ctx := k.ctx
    let va := BitVec.ofNat 64 (k.base.toNat + 128 * (k.head.toNat % k.size))
    s.awake = true → q < 384 → k.en = true → k.head ≠ k.tail → (s.sec.firstLight = true → q = 0) → s.halted ctx = false →
    (s.part (s.partOf ctx)).asleep = false →
    Sound s →
    (s.queuePlaces ctx .load va 128 = none → answers (.packetRead q) s fun u =>
      u.queue q = { k with head := k.head + 1, rej := satInc k.rej } ∧ (∀ o, o ≠ q → u.queue o = s.queue o) ∧ u.mem = s.mem ∧ u.threads = s.threads ∧
      u.pours = s.pours ∧ u.net = s.net) ∧
    (∀ ls, s.queuePlaces ctx .load va 128 = some ls → (∀ l ∈ ls, l.2.2.cls = .trk ∨ l.2.2.cls = .unt) →
      let l : Launch := { bytes := ls.flatMap fun l => s.bytes l.2.2.pa l.2.1, edges := [] }
      l.ndep = 0 → l.compl = 0 → s.packetStatus k l = 0 →
      answers (.packetRead q) s fun u => (u.queue q).head = k.head + 1 ∧ (u.queue q).rej = k.rej ∧ u.mem = s.mem ∧ u.threads = s.threads ∧
        (u.ctxOf ctx).poured = (s.ctxOf ctx).poured + 1 ∧
        ∃ p ∈ u.pours, p.ctx = ctx ∧ p.num = BitVec.ofNat 32 (s.ctxOf ctx).poured ∧ p.queue = q ∧ p.entry = l.word 0 ∧
          p.count = leNat ((l.bytes.drop 8).take 4) + 1 ∧ p.made = 0 ∧ p.live = 0 ∧ p.compl = 0 ∧ ∀ i : Fin 7, p.args[i] = l.word (0x20 + 8 * i.val))) ∧
  (∀ (s : State) (qc : Nat) (p : Pour) (c : Coord), s.awake = true → s.pours = [p] → p.queue / 8 = qc → (p.demoted = true ∨ s.overdue p = false) →
    s.canMake p = some c →
    answers (.materialiseThread qc) s fun u => u.pours = [{ p with made := p.made + 1, live := p.live + 1 }] ∧ u.mem = s.mem ∧ u.threads = s.threads ∧
      ∃ m : Send, u.net = s.net ++ [.send m] ∧ m.dst = c ∧ m.ctx = p.ctx ∧ m.kind = 2 ∧ m.queue = p.queue ∧
        m.payload[0] = BitVec.ofNat 64 (Word.field p.entry 0 48 + p.ctx.toNat * 2 ^ 48) ∧ (∀ i : Fin 7, m.payload[i.val + 1] = p.args[i]) ∧
        m.hdr = BitVec.ofNat 64 (p.made % 2 ^ 32 + p.num.toNat * 2 ^ 32)) ∧
  (∀ (s : State) (p : Pour) (g : Target), s.pours.find? (fun o => o.ctx == p.ctx && o.num == p.num) = some p → p.count ≤ p.made → p.live = 0 →
    (s.part (s.partOf p.ctx)).asleep = false → (p.demoted = true ∨ s.overdue p = false) → p.compl ≠ 0 → s.viral.on = false → s.queuePlace p.ctx .store p.compl = some g → g.cls = .unt →
    answers (.pourComplete p.ctx p.num) s fun u => (∀ o ∈ u.pours, ¬ (o.ctx = p.ctx ∧ o.num = p.num)) ∧ u.threads = s.threads ∧ u.net = s.net ∧
      u.mem = Memory.writeList s.mem g.pa (leBytes 8 (p.num.toNat + (if p.late then 2 ^ 40 else 0) + (if p.reduced then 2 ^ 41 else 0)) ++
        leBytes 8 s.time.toNat)) ∧
  (∀ (s : State) (c : Coord) (qc : Nat),
    let registers (x : Thread) : Thread := { x with core := 0, place := .none, joinedAt := 0, issuedNow := false }
    answers (.rotationBoundary c) s (fun u => u.mem = s.mem ∧ u.net = s.net ∧
      ∀ t, registers (u.thread t) = registers (s.thread t) ∧ (u.thread t).core = (s.thread t).core ∧
        ((u.thread t).core = c → (u.thread t).issuedNow = false)) ∧
    answers (.queueBalance qc) s fun u => u.net = s.net ∧ ((∀ t, (s.thread t).movable = false) → u.mem = s.mem) ∧
      let apart (x : Thread) : Thread := { registers x with fetchMiss := 0, evicted := [], tmDesc := Vector.replicate 16 none }
      ∀ t, apart (u.thread t) = apart (s.thread t) ∧
        ((u.thread t).core ≠ (s.thread t).core → (s.thread t).movable = true))

/-! ## Contexts and partitions -/

/-- R354 to R357: a store to a partition's registers below its level, and a commit while BUSY is set, is refused and counted; a commit that fails a
check replies which and changes nothing else; one that passes makes the staged copy active and advances SEQ; a store of COMMIT to PCTL sets BUSY;
RANKCMD reads an entry of a rank table, or all of them, again, and messages that move with a rank wake its poppers (R289), so of a thread only what
waking changes may change; HALTREQ halts a context of the partition; REFUSALS is cleared by PL.HYP. That COMMIT and CCOMMIT do every step after BUSY
at once is the model's choice (log entry 20), as is that an entry naming another partition reads as not VALID (log entry 75). -/
def Obligations.PartitionConfiguration : Prop :=
  ∀ (s : State) (part slot : BitVec 6) (pl : BitVec 2), s.awake = true →
    let p := part.toNat
    let c := slot.toNat
    let b := s.part p
    let refused : Out := .next (s.modPart p fun b => { b with refusals := if b.refusals = BitVec.allOnes 32 then b.refusals else b.refusals + 1 })
    (pl.toNat < 2 → exec (.commit part pl) s = refused ∧ exec (.refusalsClear part pl) s = refused) ∧
    (pl.toNat < 1 → exec (.ccommit part slot pl) s = refused) ∧
    (b.commitReq.isSome = true → exec (.commit part pl) s = refused ∧ exec (.ccommit part slot pl) s = refused) ∧
    (2 ≤ pl.toNat → exec (.refusalsClear part pl) s = .next (s.modPart p fun b => { b with refusals := 0 })) ∧
    (2 ≤ pl.toNat → b.commitReq = none →
      exec (.configRegisterWrite pl (.partition part 0) 1) s = .next (s.modPart p fun b => { b with commitReq := some none })) ∧
    (∀ st, 2 ≤ pl.toNat → b.commitReq = none → s.commitStatus p true (List.range 64) = st →
      (st ≠ 0 → exec (.commit part pl) s = .next (s.modPart p fun b => { b with status := st, commitReq := none })) ∧
      (st = 0 → answers (.commit part pl) s fun u => (u.part p).active = b.staged ∧ (u.part p).seq = b.seq + 1 ∧ (u.part p).status = 0 ∧
        (u.part p).staged = b.staged ∧ (∀ q, q ≠ p → u.part q = s.part q) ∧ wakesOnly s u)) ∧
    (∀ st, 1 ≤ pl.toNat → b.commitReq = none → s.commitStatus p false [c] = st →
      (st ≠ 0 → exec (.ccommit part slot pl) s = .next (s.modPart p fun b => { b with status := st, commitReq := none })) ∧
      (st = 0 → Tab.wf b.staged = true → answers (.ccommit part slot pl) s fun u =>
        (∀ o, slotBase c ≤ o → o < slotBase c + 0x2000 → (u.part p).field o = b.stagedField o) ∧
        (∀ o, o < slotBase c ∨ slotBase c + 0x2000 ≤ o → (u.part p).field o = b.field o) ∧
        (u.part p).seq = b.seq + 1 ∧ (u.part p).status = 0 ∧ (∀ q, q ≠ p → u.part q = s.part q) ∧ wakesOnly s u)) ∧
    (∀ (rank : BitVec 16), let t := b.field (slotBase c)
      let ctx : CtxId := BitVec.ofNat 16 (Word.field t 0 16)
      let entry (r : Nat) : Word := s.word ((s.ctxField ctx 0x50).toNat + 8 * r)
      let valid (r : Nat) : Word := if s.rankInside ctx (entry r) then entry r else Word.setField (entry r) 63 1 0
      b.asleep = false → t.getLsbD 22 = true →
      (rank.toNat < s.rankLen ctx → entry rank.toNat ≠ 0 →
        answers (.rankcmd part slot rank false) s fun u => u.rankEntry ctx rank.toNat = valid rank.toNat ∧ (u.part p).rankReq = none ∧
          (∀ r, r ≠ rank.toNat → u.rankEntry ctx r = s.rankEntry ctx r) ∧ wakesOnly s u ∧ u.mem = s.mem) ∧
      answers (.rankcmd part slot rank true) s fun u => (u.part p).rankReq = none ∧
        (∀ r, r < s.rankLen ctx → entry r ≠ 0 → u.rankEntry ctx r = valid r) ∧ wakesOnly s u ∧ u.mem = s.mem) ∧
    (∀ (ctx : CtxId), (s.slotOf ctx).map (·.1) = some p → (s.ctxOf ctx).halt = none →
      exec (.haltreq part ctx) s = .next (s.modCtx ctx fun x => { x with halt := some { cause := 6, unit := none, kind := 0 } }))

/-- R381 to R393: a halt completes when its units have stopped; a context leaves a core when it may, and enters one that it may enter. A switch-out
writes the header, the roster with every thread's queue, park state and pending traps, and the event flags to the core save area, the threads' images to
memory, and, of the primary context, the windows and the caddy, which are then zero on the core; a switch-in brings the flags, the caddy and the windows
back, and a thread of the roster restarts with the registers of its image and the queue and pending traps of its entry. A context that
is torn down leaves no thread, no pour and no partial; a partition reset clears the partition's cores, and ends the debugging of it. That the first
context to enter a core without a primary one becomes it is the model's reading (log entry 11), as is that one without a saved caddy finds a caddy of
zeros and closed windows (log entry 12), and that a teardown drops the context's threads (log entry 63). -/
def Obligations.ContextsHaltSwitchAndGo : Prop :=
  (∀ (s : State) (ctx : CtxId) (h : Halt), (s.ctxOf ctx).halt = some h → h.complete = false →
    s.quiet (fun x => x.ctx == ctx) = true →
    answers (.haltComplete ctx) s fun u => (u.ctxOf ctx).halt = some { h with complete := true } ∧ .halted ctx ∈ u.answers) ∧
  (∀ (s : State) (part : BitVec 6) (ctx : CtxId) (c : Coord), (s.slotOf ctx).map (·.1) = some part.toNat →
    let k := s.coreAt c
    let a := s.saveArea ctx c
    let row (j : Nat) : Nat := a + 0x40400 + 64 * j
    let rows := s.rosterOf ctx c
    let standing := Sound s ∧ s.regions = [] ∧ Memory.wf s.mem = true ∧ (∀ r ∈ k.retry, r.ctx ≠ ctx)
    (ctx ∈ k.ctxs → (s.ctxOf ctx).halt = none → s.net = [] → s.mayLeave ctx c = true →
      answers (.switchOut part ctx c) s fun u => ctx ∉ (u.coreAt c).ctxs ∧ (u.part part.toNat).switchReq = none ∧
        (standing → row rows.length ≤ 2 ^ 52 → k.convene = Vector.replicate 8 none →
          u.word a = (if s.primary ctx c = true ∨ ctx ∈ k.savedCaddy then 3 else 1) ∧ u.word (a + 8) = s.time ∧
          u.word (a + 0x10) = BitVec.ofNat 64 rows.length ∧ u.word (a + 0x18) = BitVec.ofNat 64 (row 0) ∧
          u.word (a + 0xC0) = (k.flags ctx).setWidth 64 ∧
          (∀ j l, rows[j]? = some l → let x := s.thread l.thread
            u.word (row j) = x.image ∧ (∀ i, i < 4 → u.word (row j + 8 + 8 * i) = ((x.rosterWords l.parked l.away)[i]?).getD 0) ∧
            ((rows.map (·.thread)).Nodup → (u.thread l.thread).rosterPa = some (row j) ∧
              (l.away = false → (u.thread l.thread).place = .saved))) ∧
          (∀ l b, rows = [l] → l.away = false → (s.thread l.thread).place ≠ .saved → s.imagePlace (s.thread l.thread) = some b → b + 1024 ≤ a →
            u.bytes b 1024 = (s.thread l.thread).imageBytes) ∧
          (s.primary ctx c = true → (u.coreAt c).primary = none ∧ ctx ∈ (u.coreAt c).savedCaddy ∧
            (∀ w : Fin 8, u.word (a + 0x40 + 16 * w) = k.winRange[w] ∧ u.word (a + 0x48 + 16 * w) = k.winAccess[w] ∧
              (u.coreAt c).winRange[w] = 0 ∧ (u.coreAt c).winAccess[w] = 0) ∧
            ∀ o, o < 2 ^ 18 → u.byte (a + 0x400 + o) = s.byte (caddyKey c o) ∧ u.byte (caddyKey c o) = 0))) ∧
    (ctx ∉ k.ctxs → (s.ctxOf ctx).halt = none → (s.ctxOf ctx).gone = false → s.coreIn part.toNat c = true →
      k.powerGated = false → s.awake = true → k.ctxs.length < 4 →
      answers (.switchIn part ctx c) s fun u => ctx ∈ (u.coreAt c).ctxs ∧ (u.part part.toNat).switchReq = none ∧
        (k.primary = none → (u.coreAt c).primary = some ctx) ∧
        (standing → row 1 ≤ 2 ^ 52 →
          (k.primary = none → ctx ∈ k.savedCaddy → (∀ w : Fin 8,
              (u.coreAt c).winRange[w] = s.word (a + 0x40 + 16 * w) &&& ~~~ winReserved false ∧
              (u.coreAt c).winAccess[w] = s.word (a + 0x48 + 16 * w) &&& ~~~ winReserved true) ∧
            ∀ o, o < 2 ^ 18 → u.byte (caddyKey c o) = s.byte (a + 0x400 + o)) ∧
          (k.primary = none → ctx ∉ k.savedCaddy → (∀ w : Fin 8, (u.coreAt c).winRange[w] = 0 ∧ (u.coreAt c).winAccess[w] = 0) ∧
            ∀ o, o < 2 ^ 18 → u.byte (caddyKey c o) = 0) ∧
          ((s.word a).getLsbD 0 = true →
            (k.flags ctx = 0 → (u.coreAt c).flags ctx = (s.word (a + 0xC0)).setWidth 32) ∧
            u.word a = (if ctx ∈ (u.coreAt c).savedCaddy then 2 else 0) ∧
            (∀ t b, s.word (a + 0x10) = 1 → 0x40440 ≤ (s.ctxField ctx 0x28).toNat → (s.thread t).place = .saved → (s.thread t).ctx = ctx →
              (s.thread t).image = s.word (row 0) → (∀ e ∈ s.threads, e.2.ctx = ctx → e.2.place = .saved → e.2.image = s.word (row 0) → e.1 = t) →
              (s.thread t).imagePa = some b → b + 1024 ≤ 2 ^ 52 → s.badStatus t = none →
              let x := u.thread t
              let y := (s.thread t).ofImage (s.bytes b 1024)
              let f := s.word (row 0 + 8)
              x.core = c ∧ x.place ≠ .saved ∧ x.g = y.g ∧ x.v = y.v ∧ x.tag = y.tag ∧ x.p = y.p ∧ x.pc = y.pc ∧ x.status = y.status ∧ x.ras = y.ras ∧
              x.tm = y.tm ∧ x.frames = y.frames ∧ x.ld = y.ld ∧ x.st = y.st ∧ x.cp = y.cp ∧ x.mx = y.mx ∧ x.ms = y.ms ∧ x.fcsr = y.fcsr ∧
              x.rsp = y.rsp ∧ x.lc = y.lc ∧ x.queue = Word.field f 0 9 ∧
              x.refusal.map (·.val) = (if f.getLsbD 11 then some (s.word (row 0 + 0x10)) else none) ∧
              x.copyFault.map (·.val) = (if f.getLsbD 13 then some (s.word (row 0 + 0x18)) else none) ∧
              x.msgGone.map (·.val) = (if f.getLsbD 14 then some (s.word (row 0 + 0x20)) else none)))))) ∧
  (∀ (s : State) (ctx : CtxId), (s.slotOf ctx).isSome →
    answers (.contextTeardown ctx) s fun u => (u.ctxOf ctx).gone = true ∧ (u.ctxOf ctx).halt = none ∧ (∀ q ∈ u.pours, q.ctx ≠ ctx) ∧
      (∀ r ∈ u.parks, r.ctx ≠ ctx) ∧ (∀ e ∈ u.threads, e.2.ctx = ctx → e.2.osThread = true) ∧ (∀ e ∈ u.stlb, ∀ y ∈ e.2.full, y.ctx ≠ ctx)) ∧
  (∀ (s : State) (part : BitVec 6),
    answers (.partitionReset part) s fun u =>
      (∀ c ∈ s.partCores part.toNat, u.coreAt c = { powerGated := (s.coreAt c).powerGated, clockGated := (s.coreAt c).clockGated }) ∧
      (s.debugged part.toNat = true → u.sec.debugState = 0))

/-! ## Power, resets and links -/

/-- R359, R361, R362, R367 to R369, R402 to R405: power levels, throttling and clock gates; a core without contexts is power-gated and loses its caddy
and caches, and wakes while its partition does; a partition sleeps once all its cores are gated; D3hot comes once every partition sleeps. After a cold
reset, and after power loss, no thread, memory or traffic is left, the lifecycle and the image are as before, and an image that does not verify leaves
recovery mode; a verified recovery image restarts the device; an HBM-preserving reset first halts every context, then leaves the device not viral; a
reset of a virtual function clears the blocks of its queues; the service starts, and the lifecycle moves on, where every partition that exists gets a
key (log entry 77). That PLEVEL changes nothing in first light is the model's reading (log entry 43), and that the lifecycle and the image survive a
cold reset its choice (log entry 3), as is that memory, whose contents R402 calls lost, reads zero after one (log entries 1 and 35). -/
def Obligations.PowerStatesAndResets : Prop :=
  (∀ (s : State) (part : BitVec 6) (c : Coord) (level : BitVec 2),
     let p := part.toNat
     let done (b : Part) : Part := { b with powerReq := none }
     (s.awake = true → s.sec.firstLight = false → exec (.plevel part level) s = .next { s with sec := { s.sec with plevel := level } }) ∧
     (s.sec.firstLight = true ∨ s.awake = false → exec (.plevel part level) s = .next s) ∧
     (exec .thermalThrottle s = .next { s with
       sec := { s.sec with plevel := if s.sec.plevel = 3 then 3 else s.sec.plevel + 1, throttle := true } }) ∧
     (s.awake = true → s.idleCore c = true → exec (.coreClockGate c) s = .next (s.modCore c fun k => { k with clockGated := true })) ∧
     (s.awake = true → Memory.wf s.mem = true → s.coreIn p c = true → (s.coreAt c).ctxs = [] → answers (.powerGateCore part c) s fun u =>
       (u.coreAt c).powerGated = true ∧ (u.coreAt c).l1 = [] ∧ (u.coreAt c).icache = [] ∧ (u.coreAt c).loops = [] ∧ (u.coreAt c).tlb = [] ∧ (u.part p).powerReq = none ∧
       (∀ o < 2 ^ 18, u.byte (caddyKey c o) = 0) ∧ (∀ x, x < caddyKey c 0 ∨ caddyKey c 0 + 2 ^ 18 ≤ x → u.byte x = s.byte x) ∧
       u.threads = s.threads) ∧
     (s.awake = true → (s.coreAt c).ctxs ≠ [] → exec (.powerGateCore part c) s = .next (s.modPart p done)) ∧
     (s.awake = true → s.coreIn p c = true → (s.part p).asleep = false →
       exec (.powerWakeCore part c) s = .next ((s.modCore c fun k => { k with powerGated := false }).modPart p done)) ∧
     (s.awake = true → (∀ k ∈ s.partCores p, (s.coreAt k).powerGated = true) → s.debugged p = false →
       exec (.partitionSleep part) s = .next (s.modPart p fun b => { b with asleep := true, powerReq := none })) ∧
     (s.awake = true → (∀ e ∈ (s.part p).slots, (s.ctxOf (BitVec.ofNat 16 (Word.field e.2 0 16))).ranksOwed = false) →
       exec (.partitionWake part) s = .next (s.modPart p fun b => { b with asleep := false, powerReq := none })) ∧
     (s.awake = true → answers (.partitionWake part) s fun u => (u.part p).asleep = false ∧ (u.part p).powerReq = none ∧ u.mem = s.mem ∧ wakesOnly s u) ∧
     ((∀ e ∈ s.parts, e.2.exists_ = true → e.2.asleep = true) → s.sec.debugState ≠ 1 → s.sec.recovery = false →
       exec .d3hotEntry s = .next { s with sec := { s.sec with d3hot := true } }) ∧
     exec .d3hotExit s = .next { s with sec := { s.sec with d3hot := false } }) ∧
  (∀ (s : State) (image : List Byte) (vf : BitVec 9),
     let cold (valid : Bool) (img : List Byte) (u : State) : Prop := u.threads = [] ∧ u.mem = [] ∧ u.net = [] ∧ u.cores = [] ∧ u.parts = [] ∧ u.queues = [] ∧
       u.pours = [] ∧ u.viral.on = false ∧ u.sec.lifecycle = s.sec.lifecycle ∧ u.sec.image = img ∧ u.sec.recovery = (!valid) ∧ u.sec.debugState = 0 ∧
       u.sec.plevel = 3 ∧ u.sec.firstLight = true ∧ u.sec.session = none
     answers .coldReset s (cold s.sec.imageValid s.sec.image) ∧
     answers (.powerLoss false) s (cold s.sec.imageValid s.sec.image) ∧
     answers (.powerLoss true) s (cold false s.sec.image) ∧
     (s.sec.recovery = true → answers (.recoveryImageWrite image) s fun u => if Config.imageVerifies image then cold true image u else u = s) ∧
     (s.sec.recovery = false → exec (.recoveryImageWrite image) s = .next s) ∧
     (s.devReset = false → answers .hbmPreservingReset s fun u => u.devReset = true ∧ u.mem = s.mem ∧ u.threads = s.threads ∧
       ∀ ctx ∈ s.contexts, (s.ctxOf ctx).gone = true ∨ (u.ctxOf ctx).halt.isSome = true) ∧
     (s.devReset = true → (∀ ctx ∈ s.contexts, (s.ctxOf ctx).gone = true ∨ ((s.ctxOf ctx).halt.any (·.complete)) = true) → s.meshQuiet = true →
       answers .hbmPreservingReset s fun u => u.devReset = false ∧ u.viral.on = false ∧ u.viral.held = [] ∧ u.viral.arrivals = [] ∧ u.regions = [] ∧ u.stlb = [] ∧
         u.walks = [] ∧ u.l2 = [] ∧
         u.hostLines = [] ∧ u.hostDirty = []) ∧
     (s.sec.recovery = false → exec .fullServiceStart s = .next { s with sec := { s.sec with firstLight := false } }) ∧
     answers (.vfReset vf) s (fun u => ∀ q, u.queue q = if (s.queue q).vf = some vf then { vf := some vf } else s.queue q) ∧
     (s.sec.lifecycle = 0 → s.sec.recovery = false → s.sec.debugState ≠ 2 → answers .enterDeployed s fun u => u.sec = { s.sec with lifecycle := 1 } ∧ u.mem = s.mem ∧
       u.threads = s.threads ∧ ∀ p, u.part p = if (s.part p).exists_ then { s.part p with key := some (Config.partitionKey s.fresh p) } else s.part p) ∧
     (s.sec.lifecycle = 0 → s.sec.recovery = false → s.sec.debugState = 2 → exec .enterDeployed s = .next { s with sec := { s.sec with lifecycle := 1 } }) ∧
     (s.sec.lifecycle ≠ 0 ∨ s.sec.recovery = true → exec .enterDeployed s = .next s))

/-- R395 to R401, R403: the first failure of a link makes the device viral and is kept with its cause; a later one of a link that is not down sets
MULTI; a link that comes up changes only what is down. A scrub of a unit finds the error that stands there, or one that comes with it: one that finds
nothing changes nothing; it counts what it corrects, logs it where the counter is saturated, and logs what it cannot correct, whose unit stays bad; no
context halts. An event
of a port that the device does not have changes nothing. Under which unit and die an error is counted and logged, where R17 and R396 leave it open, and
which locations the rows have, are the model's choice (log entries 41 and 66). -/
def Obligations.LinkFailuresAndScrubbing : Prop :=
  ∀ (s : State) (port : BitVec 5) (ld : BitVec 4) (kind : LinkKind),
    let v := s.viral
    let fails (i : Instr) (src : Nat) (k : LinkKind) (l : BitVec 4) : Prop :=
      (linkExists k port = false → exec i s = .next s) ∧ (linkExists k port = true →
      (v.on = false → (k, port) ∉ v.down → exec i s = .next { s with viral := { v with on := true, src, port, ld := l, down := v.down ++ [(k, port)] } }) ∧
      (v.on = false → (k, port) ∈ v.down → exec i s = .next { s with viral := { v with on := true, src, port, ld := l } }) ∧
      (v.on = true → (k, port) ∉ v.down → exec i s = .next { s with viral := { v with multi := true, down := v.down ++ [(k, port)] } }) ∧
      (v.on = true → (k, port) ∈ v.down → exec i s = .next s))
    fails (.cxlLinkDown port ld false) 1 .host ld ∧ fails (.cxlLinkDown port ld true) 2 .host ld ∧
    fails (.hostRequestTimeout port ld) 3 .host ld ∧ fails (.podLinkDown port) 4 .pod 0 ∧ fails (.podRequestTimeout port) 5 .pod 0 ∧
    fails (.linkRetryExhausted kind port) 6 kind 0 ∧
    exec (.linkUp kind port) s = .next { s with viral := { v with down := v.down.filter (· != (kind, port)) } } ∧
    (∀ (row loc : Nat) (unit : Coord), 1 ≤ row → row ≤ 10 →
      let n := Tab.get s.errCounts 0 (counterKey (errUnit unit) row)
      let here := unitAt row unit loc
      let start := loc / unitBytes row * unitBytes row
      let die := logDie row unit start
      let log := Tab.get s.errLogs {} die
      let logged (u : State) : Prop := (Tab.get u.errLogs {} die).index = (log.index + 1) % 64 ∧
        ((Tab.find (Tab.get u.errLogs {} die).entries log.index).map fun e => (Word.field e.1 0 8, e.2)) =
          some (row, BitVec.ofNat 64 (logAddr row start % 2 ^ 52))
      (here ∉ s.softUnits → here ∉ s.badUnits → exec (.scrub row unit loc .none) s = .next s) ∧
      (∀ err, err = .correctable ∨ (err = .none ∧ here ∈ s.softUnits) → here ∉ s.badUnits →
        (n ≠ BitVec.allOnes 32 → exec (.scrub row unit loc err) s = .next { s with
          softUnits := s.softUnits.erase here, errCounts := Tab.set s.errCounts (counterKey (errUnit unit) row) (n + 1) }) ∧
        (n = BitVec.allOnes 32 → answers (.scrub row unit loc err) s fun u => u.threads = s.threads ∧ u.mem = s.mem ∧ u.ctxs = s.ctxs ∧
          u.errCounts = s.errCounts ∧ u.badUnits = s.badUnits ∧ u.softUnits = s.softUnits.erase here ∧ logged u)) ∧
      (∀ err, err = .uncorrectable ∨ (err = .none ∧ here ∈ s.badUnits) → here ∉ s.softUnits →
        answers (.scrub row unit loc err) s fun u => u.threads = s.threads ∧ u.mem = s.mem ∧ u.ctxs = s.ctxs ∧
          u.errCounts = s.errCounts ∧ logged u ∧ here ∈ u.badUnits))

/-- R204, R260, R349, R350: hosts and peers reach the memory that the ownership and access-control tables give them, and no other: a permitted write
changes its doubleword, a permitted read answers it, and what is not permitted is refused and changes no memory. A host reads the registers that its
logical device's configuration space holds; a peer writes the packets and TAIL of a queue that an entry grants LAUNCH, and reads its head and counts
under STATUS; a host's snoop gets the line that the device caches, which the core that owns it gives up first. A host's access wakes a sleeping
partition, so of a thread only what waking changes may change. The layout of an access-control entry and the addresses of those registers are the
model's choice (log entries 33 and 74), as is that a line of host memory stays until a snoop, and that a viral device leaves a snoop of a dirty line
without an answer (log entries 24 and 25). -/
def Obligations.OutsideAgents : Prop :=
  ∀ (s : State) (ld : BitVec 4) (pa : BitVec 52) (x : Word) (node : BitVec 8) (part : BitVec 6), s.awake = true →
    let a := pa.toNat / 8 * 8
    let wrote := Memory.writeList s.mem a (leBytes 8 x.toNat)
    (∀ p, s.ownerOf pa.toNat = some p → s.boundTo p ld.toNat = true → s.viral.on = false →
      answers (.hostCxlMemAccess ld pa true x) s (fun u => u.mem = wrote ∧ wakesOnly s u ∧ ((s.part p).asleep = false → u.threads = s.threads) ∧ (u.part p).asleep = false ∧
        u.answers = s.answers ++ [.hostWritten false]) ∧
      answers (.hostCxlMemAccess ld pa false x) s (fun u => u.mem = s.mem ∧ wakesOnly s u ∧ ((s.part p).asleep = false → u.threads = s.threads) ∧
        (u.part p).asleep = false ∧ u.answers = s.answers ++ [.hostRead (s.word a) false])) ∧
    (∀ y, s.hostCfgRead ld.toNat pa.toNat = some y →
      exec (.hostCxlMemAccess ld pa false x) s = .next { s with answers := s.answers ++ [.hostRead y s.viral.on] }) ∧
    (cfgPlace pa.toNat = .reserved → (∀ p, s.ownerOf pa.toNat = some p → s.boundTo p ld.toNat = false) → ∀ w, answers (.hostCxlMemAccess ld pa w x) s fun u =>
      u.mem = s.mem ∧ u.threads = s.threads ∧ u.ldRefusals = Tab.set s.ldRefusals ld.toNat (Tab.get s.ldRefusals 0 ld.toNat + 1)) ∧
    (∀ e, s.aclFind (fun e => aclNode e == node.toNat && aclPart e == part.toNat) = some e → s.ownerOf pa.toNat = some part.toNat →
      (s.part part.toNat).asleep = false →
      (aclMemW e = true → answers (.podMemoryAccess node part pa true x) s fun u => u.mem = wrote ∧ u.threads = s.threads ∧
        u.answers = s.answers ++ [.peerAck]) ∧
      (aclMemR e = true → answers (.podMemoryAccess node part pa false x) s fun u => u.mem = s.mem ∧ u.threads = s.threads ∧
        u.answers = s.answers ++ [.peerRead (s.word a)]) ∧
      (aclMemW e = false → exec (.podMemoryAccess node part pa true x) s = .next { s with answers := s.answers ++ [.peerNack] })) ∧
    (∀ (q : Nat) (t : BitVec 32) (e : Word), q < 384 →
      s.aclFind (fun e => aclNode e == node.toNat && aclLo e ≤ q && q ≤ aclHi e) = some e →
      (aclLaunch e = true → exec (.peerQueueWrite node q (.tail t)) s =
        .next { s.modQueue q (fun k => { k with tail := t }) with answers := s.answers ++ [.peerAck] }) ∧
      (aclLaunch e = false → exec (.peerQueueWrite node q (.tail t)) s = .next { s with answers := s.answers ++ [.peerNack] }) ∧
      (∀ off ∈ [0x18, 0x20, 0x28],
        (aclStatus e = true → exec (.peerQueueWrite node q (.status off)) s = .next { s with answers := s.answers ++ [.peerRead (s.queueWord q off)] }) ∧
        (aclStatus e = false → exec (.peerQueueWrite node q (.status off)) s = .next { s with answers := s.answers ++ [.peerNack] })) ∧
      (∀ off g, let k := s.queue q
        aclLaunch e = true → off < 128 * k.size → s.queuePlace k.ctx .store (k.base + BitVec.ofNat 64 (off / 8 * 8)) = some g →
        s.homeAsleep g.home = false → g.cls = .unt ∨ g.cls = .trk → answers (.peerQueueWrite node q (.packetWord off x)) s fun u =>
          u.mem = Memory.writeList s.mem g.pa (leBytes 8 x.toNat) ∧ u.threads = s.threads ∧ u.answers = s.answers ++ [.peerAck])) ∧
    (∀ (line : BitVec 52) (inv : Bool),
      (line.toNat ∉ s.hostLines → exec (.cxlCacheSnoop line inv) s = .next { s with answers := s.answers ++ [.snoop []] }) ∧
      (line.toNat ∈ s.hostLines → s.viral.on = true → (∃ e ∈ s.hostDirty, e.1 = line.toNat) → exec (.cxlCacheSnoop line inv) s = .next s) ∧
      (line.toNat ∈ s.hostLines → s.viral.on = false → exec (.cxlCacheSnoop line inv) s = .next { s.requestLine line.toNat none true with
        hostDirty := s.hostDirty.filter (·.1 != line.toNat)
        hostLines := if inv then s.hostLines.filter (· != line.toNat) else s.hostLines
        mem := if inv then Memory.clear s.mem (64 * line.toNat) (64 * line.toNat + 64) else s.mem
        answers := s.answers ++ [.snoop (s.bytes (64 * line.toNat) 64)] }))

/-! ## The security engine -/

/-- R359, R360, R364 to R366, R369: a request that the responder hears, over a host port once start-up has measured its first stage or from a peer
with the STATUS right, is answered, and one that it does not hear is not; a session is opened by a finish that verifies and closed by its end. In it a
valid token moves the debug state: to DBG.PART, back to DBG.OFF, to DBG.FULL, or the lifecycle to RMA, the last two after every key is gone and every
partition reset. A debugger reaches the partition that the state names and, in DBG.FULL, all of the device, and no other: it halts, steps and resumes
threads, reads and writes their images, the caddies, memory through a context's translations and by address, halts a context, and enters DBG.FULL in
MANUFACTURE and RMA. How messages are framed, and the numbers of the error codes, are the model's choice (log entry 34), as is that DBG.PART wakes a
sleeping partition (log entry 77), and that what a lost key sealed reads zero (log entry 35). -/
def Obligations.SecurityEngine : Prop :=
  (∀ (s : State) (nonce share mac : Word) (code : Byte) (tok : List Byte), s.heard s.source = true →
    let u : State := { s with sources := s.sources.tail }
    let replies (i : Instr) (a : Answer) : Prop := exec i s = .next { u with answers := s.answers ++ [a] }
    replies .getVersion (.spdmVersion 1 3) ∧ replies .getCapabilities (.spdmCapabilities false false) ∧
    replies .negotiateAlgorithms (.spdmAlgorithms [.ecdsaP384, .sha384, .secp384r1, .aes256Gcm, .spdm13KeySchedule]) ∧
    replies .getDigests (.spdm 4 (Config.sha384 Config.certificates)) ∧
    replies (.getCertificate 0) (.spdm 5 Config.certificates) ∧ (∀ n, n ≠ 0 → replies (.getCertificate n) (.spdmError 7)) ∧
    (let bs := Config.sha384 Config.certificates ++ s.allMeasurements
     replies (.challenge 0 nonce) (.spdm 6 (bs ++ Config.deviceSign (wordBytes [nonce] ++ bs)))) ∧
    replies (.getMeasurements 0xFF) (.spdm 7 s.allMeasurements) ∧
    replies (.getMeasurements 0x10) (.spdm 7 (measurementBlock 0x10 [s.sec.lifecycle.setWidth 8, s.sec.debugState.setWidth 8,
      BitVec.ofNat 8 ((if s.sec.recovery then 1 else 0) + (if s.sec.firstLight then 2 else 0))])) ∧
    (∀ i ∈ [1, 2, 3, 4, 5], ∀ bs, Tab.find s.sec.measured i = some bs → replies (.getMeasurements i) (.spdm 7 (measurementBlock i bs))) ∧
    replies (.spdmUnsupportedRequest code) (.spdmError 7) ∧
    exec (.keyExchange share) s = .next { u with
      sec := { s.sec with session := some (Config.exchange s.fresh share), sessionOpen := false }
      answers := s.answers ++ [.spdm 8 (wordBytes [Config.exchange s.fresh share])] } ∧
    (∀ x, s.sec.session = some x → s.sec.sessionOpen = false →
      exec (.finish mac) s = .next (if Config.finishVerifies x mac then
          { u with sec := { s.sec with sessionOpen := true }, answers := s.answers ++ [.spdm 9 []] }
        else { u with answers := s.answers ++ [.spdmError 1] })) ∧
    (s.sec.sessionOpen = true → exec .endSession s = .next { u with
      sec := { s.sec with session := none, sessionOpen := false }, answers := s.answers ++ [.spdm 10 []] }) ∧
    (∀ x part, s.sec.session = some x → s.sec.sessionOpen = true → s.sec.recovery = false → s.sec.d3hot = false →
      s.sec.lifecycle = 1 → s.sec.debugState = 0 → tokByte tok 1 = 1 → part = tokByte tok 2 → part < 64 → (s.part part).exists_ = true →
      s.sec.tokens = [] →
        (s.resetting = false → exec (.vendorDefinedRequest true tok) s = .next (if s.tokenOk tok x then
            { u.wakePart part with
              sec := { s.sec with debugState := 1, dpart := BitVec.ofNat 6 part }, answers := s.answers ++ [.spdm 11 []] }
          else { u with answers := s.answers ++ [.spdmError 1] })) ∧
        (s.resetting = true → exec (.vendorDefinedRequest true tok) s = .next (if s.tokenOk tok x then { u with
          sec := { s.sec with tokens := [(1, part)] } } else { u with answers := s.answers ++ [.spdmError 1] }))) ∧
    (∀ x target, s.sec.session = some x → s.sec.sessionOpen = true → s.sec.recovery = false → s.sec.tokens = [] → target = tokByte tok 1 →
      let refused : State := { u with answers := s.answers ++ [.spdmError 1] }
      let token (P : State → Prop) : Prop := answers (.vendorDefinedRequest true tok) s fun w => if s.tokenOk tok x then P w else w = refused
      (s.resetting = true → token fun w => w = { u with sec := { s.sec with tokens := [(target, tokByte tok 2)] } }) ∧
      (s.resetting = false →
        (target = 0 → s.sec.debugState = 1 ∧ s.sec.dpart.toNat = tokByte tok 2 → token fun w => w = { u with
          sec := { s.sec with debugState := 0, dpart := 0 }, answers := s.answers ++ [.spdm 11 []] }) ∧
        (target = 2 → s.sec.debugState ≠ 2 → token fun w => wiped s w ∧ w.sec.debugState = 2 ∧ w.sec.dpart = 0 ∧
          w.sec.lifecycle = s.sec.lifecycle ∧ w.answers = s.answers ++ [.spdm 11 []]) ∧
        (target = 3 → s.sec.lifecycle = 1 → token fun w => wiped s w ∧ w.sec.lifecycle = 2 ∧ w.answers = s.answers ++ [.spdm 11 []]) ∧
        ((target = 0 ∧ ¬ (s.sec.debugState = 1 ∧ s.sec.dpart.toNat = tokByte tok 2)) ∨ (target = 2 ∧ s.sec.debugState = 2) ∨
          (target = 3 ∧ s.sec.lifecycle ≠ 1) → exec (.vendorDefinedRequest true tok) s = .next refused)))) ∧
  (∀ (s : State) (nonce : Word) (code : Byte) (n : Nat) (tok : List Byte), s.heard s.source = false →
    ∀ i ∈ [Instr.getVersion, .getCapabilities, .negotiateAlgorithms, .getDigests, .getCertificate n, .challenge n nonce,
      .getMeasurements n, .keyExchange nonce, .finish nonce, .endSession, .spdmUnsupportedRequest code,
      .vendorDefinedRequest true tok], exec i s = .next { s with sources := s.sources.tail }) ∧
  (∀ (s : State) (t off : Nat) (x : Word), (Tab.find s.threads t).isSome →
    let replies (op : DebugOp) (a : Answer) : Prop := exec (.debugRequest op) s = .next { s with answers := s.answers ++ [a] }
    let sets (op : DebugOp) (f : Thread → Thread) : Prop :=
      exec (.debugRequest op) s = .next { s.modThread t f with answers := s.answers ++ [.debugDone 0] }
    let reached := s.awake = true ∧ (s.sec.debugState = 2 ∨ ∃ p, s.partOfThread t = some p ∧ s.debugged p = true)
    (reached → sets (.halt t) (fun y => { y with debugHalt := true, debugStep := false }) ∧ sets (.step t) (fun y => { y with debugStep := y.debugHalt }) ∧
      sets (.resume t) (fun y => { y with debugHalt := false, debugStep := false })) ∧
    (reached → off % 8 = 0 → off < 1024 →
      (let img := (s.thread t).imageBytes
       (s.thread t).imagePa = none → ((s.thread t).park ≠ some .inbox ∨ off ≠ 0x380 → replies (.readImage t off) (.debugDone (imgWord img off))) ∧
        sets (.writeImage t off x) (fun y => y.ofImage (img.take off ++ leBytes 8 x.toNat ++ img.drop (off + 8)))) ∧
      (∀ b, (s.thread t).imagePa = some b → Sound s →
        answers (.debugRequest (.readImage t off)) s (fun u => u.answers = s.answers ++ [.debugDone (s.word (b + off))] ∧ u.mem = s.mem ∧ wakesOnly s u) ∧
        answers (.debugRequest (.writeImage t off x)) s (fun u => u.answers = s.answers ++ [.debugDone 0] ∧ wakesOnly s u ∧
          u.mem = Memory.writeList s.mem (b + off) (leBytes 8 x.toNat)))) ∧
    (¬ reached → ∀ op ∈ [DebugOp.halt t, .step t, .resume t, .readImage t off, .writeImage t off x], replies op .debugRefused)) ∧
  (∀ (s : State) (off : Nat) (x : Word) (c : Coord) (pa : BitVec 52) (ctx : CtxId),
    let replies (op : DebugOp) (a : Answer) : Prop := exec (.debugRequest op) s = .next { s with answers := s.answers ++ [a] }
    let reached := s.awake = true ∧ (s.sec.debugState = 2 ∨ ∃ p, s.partOfCore c = some p ∧ s.debugged p = true)
    let owns := s.awake = true ∧ ∃ p, (s.slotOf ctx).map (·.1) = some p ∧ (s.sec.debugState = 2 ∨ s.debugged p = true)
    (reached → coreExists c = true → off % 8 = 0 → off < 2 ^ 18 →
      ((s.coreAt c).powerGated = true → replies (.readCaddy c off) .debugGated ∧ replies (.writeCaddy c off x) .debugGated) ∧
      ((s.coreAt c).powerGated = false → Sound s → replies (.readCaddy c off) (.debugDone (s.word (caddyKey c off))) ∧
        (NoConvene (s.coreAt c) → exec (.debugRequest (.writeCaddy c off x)) s = .next { s with
          mem := Memory.writeList s.mem (caddyKey c off) (leBytes 8 x.toNat), answers := s.answers ++ [.debugDone 0] }))) ∧
    (¬ reached → replies (.readCaddy c off) .debugRefused ∧ replies (.writeCaddy c off x) .debugRefused) ∧
    (owns → exec (.debugRequest (.haltContext ctx)) s = .next { s.haltCtx ctx { cause := 6, unit := none, kind := 0 } with
        answers := s.answers ++ [.debugDone 0] }) ∧
    (∀ va g, owns → isCaddy va = false → va.toNat % 8 = 0 → g.cls = .trk ∨ g.cls = .unt → Sound s →
      let who : Who := { ctx, core := hwUnit, svc := true, pl := 2 }
      (s.translate who va .load = .ok g → answers (.debugRequest (.readMem ctx va)) s fun u =>
        u.answers = s.answers ++ [.debugDone (s.word g.pa)] ∧ u.mem = s.mem ∧ wakesOnly s u) ∧
      (s.translate who va .store = .ok g → answers (.debugRequest (.writeMem ctx va x)) s fun u =>
        u.answers = s.answers ++ [.debugDone 0] ∧ u.mem = Memory.writeList s.mem g.pa (leBytes 8 x.toNat) ∧ wakesOnly s u)) ∧
    (¬ owns → replies (.haltContext ctx) .debugRefused ∧ ∀ va, replies (.readMem ctx va) .debugRefused ∧ replies (.writeMem ctx va x) .debugRefused) ∧
    (s.sec.debugState = 2 → s.sec.recovery = false → pa.toNat % 8 = 0 →
      (isHbm pa.toNat = true → s.awake = true →
        answers (.debugRequest (.readPhys pa)) s (fun u => u.answers = s.answers ++ [.debugDone (s.word pa.toNat)] ∧ u.mem = s.mem ∧ wakesOnly s u) ∧
        answers (.debugRequest (.writePhys pa x)) s (fun u => u.answers = s.answers ++ [.debugDone 0] ∧ wakesOnly s u ∧
          u.mem = Memory.writeList s.mem pa.toNat (leBytes 8 x.toNat))) ∧
      (isHbm pa.toNat = false → cfgPlace pa.toNat ≠ .reserved → replies (.readPhys pa) (.debugDone (s.cfgRead pa.toNat)) ∧
        exec (.debugRequest (.writePhys pa x)) s = .next ((s.cfgWrite pa.toNat 3 x).answer (.debugDone 0)))) ∧
    (s.sec.debugState ≠ 2 → replies (.readPhys pa) .debugRefused ∧ replies (.writePhys pa x) .debugRefused) ∧
    (s.sec.lifecycle ≠ 1 → s.sec.debugState ≠ 2 → s.awake = true → answers (.debugRequest .enterFull) s fun u => wiped s u ∧ u.sec.debugState = 2 ∧
      u.sec.dpart = 0 ∧ u.sec.lifecycle = s.sec.lifecycle ∧ u.answers = s.answers ++ [.debugDone 0]) ∧
    (s.sec.lifecycle = 1 ∨ s.sec.debugState = 2 ∨ s.awake = false → replies .enterFull .debugRefused))
end

