-- ==== Sys2Proof/Laws/Tab.lean ====
section
/-!
SUPPORT. Tables: what a reader finds after an update. None of these needs the keys to rise.
-/

namespace Sys2Proof

variable {α : Type}

@[simp] theorem Tab.find_set_self (t : Tab α) (i : Nat) (x : α) : Tab.find (Tab.set t i x) i = some x := by
  induction t with
  | nil => simp [Tab.set, Tab.find]
  | cons e t ih =>
    obtain ⟨k, y⟩ := e
    simp only [Tab.set]
    split
    · simp [Tab.find]
    · split
      · simp [Tab.find]
      · rename_i h; simp [Tab.find, h, ih]

theorem Tab.find_set_ne (t : Tab α) {i j : Nat} (x : α) (h : j ≠ i) : Tab.find (Tab.set t i x) j = Tab.find t j := by
  induction t with
  | nil => simp [Tab.set, Tab.find, h]
  | cons e t ih =>
    obtain ⟨k, y⟩ := e
    simp only [Tab.set]
    split
    · simp [Tab.find, h]
    · split
      · rename_i h1; subst h1; simp [Tab.find, h]
      · by_cases hk : j = k <;> simp [Tab.find, hk, ih]

theorem Tab.find_set (t : Tab α) (i j : Nat) (x : α) : Tab.find (Tab.set t i x) j = if j = i then some x else Tab.find t j := by
  by_cases h : j = i
  · subst h; simp
  · simp [h, Tab.find_set_ne]

@[simp] theorem Tab.get_set_self (t : Tab α) (d : α) (i : Nat) (x : α) : Tab.get (Tab.set t i x) d i = x := by
  simp [Tab.get]

theorem Tab.get_set_ne (t : Tab α) (d : α) {i j : Nat} (x : α) (h : j ≠ i) : Tab.get (Tab.set t i x) d j = Tab.get t d j := by
  simp [Tab.get, Tab.find_set_ne t x h]

theorem Tab.get_set (t : Tab α) (d : α) (i j : Nat) (x : α) : Tab.get (Tab.set t i x) d j = if j = i then x else Tab.get t d j := by
  by_cases h : j = i
  · subst h; simp
  · simp [h, Tab.get_set_ne]

@[simp] theorem Tab.set_set (t : Tab α) (i : Nat) (x y : α) : Tab.set (Tab.set t i x) i y = Tab.set t i y := by
  induction t with
  | nil => simp [Tab.set]
  | cons e t ih =>
    obtain ⟨k, z⟩ := e
    simp only [Tab.set]
    split
    · simp [Tab.set]
    · split
      · simp [Tab.set]
      · rename_i h1 h2; simp [Tab.set, h1, h2, ih]

end Sys2Proof
end

