-- ==== Sys2Proof/Laws/State.lean ====
section
/-!
SUPPORT. One lemma per field per update: what each update of a state, a thread or a core leaves alone, and what it puts in place.
-/

namespace Sys2Proof.Machine

/-! ## States -/

@[simp] theorem State.setThread_nextThread (s : State) (t : Nat) (x : Thread) : (s.setThread t x).nextThread = s.nextThread := rfl
@[simp] theorem State.setThread_cores (s : State) (t : Nat) (x : Thread) : (s.setThread t x).cores = s.cores := rfl
@[simp] theorem State.setThread_svcs (s : State) (t : Nat) (x : Thread) : (s.setThread t x).svcs = s.svcs := rfl
@[simp] theorem State.setThread_mem (s : State) (t : Nat) (x : Thread) : (s.setThread t x).mem = s.mem := rfl
@[simp] theorem State.setThread_net (s : State) (t : Nat) (x : Thread) : (s.setThread t x).net = s.net := rfl
@[simp] theorem State.setThread_groups (s : State) (t : Nat) (x : Thread) : (s.setThread t x).groups = s.groups := rfl
@[simp] theorem State.setThread_nextId (s : State) (t : Nat) (x : Thread) : (s.setThread t x).nextId = s.nextId := rfl
@[simp] theorem State.setThread_regions (s : State) (t : Nat) (x : Thread) : (s.setThread t x).regions = s.regions := rfl
@[simp] theorem State.setThread_nextKey (s : State) (t : Nat) (x : Thread) : (s.setThread t x).nextKey = s.nextKey := rfl
@[simp] theorem State.setThread_detRec (s : State) (t : Nat) (x : Thread) : (s.setThread t x).detRec = s.detRec := rfl
@[simp] theorem State.setThread_parks (s : State) (t : Nat) (x : Thread) : (s.setThread t x).parks = s.parks := rfl
@[simp] theorem State.setThread_hostLines (s : State) (t : Nat) (x : Thread) : (s.setThread t x).hostLines = s.hostLines := rfl
@[simp] theorem State.setThread_hostDirty (s : State) (t : Nat) (x : Thread) : (s.setThread t x).hostDirty = s.hostDirty := rfl
@[simp] theorem State.setThread_stlb (s : State) (t : Nat) (x : Thread) : (s.setThread t x).stlb = s.stlb := rfl
@[simp] theorem State.setThread_walks (s : State) (t : Nat) (x : Thread) : (s.setThread t x).walks = s.walks := rfl
@[simp] theorem State.setThread_l2 (s : State) (t : Nat) (x : Thread) : (s.setThread t x).l2 = s.l2 := rfl
@[simp] theorem State.setThread_group (s : State) (t : Nat) (x : Thread) : (s.setThread t x).group = s.group := rfl
@[simp] theorem State.setThread_ownership (s : State) (t : Nat) (x : Thread) : (s.setThread t x).ownership = s.ownership := rfl
@[simp] theorem State.setThread_parts (s : State) (t : Nat) (x : Thread) : (s.setThread t x).parts = s.parts := rfl
@[simp] theorem State.setThread_ctxs (s : State) (t : Nat) (x : Thread) : (s.setThread t x).ctxs = s.ctxs := rfl
@[simp] theorem State.setThread_gbars (s : State) (t : Nat) (x : Thread) : (s.setThread t x).gbars = s.gbars := rfl
@[simp] theorem State.setThread_rings (s : State) (t : Nat) (x : Thread) : (s.setThread t x).rings = s.rings := rfl
@[simp] theorem State.setThread_queues (s : State) (t : Nat) (x : Thread) : (s.setThread t x).queues = s.queues := rfl
@[simp] theorem State.setThread_pours (s : State) (t : Nat) (x : Thread) : (s.setThread t x).pours = s.pours := rfl
@[simp] theorem State.setThread_peerAcl (s : State) (t : Nat) (x : Thread) : (s.setThread t x).peerAcl = s.peerAcl := rfl
@[simp] theorem State.setThread_ldRefusals (s : State) (t : Nat) (x : Thread) : (s.setThread t x).ldRefusals = s.ldRefusals := rfl
@[simp] theorem State.setThread_errCounts (s : State) (t : Nat) (x : Thread) : (s.setThread t x).errCounts = s.errCounts := rfl
@[simp] theorem State.setThread_errLogs (s : State) (t : Nat) (x : Thread) : (s.setThread t x).errLogs = s.errLogs := rfl
@[simp] theorem State.setThread_badUnits (s : State) (t : Nat) (x : Thread) : (s.setThread t x).badUnits = s.badUnits := rfl
@[simp] theorem State.setThread_softUnits (s : State) (t : Nat) (x : Thread) : (s.setThread t x).softUnits = s.softUnits := rfl
@[simp] theorem State.setThread_strikes (s : State) (t : Nat) (x : Thread) : (s.setThread t x).strikes = s.strikes := rfl
@[simp] theorem State.setThread_sec (s : State) (t : Nat) (x : Thread) : (s.setThread t x).sec = s.sec := rfl
@[simp] theorem State.setThread_viral (s : State) (t : Nat) (x : Thread) : (s.setThread t x).viral = s.viral := rfl
@[simp] theorem State.setThread_time (s : State) (t : Nat) (x : Thread) : (s.setThread t x).time = s.time := rfl
@[simp] theorem State.setThread_devReset (s : State) (t : Nat) (x : Thread) : (s.setThread t x).devReset = s.devReset := rfl
@[simp] theorem State.setThread_answers (s : State) (t : Nat) (x : Thread) : (s.setThread t x).answers = s.answers := rfl
@[simp] theorem State.setThread_cur (s : State) (t : Nat) (x : Thread) : (s.setThread t x).cur = s.cur := rfl
@[simp] theorem State.setThread_turn (s : State) (t : Nat) (x : Thread) : (s.setThread t x).turn = s.turn := rfl
@[simp] theorem State.setThread_inputs (s : State) (t : Nat) (x : Thread) : (s.setThread t x).inputs = s.inputs := rfl
@[simp] theorem State.setThread_sources (s : State) (t : Nat) (x : Thread) : (s.setThread t x).sources = s.sources := rfl
@[simp] theorem State.setThread_fresh (s : State) (t : Nat) (x : Thread) : (s.setThread t x).fresh = s.fresh := rfl
@[simp] theorem State.setThread_cycle (s : State) (t : Nat) (x : Thread) : (s.setThread t x).cycle = s.cycle := rfl

@[simp] theorem State.modThread_nextThread (s : State) (t : Nat) (f : Thread → Thread) : (s.modThread t f).nextThread = s.nextThread := rfl
@[simp] theorem State.modThread_cores (s : State) (t : Nat) (f : Thread → Thread) : (s.modThread t f).cores = s.cores := rfl
@[simp] theorem State.modThread_svcs (s : State) (t : Nat) (f : Thread → Thread) : (s.modThread t f).svcs = s.svcs := rfl
@[simp] theorem State.modThread_mem (s : State) (t : Nat) (f : Thread → Thread) : (s.modThread t f).mem = s.mem := rfl
@[simp] theorem State.modThread_net (s : State) (t : Nat) (f : Thread → Thread) : (s.modThread t f).net = s.net := rfl
@[simp] theorem State.modThread_groups (s : State) (t : Nat) (f : Thread → Thread) : (s.modThread t f).groups = s.groups := rfl
@[simp] theorem State.modThread_nextId (s : State) (t : Nat) (f : Thread → Thread) : (s.modThread t f).nextId = s.nextId := rfl
@[simp] theorem State.modThread_regions (s : State) (t : Nat) (f : Thread → Thread) : (s.modThread t f).regions = s.regions := rfl
@[simp] theorem State.modThread_nextKey (s : State) (t : Nat) (f : Thread → Thread) : (s.modThread t f).nextKey = s.nextKey := rfl
@[simp] theorem State.modThread_detRec (s : State) (t : Nat) (f : Thread → Thread) : (s.modThread t f).detRec = s.detRec := rfl
@[simp] theorem State.modThread_parks (s : State) (t : Nat) (f : Thread → Thread) : (s.modThread t f).parks = s.parks := rfl
@[simp] theorem State.modThread_hostLines (s : State) (t : Nat) (f : Thread → Thread) : (s.modThread t f).hostLines = s.hostLines := rfl
@[simp] theorem State.modThread_hostDirty (s : State) (t : Nat) (f : Thread → Thread) : (s.modThread t f).hostDirty = s.hostDirty := rfl
@[simp] theorem State.modThread_stlb (s : State) (t : Nat) (f : Thread → Thread) : (s.modThread t f).stlb = s.stlb := rfl
@[simp] theorem State.modThread_walks (s : State) (t : Nat) (f : Thread → Thread) : (s.modThread t f).walks = s.walks := rfl
@[simp] theorem State.modThread_l2 (s : State) (t : Nat) (f : Thread → Thread) : (s.modThread t f).l2 = s.l2 := rfl
@[simp] theorem State.modThread_group (s : State) (t : Nat) (f : Thread → Thread) : (s.modThread t f).group = s.group := rfl
@[simp] theorem State.modThread_ownership (s : State) (t : Nat) (f : Thread → Thread) : (s.modThread t f).ownership = s.ownership := rfl
@[simp] theorem State.modThread_parts (s : State) (t : Nat) (f : Thread → Thread) : (s.modThread t f).parts = s.parts := rfl
@[simp] theorem State.modThread_ctxs (s : State) (t : Nat) (f : Thread → Thread) : (s.modThread t f).ctxs = s.ctxs := rfl
@[simp] theorem State.modThread_gbars (s : State) (t : Nat) (f : Thread → Thread) : (s.modThread t f).gbars = s.gbars := rfl
@[simp] theorem State.modThread_rings (s : State) (t : Nat) (f : Thread → Thread) : (s.modThread t f).rings = s.rings := rfl
@[simp] theorem State.modThread_queues (s : State) (t : Nat) (f : Thread → Thread) : (s.modThread t f).queues = s.queues := rfl
@[simp] theorem State.modThread_pours (s : State) (t : Nat) (f : Thread → Thread) : (s.modThread t f).pours = s.pours := rfl
@[simp] theorem State.modThread_peerAcl (s : State) (t : Nat) (f : Thread → Thread) : (s.modThread t f).peerAcl = s.peerAcl := rfl
@[simp] theorem State.modThread_ldRefusals (s : State) (t : Nat) (f : Thread → Thread) : (s.modThread t f).ldRefusals = s.ldRefusals := rfl
@[simp] theorem State.modThread_errCounts (s : State) (t : Nat) (f : Thread → Thread) : (s.modThread t f).errCounts = s.errCounts := rfl
@[simp] theorem State.modThread_errLogs (s : State) (t : Nat) (f : Thread → Thread) : (s.modThread t f).errLogs = s.errLogs := rfl
@[simp] theorem State.modThread_badUnits (s : State) (t : Nat) (f : Thread → Thread) : (s.modThread t f).badUnits = s.badUnits := rfl
@[simp] theorem State.modThread_softUnits (s : State) (t : Nat) (f : Thread → Thread) : (s.modThread t f).softUnits = s.softUnits := rfl
@[simp] theorem State.modThread_strikes (s : State) (t : Nat) (f : Thread → Thread) : (s.modThread t f).strikes = s.strikes := rfl
@[simp] theorem State.modThread_sec (s : State) (t : Nat) (f : Thread → Thread) : (s.modThread t f).sec = s.sec := rfl
@[simp] theorem State.modThread_viral (s : State) (t : Nat) (f : Thread → Thread) : (s.modThread t f).viral = s.viral := rfl
@[simp] theorem State.modThread_time (s : State) (t : Nat) (f : Thread → Thread) : (s.modThread t f).time = s.time := rfl
@[simp] theorem State.modThread_devReset (s : State) (t : Nat) (f : Thread → Thread) : (s.modThread t f).devReset = s.devReset := rfl
@[simp] theorem State.modThread_answers (s : State) (t : Nat) (f : Thread → Thread) : (s.modThread t f).answers = s.answers := rfl
@[simp] theorem State.modThread_cur (s : State) (t : Nat) (f : Thread → Thread) : (s.modThread t f).cur = s.cur := rfl
@[simp] theorem State.modThread_turn (s : State) (t : Nat) (f : Thread → Thread) : (s.modThread t f).turn = s.turn := rfl
@[simp] theorem State.modThread_inputs (s : State) (t : Nat) (f : Thread → Thread) : (s.modThread t f).inputs = s.inputs := rfl
@[simp] theorem State.modThread_sources (s : State) (t : Nat) (f : Thread → Thread) : (s.modThread t f).sources = s.sources := rfl
@[simp] theorem State.modThread_fresh (s : State) (t : Nat) (f : Thread → Thread) : (s.modThread t f).fresh = s.fresh := rfl
@[simp] theorem State.modThread_cycle (s : State) (t : Nat) (f : Thread → Thread) : (s.modThread t f).cycle = s.cycle := rfl

@[simp] theorem State.modSelf_nextThread (s : State) (f : Thread → Thread) : (s.modSelf f).nextThread = s.nextThread := rfl
@[simp] theorem State.modSelf_cores (s : State) (f : Thread → Thread) : (s.modSelf f).cores = s.cores := rfl
@[simp] theorem State.modSelf_svcs (s : State) (f : Thread → Thread) : (s.modSelf f).svcs = s.svcs := rfl
@[simp] theorem State.modSelf_mem (s : State) (f : Thread → Thread) : (s.modSelf f).mem = s.mem := rfl
@[simp] theorem State.modSelf_net (s : State) (f : Thread → Thread) : (s.modSelf f).net = s.net := rfl
@[simp] theorem State.modSelf_groups (s : State) (f : Thread → Thread) : (s.modSelf f).groups = s.groups := rfl
@[simp] theorem State.modSelf_nextId (s : State) (f : Thread → Thread) : (s.modSelf f).nextId = s.nextId := rfl
@[simp] theorem State.modSelf_regions (s : State) (f : Thread → Thread) : (s.modSelf f).regions = s.regions := rfl
@[simp] theorem State.modSelf_nextKey (s : State) (f : Thread → Thread) : (s.modSelf f).nextKey = s.nextKey := rfl
@[simp] theorem State.modSelf_detRec (s : State) (f : Thread → Thread) : (s.modSelf f).detRec = s.detRec := rfl
@[simp] theorem State.modSelf_parks (s : State) (f : Thread → Thread) : (s.modSelf f).parks = s.parks := rfl
@[simp] theorem State.modSelf_hostLines (s : State) (f : Thread → Thread) : (s.modSelf f).hostLines = s.hostLines := rfl
@[simp] theorem State.modSelf_hostDirty (s : State) (f : Thread → Thread) : (s.modSelf f).hostDirty = s.hostDirty := rfl
@[simp] theorem State.modSelf_stlb (s : State) (f : Thread → Thread) : (s.modSelf f).stlb = s.stlb := rfl
@[simp] theorem State.modSelf_walks (s : State) (f : Thread → Thread) : (s.modSelf f).walks = s.walks := rfl
@[simp] theorem State.modSelf_l2 (s : State) (f : Thread → Thread) : (s.modSelf f).l2 = s.l2 := rfl
@[simp] theorem State.modSelf_group (s : State) (f : Thread → Thread) : (s.modSelf f).group = s.group := rfl
@[simp] theorem State.modSelf_ownership (s : State) (f : Thread → Thread) : (s.modSelf f).ownership = s.ownership := rfl
@[simp] theorem State.modSelf_parts (s : State) (f : Thread → Thread) : (s.modSelf f).parts = s.parts := rfl
@[simp] theorem State.modSelf_ctxs (s : State) (f : Thread → Thread) : (s.modSelf f).ctxs = s.ctxs := rfl
@[simp] theorem State.modSelf_gbars (s : State) (f : Thread → Thread) : (s.modSelf f).gbars = s.gbars := rfl
@[simp] theorem State.modSelf_rings (s : State) (f : Thread → Thread) : (s.modSelf f).rings = s.rings := rfl
@[simp] theorem State.modSelf_queues (s : State) (f : Thread → Thread) : (s.modSelf f).queues = s.queues := rfl
@[simp] theorem State.modSelf_pours (s : State) (f : Thread → Thread) : (s.modSelf f).pours = s.pours := rfl
@[simp] theorem State.modSelf_peerAcl (s : State) (f : Thread → Thread) : (s.modSelf f).peerAcl = s.peerAcl := rfl
@[simp] theorem State.modSelf_ldRefusals (s : State) (f : Thread → Thread) : (s.modSelf f).ldRefusals = s.ldRefusals := rfl
@[simp] theorem State.modSelf_errCounts (s : State) (f : Thread → Thread) : (s.modSelf f).errCounts = s.errCounts := rfl
@[simp] theorem State.modSelf_errLogs (s : State) (f : Thread → Thread) : (s.modSelf f).errLogs = s.errLogs := rfl
@[simp] theorem State.modSelf_badUnits (s : State) (f : Thread → Thread) : (s.modSelf f).badUnits = s.badUnits := rfl
@[simp] theorem State.modSelf_softUnits (s : State) (f : Thread → Thread) : (s.modSelf f).softUnits = s.softUnits := rfl
@[simp] theorem State.modSelf_strikes (s : State) (f : Thread → Thread) : (s.modSelf f).strikes = s.strikes := rfl
@[simp] theorem State.modSelf_sec (s : State) (f : Thread → Thread) : (s.modSelf f).sec = s.sec := rfl
@[simp] theorem State.modSelf_viral (s : State) (f : Thread → Thread) : (s.modSelf f).viral = s.viral := rfl
@[simp] theorem State.modSelf_time (s : State) (f : Thread → Thread) : (s.modSelf f).time = s.time := rfl
@[simp] theorem State.modSelf_devReset (s : State) (f : Thread → Thread) : (s.modSelf f).devReset = s.devReset := rfl
@[simp] theorem State.modSelf_answers (s : State) (f : Thread → Thread) : (s.modSelf f).answers = s.answers := rfl
@[simp] theorem State.modSelf_cur (s : State) (f : Thread → Thread) : (s.modSelf f).cur = s.cur := rfl
@[simp] theorem State.modSelf_turn (s : State) (f : Thread → Thread) : (s.modSelf f).turn = s.turn := rfl
@[simp] theorem State.modSelf_inputs (s : State) (f : Thread → Thread) : (s.modSelf f).inputs = s.inputs := rfl
@[simp] theorem State.modSelf_sources (s : State) (f : Thread → Thread) : (s.modSelf f).sources = s.sources := rfl
@[simp] theorem State.modSelf_fresh (s : State) (f : Thread → Thread) : (s.modSelf f).fresh = s.fresh := rfl
@[simp] theorem State.modSelf_cycle (s : State) (f : Thread → Thread) : (s.modSelf f).cycle = s.cycle := rfl

@[simp] theorem State.setCore_threads (s : State) (c : Coord) (x : Core) : (s.setCore c x).threads = s.threads := rfl
@[simp] theorem State.setCore_nextThread (s : State) (c : Coord) (x : Core) : (s.setCore c x).nextThread = s.nextThread := rfl
@[simp] theorem State.setCore_svcs (s : State) (c : Coord) (x : Core) : (s.setCore c x).svcs = s.svcs := rfl
@[simp] theorem State.setCore_mem (s : State) (c : Coord) (x : Core) : (s.setCore c x).mem = s.mem := rfl
@[simp] theorem State.setCore_net (s : State) (c : Coord) (x : Core) : (s.setCore c x).net = s.net := rfl
@[simp] theorem State.setCore_groups (s : State) (c : Coord) (x : Core) : (s.setCore c x).groups = s.groups := rfl
@[simp] theorem State.setCore_nextId (s : State) (c : Coord) (x : Core) : (s.setCore c x).nextId = s.nextId := rfl
@[simp] theorem State.setCore_regions (s : State) (c : Coord) (x : Core) : (s.setCore c x).regions = s.regions := rfl
@[simp] theorem State.setCore_nextKey (s : State) (c : Coord) (x : Core) : (s.setCore c x).nextKey = s.nextKey := rfl
@[simp] theorem State.setCore_detRec (s : State) (c : Coord) (x : Core) : (s.setCore c x).detRec = s.detRec := rfl
@[simp] theorem State.setCore_parks (s : State) (c : Coord) (x : Core) : (s.setCore c x).parks = s.parks := rfl
@[simp] theorem State.setCore_hostLines (s : State) (c : Coord) (x : Core) : (s.setCore c x).hostLines = s.hostLines := rfl
@[simp] theorem State.setCore_hostDirty (s : State) (c : Coord) (x : Core) : (s.setCore c x).hostDirty = s.hostDirty := rfl
@[simp] theorem State.setCore_stlb (s : State) (c : Coord) (x : Core) : (s.setCore c x).stlb = s.stlb := rfl
@[simp] theorem State.setCore_walks (s : State) (c : Coord) (x : Core) : (s.setCore c x).walks = s.walks := rfl
@[simp] theorem State.setCore_l2 (s : State) (c : Coord) (x : Core) : (s.setCore c x).l2 = s.l2 := rfl
@[simp] theorem State.setCore_group (s : State) (c : Coord) (x : Core) : (s.setCore c x).group = s.group := rfl
@[simp] theorem State.setCore_ownership (s : State) (c : Coord) (x : Core) : (s.setCore c x).ownership = s.ownership := rfl
@[simp] theorem State.setCore_parts (s : State) (c : Coord) (x : Core) : (s.setCore c x).parts = s.parts := rfl
@[simp] theorem State.setCore_ctxs (s : State) (c : Coord) (x : Core) : (s.setCore c x).ctxs = s.ctxs := rfl
@[simp] theorem State.setCore_gbars (s : State) (c : Coord) (x : Core) : (s.setCore c x).gbars = s.gbars := rfl
@[simp] theorem State.setCore_rings (s : State) (c : Coord) (x : Core) : (s.setCore c x).rings = s.rings := rfl
@[simp] theorem State.setCore_queues (s : State) (c : Coord) (x : Core) : (s.setCore c x).queues = s.queues := rfl
@[simp] theorem State.setCore_pours (s : State) (c : Coord) (x : Core) : (s.setCore c x).pours = s.pours := rfl
@[simp] theorem State.setCore_peerAcl (s : State) (c : Coord) (x : Core) : (s.setCore c x).peerAcl = s.peerAcl := rfl
@[simp] theorem State.setCore_ldRefusals (s : State) (c : Coord) (x : Core) : (s.setCore c x).ldRefusals = s.ldRefusals := rfl
@[simp] theorem State.setCore_errCounts (s : State) (c : Coord) (x : Core) : (s.setCore c x).errCounts = s.errCounts := rfl
@[simp] theorem State.setCore_errLogs (s : State) (c : Coord) (x : Core) : (s.setCore c x).errLogs = s.errLogs := rfl
@[simp] theorem State.setCore_badUnits (s : State) (c : Coord) (x : Core) : (s.setCore c x).badUnits = s.badUnits := rfl
@[simp] theorem State.setCore_softUnits (s : State) (c : Coord) (x : Core) : (s.setCore c x).softUnits = s.softUnits := rfl
@[simp] theorem State.setCore_strikes (s : State) (c : Coord) (x : Core) : (s.setCore c x).strikes = s.strikes := rfl
@[simp] theorem State.setCore_sec (s : State) (c : Coord) (x : Core) : (s.setCore c x).sec = s.sec := rfl
@[simp] theorem State.setCore_viral (s : State) (c : Coord) (x : Core) : (s.setCore c x).viral = s.viral := rfl
@[simp] theorem State.setCore_time (s : State) (c : Coord) (x : Core) : (s.setCore c x).time = s.time := rfl
@[simp] theorem State.setCore_devReset (s : State) (c : Coord) (x : Core) : (s.setCore c x).devReset = s.devReset := rfl
@[simp] theorem State.setCore_answers (s : State) (c : Coord) (x : Core) : (s.setCore c x).answers = s.answers := rfl
@[simp] theorem State.setCore_cur (s : State) (c : Coord) (x : Core) : (s.setCore c x).cur = s.cur := rfl
@[simp] theorem State.setCore_turn (s : State) (c : Coord) (x : Core) : (s.setCore c x).turn = s.turn := rfl
@[simp] theorem State.setCore_inputs (s : State) (c : Coord) (x : Core) : (s.setCore c x).inputs = s.inputs := rfl
@[simp] theorem State.setCore_sources (s : State) (c : Coord) (x : Core) : (s.setCore c x).sources = s.sources := rfl
@[simp] theorem State.setCore_fresh (s : State) (c : Coord) (x : Core) : (s.setCore c x).fresh = s.fresh := rfl
@[simp] theorem State.setCore_cycle (s : State) (c : Coord) (x : Core) : (s.setCore c x).cycle = s.cycle := rfl

@[simp] theorem State.modCore_threads (s : State) (c : Coord) (f : Core → Core) : (s.modCore c f).threads = s.threads := rfl
@[simp] theorem State.modCore_nextThread (s : State) (c : Coord) (f : Core → Core) : (s.modCore c f).nextThread = s.nextThread := rfl
@[simp] theorem State.modCore_svcs (s : State) (c : Coord) (f : Core → Core) : (s.modCore c f).svcs = s.svcs := rfl
@[simp] theorem State.modCore_mem (s : State) (c : Coord) (f : Core → Core) : (s.modCore c f).mem = s.mem := rfl
@[simp] theorem State.modCore_net (s : State) (c : Coord) (f : Core → Core) : (s.modCore c f).net = s.net := rfl
@[simp] theorem State.modCore_groups (s : State) (c : Coord) (f : Core → Core) : (s.modCore c f).groups = s.groups := rfl
@[simp] theorem State.modCore_nextId (s : State) (c : Coord) (f : Core → Core) : (s.modCore c f).nextId = s.nextId := rfl
@[simp] theorem State.modCore_regions (s : State) (c : Coord) (f : Core → Core) : (s.modCore c f).regions = s.regions := rfl
@[simp] theorem State.modCore_nextKey (s : State) (c : Coord) (f : Core → Core) : (s.modCore c f).nextKey = s.nextKey := rfl
@[simp] theorem State.modCore_detRec (s : State) (c : Coord) (f : Core → Core) : (s.modCore c f).detRec = s.detRec := rfl
@[simp] theorem State.modCore_parks (s : State) (c : Coord) (f : Core → Core) : (s.modCore c f).parks = s.parks := rfl
@[simp] theorem State.modCore_hostLines (s : State) (c : Coord) (f : Core → Core) : (s.modCore c f).hostLines = s.hostLines := rfl
@[simp] theorem State.modCore_hostDirty (s : State) (c : Coord) (f : Core → Core) : (s.modCore c f).hostDirty = s.hostDirty := rfl
@[simp] theorem State.modCore_stlb (s : State) (c : Coord) (f : Core → Core) : (s.modCore c f).stlb = s.stlb := rfl
@[simp] theorem State.modCore_walks (s : State) (c : Coord) (f : Core → Core) : (s.modCore c f).walks = s.walks := rfl
@[simp] theorem State.modCore_l2 (s : State) (c : Coord) (f : Core → Core) : (s.modCore c f).l2 = s.l2 := rfl
@[simp] theorem State.modCore_group (s : State) (c : Coord) (f : Core → Core) : (s.modCore c f).group = s.group := rfl
@[simp] theorem State.modCore_ownership (s : State) (c : Coord) (f : Core → Core) : (s.modCore c f).ownership = s.ownership := rfl
@[simp] theorem State.modCore_parts (s : State) (c : Coord) (f : Core → Core) : (s.modCore c f).parts = s.parts := rfl
@[simp] theorem State.modCore_ctxs (s : State) (c : Coord) (f : Core → Core) : (s.modCore c f).ctxs = s.ctxs := rfl
@[simp] theorem State.modCore_gbars (s : State) (c : Coord) (f : Core → Core) : (s.modCore c f).gbars = s.gbars := rfl
@[simp] theorem State.modCore_rings (s : State) (c : Coord) (f : Core → Core) : (s.modCore c f).rings = s.rings := rfl
@[simp] theorem State.modCore_queues (s : State) (c : Coord) (f : Core → Core) : (s.modCore c f).queues = s.queues := rfl
@[simp] theorem State.modCore_pours (s : State) (c : Coord) (f : Core → Core) : (s.modCore c f).pours = s.pours := rfl
@[simp] theorem State.modCore_peerAcl (s : State) (c : Coord) (f : Core → Core) : (s.modCore c f).peerAcl = s.peerAcl := rfl
@[simp] theorem State.modCore_ldRefusals (s : State) (c : Coord) (f : Core → Core) : (s.modCore c f).ldRefusals = s.ldRefusals := rfl
@[simp] theorem State.modCore_errCounts (s : State) (c : Coord) (f : Core → Core) : (s.modCore c f).errCounts = s.errCounts := rfl
@[simp] theorem State.modCore_errLogs (s : State) (c : Coord) (f : Core → Core) : (s.modCore c f).errLogs = s.errLogs := rfl
@[simp] theorem State.modCore_badUnits (s : State) (c : Coord) (f : Core → Core) : (s.modCore c f).badUnits = s.badUnits := rfl
@[simp] theorem State.modCore_softUnits (s : State) (c : Coord) (f : Core → Core) : (s.modCore c f).softUnits = s.softUnits := rfl
@[simp] theorem State.modCore_strikes (s : State) (c : Coord) (f : Core → Core) : (s.modCore c f).strikes = s.strikes := rfl
@[simp] theorem State.modCore_sec (s : State) (c : Coord) (f : Core → Core) : (s.modCore c f).sec = s.sec := rfl
@[simp] theorem State.modCore_viral (s : State) (c : Coord) (f : Core → Core) : (s.modCore c f).viral = s.viral := rfl
@[simp] theorem State.modCore_time (s : State) (c : Coord) (f : Core → Core) : (s.modCore c f).time = s.time := rfl
@[simp] theorem State.modCore_devReset (s : State) (c : Coord) (f : Core → Core) : (s.modCore c f).devReset = s.devReset := rfl
@[simp] theorem State.modCore_answers (s : State) (c : Coord) (f : Core → Core) : (s.modCore c f).answers = s.answers := rfl
@[simp] theorem State.modCore_cur (s : State) (c : Coord) (f : Core → Core) : (s.modCore c f).cur = s.cur := rfl
@[simp] theorem State.modCore_turn (s : State) (c : Coord) (f : Core → Core) : (s.modCore c f).turn = s.turn := rfl
@[simp] theorem State.modCore_inputs (s : State) (c : Coord) (f : Core → Core) : (s.modCore c f).inputs = s.inputs := rfl
@[simp] theorem State.modCore_sources (s : State) (c : Coord) (f : Core → Core) : (s.modCore c f).sources = s.sources := rfl
@[simp] theorem State.modCore_fresh (s : State) (c : Coord) (f : Core → Core) : (s.modCore c f).fresh = s.fresh := rfl
@[simp] theorem State.modCore_cycle (s : State) (c : Coord) (f : Core → Core) : (s.modCore c f).cycle = s.cycle := rfl

@[simp] theorem State.modMyCore_threads (s : State) (f : Core → Core) : (s.modMyCore f).threads = s.threads := rfl
@[simp] theorem State.modMyCore_nextThread (s : State) (f : Core → Core) : (s.modMyCore f).nextThread = s.nextThread := rfl
@[simp] theorem State.modMyCore_svcs (s : State) (f : Core → Core) : (s.modMyCore f).svcs = s.svcs := rfl
@[simp] theorem State.modMyCore_mem (s : State) (f : Core → Core) : (s.modMyCore f).mem = s.mem := rfl
@[simp] theorem State.modMyCore_net (s : State) (f : Core → Core) : (s.modMyCore f).net = s.net := rfl
@[simp] theorem State.modMyCore_groups (s : State) (f : Core → Core) : (s.modMyCore f).groups = s.groups := rfl
@[simp] theorem State.modMyCore_nextId (s : State) (f : Core → Core) : (s.modMyCore f).nextId = s.nextId := rfl
@[simp] theorem State.modMyCore_regions (s : State) (f : Core → Core) : (s.modMyCore f).regions = s.regions := rfl
@[simp] theorem State.modMyCore_nextKey (s : State) (f : Core → Core) : (s.modMyCore f).nextKey = s.nextKey := rfl
@[simp] theorem State.modMyCore_detRec (s : State) (f : Core → Core) : (s.modMyCore f).detRec = s.detRec := rfl
@[simp] theorem State.modMyCore_parks (s : State) (f : Core → Core) : (s.modMyCore f).parks = s.parks := rfl
@[simp] theorem State.modMyCore_hostLines (s : State) (f : Core → Core) : (s.modMyCore f).hostLines = s.hostLines := rfl
@[simp] theorem State.modMyCore_hostDirty (s : State) (f : Core → Core) : (s.modMyCore f).hostDirty = s.hostDirty := rfl
@[simp] theorem State.modMyCore_stlb (s : State) (f : Core → Core) : (s.modMyCore f).stlb = s.stlb := rfl
@[simp] theorem State.modMyCore_walks (s : State) (f : Core → Core) : (s.modMyCore f).walks = s.walks := rfl
@[simp] theorem State.modMyCore_l2 (s : State) (f : Core → Core) : (s.modMyCore f).l2 = s.l2 := rfl
@[simp] theorem State.modMyCore_group (s : State) (f : Core → Core) : (s.modMyCore f).group = s.group := rfl
@[simp] theorem State.modMyCore_ownership (s : State) (f : Core → Core) : (s.modMyCore f).ownership = s.ownership := rfl
@[simp] theorem State.modMyCore_parts (s : State) (f : Core → Core) : (s.modMyCore f).parts = s.parts := rfl
@[simp] theorem State.modMyCore_ctxs (s : State) (f : Core → Core) : (s.modMyCore f).ctxs = s.ctxs := rfl
@[simp] theorem State.modMyCore_gbars (s : State) (f : Core → Core) : (s.modMyCore f).gbars = s.gbars := rfl
@[simp] theorem State.modMyCore_rings (s : State) (f : Core → Core) : (s.modMyCore f).rings = s.rings := rfl
@[simp] theorem State.modMyCore_queues (s : State) (f : Core → Core) : (s.modMyCore f).queues = s.queues := rfl
@[simp] theorem State.modMyCore_pours (s : State) (f : Core → Core) : (s.modMyCore f).pours = s.pours := rfl
@[simp] theorem State.modMyCore_peerAcl (s : State) (f : Core → Core) : (s.modMyCore f).peerAcl = s.peerAcl := rfl
@[simp] theorem State.modMyCore_ldRefusals (s : State) (f : Core → Core) : (s.modMyCore f).ldRefusals = s.ldRefusals := rfl
@[simp] theorem State.modMyCore_errCounts (s : State) (f : Core → Core) : (s.modMyCore f).errCounts = s.errCounts := rfl
@[simp] theorem State.modMyCore_errLogs (s : State) (f : Core → Core) : (s.modMyCore f).errLogs = s.errLogs := rfl
@[simp] theorem State.modMyCore_badUnits (s : State) (f : Core → Core) : (s.modMyCore f).badUnits = s.badUnits := rfl
@[simp] theorem State.modMyCore_softUnits (s : State) (f : Core → Core) : (s.modMyCore f).softUnits = s.softUnits := rfl
@[simp] theorem State.modMyCore_strikes (s : State) (f : Core → Core) : (s.modMyCore f).strikes = s.strikes := rfl
@[simp] theorem State.modMyCore_sec (s : State) (f : Core → Core) : (s.modMyCore f).sec = s.sec := rfl
@[simp] theorem State.modMyCore_viral (s : State) (f : Core → Core) : (s.modMyCore f).viral = s.viral := rfl
@[simp] theorem State.modMyCore_time (s : State) (f : Core → Core) : (s.modMyCore f).time = s.time := rfl
@[simp] theorem State.modMyCore_devReset (s : State) (f : Core → Core) : (s.modMyCore f).devReset = s.devReset := rfl
@[simp] theorem State.modMyCore_answers (s : State) (f : Core → Core) : (s.modMyCore f).answers = s.answers := rfl
@[simp] theorem State.modMyCore_cur (s : State) (f : Core → Core) : (s.modMyCore f).cur = s.cur := rfl
@[simp] theorem State.modMyCore_turn (s : State) (f : Core → Core) : (s.modMyCore f).turn = s.turn := rfl
@[simp] theorem State.modMyCore_inputs (s : State) (f : Core → Core) : (s.modMyCore f).inputs = s.inputs := rfl
@[simp] theorem State.modMyCore_sources (s : State) (f : Core → Core) : (s.modMyCore f).sources = s.sources := rfl
@[simp] theorem State.modMyCore_fresh (s : State) (f : Core → Core) : (s.modMyCore f).fresh = s.fresh := rfl
@[simp] theorem State.modMyCore_cycle (s : State) (f : Core → Core) : (s.modMyCore f).cycle = s.cycle := rfl

@[simp] theorem State.modCtx_threads (s : State) (c : CtxId) (f : Ctx → Ctx) : (s.modCtx c f).threads = s.threads := rfl
@[simp] theorem State.modCtx_nextThread (s : State) (c : CtxId) (f : Ctx → Ctx) : (s.modCtx c f).nextThread = s.nextThread := rfl
@[simp] theorem State.modCtx_cores (s : State) (c : CtxId) (f : Ctx → Ctx) : (s.modCtx c f).cores = s.cores := rfl
@[simp] theorem State.modCtx_svcs (s : State) (c : CtxId) (f : Ctx → Ctx) : (s.modCtx c f).svcs = s.svcs := rfl
@[simp] theorem State.modCtx_mem (s : State) (c : CtxId) (f : Ctx → Ctx) : (s.modCtx c f).mem = s.mem := rfl
@[simp] theorem State.modCtx_net (s : State) (c : CtxId) (f : Ctx → Ctx) : (s.modCtx c f).net = s.net := rfl
@[simp] theorem State.modCtx_groups (s : State) (c : CtxId) (f : Ctx → Ctx) : (s.modCtx c f).groups = s.groups := rfl
@[simp] theorem State.modCtx_nextId (s : State) (c : CtxId) (f : Ctx → Ctx) : (s.modCtx c f).nextId = s.nextId := rfl
@[simp] theorem State.modCtx_regions (s : State) (c : CtxId) (f : Ctx → Ctx) : (s.modCtx c f).regions = s.regions := rfl
@[simp] theorem State.modCtx_nextKey (s : State) (c : CtxId) (f : Ctx → Ctx) : (s.modCtx c f).nextKey = s.nextKey := rfl
@[simp] theorem State.modCtx_detRec (s : State) (c : CtxId) (f : Ctx → Ctx) : (s.modCtx c f).detRec = s.detRec := rfl
@[simp] theorem State.modCtx_parks (s : State) (c : CtxId) (f : Ctx → Ctx) : (s.modCtx c f).parks = s.parks := rfl
@[simp] theorem State.modCtx_hostLines (s : State) (c : CtxId) (f : Ctx → Ctx) : (s.modCtx c f).hostLines = s.hostLines := rfl
@[simp] theorem State.modCtx_hostDirty (s : State) (c : CtxId) (f : Ctx → Ctx) : (s.modCtx c f).hostDirty = s.hostDirty := rfl
@[simp] theorem State.modCtx_stlb (s : State) (c : CtxId) (f : Ctx → Ctx) : (s.modCtx c f).stlb = s.stlb := rfl
@[simp] theorem State.modCtx_walks (s : State) (c : CtxId) (f : Ctx → Ctx) : (s.modCtx c f).walks = s.walks := rfl
@[simp] theorem State.modCtx_l2 (s : State) (c : CtxId) (f : Ctx → Ctx) : (s.modCtx c f).l2 = s.l2 := rfl
@[simp] theorem State.modCtx_group (s : State) (c : CtxId) (f : Ctx → Ctx) : (s.modCtx c f).group = s.group := rfl
@[simp] theorem State.modCtx_ownership (s : State) (c : CtxId) (f : Ctx → Ctx) : (s.modCtx c f).ownership = s.ownership := rfl
@[simp] theorem State.modCtx_parts (s : State) (c : CtxId) (f : Ctx → Ctx) : (s.modCtx c f).parts = s.parts := rfl
@[simp] theorem State.modCtx_gbars (s : State) (c : CtxId) (f : Ctx → Ctx) : (s.modCtx c f).gbars = s.gbars := rfl
@[simp] theorem State.modCtx_rings (s : State) (c : CtxId) (f : Ctx → Ctx) : (s.modCtx c f).rings = s.rings := rfl
@[simp] theorem State.modCtx_queues (s : State) (c : CtxId) (f : Ctx → Ctx) : (s.modCtx c f).queues = s.queues := rfl
@[simp] theorem State.modCtx_pours (s : State) (c : CtxId) (f : Ctx → Ctx) : (s.modCtx c f).pours = s.pours := rfl
@[simp] theorem State.modCtx_peerAcl (s : State) (c : CtxId) (f : Ctx → Ctx) : (s.modCtx c f).peerAcl = s.peerAcl := rfl
@[simp] theorem State.modCtx_ldRefusals (s : State) (c : CtxId) (f : Ctx → Ctx) : (s.modCtx c f).ldRefusals = s.ldRefusals := rfl
@[simp] theorem State.modCtx_errCounts (s : State) (c : CtxId) (f : Ctx → Ctx) : (s.modCtx c f).errCounts = s.errCounts := rfl
@[simp] theorem State.modCtx_errLogs (s : State) (c : CtxId) (f : Ctx → Ctx) : (s.modCtx c f).errLogs = s.errLogs := rfl
@[simp] theorem State.modCtx_badUnits (s : State) (c : CtxId) (f : Ctx → Ctx) : (s.modCtx c f).badUnits = s.badUnits := rfl
@[simp] theorem State.modCtx_softUnits (s : State) (c : CtxId) (f : Ctx → Ctx) : (s.modCtx c f).softUnits = s.softUnits := rfl
@[simp] theorem State.modCtx_strikes (s : State) (c : CtxId) (f : Ctx → Ctx) : (s.modCtx c f).strikes = s.strikes := rfl
@[simp] theorem State.modCtx_sec (s : State) (c : CtxId) (f : Ctx → Ctx) : (s.modCtx c f).sec = s.sec := rfl
@[simp] theorem State.modCtx_viral (s : State) (c : CtxId) (f : Ctx → Ctx) : (s.modCtx c f).viral = s.viral := rfl
@[simp] theorem State.modCtx_time (s : State) (c : CtxId) (f : Ctx → Ctx) : (s.modCtx c f).time = s.time := rfl
@[simp] theorem State.modCtx_devReset (s : State) (c : CtxId) (f : Ctx → Ctx) : (s.modCtx c f).devReset = s.devReset := rfl
@[simp] theorem State.modCtx_answers (s : State) (c : CtxId) (f : Ctx → Ctx) : (s.modCtx c f).answers = s.answers := rfl
@[simp] theorem State.modCtx_cur (s : State) (c : CtxId) (f : Ctx → Ctx) : (s.modCtx c f).cur = s.cur := rfl
@[simp] theorem State.modCtx_turn (s : State) (c : CtxId) (f : Ctx → Ctx) : (s.modCtx c f).turn = s.turn := rfl
@[simp] theorem State.modCtx_inputs (s : State) (c : CtxId) (f : Ctx → Ctx) : (s.modCtx c f).inputs = s.inputs := rfl
@[simp] theorem State.modCtx_sources (s : State) (c : CtxId) (f : Ctx → Ctx) : (s.modCtx c f).sources = s.sources := rfl
@[simp] theorem State.modCtx_fresh (s : State) (c : CtxId) (f : Ctx → Ctx) : (s.modCtx c f).fresh = s.fresh := rfl
@[simp] theorem State.modCtx_cycle (s : State) (c : CtxId) (f : Ctx → Ctx) : (s.modCtx c f).cycle = s.cycle := rfl

@[simp] theorem State.modPart_threads (s : State) (p : Nat) (f : Part → Part) : (s.modPart p f).threads = s.threads := rfl
@[simp] theorem State.modPart_nextThread (s : State) (p : Nat) (f : Part → Part) : (s.modPart p f).nextThread = s.nextThread := rfl
@[simp] theorem State.modPart_cores (s : State) (p : Nat) (f : Part → Part) : (s.modPart p f).cores = s.cores := rfl
@[simp] theorem State.modPart_svcs (s : State) (p : Nat) (f : Part → Part) : (s.modPart p f).svcs = s.svcs := rfl
@[simp] theorem State.modPart_mem (s : State) (p : Nat) (f : Part → Part) : (s.modPart p f).mem = s.mem := rfl
@[simp] theorem State.modPart_net (s : State) (p : Nat) (f : Part → Part) : (s.modPart p f).net = s.net := rfl
@[simp] theorem State.modPart_groups (s : State) (p : Nat) (f : Part → Part) : (s.modPart p f).groups = s.groups := rfl
@[simp] theorem State.modPart_nextId (s : State) (p : Nat) (f : Part → Part) : (s.modPart p f).nextId = s.nextId := rfl
@[simp] theorem State.modPart_regions (s : State) (p : Nat) (f : Part → Part) : (s.modPart p f).regions = s.regions := rfl
@[simp] theorem State.modPart_nextKey (s : State) (p : Nat) (f : Part → Part) : (s.modPart p f).nextKey = s.nextKey := rfl
@[simp] theorem State.modPart_detRec (s : State) (p : Nat) (f : Part → Part) : (s.modPart p f).detRec = s.detRec := rfl
@[simp] theorem State.modPart_parks (s : State) (p : Nat) (f : Part → Part) : (s.modPart p f).parks = s.parks := rfl
@[simp] theorem State.modPart_hostLines (s : State) (p : Nat) (f : Part → Part) : (s.modPart p f).hostLines = s.hostLines := rfl
@[simp] theorem State.modPart_hostDirty (s : State) (p : Nat) (f : Part → Part) : (s.modPart p f).hostDirty = s.hostDirty := rfl
@[simp] theorem State.modPart_stlb (s : State) (p : Nat) (f : Part → Part) : (s.modPart p f).stlb = s.stlb := rfl
@[simp] theorem State.modPart_walks (s : State) (p : Nat) (f : Part → Part) : (s.modPart p f).walks = s.walks := rfl
@[simp] theorem State.modPart_l2 (s : State) (p : Nat) (f : Part → Part) : (s.modPart p f).l2 = s.l2 := rfl
@[simp] theorem State.modPart_group (s : State) (p : Nat) (f : Part → Part) : (s.modPart p f).group = s.group := rfl
@[simp] theorem State.modPart_ownership (s : State) (p : Nat) (f : Part → Part) : (s.modPart p f).ownership = s.ownership := rfl
@[simp] theorem State.modPart_ctxs (s : State) (p : Nat) (f : Part → Part) : (s.modPart p f).ctxs = s.ctxs := rfl
@[simp] theorem State.modPart_gbars (s : State) (p : Nat) (f : Part → Part) : (s.modPart p f).gbars = s.gbars := rfl
@[simp] theorem State.modPart_rings (s : State) (p : Nat) (f : Part → Part) : (s.modPart p f).rings = s.rings := rfl
@[simp] theorem State.modPart_queues (s : State) (p : Nat) (f : Part → Part) : (s.modPart p f).queues = s.queues := rfl
@[simp] theorem State.modPart_pours (s : State) (p : Nat) (f : Part → Part) : (s.modPart p f).pours = s.pours := rfl
@[simp] theorem State.modPart_peerAcl (s : State) (p : Nat) (f : Part → Part) : (s.modPart p f).peerAcl = s.peerAcl := rfl
@[simp] theorem State.modPart_ldRefusals (s : State) (p : Nat) (f : Part → Part) : (s.modPart p f).ldRefusals = s.ldRefusals := rfl
@[simp] theorem State.modPart_errCounts (s : State) (p : Nat) (f : Part → Part) : (s.modPart p f).errCounts = s.errCounts := rfl
@[simp] theorem State.modPart_errLogs (s : State) (p : Nat) (f : Part → Part) : (s.modPart p f).errLogs = s.errLogs := rfl
@[simp] theorem State.modPart_badUnits (s : State) (p : Nat) (f : Part → Part) : (s.modPart p f).badUnits = s.badUnits := rfl
@[simp] theorem State.modPart_softUnits (s : State) (p : Nat) (f : Part → Part) : (s.modPart p f).softUnits = s.softUnits := rfl
@[simp] theorem State.modPart_strikes (s : State) (p : Nat) (f : Part → Part) : (s.modPart p f).strikes = s.strikes := rfl
@[simp] theorem State.modPart_sec (s : State) (p : Nat) (f : Part → Part) : (s.modPart p f).sec = s.sec := rfl
@[simp] theorem State.modPart_viral (s : State) (p : Nat) (f : Part → Part) : (s.modPart p f).viral = s.viral := rfl
@[simp] theorem State.modPart_time (s : State) (p : Nat) (f : Part → Part) : (s.modPart p f).time = s.time := rfl
@[simp] theorem State.modPart_devReset (s : State) (p : Nat) (f : Part → Part) : (s.modPart p f).devReset = s.devReset := rfl
@[simp] theorem State.modPart_answers (s : State) (p : Nat) (f : Part → Part) : (s.modPart p f).answers = s.answers := rfl
@[simp] theorem State.modPart_cur (s : State) (p : Nat) (f : Part → Part) : (s.modPart p f).cur = s.cur := rfl
@[simp] theorem State.modPart_turn (s : State) (p : Nat) (f : Part → Part) : (s.modPart p f).turn = s.turn := rfl
@[simp] theorem State.modPart_inputs (s : State) (p : Nat) (f : Part → Part) : (s.modPart p f).inputs = s.inputs := rfl
@[simp] theorem State.modPart_sources (s : State) (p : Nat) (f : Part → Part) : (s.modPart p f).sources = s.sources := rfl
@[simp] theorem State.modPart_fresh (s : State) (p : Nat) (f : Part → Part) : (s.modPart p f).fresh = s.fresh := rfl
@[simp] theorem State.modPart_cycle (s : State) (p : Nat) (f : Part → Part) : (s.modPart p f).cycle = s.cycle := rfl

@[simp] theorem State.modQueue_threads (s : State) (q : Nat) (f : Queue → Queue) : (s.modQueue q f).threads = s.threads := rfl
@[simp] theorem State.modQueue_nextThread (s : State) (q : Nat) (f : Queue → Queue) : (s.modQueue q f).nextThread = s.nextThread := rfl
@[simp] theorem State.modQueue_cores (s : State) (q : Nat) (f : Queue → Queue) : (s.modQueue q f).cores = s.cores := rfl
@[simp] theorem State.modQueue_svcs (s : State) (q : Nat) (f : Queue → Queue) : (s.modQueue q f).svcs = s.svcs := rfl
@[simp] theorem State.modQueue_mem (s : State) (q : Nat) (f : Queue → Queue) : (s.modQueue q f).mem = s.mem := rfl
@[simp] theorem State.modQueue_net (s : State) (q : Nat) (f : Queue → Queue) : (s.modQueue q f).net = s.net := rfl
@[simp] theorem State.modQueue_groups (s : State) (q : Nat) (f : Queue → Queue) : (s.modQueue q f).groups = s.groups := rfl
@[simp] theorem State.modQueue_nextId (s : State) (q : Nat) (f : Queue → Queue) : (s.modQueue q f).nextId = s.nextId := rfl
@[simp] theorem State.modQueue_regions (s : State) (q : Nat) (f : Queue → Queue) : (s.modQueue q f).regions = s.regions := rfl
@[simp] theorem State.modQueue_nextKey (s : State) (q : Nat) (f : Queue → Queue) : (s.modQueue q f).nextKey = s.nextKey := rfl
@[simp] theorem State.modQueue_detRec (s : State) (q : Nat) (f : Queue → Queue) : (s.modQueue q f).detRec = s.detRec := rfl
@[simp] theorem State.modQueue_parks (s : State) (q : Nat) (f : Queue → Queue) : (s.modQueue q f).parks = s.parks := rfl
@[simp] theorem State.modQueue_hostLines (s : State) (q : Nat) (f : Queue → Queue) : (s.modQueue q f).hostLines = s.hostLines := rfl
@[simp] theorem State.modQueue_hostDirty (s : State) (q : Nat) (f : Queue → Queue) : (s.modQueue q f).hostDirty = s.hostDirty := rfl
@[simp] theorem State.modQueue_stlb (s : State) (q : Nat) (f : Queue → Queue) : (s.modQueue q f).stlb = s.stlb := rfl
@[simp] theorem State.modQueue_walks (s : State) (q : Nat) (f : Queue → Queue) : (s.modQueue q f).walks = s.walks := rfl
@[simp] theorem State.modQueue_l2 (s : State) (q : Nat) (f : Queue → Queue) : (s.modQueue q f).l2 = s.l2 := rfl
@[simp] theorem State.modQueue_group (s : State) (q : Nat) (f : Queue → Queue) : (s.modQueue q f).group = s.group := rfl
@[simp] theorem State.modQueue_ownership (s : State) (q : Nat) (f : Queue → Queue) : (s.modQueue q f).ownership = s.ownership := rfl
@[simp] theorem State.modQueue_parts (s : State) (q : Nat) (f : Queue → Queue) : (s.modQueue q f).parts = s.parts := rfl
@[simp] theorem State.modQueue_ctxs (s : State) (q : Nat) (f : Queue → Queue) : (s.modQueue q f).ctxs = s.ctxs := rfl
@[simp] theorem State.modQueue_gbars (s : State) (q : Nat) (f : Queue → Queue) : (s.modQueue q f).gbars = s.gbars := rfl
@[simp] theorem State.modQueue_rings (s : State) (q : Nat) (f : Queue → Queue) : (s.modQueue q f).rings = s.rings := rfl
@[simp] theorem State.modQueue_pours (s : State) (q : Nat) (f : Queue → Queue) : (s.modQueue q f).pours = s.pours := rfl
@[simp] theorem State.modQueue_peerAcl (s : State) (q : Nat) (f : Queue → Queue) : (s.modQueue q f).peerAcl = s.peerAcl := rfl
@[simp] theorem State.modQueue_ldRefusals (s : State) (q : Nat) (f : Queue → Queue) : (s.modQueue q f).ldRefusals = s.ldRefusals := rfl
@[simp] theorem State.modQueue_errCounts (s : State) (q : Nat) (f : Queue → Queue) : (s.modQueue q f).errCounts = s.errCounts := rfl
@[simp] theorem State.modQueue_errLogs (s : State) (q : Nat) (f : Queue → Queue) : (s.modQueue q f).errLogs = s.errLogs := rfl
@[simp] theorem State.modQueue_badUnits (s : State) (q : Nat) (f : Queue → Queue) : (s.modQueue q f).badUnits = s.badUnits := rfl
@[simp] theorem State.modQueue_softUnits (s : State) (q : Nat) (f : Queue → Queue) : (s.modQueue q f).softUnits = s.softUnits := rfl
@[simp] theorem State.modQueue_strikes (s : State) (q : Nat) (f : Queue → Queue) : (s.modQueue q f).strikes = s.strikes := rfl
@[simp] theorem State.modQueue_sec (s : State) (q : Nat) (f : Queue → Queue) : (s.modQueue q f).sec = s.sec := rfl
@[simp] theorem State.modQueue_viral (s : State) (q : Nat) (f : Queue → Queue) : (s.modQueue q f).viral = s.viral := rfl
@[simp] theorem State.modQueue_time (s : State) (q : Nat) (f : Queue → Queue) : (s.modQueue q f).time = s.time := rfl
@[simp] theorem State.modQueue_devReset (s : State) (q : Nat) (f : Queue → Queue) : (s.modQueue q f).devReset = s.devReset := rfl
@[simp] theorem State.modQueue_answers (s : State) (q : Nat) (f : Queue → Queue) : (s.modQueue q f).answers = s.answers := rfl
@[simp] theorem State.modQueue_cur (s : State) (q : Nat) (f : Queue → Queue) : (s.modQueue q f).cur = s.cur := rfl
@[simp] theorem State.modQueue_turn (s : State) (q : Nat) (f : Queue → Queue) : (s.modQueue q f).turn = s.turn := rfl
@[simp] theorem State.modQueue_inputs (s : State) (q : Nat) (f : Queue → Queue) : (s.modQueue q f).inputs = s.inputs := rfl
@[simp] theorem State.modQueue_sources (s : State) (q : Nat) (f : Queue → Queue) : (s.modQueue q f).sources = s.sources := rfl
@[simp] theorem State.modQueue_fresh (s : State) (q : Nat) (f : Queue → Queue) : (s.modQueue q f).fresh = s.fresh := rfl
@[simp] theorem State.modQueue_cycle (s : State) (q : Nat) (f : Queue → Queue) : (s.modQueue q f).cycle = s.cycle := rfl

@[simp] theorem State.putBytes_threads (s : State) (a : Nat) (bs : List Byte) : (s.putBytes a bs).threads = s.threads := rfl
@[simp] theorem State.putBytes_nextThread (s : State) (a : Nat) (bs : List Byte) : (s.putBytes a bs).nextThread = s.nextThread := rfl
@[simp] theorem State.putBytes_cores (s : State) (a : Nat) (bs : List Byte) : (s.putBytes a bs).cores = s.cores := rfl
@[simp] theorem State.putBytes_svcs (s : State) (a : Nat) (bs : List Byte) : (s.putBytes a bs).svcs = s.svcs := rfl
@[simp] theorem State.putBytes_net (s : State) (a : Nat) (bs : List Byte) : (s.putBytes a bs).net = s.net := rfl
@[simp] theorem State.putBytes_groups (s : State) (a : Nat) (bs : List Byte) : (s.putBytes a bs).groups = s.groups := rfl
@[simp] theorem State.putBytes_nextId (s : State) (a : Nat) (bs : List Byte) : (s.putBytes a bs).nextId = s.nextId := rfl
@[simp] theorem State.putBytes_regions (s : State) (a : Nat) (bs : List Byte) : (s.putBytes a bs).regions = s.regions := rfl
@[simp] theorem State.putBytes_nextKey (s : State) (a : Nat) (bs : List Byte) : (s.putBytes a bs).nextKey = s.nextKey := rfl
@[simp] theorem State.putBytes_detRec (s : State) (a : Nat) (bs : List Byte) : (s.putBytes a bs).detRec = s.detRec := rfl
@[simp] theorem State.putBytes_parks (s : State) (a : Nat) (bs : List Byte) : (s.putBytes a bs).parks = s.parks := rfl
@[simp] theorem State.putBytes_hostLines (s : State) (a : Nat) (bs : List Byte) : (s.putBytes a bs).hostLines = s.hostLines := rfl
@[simp] theorem State.putBytes_hostDirty (s : State) (a : Nat) (bs : List Byte) : (s.putBytes a bs).hostDirty = s.hostDirty := rfl
@[simp] theorem State.putBytes_stlb (s : State) (a : Nat) (bs : List Byte) : (s.putBytes a bs).stlb = s.stlb := rfl
@[simp] theorem State.putBytes_walks (s : State) (a : Nat) (bs : List Byte) : (s.putBytes a bs).walks = s.walks := rfl
@[simp] theorem State.putBytes_l2 (s : State) (a : Nat) (bs : List Byte) : (s.putBytes a bs).l2 = s.l2 := rfl
@[simp] theorem State.putBytes_group (s : State) (a : Nat) (bs : List Byte) : (s.putBytes a bs).group = s.group := rfl
@[simp] theorem State.putBytes_ownership (s : State) (a : Nat) (bs : List Byte) : (s.putBytes a bs).ownership = s.ownership := rfl
@[simp] theorem State.putBytes_parts (s : State) (a : Nat) (bs : List Byte) : (s.putBytes a bs).parts = s.parts := rfl
@[simp] theorem State.putBytes_ctxs (s : State) (a : Nat) (bs : List Byte) : (s.putBytes a bs).ctxs = s.ctxs := rfl
@[simp] theorem State.putBytes_gbars (s : State) (a : Nat) (bs : List Byte) : (s.putBytes a bs).gbars = s.gbars := rfl
@[simp] theorem State.putBytes_rings (s : State) (a : Nat) (bs : List Byte) : (s.putBytes a bs).rings = s.rings := rfl
@[simp] theorem State.putBytes_queues (s : State) (a : Nat) (bs : List Byte) : (s.putBytes a bs).queues = s.queues := rfl
@[simp] theorem State.putBytes_pours (s : State) (a : Nat) (bs : List Byte) : (s.putBytes a bs).pours = s.pours := rfl
@[simp] theorem State.putBytes_peerAcl (s : State) (a : Nat) (bs : List Byte) : (s.putBytes a bs).peerAcl = s.peerAcl := rfl
@[simp] theorem State.putBytes_ldRefusals (s : State) (a : Nat) (bs : List Byte) : (s.putBytes a bs).ldRefusals = s.ldRefusals := rfl
@[simp] theorem State.putBytes_errCounts (s : State) (a : Nat) (bs : List Byte) : (s.putBytes a bs).errCounts = s.errCounts := rfl
@[simp] theorem State.putBytes_errLogs (s : State) (a : Nat) (bs : List Byte) : (s.putBytes a bs).errLogs = s.errLogs := rfl
@[simp] theorem State.putBytes_badUnits (s : State) (a : Nat) (bs : List Byte) : (s.putBytes a bs).badUnits = s.badUnits := rfl
@[simp] theorem State.putBytes_softUnits (s : State) (a : Nat) (bs : List Byte) : (s.putBytes a bs).softUnits = s.softUnits := rfl
@[simp] theorem State.putBytes_strikes (s : State) (a : Nat) (bs : List Byte) : (s.putBytes a bs).strikes = s.strikes := rfl
@[simp] theorem State.putBytes_sec (s : State) (a : Nat) (bs : List Byte) : (s.putBytes a bs).sec = s.sec := rfl
@[simp] theorem State.putBytes_viral (s : State) (a : Nat) (bs : List Byte) : (s.putBytes a bs).viral = s.viral := rfl
@[simp] theorem State.putBytes_time (s : State) (a : Nat) (bs : List Byte) : (s.putBytes a bs).time = s.time := rfl
@[simp] theorem State.putBytes_devReset (s : State) (a : Nat) (bs : List Byte) : (s.putBytes a bs).devReset = s.devReset := rfl
@[simp] theorem State.putBytes_answers (s : State) (a : Nat) (bs : List Byte) : (s.putBytes a bs).answers = s.answers := rfl
@[simp] theorem State.putBytes_cur (s : State) (a : Nat) (bs : List Byte) : (s.putBytes a bs).cur = s.cur := rfl
@[simp] theorem State.putBytes_turn (s : State) (a : Nat) (bs : List Byte) : (s.putBytes a bs).turn = s.turn := rfl
@[simp] theorem State.putBytes_inputs (s : State) (a : Nat) (bs : List Byte) : (s.putBytes a bs).inputs = s.inputs := rfl
@[simp] theorem State.putBytes_sources (s : State) (a : Nat) (bs : List Byte) : (s.putBytes a bs).sources = s.sources := rfl
@[simp] theorem State.putBytes_fresh (s : State) (a : Nat) (bs : List Byte) : (s.putBytes a bs).fresh = s.fresh := rfl
@[simp] theorem State.putBytes_cycle (s : State) (a : Nat) (bs : List Byte) : (s.putBytes a bs).cycle = s.cycle := rfl

@[simp] theorem State.putWord_threads (s : State) (a : Nat) (x : Word) : (s.putWord a x).threads = s.threads := rfl
@[simp] theorem State.putWord_nextThread (s : State) (a : Nat) (x : Word) : (s.putWord a x).nextThread = s.nextThread := rfl
@[simp] theorem State.putWord_cores (s : State) (a : Nat) (x : Word) : (s.putWord a x).cores = s.cores := rfl
@[simp] theorem State.putWord_svcs (s : State) (a : Nat) (x : Word) : (s.putWord a x).svcs = s.svcs := rfl
@[simp] theorem State.putWord_net (s : State) (a : Nat) (x : Word) : (s.putWord a x).net = s.net := rfl
@[simp] theorem State.putWord_groups (s : State) (a : Nat) (x : Word) : (s.putWord a x).groups = s.groups := rfl
@[simp] theorem State.putWord_nextId (s : State) (a : Nat) (x : Word) : (s.putWord a x).nextId = s.nextId := rfl
@[simp] theorem State.putWord_regions (s : State) (a : Nat) (x : Word) : (s.putWord a x).regions = s.regions := rfl
@[simp] theorem State.putWord_nextKey (s : State) (a : Nat) (x : Word) : (s.putWord a x).nextKey = s.nextKey := rfl
@[simp] theorem State.putWord_detRec (s : State) (a : Nat) (x : Word) : (s.putWord a x).detRec = s.detRec := rfl
@[simp] theorem State.putWord_parks (s : State) (a : Nat) (x : Word) : (s.putWord a x).parks = s.parks := rfl
@[simp] theorem State.putWord_hostLines (s : State) (a : Nat) (x : Word) : (s.putWord a x).hostLines = s.hostLines := rfl
@[simp] theorem State.putWord_hostDirty (s : State) (a : Nat) (x : Word) : (s.putWord a x).hostDirty = s.hostDirty := rfl
@[simp] theorem State.putWord_stlb (s : State) (a : Nat) (x : Word) : (s.putWord a x).stlb = s.stlb := rfl
@[simp] theorem State.putWord_walks (s : State) (a : Nat) (x : Word) : (s.putWord a x).walks = s.walks := rfl
@[simp] theorem State.putWord_l2 (s : State) (a : Nat) (x : Word) : (s.putWord a x).l2 = s.l2 := rfl
@[simp] theorem State.putWord_group (s : State) (a : Nat) (x : Word) : (s.putWord a x).group = s.group := rfl
@[simp] theorem State.putWord_ownership (s : State) (a : Nat) (x : Word) : (s.putWord a x).ownership = s.ownership := rfl
@[simp] theorem State.putWord_parts (s : State) (a : Nat) (x : Word) : (s.putWord a x).parts = s.parts := rfl
@[simp] theorem State.putWord_ctxs (s : State) (a : Nat) (x : Word) : (s.putWord a x).ctxs = s.ctxs := rfl
@[simp] theorem State.putWord_gbars (s : State) (a : Nat) (x : Word) : (s.putWord a x).gbars = s.gbars := rfl
@[simp] theorem State.putWord_rings (s : State) (a : Nat) (x : Word) : (s.putWord a x).rings = s.rings := rfl
@[simp] theorem State.putWord_queues (s : State) (a : Nat) (x : Word) : (s.putWord a x).queues = s.queues := rfl
@[simp] theorem State.putWord_pours (s : State) (a : Nat) (x : Word) : (s.putWord a x).pours = s.pours := rfl
@[simp] theorem State.putWord_peerAcl (s : State) (a : Nat) (x : Word) : (s.putWord a x).peerAcl = s.peerAcl := rfl
@[simp] theorem State.putWord_ldRefusals (s : State) (a : Nat) (x : Word) : (s.putWord a x).ldRefusals = s.ldRefusals := rfl
@[simp] theorem State.putWord_errCounts (s : State) (a : Nat) (x : Word) : (s.putWord a x).errCounts = s.errCounts := rfl
@[simp] theorem State.putWord_errLogs (s : State) (a : Nat) (x : Word) : (s.putWord a x).errLogs = s.errLogs := rfl
@[simp] theorem State.putWord_badUnits (s : State) (a : Nat) (x : Word) : (s.putWord a x).badUnits = s.badUnits := rfl
@[simp] theorem State.putWord_softUnits (s : State) (a : Nat) (x : Word) : (s.putWord a x).softUnits = s.softUnits := rfl
@[simp] theorem State.putWord_strikes (s : State) (a : Nat) (x : Word) : (s.putWord a x).strikes = s.strikes := rfl
@[simp] theorem State.putWord_sec (s : State) (a : Nat) (x : Word) : (s.putWord a x).sec = s.sec := rfl
@[simp] theorem State.putWord_viral (s : State) (a : Nat) (x : Word) : (s.putWord a x).viral = s.viral := rfl
@[simp] theorem State.putWord_time (s : State) (a : Nat) (x : Word) : (s.putWord a x).time = s.time := rfl
@[simp] theorem State.putWord_devReset (s : State) (a : Nat) (x : Word) : (s.putWord a x).devReset = s.devReset := rfl
@[simp] theorem State.putWord_answers (s : State) (a : Nat) (x : Word) : (s.putWord a x).answers = s.answers := rfl
@[simp] theorem State.putWord_cur (s : State) (a : Nat) (x : Word) : (s.putWord a x).cur = s.cur := rfl
@[simp] theorem State.putWord_turn (s : State) (a : Nat) (x : Word) : (s.putWord a x).turn = s.turn := rfl
@[simp] theorem State.putWord_inputs (s : State) (a : Nat) (x : Word) : (s.putWord a x).inputs = s.inputs := rfl
@[simp] theorem State.putWord_sources (s : State) (a : Nat) (x : Word) : (s.putWord a x).sources = s.sources := rfl
@[simp] theorem State.putWord_fresh (s : State) (a : Nat) (x : Word) : (s.putWord a x).fresh = s.fresh := rfl
@[simp] theorem State.putWord_cycle (s : State) (a : Nat) (x : Word) : (s.putWord a x).cycle = s.cycle := rfl

@[simp] theorem State.setG_nextThread (s : State) (r : BitVec 5) (x : Word) : (s.setG r x).nextThread = s.nextThread := rfl
@[simp] theorem State.setG_cores (s : State) (r : BitVec 5) (x : Word) : (s.setG r x).cores = s.cores := rfl
@[simp] theorem State.setG_svcs (s : State) (r : BitVec 5) (x : Word) : (s.setG r x).svcs = s.svcs := rfl
@[simp] theorem State.setG_mem (s : State) (r : BitVec 5) (x : Word) : (s.setG r x).mem = s.mem := rfl
@[simp] theorem State.setG_net (s : State) (r : BitVec 5) (x : Word) : (s.setG r x).net = s.net := rfl
@[simp] theorem State.setG_groups (s : State) (r : BitVec 5) (x : Word) : (s.setG r x).groups = s.groups := rfl
@[simp] theorem State.setG_nextId (s : State) (r : BitVec 5) (x : Word) : (s.setG r x).nextId = s.nextId := rfl
@[simp] theorem State.setG_regions (s : State) (r : BitVec 5) (x : Word) : (s.setG r x).regions = s.regions := rfl
@[simp] theorem State.setG_nextKey (s : State) (r : BitVec 5) (x : Word) : (s.setG r x).nextKey = s.nextKey := rfl
@[simp] theorem State.setG_detRec (s : State) (r : BitVec 5) (x : Word) : (s.setG r x).detRec = s.detRec := rfl
@[simp] theorem State.setG_parks (s : State) (r : BitVec 5) (x : Word) : (s.setG r x).parks = s.parks := rfl
@[simp] theorem State.setG_hostLines (s : State) (r : BitVec 5) (x : Word) : (s.setG r x).hostLines = s.hostLines := rfl
@[simp] theorem State.setG_hostDirty (s : State) (r : BitVec 5) (x : Word) : (s.setG r x).hostDirty = s.hostDirty := rfl
@[simp] theorem State.setG_stlb (s : State) (r : BitVec 5) (x : Word) : (s.setG r x).stlb = s.stlb := rfl
@[simp] theorem State.setG_walks (s : State) (r : BitVec 5) (x : Word) : (s.setG r x).walks = s.walks := rfl
@[simp] theorem State.setG_l2 (s : State) (r : BitVec 5) (x : Word) : (s.setG r x).l2 = s.l2 := rfl
@[simp] theorem State.setG_group (s : State) (r : BitVec 5) (x : Word) : (s.setG r x).group = s.group := rfl
@[simp] theorem State.setG_ownership (s : State) (r : BitVec 5) (x : Word) : (s.setG r x).ownership = s.ownership := rfl
@[simp] theorem State.setG_parts (s : State) (r : BitVec 5) (x : Word) : (s.setG r x).parts = s.parts := rfl
@[simp] theorem State.setG_ctxs (s : State) (r : BitVec 5) (x : Word) : (s.setG r x).ctxs = s.ctxs := rfl
@[simp] theorem State.setG_gbars (s : State) (r : BitVec 5) (x : Word) : (s.setG r x).gbars = s.gbars := rfl
@[simp] theorem State.setG_rings (s : State) (r : BitVec 5) (x : Word) : (s.setG r x).rings = s.rings := rfl
@[simp] theorem State.setG_queues (s : State) (r : BitVec 5) (x : Word) : (s.setG r x).queues = s.queues := rfl
@[simp] theorem State.setG_pours (s : State) (r : BitVec 5) (x : Word) : (s.setG r x).pours = s.pours := rfl
@[simp] theorem State.setG_peerAcl (s : State) (r : BitVec 5) (x : Word) : (s.setG r x).peerAcl = s.peerAcl := rfl
@[simp] theorem State.setG_ldRefusals (s : State) (r : BitVec 5) (x : Word) : (s.setG r x).ldRefusals = s.ldRefusals := rfl
@[simp] theorem State.setG_errCounts (s : State) (r : BitVec 5) (x : Word) : (s.setG r x).errCounts = s.errCounts := rfl
@[simp] theorem State.setG_errLogs (s : State) (r : BitVec 5) (x : Word) : (s.setG r x).errLogs = s.errLogs := rfl
@[simp] theorem State.setG_badUnits (s : State) (r : BitVec 5) (x : Word) : (s.setG r x).badUnits = s.badUnits := rfl
@[simp] theorem State.setG_softUnits (s : State) (r : BitVec 5) (x : Word) : (s.setG r x).softUnits = s.softUnits := rfl
@[simp] theorem State.setG_strikes (s : State) (r : BitVec 5) (x : Word) : (s.setG r x).strikes = s.strikes := rfl
@[simp] theorem State.setG_sec (s : State) (r : BitVec 5) (x : Word) : (s.setG r x).sec = s.sec := rfl
@[simp] theorem State.setG_viral (s : State) (r : BitVec 5) (x : Word) : (s.setG r x).viral = s.viral := rfl
@[simp] theorem State.setG_time (s : State) (r : BitVec 5) (x : Word) : (s.setG r x).time = s.time := rfl
@[simp] theorem State.setG_devReset (s : State) (r : BitVec 5) (x : Word) : (s.setG r x).devReset = s.devReset := rfl
@[simp] theorem State.setG_answers (s : State) (r : BitVec 5) (x : Word) : (s.setG r x).answers = s.answers := rfl
@[simp] theorem State.setG_cur (s : State) (r : BitVec 5) (x : Word) : (s.setG r x).cur = s.cur := rfl
@[simp] theorem State.setG_turn (s : State) (r : BitVec 5) (x : Word) : (s.setG r x).turn = s.turn := rfl
@[simp] theorem State.setG_inputs (s : State) (r : BitVec 5) (x : Word) : (s.setG r x).inputs = s.inputs := rfl
@[simp] theorem State.setG_sources (s : State) (r : BitVec 5) (x : Word) : (s.setG r x).sources = s.sources := rfl
@[simp] theorem State.setG_fresh (s : State) (r : BitVec 5) (x : Word) : (s.setG r x).fresh = s.fresh := rfl
@[simp] theorem State.setG_cycle (s : State) (r : BitVec 5) (x : Word) : (s.setG r x).cycle = s.cycle := rfl

@[simp] theorem State.setP_nextThread (s : State) (r : BitVec 3) (b : Bool) : (s.setP r b).nextThread = s.nextThread := rfl
@[simp] theorem State.setP_cores (s : State) (r : BitVec 3) (b : Bool) : (s.setP r b).cores = s.cores := rfl
@[simp] theorem State.setP_svcs (s : State) (r : BitVec 3) (b : Bool) : (s.setP r b).svcs = s.svcs := rfl
@[simp] theorem State.setP_mem (s : State) (r : BitVec 3) (b : Bool) : (s.setP r b).mem = s.mem := rfl
@[simp] theorem State.setP_net (s : State) (r : BitVec 3) (b : Bool) : (s.setP r b).net = s.net := rfl
@[simp] theorem State.setP_groups (s : State) (r : BitVec 3) (b : Bool) : (s.setP r b).groups = s.groups := rfl
@[simp] theorem State.setP_nextId (s : State) (r : BitVec 3) (b : Bool) : (s.setP r b).nextId = s.nextId := rfl
@[simp] theorem State.setP_regions (s : State) (r : BitVec 3) (b : Bool) : (s.setP r b).regions = s.regions := rfl
@[simp] theorem State.setP_nextKey (s : State) (r : BitVec 3) (b : Bool) : (s.setP r b).nextKey = s.nextKey := rfl
@[simp] theorem State.setP_detRec (s : State) (r : BitVec 3) (b : Bool) : (s.setP r b).detRec = s.detRec := rfl
@[simp] theorem State.setP_parks (s : State) (r : BitVec 3) (b : Bool) : (s.setP r b).parks = s.parks := rfl
@[simp] theorem State.setP_hostLines (s : State) (r : BitVec 3) (b : Bool) : (s.setP r b).hostLines = s.hostLines := rfl
@[simp] theorem State.setP_hostDirty (s : State) (r : BitVec 3) (b : Bool) : (s.setP r b).hostDirty = s.hostDirty := rfl
@[simp] theorem State.setP_stlb (s : State) (r : BitVec 3) (b : Bool) : (s.setP r b).stlb = s.stlb := rfl
@[simp] theorem State.setP_walks (s : State) (r : BitVec 3) (b : Bool) : (s.setP r b).walks = s.walks := rfl
@[simp] theorem State.setP_l2 (s : State) (r : BitVec 3) (b : Bool) : (s.setP r b).l2 = s.l2 := rfl
@[simp] theorem State.setP_group (s : State) (r : BitVec 3) (b : Bool) : (s.setP r b).group = s.group := rfl
@[simp] theorem State.setP_ownership (s : State) (r : BitVec 3) (b : Bool) : (s.setP r b).ownership = s.ownership := rfl
@[simp] theorem State.setP_parts (s : State) (r : BitVec 3) (b : Bool) : (s.setP r b).parts = s.parts := rfl
@[simp] theorem State.setP_ctxs (s : State) (r : BitVec 3) (b : Bool) : (s.setP r b).ctxs = s.ctxs := rfl
@[simp] theorem State.setP_gbars (s : State) (r : BitVec 3) (b : Bool) : (s.setP r b).gbars = s.gbars := rfl
@[simp] theorem State.setP_rings (s : State) (r : BitVec 3) (b : Bool) : (s.setP r b).rings = s.rings := rfl
@[simp] theorem State.setP_queues (s : State) (r : BitVec 3) (b : Bool) : (s.setP r b).queues = s.queues := rfl
@[simp] theorem State.setP_pours (s : State) (r : BitVec 3) (b : Bool) : (s.setP r b).pours = s.pours := rfl
@[simp] theorem State.setP_peerAcl (s : State) (r : BitVec 3) (b : Bool) : (s.setP r b).peerAcl = s.peerAcl := rfl
@[simp] theorem State.setP_ldRefusals (s : State) (r : BitVec 3) (b : Bool) : (s.setP r b).ldRefusals = s.ldRefusals := rfl
@[simp] theorem State.setP_errCounts (s : State) (r : BitVec 3) (b : Bool) : (s.setP r b).errCounts = s.errCounts := rfl
@[simp] theorem State.setP_errLogs (s : State) (r : BitVec 3) (b : Bool) : (s.setP r b).errLogs = s.errLogs := rfl
@[simp] theorem State.setP_badUnits (s : State) (r : BitVec 3) (b : Bool) : (s.setP r b).badUnits = s.badUnits := rfl
@[simp] theorem State.setP_softUnits (s : State) (r : BitVec 3) (b : Bool) : (s.setP r b).softUnits = s.softUnits := rfl
@[simp] theorem State.setP_strikes (s : State) (r : BitVec 3) (b : Bool) : (s.setP r b).strikes = s.strikes := rfl
@[simp] theorem State.setP_sec (s : State) (r : BitVec 3) (b : Bool) : (s.setP r b).sec = s.sec := rfl
@[simp] theorem State.setP_viral (s : State) (r : BitVec 3) (b : Bool) : (s.setP r b).viral = s.viral := rfl
@[simp] theorem State.setP_time (s : State) (r : BitVec 3) (b : Bool) : (s.setP r b).time = s.time := rfl
@[simp] theorem State.setP_devReset (s : State) (r : BitVec 3) (b : Bool) : (s.setP r b).devReset = s.devReset := rfl
@[simp] theorem State.setP_answers (s : State) (r : BitVec 3) (b : Bool) : (s.setP r b).answers = s.answers := rfl
@[simp] theorem State.setP_cur (s : State) (r : BitVec 3) (b : Bool) : (s.setP r b).cur = s.cur := rfl
@[simp] theorem State.setP_turn (s : State) (r : BitVec 3) (b : Bool) : (s.setP r b).turn = s.turn := rfl
@[simp] theorem State.setP_inputs (s : State) (r : BitVec 3) (b : Bool) : (s.setP r b).inputs = s.inputs := rfl
@[simp] theorem State.setP_sources (s : State) (r : BitVec 3) (b : Bool) : (s.setP r b).sources = s.sources := rfl
@[simp] theorem State.setP_fresh (s : State) (r : BitVec 3) (b : Bool) : (s.setP r b).fresh = s.fresh := rfl
@[simp] theorem State.setP_cycle (s : State) (r : BitVec 3) (b : Bool) : (s.setP r b).cycle = s.cycle := rfl

@[simp] theorem State.count_nextThread (s : State) (c : Ctr) (n : Nat) : (s.count c n).nextThread = s.nextThread := rfl
@[simp] theorem State.count_cores (s : State) (c : Ctr) (n : Nat) : (s.count c n).cores = s.cores := rfl
@[simp] theorem State.count_svcs (s : State) (c : Ctr) (n : Nat) : (s.count c n).svcs = s.svcs := rfl
@[simp] theorem State.count_mem (s : State) (c : Ctr) (n : Nat) : (s.count c n).mem = s.mem := rfl
@[simp] theorem State.count_net (s : State) (c : Ctr) (n : Nat) : (s.count c n).net = s.net := rfl
@[simp] theorem State.count_groups (s : State) (c : Ctr) (n : Nat) : (s.count c n).groups = s.groups := rfl
@[simp] theorem State.count_nextId (s : State) (c : Ctr) (n : Nat) : (s.count c n).nextId = s.nextId := rfl
@[simp] theorem State.count_regions (s : State) (c : Ctr) (n : Nat) : (s.count c n).regions = s.regions := rfl
@[simp] theorem State.count_nextKey (s : State) (c : Ctr) (n : Nat) : (s.count c n).nextKey = s.nextKey := rfl
@[simp] theorem State.count_detRec (s : State) (c : Ctr) (n : Nat) : (s.count c n).detRec = s.detRec := rfl
@[simp] theorem State.count_parks (s : State) (c : Ctr) (n : Nat) : (s.count c n).parks = s.parks := rfl
@[simp] theorem State.count_hostLines (s : State) (c : Ctr) (n : Nat) : (s.count c n).hostLines = s.hostLines := rfl
@[simp] theorem State.count_hostDirty (s : State) (c : Ctr) (n : Nat) : (s.count c n).hostDirty = s.hostDirty := rfl
@[simp] theorem State.count_stlb (s : State) (c : Ctr) (n : Nat) : (s.count c n).stlb = s.stlb := rfl
@[simp] theorem State.count_walks (s : State) (c : Ctr) (n : Nat) : (s.count c n).walks = s.walks := rfl
@[simp] theorem State.count_l2 (s : State) (c : Ctr) (n : Nat) : (s.count c n).l2 = s.l2 := rfl
@[simp] theorem State.count_group (s : State) (c : Ctr) (n : Nat) : (s.count c n).group = s.group := rfl
@[simp] theorem State.count_ownership (s : State) (c : Ctr) (n : Nat) : (s.count c n).ownership = s.ownership := rfl
@[simp] theorem State.count_parts (s : State) (c : Ctr) (n : Nat) : (s.count c n).parts = s.parts := rfl
@[simp] theorem State.count_ctxs (s : State) (c : Ctr) (n : Nat) : (s.count c n).ctxs = s.ctxs := rfl
@[simp] theorem State.count_gbars (s : State) (c : Ctr) (n : Nat) : (s.count c n).gbars = s.gbars := rfl
@[simp] theorem State.count_rings (s : State) (c : Ctr) (n : Nat) : (s.count c n).rings = s.rings := rfl
@[simp] theorem State.count_queues (s : State) (c : Ctr) (n : Nat) : (s.count c n).queues = s.queues := rfl
@[simp] theorem State.count_pours (s : State) (c : Ctr) (n : Nat) : (s.count c n).pours = s.pours := rfl
@[simp] theorem State.count_peerAcl (s : State) (c : Ctr) (n : Nat) : (s.count c n).peerAcl = s.peerAcl := rfl
@[simp] theorem State.count_ldRefusals (s : State) (c : Ctr) (n : Nat) : (s.count c n).ldRefusals = s.ldRefusals := rfl
@[simp] theorem State.count_errCounts (s : State) (c : Ctr) (n : Nat) : (s.count c n).errCounts = s.errCounts := rfl
@[simp] theorem State.count_errLogs (s : State) (c : Ctr) (n : Nat) : (s.count c n).errLogs = s.errLogs := rfl
@[simp] theorem State.count_badUnits (s : State) (c : Ctr) (n : Nat) : (s.count c n).badUnits = s.badUnits := rfl
@[simp] theorem State.count_softUnits (s : State) (c : Ctr) (n : Nat) : (s.count c n).softUnits = s.softUnits := rfl
@[simp] theorem State.count_strikes (s : State) (c : Ctr) (n : Nat) : (s.count c n).strikes = s.strikes := rfl
@[simp] theorem State.count_sec (s : State) (c : Ctr) (n : Nat) : (s.count c n).sec = s.sec := rfl
@[simp] theorem State.count_viral (s : State) (c : Ctr) (n : Nat) : (s.count c n).viral = s.viral := rfl
@[simp] theorem State.count_time (s : State) (c : Ctr) (n : Nat) : (s.count c n).time = s.time := rfl
@[simp] theorem State.count_devReset (s : State) (c : Ctr) (n : Nat) : (s.count c n).devReset = s.devReset := rfl
@[simp] theorem State.count_answers (s : State) (c : Ctr) (n : Nat) : (s.count c n).answers = s.answers := rfl
@[simp] theorem State.count_cur (s : State) (c : Ctr) (n : Nat) : (s.count c n).cur = s.cur := rfl
@[simp] theorem State.count_turn (s : State) (c : Ctr) (n : Nat) : (s.count c n).turn = s.turn := rfl
@[simp] theorem State.count_inputs (s : State) (c : Ctr) (n : Nat) : (s.count c n).inputs = s.inputs := rfl
@[simp] theorem State.count_sources (s : State) (c : Ctr) (n : Nat) : (s.count c n).sources = s.sources := rfl
@[simp] theorem State.count_fresh (s : State) (c : Ctr) (n : Nat) : (s.count c n).fresh = s.fresh := rfl
@[simp] theorem State.count_cycle (s : State) (c : Ctr) (n : Nat) : (s.count c n).cycle = s.cycle := rfl

/-! ## Threads -/

@[simp] theorem Thread.setV_g (x0 : Thread) (r : BitVec 4) (x : BitVec 128) (tag : BitVec 4) : (x0.setV r x tag).g = x0.g := rfl
@[simp] theorem Thread.setV_p (x0 : Thread) (r : BitVec 4) (x : BitVec 128) (tag : BitVec 4) : (x0.setV r x tag).p = x0.p := rfl
@[simp] theorem Thread.setV_ras (x0 : Thread) (r : BitVec 4) (x : BitVec 128) (tag : BitVec 4) : (x0.setV r x tag).ras = x0.ras := rfl
@[simp] theorem Thread.setV_pc (x0 : Thread) (r : BitVec 4) (x : BitVec 128) (tag : BitVec 4) : (x0.setV r x tag).pc = x0.pc := rfl
@[simp] theorem Thread.setV_status (x0 : Thread) (r : BitVec 4) (x : BitVec 128) (tag : BitVec 4) : (x0.setV r x tag).status = x0.status := rfl
@[simp] theorem Thread.setV_fcsr (x0 : Thread) (r : BitVec 4) (x : BitVec 128) (tag : BitVec 4) : (x0.setV r x tag).fcsr = x0.fcsr := rfl
@[simp] theorem Thread.setV_rsp (x0 : Thread) (r : BitVec 4) (x : BitVec 128) (tag : BitVec 4) : (x0.setV r x tag).rsp = x0.rsp := rfl
@[simp] theorem Thread.setV_rspb (x0 : Thread) (r : BitVec 4) (x : BitVec 128) (tag : BitVec 4) : (x0.setV r x tag).rspb = x0.rspb := rfl
@[simp] theorem Thread.setV_detid (x0 : Thread) (r : BitVec 4) (x : BitVec 128) (tag : BitVec 4) : (x0.setV r x tag).detid = x0.detid := rfl
@[simp] theorem Thread.setV_lc (x0 : Thread) (r : BitVec 4) (x : BitVec 128) (tag : BitVec 4) : (x0.setV r x tag).lc = x0.lc := rfl
@[simp] theorem Thread.setV_lbeg (x0 : Thread) (r : BitVec 4) (x : BitVec 128) (tag : BitVec 4) : (x0.setV r x tag).lbeg = x0.lbeg := rfl
@[simp] theorem Thread.setV_lend (x0 : Thread) (r : BitVec 4) (x : BitVec 128) (tag : BitVec 4) : (x0.setV r x tag).lend = x0.lend := rfl
@[simp] theorem Thread.setV_tid (x0 : Thread) (r : BitVec 4) (x : BitVec 128) (tag : BitVec 4) : (x0.setV r x tag).tid = x0.tid := rfl
@[simp] theorem Thread.setV_pour (x0 : Thread) (r : BitVec 4) (x : BitVec 128) (tag : BitVec 4) : (x0.setV r x tag).pour = x0.pour := rfl
@[simp] theorem Thread.setV_cnv (x0 : Thread) (r : BitVec 4) (x : BitVec 128) (tag : BitVec 4) : (x0.setV r x tag).cnv = x0.cnv := rfl
@[simp] theorem Thread.setV_tm (x0 : Thread) (r : BitVec 4) (x : BitVec 128) (tag : BitVec 4) : (x0.setV r x tag).tm = x0.tm := rfl
@[simp] theorem Thread.setV_tmDesc (x0 : Thread) (r : BitVec 4) (x : BitVec 128) (tag : BitVec 4) : (x0.setV r x tag).tmDesc = x0.tmDesc := rfl
@[simp] theorem Thread.setV_frames (x0 : Thread) (r : BitVec 4) (x : BitVec 128) (tag : BitVec 4) : (x0.setV r x tag).frames = x0.frames := rfl
@[simp] theorem Thread.setV_tvec (x0 : Thread) (r : BitVec 4) (x : BitVec 128) (tag : BitVec 4) : (x0.setV r x tag).tvec = x0.tvec := rfl
@[simp] theorem Thread.setV_tdeleg (x0 : Thread) (r : BitVec 4) (x : BitVec 128) (tag : BitVec 4) : (x0.setV r x tag).tdeleg = x0.tdeleg := rfl
@[simp] theorem Thread.setV_ld (x0 : Thread) (r : BitVec 4) (x : BitVec 128) (tag : BitVec 4) : (x0.setV r x tag).ld = x0.ld := rfl
@[simp] theorem Thread.setV_st (x0 : Thread) (r : BitVec 4) (x : BitVec 128) (tag : BitVec 4) : (x0.setV r x tag).st = x0.st := rfl
@[simp] theorem Thread.setV_cp (x0 : Thread) (r : BitVec 4) (x : BitVec 128) (tag : BitVec 4) : (x0.setV r x tag).cp = x0.cp := rfl
@[simp] theorem Thread.setV_mx (x0 : Thread) (r : BitVec 4) (x : BitVec 128) (tag : BitVec 4) : (x0.setV r x tag).mx = x0.mx := rfl
@[simp] theorem Thread.setV_ms (x0 : Thread) (r : BitVec 4) (x : BitVec 128) (tag : BitVec 4) : (x0.setV r x tag).ms = x0.ms := rfl
@[simp] theorem Thread.setV_pendG (x0 : Thread) (r : BitVec 4) (x : BitVec 128) (tag : BitVec 4) : (x0.setV r x tag).pendG = x0.pendG := rfl
@[simp] theorem Thread.setV_pendV (x0 : Thread) (r : BitVec 4) (x : BitVec 128) (tag : BitVec 4) : (x0.setV r x tag).pendV = x0.pendV := rfl
@[simp] theorem Thread.setV_loads (x0 : Thread) (r : BitVec 4) (x : BitVec 128) (tag : BitVec 4) : (x0.setV r x tag).loads = x0.loads := rfl
@[simp] theorem Thread.setV_hold (x0 : Thread) (r : BitVec 4) (x : BitVec 128) (tag : BitVec 4) : (x0.setV r x tag).hold = x0.hold := rfl
@[simp] theorem Thread.setV_refusal (x0 : Thread) (r : BitVec 4) (x : BitVec 128) (tag : BitVec 4) : (x0.setV r x tag).refusal = x0.refusal := rfl
@[simp] theorem Thread.setV_copyFault (x0 : Thread) (r : BitVec 4) (x : BitVec 128) (tag : BitVec 4) : (x0.setV r x tag).copyFault = x0.copyFault := rfl
@[simp] theorem Thread.setV_msgGone (x0 : Thread) (r : BitVec 4) (x : BitVec 128) (tag : BitVec 4) : (x0.setV r x tag).msgGone = x0.msgGone := rfl
@[simp] theorem Thread.setV_fetchMiss (x0 : Thread) (r : BitVec 4) (x : BitVec 128) (tag : BitVec 4) : (x0.setV r x tag).fetchMiss = x0.fetchMiss := rfl
@[simp] theorem Thread.setV_image (x0 : Thread) (r : BitVec 4) (x : BitVec 128) (tag : BitVec 4) : (x0.setV r x tag).image = x0.image := rfl
@[simp] theorem Thread.setV_imagePa (x0 : Thread) (r : BitVec 4) (x : BitVec 128) (tag : BitVec 4) : (x0.setV r x tag).imagePa = x0.imagePa := rfl
@[simp] theorem Thread.setV_rosterPa (x0 : Thread) (r : BitVec 4) (x : BitVec 128) (tag : BitVec 4) : (x0.setV r x tag).rosterPa = x0.rosterPa := rfl
@[simp] theorem Thread.setV_ctx (x0 : Thread) (r : BitVec 4) (x : BitVec 128) (tag : BitVec 4) : (x0.setV r x tag).ctx = x0.ctx := rfl
@[simp] theorem Thread.setV_core (x0 : Thread) (r : BitVec 4) (x : BitVec 128) (tag : BitVec 4) : (x0.setV r x tag).core = x0.core := rfl
@[simp] theorem Thread.setV_queue (x0 : Thread) (r : BitVec 4) (x : BitVec 128) (tag : BitVec 4) : (x0.setV r x tag).queue = x0.queue := rfl
@[simp] theorem Thread.setV_pinned (x0 : Thread) (r : BitVec 4) (x : BitVec 128) (tag : BitVec 4) : (x0.setV r x tag).pinned = x0.pinned := rfl
@[simp] theorem Thread.setV_osThread (x0 : Thread) (r : BitVec 4) (x : BitVec 128) (tag : BitVec 4) : (x0.setV r x tag).osThread = x0.osThread := rfl
@[simp] theorem Thread.setV_place (x0 : Thread) (r : BitVec 4) (x : BitVec 128) (tag : BitVec 4) : (x0.setV r x tag).place = x0.place := rfl
@[simp] theorem Thread.setV_park (x0 : Thread) (r : BitVec 4) (x : BitVec 128) (tag : BitVec 4) : (x0.setV r x tag).park = x0.park := rfl
@[simp] theorem Thread.setV_parkedAt (x0 : Thread) (r : BitVec 4) (x : BitVec 128) (tag : BitVec 4) : (x0.setV r x tag).parkedAt = x0.parkedAt := rfl
@[simp] theorem Thread.setV_woken (x0 : Thread) (r : BitVec 4) (x : BitVec 128) (tag : BitVec 4) : (x0.setV r x tag).woken = x0.woken := rfl
@[simp] theorem Thread.setV_stalled (x0 : Thread) (r : BitVec 4) (x : BitVec 128) (tag : BitVec 4) : (x0.setV r x tag).stalled = x0.stalled := rfl
@[simp] theorem Thread.setV_lastIssue (x0 : Thread) (r : BitVec 4) (x : BitVec 128) (tag : BitVec 4) : (x0.setV r x tag).lastIssue = x0.lastIssue := rfl
@[simp] theorem Thread.setV_joinedAt (x0 : Thread) (r : BitVec 4) (x : BitVec 128) (tag : BitVec 4) : (x0.setV r x tag).joinedAt = x0.joinedAt := rfl
@[simp] theorem Thread.setV_issuedNow (x0 : Thread) (r : BitVec 4) (x : BitVec 128) (tag : BitVec 4) : (x0.setV r x tag).issuedNow = x0.issuedNow := rfl
@[simp] theorem Thread.setV_debugHalt (x0 : Thread) (r : BitVec 4) (x : BitVec 128) (tag : BitVec 4) : (x0.setV r x tag).debugHalt = x0.debugHalt := rfl
@[simp] theorem Thread.setV_debugStep (x0 : Thread) (r : BitVec 4) (x : BitVec 128) (tag : BitVec 4) : (x0.setV r x tag).debugStep = x0.debugStep := rfl
@[simp] theorem Thread.setV_undo (x0 : Thread) (r : BitVec 4) (x : BitVec 128) (tag : BitVec 4) : (x0.setV r x tag).undo = x0.undo := rfl
@[simp] theorem Thread.setV_evicted (x0 : Thread) (r : BitVec 4) (x : BitVec 128) (tag : BitVec 4) : (x0.setV r x tag).evicted = x0.evicted := rfl

@[simp] theorem Thread.setFrame_g (x0 : Thread) (l : Nat) (f : Frame) : (x0.setFrame l f).g = x0.g := rfl
@[simp] theorem Thread.setFrame_v (x0 : Thread) (l : Nat) (f : Frame) : (x0.setFrame l f).v = x0.v := rfl
@[simp] theorem Thread.setFrame_tag (x0 : Thread) (l : Nat) (f : Frame) : (x0.setFrame l f).tag = x0.tag := rfl
@[simp] theorem Thread.setFrame_p (x0 : Thread) (l : Nat) (f : Frame) : (x0.setFrame l f).p = x0.p := rfl
@[simp] theorem Thread.setFrame_ras (x0 : Thread) (l : Nat) (f : Frame) : (x0.setFrame l f).ras = x0.ras := rfl
@[simp] theorem Thread.setFrame_pc (x0 : Thread) (l : Nat) (f : Frame) : (x0.setFrame l f).pc = x0.pc := rfl
@[simp] theorem Thread.setFrame_status (x0 : Thread) (l : Nat) (f : Frame) : (x0.setFrame l f).status = x0.status := rfl
@[simp] theorem Thread.setFrame_fcsr (x0 : Thread) (l : Nat) (f : Frame) : (x0.setFrame l f).fcsr = x0.fcsr := rfl
@[simp] theorem Thread.setFrame_rsp (x0 : Thread) (l : Nat) (f : Frame) : (x0.setFrame l f).rsp = x0.rsp := rfl
@[simp] theorem Thread.setFrame_rspb (x0 : Thread) (l : Nat) (f : Frame) : (x0.setFrame l f).rspb = x0.rspb := rfl
@[simp] theorem Thread.setFrame_detid (x0 : Thread) (l : Nat) (f : Frame) : (x0.setFrame l f).detid = x0.detid := rfl
@[simp] theorem Thread.setFrame_lc (x0 : Thread) (l : Nat) (f : Frame) : (x0.setFrame l f).lc = x0.lc := rfl
@[simp] theorem Thread.setFrame_lbeg (x0 : Thread) (l : Nat) (f : Frame) : (x0.setFrame l f).lbeg = x0.lbeg := rfl
@[simp] theorem Thread.setFrame_lend (x0 : Thread) (l : Nat) (f : Frame) : (x0.setFrame l f).lend = x0.lend := rfl
@[simp] theorem Thread.setFrame_tid (x0 : Thread) (l : Nat) (f : Frame) : (x0.setFrame l f).tid = x0.tid := rfl
@[simp] theorem Thread.setFrame_pour (x0 : Thread) (l : Nat) (f : Frame) : (x0.setFrame l f).pour = x0.pour := rfl
@[simp] theorem Thread.setFrame_cnv (x0 : Thread) (l : Nat) (f : Frame) : (x0.setFrame l f).cnv = x0.cnv := rfl
@[simp] theorem Thread.setFrame_tm (x0 : Thread) (l : Nat) (f : Frame) : (x0.setFrame l f).tm = x0.tm := rfl
@[simp] theorem Thread.setFrame_tmDesc (x0 : Thread) (l : Nat) (f : Frame) : (x0.setFrame l f).tmDesc = x0.tmDesc := rfl
@[simp] theorem Thread.setFrame_tvec (x0 : Thread) (l : Nat) (f : Frame) : (x0.setFrame l f).tvec = x0.tvec := rfl
@[simp] theorem Thread.setFrame_tdeleg (x0 : Thread) (l : Nat) (f : Frame) : (x0.setFrame l f).tdeleg = x0.tdeleg := rfl
@[simp] theorem Thread.setFrame_ld (x0 : Thread) (l : Nat) (f : Frame) : (x0.setFrame l f).ld = x0.ld := rfl
@[simp] theorem Thread.setFrame_st (x0 : Thread) (l : Nat) (f : Frame) : (x0.setFrame l f).st = x0.st := rfl
@[simp] theorem Thread.setFrame_cp (x0 : Thread) (l : Nat) (f : Frame) : (x0.setFrame l f).cp = x0.cp := rfl
@[simp] theorem Thread.setFrame_mx (x0 : Thread) (l : Nat) (f : Frame) : (x0.setFrame l f).mx = x0.mx := rfl
@[simp] theorem Thread.setFrame_ms (x0 : Thread) (l : Nat) (f : Frame) : (x0.setFrame l f).ms = x0.ms := rfl
@[simp] theorem Thread.setFrame_pendG (x0 : Thread) (l : Nat) (f : Frame) : (x0.setFrame l f).pendG = x0.pendG := rfl
@[simp] theorem Thread.setFrame_pendV (x0 : Thread) (l : Nat) (f : Frame) : (x0.setFrame l f).pendV = x0.pendV := rfl
@[simp] theorem Thread.setFrame_loads (x0 : Thread) (l : Nat) (f : Frame) : (x0.setFrame l f).loads = x0.loads := rfl
@[simp] theorem Thread.setFrame_hold (x0 : Thread) (l : Nat) (f : Frame) : (x0.setFrame l f).hold = x0.hold := rfl
@[simp] theorem Thread.setFrame_refusal (x0 : Thread) (l : Nat) (f : Frame) : (x0.setFrame l f).refusal = x0.refusal := rfl
@[simp] theorem Thread.setFrame_copyFault (x0 : Thread) (l : Nat) (f : Frame) : (x0.setFrame l f).copyFault = x0.copyFault := rfl
@[simp] theorem Thread.setFrame_msgGone (x0 : Thread) (l : Nat) (f : Frame) : (x0.setFrame l f).msgGone = x0.msgGone := rfl
@[simp] theorem Thread.setFrame_fetchMiss (x0 : Thread) (l : Nat) (f : Frame) : (x0.setFrame l f).fetchMiss = x0.fetchMiss := rfl
@[simp] theorem Thread.setFrame_image (x0 : Thread) (l : Nat) (f : Frame) : (x0.setFrame l f).image = x0.image := rfl
@[simp] theorem Thread.setFrame_imagePa (x0 : Thread) (l : Nat) (f : Frame) : (x0.setFrame l f).imagePa = x0.imagePa := rfl
@[simp] theorem Thread.setFrame_rosterPa (x0 : Thread) (l : Nat) (f : Frame) : (x0.setFrame l f).rosterPa = x0.rosterPa := rfl
@[simp] theorem Thread.setFrame_ctx (x0 : Thread) (l : Nat) (f : Frame) : (x0.setFrame l f).ctx = x0.ctx := rfl
@[simp] theorem Thread.setFrame_core (x0 : Thread) (l : Nat) (f : Frame) : (x0.setFrame l f).core = x0.core := rfl
@[simp] theorem Thread.setFrame_queue (x0 : Thread) (l : Nat) (f : Frame) : (x0.setFrame l f).queue = x0.queue := rfl
@[simp] theorem Thread.setFrame_pinned (x0 : Thread) (l : Nat) (f : Frame) : (x0.setFrame l f).pinned = x0.pinned := rfl
@[simp] theorem Thread.setFrame_osThread (x0 : Thread) (l : Nat) (f : Frame) : (x0.setFrame l f).osThread = x0.osThread := rfl
@[simp] theorem Thread.setFrame_place (x0 : Thread) (l : Nat) (f : Frame) : (x0.setFrame l f).place = x0.place := rfl
@[simp] theorem Thread.setFrame_park (x0 : Thread) (l : Nat) (f : Frame) : (x0.setFrame l f).park = x0.park := rfl
@[simp] theorem Thread.setFrame_parkedAt (x0 : Thread) (l : Nat) (f : Frame) : (x0.setFrame l f).parkedAt = x0.parkedAt := rfl
@[simp] theorem Thread.setFrame_woken (x0 : Thread) (l : Nat) (f : Frame) : (x0.setFrame l f).woken = x0.woken := rfl
@[simp] theorem Thread.setFrame_stalled (x0 : Thread) (l : Nat) (f : Frame) : (x0.setFrame l f).stalled = x0.stalled := rfl
@[simp] theorem Thread.setFrame_lastIssue (x0 : Thread) (l : Nat) (f : Frame) : (x0.setFrame l f).lastIssue = x0.lastIssue := rfl
@[simp] theorem Thread.setFrame_joinedAt (x0 : Thread) (l : Nat) (f : Frame) : (x0.setFrame l f).joinedAt = x0.joinedAt := rfl
@[simp] theorem Thread.setFrame_issuedNow (x0 : Thread) (l : Nat) (f : Frame) : (x0.setFrame l f).issuedNow = x0.issuedNow := rfl
@[simp] theorem Thread.setFrame_debugHalt (x0 : Thread) (l : Nat) (f : Frame) : (x0.setFrame l f).debugHalt = x0.debugHalt := rfl
@[simp] theorem Thread.setFrame_debugStep (x0 : Thread) (l : Nat) (f : Frame) : (x0.setFrame l f).debugStep = x0.debugStep := rfl
@[simp] theorem Thread.setFrame_undo (x0 : Thread) (l : Nat) (f : Frame) : (x0.setFrame l f).undo = x0.undo := rfl
@[simp] theorem Thread.setFrame_evicted (x0 : Thread) (l : Nat) (f : Frame) : (x0.setFrame l f).evicted = x0.evicted := rfl

@[simp] theorem Thread.issued_g (x0 : Thread) (now : Nat) : (x0.issued now).g = x0.g := rfl
@[simp] theorem Thread.issued_v (x0 : Thread) (now : Nat) : (x0.issued now).v = x0.v := rfl
@[simp] theorem Thread.issued_tag (x0 : Thread) (now : Nat) : (x0.issued now).tag = x0.tag := rfl
@[simp] theorem Thread.issued_p (x0 : Thread) (now : Nat) : (x0.issued now).p = x0.p := rfl
@[simp] theorem Thread.issued_ras (x0 : Thread) (now : Nat) : (x0.issued now).ras = x0.ras := rfl
@[simp] theorem Thread.issued_pc (x0 : Thread) (now : Nat) : (x0.issued now).pc = x0.pc := rfl
@[simp] theorem Thread.issued_status (x0 : Thread) (now : Nat) : (x0.issued now).status = x0.status := rfl
@[simp] theorem Thread.issued_fcsr (x0 : Thread) (now : Nat) : (x0.issued now).fcsr = x0.fcsr := rfl
@[simp] theorem Thread.issued_rsp (x0 : Thread) (now : Nat) : (x0.issued now).rsp = x0.rsp := rfl
@[simp] theorem Thread.issued_rspb (x0 : Thread) (now : Nat) : (x0.issued now).rspb = x0.rspb := rfl
@[simp] theorem Thread.issued_detid (x0 : Thread) (now : Nat) : (x0.issued now).detid = x0.detid := rfl
@[simp] theorem Thread.issued_lc (x0 : Thread) (now : Nat) : (x0.issued now).lc = x0.lc := rfl
@[simp] theorem Thread.issued_lbeg (x0 : Thread) (now : Nat) : (x0.issued now).lbeg = x0.lbeg := rfl
@[simp] theorem Thread.issued_lend (x0 : Thread) (now : Nat) : (x0.issued now).lend = x0.lend := rfl
@[simp] theorem Thread.issued_tid (x0 : Thread) (now : Nat) : (x0.issued now).tid = x0.tid := rfl
@[simp] theorem Thread.issued_pour (x0 : Thread) (now : Nat) : (x0.issued now).pour = x0.pour := rfl
@[simp] theorem Thread.issued_cnv (x0 : Thread) (now : Nat) : (x0.issued now).cnv = x0.cnv := rfl
@[simp] theorem Thread.issued_tm (x0 : Thread) (now : Nat) : (x0.issued now).tm = x0.tm := rfl
@[simp] theorem Thread.issued_tmDesc (x0 : Thread) (now : Nat) : (x0.issued now).tmDesc = x0.tmDesc := rfl
@[simp] theorem Thread.issued_frames (x0 : Thread) (now : Nat) : (x0.issued now).frames = x0.frames := rfl
@[simp] theorem Thread.issued_tvec (x0 : Thread) (now : Nat) : (x0.issued now).tvec = x0.tvec := rfl
@[simp] theorem Thread.issued_tdeleg (x0 : Thread) (now : Nat) : (x0.issued now).tdeleg = x0.tdeleg := rfl
@[simp] theorem Thread.issued_ld (x0 : Thread) (now : Nat) : (x0.issued now).ld = x0.ld := rfl
@[simp] theorem Thread.issued_st (x0 : Thread) (now : Nat) : (x0.issued now).st = x0.st := rfl
@[simp] theorem Thread.issued_cp (x0 : Thread) (now : Nat) : (x0.issued now).cp = x0.cp := rfl
@[simp] theorem Thread.issued_mx (x0 : Thread) (now : Nat) : (x0.issued now).mx = x0.mx := rfl
@[simp] theorem Thread.issued_ms (x0 : Thread) (now : Nat) : (x0.issued now).ms = x0.ms := rfl
@[simp] theorem Thread.issued_pendG (x0 : Thread) (now : Nat) : (x0.issued now).pendG = x0.pendG := rfl
@[simp] theorem Thread.issued_pendV (x0 : Thread) (now : Nat) : (x0.issued now).pendV = x0.pendV := rfl
@[simp] theorem Thread.issued_loads (x0 : Thread) (now : Nat) : (x0.issued now).loads = x0.loads := rfl
@[simp] theorem Thread.issued_hold (x0 : Thread) (now : Nat) : (x0.issued now).hold = x0.hold := rfl
@[simp] theorem Thread.issued_refusal (x0 : Thread) (now : Nat) : (x0.issued now).refusal = x0.refusal := rfl
@[simp] theorem Thread.issued_copyFault (x0 : Thread) (now : Nat) : (x0.issued now).copyFault = x0.copyFault := rfl
@[simp] theorem Thread.issued_msgGone (x0 : Thread) (now : Nat) : (x0.issued now).msgGone = x0.msgGone := rfl
@[simp] theorem Thread.issued_fetchMiss (x0 : Thread) (now : Nat) : (x0.issued now).fetchMiss = x0.fetchMiss := rfl
@[simp] theorem Thread.issued_image (x0 : Thread) (now : Nat) : (x0.issued now).image = x0.image := rfl
@[simp] theorem Thread.issued_imagePa (x0 : Thread) (now : Nat) : (x0.issued now).imagePa = x0.imagePa := rfl
@[simp] theorem Thread.issued_rosterPa (x0 : Thread) (now : Nat) : (x0.issued now).rosterPa = x0.rosterPa := rfl
@[simp] theorem Thread.issued_ctx (x0 : Thread) (now : Nat) : (x0.issued now).ctx = x0.ctx := rfl
@[simp] theorem Thread.issued_core (x0 : Thread) (now : Nat) : (x0.issued now).core = x0.core := rfl
@[simp] theorem Thread.issued_queue (x0 : Thread) (now : Nat) : (x0.issued now).queue = x0.queue := rfl
@[simp] theorem Thread.issued_pinned (x0 : Thread) (now : Nat) : (x0.issued now).pinned = x0.pinned := rfl
@[simp] theorem Thread.issued_osThread (x0 : Thread) (now : Nat) : (x0.issued now).osThread = x0.osThread := rfl
@[simp] theorem Thread.issued_place (x0 : Thread) (now : Nat) : (x0.issued now).place = x0.place := rfl
@[simp] theorem Thread.issued_park (x0 : Thread) (now : Nat) : (x0.issued now).park = x0.park := rfl
@[simp] theorem Thread.issued_parkedAt (x0 : Thread) (now : Nat) : (x0.issued now).parkedAt = x0.parkedAt := rfl
@[simp] theorem Thread.issued_joinedAt (x0 : Thread) (now : Nat) : (x0.issued now).joinedAt = x0.joinedAt := rfl
@[simp] theorem Thread.issued_debugHalt (x0 : Thread) (now : Nat) : (x0.issued now).debugHalt = x0.debugHalt := rfl
@[simp] theorem Thread.issued_debugStep (x0 : Thread) (now : Nat) : (x0.issued now).debugStep = x0.debugStep := rfl
@[simp] theorem Thread.issued_undo (x0 : Thread) (now : Nat) : (x0.issued now).undo = x0.undo := rfl
@[simp] theorem Thread.issued_evicted (x0 : Thread) (now : Nat) : (x0.issued now).evicted = x0.evicted := rfl

@[simp] theorem Thread.setG_v (x0 : Thread) (r : BitVec 5) (x : Word) : (x0.setG r x).v = x0.v := by unfold Thread.setG; split <;> rfl
@[simp] theorem Thread.setG_tag (x0 : Thread) (r : BitVec 5) (x : Word) : (x0.setG r x).tag = x0.tag := by unfold Thread.setG; split <;> rfl
@[simp] theorem Thread.setG_p (x0 : Thread) (r : BitVec 5) (x : Word) : (x0.setG r x).p = x0.p := by unfold Thread.setG; split <;> rfl
@[simp] theorem Thread.setG_ras (x0 : Thread) (r : BitVec 5) (x : Word) : (x0.setG r x).ras = x0.ras := by unfold Thread.setG; split <;> rfl
@[simp] theorem Thread.setG_pc (x0 : Thread) (r : BitVec 5) (x : Word) : (x0.setG r x).pc = x0.pc := by unfold Thread.setG; split <;> rfl
@[simp] theorem Thread.setG_status (x0 : Thread) (r : BitVec 5) (x : Word) : (x0.setG r x).status = x0.status := by unfold Thread.setG; split <;> rfl
@[simp] theorem Thread.setG_fcsr (x0 : Thread) (r : BitVec 5) (x : Word) : (x0.setG r x).fcsr = x0.fcsr := by unfold Thread.setG; split <;> rfl
@[simp] theorem Thread.setG_rsp (x0 : Thread) (r : BitVec 5) (x : Word) : (x0.setG r x).rsp = x0.rsp := by unfold Thread.setG; split <;> rfl
@[simp] theorem Thread.setG_rspb (x0 : Thread) (r : BitVec 5) (x : Word) : (x0.setG r x).rspb = x0.rspb := by unfold Thread.setG; split <;> rfl
@[simp] theorem Thread.setG_detid (x0 : Thread) (r : BitVec 5) (x : Word) : (x0.setG r x).detid = x0.detid := by unfold Thread.setG; split <;> rfl
@[simp] theorem Thread.setG_lc (x0 : Thread) (r : BitVec 5) (x : Word) : (x0.setG r x).lc = x0.lc := by unfold Thread.setG; split <;> rfl
@[simp] theorem Thread.setG_lbeg (x0 : Thread) (r : BitVec 5) (x : Word) : (x0.setG r x).lbeg = x0.lbeg := by unfold Thread.setG; split <;> rfl
@[simp] theorem Thread.setG_lend (x0 : Thread) (r : BitVec 5) (x : Word) : (x0.setG r x).lend = x0.lend := by unfold Thread.setG; split <;> rfl
@[simp] theorem Thread.setG_tid (x0 : Thread) (r : BitVec 5) (x : Word) : (x0.setG r x).tid = x0.tid := by unfold Thread.setG; split <;> rfl
@[simp] theorem Thread.setG_pour (x0 : Thread) (r : BitVec 5) (x : Word) : (x0.setG r x).pour = x0.pour := by unfold Thread.setG; split <;> rfl
@[simp] theorem Thread.setG_cnv (x0 : Thread) (r : BitVec 5) (x : Word) : (x0.setG r x).cnv = x0.cnv := by unfold Thread.setG; split <;> rfl
@[simp] theorem Thread.setG_tm (x0 : Thread) (r : BitVec 5) (x : Word) : (x0.setG r x).tm = x0.tm := by unfold Thread.setG; split <;> rfl
@[simp] theorem Thread.setG_tmDesc (x0 : Thread) (r : BitVec 5) (x : Word) : (x0.setG r x).tmDesc = x0.tmDesc := by unfold Thread.setG; split <;> rfl
@[simp] theorem Thread.setG_frames (x0 : Thread) (r : BitVec 5) (x : Word) : (x0.setG r x).frames = x0.frames := by unfold Thread.setG; split <;> rfl
@[simp] theorem Thread.setG_tvec (x0 : Thread) (r : BitVec 5) (x : Word) : (x0.setG r x).tvec = x0.tvec := by unfold Thread.setG; split <;> rfl
@[simp] theorem Thread.setG_tdeleg (x0 : Thread) (r : BitVec 5) (x : Word) : (x0.setG r x).tdeleg = x0.tdeleg := by unfold Thread.setG; split <;> rfl
@[simp] theorem Thread.setG_ld (x0 : Thread) (r : BitVec 5) (x : Word) : (x0.setG r x).ld = x0.ld := by unfold Thread.setG; split <;> rfl
@[simp] theorem Thread.setG_st (x0 : Thread) (r : BitVec 5) (x : Word) : (x0.setG r x).st = x0.st := by unfold Thread.setG; split <;> rfl
@[simp] theorem Thread.setG_cp (x0 : Thread) (r : BitVec 5) (x : Word) : (x0.setG r x).cp = x0.cp := by unfold Thread.setG; split <;> rfl
@[simp] theorem Thread.setG_mx (x0 : Thread) (r : BitVec 5) (x : Word) : (x0.setG r x).mx = x0.mx := by unfold Thread.setG; split <;> rfl
@[simp] theorem Thread.setG_ms (x0 : Thread) (r : BitVec 5) (x : Word) : (x0.setG r x).ms = x0.ms := by unfold Thread.setG; split <;> rfl
@[simp] theorem Thread.setG_pendG (x0 : Thread) (r : BitVec 5) (x : Word) : (x0.setG r x).pendG = x0.pendG := by unfold Thread.setG; split <;> rfl
@[simp] theorem Thread.setG_pendV (x0 : Thread) (r : BitVec 5) (x : Word) : (x0.setG r x).pendV = x0.pendV := by unfold Thread.setG; split <;> rfl
@[simp] theorem Thread.setG_loads (x0 : Thread) (r : BitVec 5) (x : Word) : (x0.setG r x).loads = x0.loads := by unfold Thread.setG; split <;> rfl
@[simp] theorem Thread.setG_hold (x0 : Thread) (r : BitVec 5) (x : Word) : (x0.setG r x).hold = x0.hold := by unfold Thread.setG; split <;> rfl
@[simp] theorem Thread.setG_refusal (x0 : Thread) (r : BitVec 5) (x : Word) : (x0.setG r x).refusal = x0.refusal := by unfold Thread.setG; split <;> rfl
@[simp] theorem Thread.setG_copyFault (x0 : Thread) (r : BitVec 5) (x : Word) : (x0.setG r x).copyFault = x0.copyFault := by unfold Thread.setG; split <;> rfl
@[simp] theorem Thread.setG_msgGone (x0 : Thread) (r : BitVec 5) (x : Word) : (x0.setG r x).msgGone = x0.msgGone := by unfold Thread.setG; split <;> rfl
@[simp] theorem Thread.setG_fetchMiss (x0 : Thread) (r : BitVec 5) (x : Word) : (x0.setG r x).fetchMiss = x0.fetchMiss := by unfold Thread.setG; split <;> rfl
@[simp] theorem Thread.setG_image (x0 : Thread) (r : BitVec 5) (x : Word) : (x0.setG r x).image = x0.image := by unfold Thread.setG; split <;> rfl
@[simp] theorem Thread.setG_imagePa (x0 : Thread) (r : BitVec 5) (x : Word) : (x0.setG r x).imagePa = x0.imagePa := by unfold Thread.setG; split <;> rfl
@[simp] theorem Thread.setG_rosterPa (x0 : Thread) (r : BitVec 5) (x : Word) : (x0.setG r x).rosterPa = x0.rosterPa := by unfold Thread.setG; split <;> rfl
@[simp] theorem Thread.setG_ctx (x0 : Thread) (r : BitVec 5) (x : Word) : (x0.setG r x).ctx = x0.ctx := by unfold Thread.setG; split <;> rfl
@[simp] theorem Thread.setG_core (x0 : Thread) (r : BitVec 5) (x : Word) : (x0.setG r x).core = x0.core := by unfold Thread.setG; split <;> rfl
@[simp] theorem Thread.setG_queue (x0 : Thread) (r : BitVec 5) (x : Word) : (x0.setG r x).queue = x0.queue := by unfold Thread.setG; split <;> rfl
@[simp] theorem Thread.setG_pinned (x0 : Thread) (r : BitVec 5) (x : Word) : (x0.setG r x).pinned = x0.pinned := by unfold Thread.setG; split <;> rfl
@[simp] theorem Thread.setG_osThread (x0 : Thread) (r : BitVec 5) (x : Word) : (x0.setG r x).osThread = x0.osThread := by unfold Thread.setG; split <;> rfl
@[simp] theorem Thread.setG_place (x0 : Thread) (r : BitVec 5) (x : Word) : (x0.setG r x).place = x0.place := by unfold Thread.setG; split <;> rfl
@[simp] theorem Thread.setG_park (x0 : Thread) (r : BitVec 5) (x : Word) : (x0.setG r x).park = x0.park := by unfold Thread.setG; split <;> rfl
@[simp] theorem Thread.setG_parkedAt (x0 : Thread) (r : BitVec 5) (x : Word) : (x0.setG r x).parkedAt = x0.parkedAt := by unfold Thread.setG; split <;> rfl
@[simp] theorem Thread.setG_woken (x0 : Thread) (r : BitVec 5) (x : Word) : (x0.setG r x).woken = x0.woken := by unfold Thread.setG; split <;> rfl
@[simp] theorem Thread.setG_stalled (x0 : Thread) (r : BitVec 5) (x : Word) : (x0.setG r x).stalled = x0.stalled := by unfold Thread.setG; split <;> rfl
@[simp] theorem Thread.setG_lastIssue (x0 : Thread) (r : BitVec 5) (x : Word) : (x0.setG r x).lastIssue = x0.lastIssue := by unfold Thread.setG; split <;> rfl
@[simp] theorem Thread.setG_joinedAt (x0 : Thread) (r : BitVec 5) (x : Word) : (x0.setG r x).joinedAt = x0.joinedAt := by unfold Thread.setG; split <;> rfl
@[simp] theorem Thread.setG_issuedNow (x0 : Thread) (r : BitVec 5) (x : Word) : (x0.setG r x).issuedNow = x0.issuedNow := by unfold Thread.setG; split <;> rfl
@[simp] theorem Thread.setG_debugHalt (x0 : Thread) (r : BitVec 5) (x : Word) : (x0.setG r x).debugHalt = x0.debugHalt := by unfold Thread.setG; split <;> rfl
@[simp] theorem Thread.setG_debugStep (x0 : Thread) (r : BitVec 5) (x : Word) : (x0.setG r x).debugStep = x0.debugStep := by unfold Thread.setG; split <;> rfl
@[simp] theorem Thread.setG_undo (x0 : Thread) (r : BitVec 5) (x : Word) : (x0.setG r x).undo = x0.undo := by unfold Thread.setG; split <;> rfl
@[simp] theorem Thread.setG_evicted (x0 : Thread) (r : BitVec 5) (x : Word) : (x0.setG r x).evicted = x0.evicted := by unfold Thread.setG; split <;> rfl

@[simp] theorem Thread.setP_g (x0 : Thread) (r : BitVec 3) (b : Bool) : (x0.setP r b).g = x0.g := by unfold Thread.setP; split <;> rfl
@[simp] theorem Thread.setP_v (x0 : Thread) (r : BitVec 3) (b : Bool) : (x0.setP r b).v = x0.v := by unfold Thread.setP; split <;> rfl
@[simp] theorem Thread.setP_tag (x0 : Thread) (r : BitVec 3) (b : Bool) : (x0.setP r b).tag = x0.tag := by unfold Thread.setP; split <;> rfl
@[simp] theorem Thread.setP_ras (x0 : Thread) (r : BitVec 3) (b : Bool) : (x0.setP r b).ras = x0.ras := by unfold Thread.setP; split <;> rfl
@[simp] theorem Thread.setP_pc (x0 : Thread) (r : BitVec 3) (b : Bool) : (x0.setP r b).pc = x0.pc := by unfold Thread.setP; split <;> rfl
@[simp] theorem Thread.setP_status (x0 : Thread) (r : BitVec 3) (b : Bool) : (x0.setP r b).status = x0.status := by unfold Thread.setP; split <;> rfl
@[simp] theorem Thread.setP_fcsr (x0 : Thread) (r : BitVec 3) (b : Bool) : (x0.setP r b).fcsr = x0.fcsr := by unfold Thread.setP; split <;> rfl
@[simp] theorem Thread.setP_rsp (x0 : Thread) (r : BitVec 3) (b : Bool) : (x0.setP r b).rsp = x0.rsp := by unfold Thread.setP; split <;> rfl
@[simp] theorem Thread.setP_rspb (x0 : Thread) (r : BitVec 3) (b : Bool) : (x0.setP r b).rspb = x0.rspb := by unfold Thread.setP; split <;> rfl
@[simp] theorem Thread.setP_detid (x0 : Thread) (r : BitVec 3) (b : Bool) : (x0.setP r b).detid = x0.detid := by unfold Thread.setP; split <;> rfl
@[simp] theorem Thread.setP_lc (x0 : Thread) (r : BitVec 3) (b : Bool) : (x0.setP r b).lc = x0.lc := by unfold Thread.setP; split <;> rfl
@[simp] theorem Thread.setP_lbeg (x0 : Thread) (r : BitVec 3) (b : Bool) : (x0.setP r b).lbeg = x0.lbeg := by unfold Thread.setP; split <;> rfl
@[simp] theorem Thread.setP_lend (x0 : Thread) (r : BitVec 3) (b : Bool) : (x0.setP r b).lend = x0.lend := by unfold Thread.setP; split <;> rfl
@[simp] theorem Thread.setP_tid (x0 : Thread) (r : BitVec 3) (b : Bool) : (x0.setP r b).tid = x0.tid := by unfold Thread.setP; split <;> rfl
@[simp] theorem Thread.setP_pour (x0 : Thread) (r : BitVec 3) (b : Bool) : (x0.setP r b).pour = x0.pour := by unfold Thread.setP; split <;> rfl
@[simp] theorem Thread.setP_cnv (x0 : Thread) (r : BitVec 3) (b : Bool) : (x0.setP r b).cnv = x0.cnv := by unfold Thread.setP; split <;> rfl
@[simp] theorem Thread.setP_tm (x0 : Thread) (r : BitVec 3) (b : Bool) : (x0.setP r b).tm = x0.tm := by unfold Thread.setP; split <;> rfl
@[simp] theorem Thread.setP_tmDesc (x0 : Thread) (r : BitVec 3) (b : Bool) : (x0.setP r b).tmDesc = x0.tmDesc := by unfold Thread.setP; split <;> rfl
@[simp] theorem Thread.setP_frames (x0 : Thread) (r : BitVec 3) (b : Bool) : (x0.setP r b).frames = x0.frames := by unfold Thread.setP; split <;> rfl
@[simp] theorem Thread.setP_tvec (x0 : Thread) (r : BitVec 3) (b : Bool) : (x0.setP r b).tvec = x0.tvec := by unfold Thread.setP; split <;> rfl
@[simp] theorem Thread.setP_tdeleg (x0 : Thread) (r : BitVec 3) (b : Bool) : (x0.setP r b).tdeleg = x0.tdeleg := by unfold Thread.setP; split <;> rfl
@[simp] theorem Thread.setP_ld (x0 : Thread) (r : BitVec 3) (b : Bool) : (x0.setP r b).ld = x0.ld := by unfold Thread.setP; split <;> rfl
@[simp] theorem Thread.setP_st (x0 : Thread) (r : BitVec 3) (b : Bool) : (x0.setP r b).st = x0.st := by unfold Thread.setP; split <;> rfl
@[simp] theorem Thread.setP_cp (x0 : Thread) (r : BitVec 3) (b : Bool) : (x0.setP r b).cp = x0.cp := by unfold Thread.setP; split <;> rfl
@[simp] theorem Thread.setP_mx (x0 : Thread) (r : BitVec 3) (b : Bool) : (x0.setP r b).mx = x0.mx := by unfold Thread.setP; split <;> rfl
@[simp] theorem Thread.setP_ms (x0 : Thread) (r : BitVec 3) (b : Bool) : (x0.setP r b).ms = x0.ms := by unfold Thread.setP; split <;> rfl
@[simp] theorem Thread.setP_pendG (x0 : Thread) (r : BitVec 3) (b : Bool) : (x0.setP r b).pendG = x0.pendG := by unfold Thread.setP; split <;> rfl
@[simp] theorem Thread.setP_pendV (x0 : Thread) (r : BitVec 3) (b : Bool) : (x0.setP r b).pendV = x0.pendV := by unfold Thread.setP; split <;> rfl
@[simp] theorem Thread.setP_loads (x0 : Thread) (r : BitVec 3) (b : Bool) : (x0.setP r b).loads = x0.loads := by unfold Thread.setP; split <;> rfl
@[simp] theorem Thread.setP_hold (x0 : Thread) (r : BitVec 3) (b : Bool) : (x0.setP r b).hold = x0.hold := by unfold Thread.setP; split <;> rfl
@[simp] theorem Thread.setP_refusal (x0 : Thread) (r : BitVec 3) (b : Bool) : (x0.setP r b).refusal = x0.refusal := by unfold Thread.setP; split <;> rfl
@[simp] theorem Thread.setP_copyFault (x0 : Thread) (r : BitVec 3) (b : Bool) : (x0.setP r b).copyFault = x0.copyFault := by unfold Thread.setP; split <;> rfl
@[simp] theorem Thread.setP_msgGone (x0 : Thread) (r : BitVec 3) (b : Bool) : (x0.setP r b).msgGone = x0.msgGone := by unfold Thread.setP; split <;> rfl
@[simp] theorem Thread.setP_fetchMiss (x0 : Thread) (r : BitVec 3) (b : Bool) : (x0.setP r b).fetchMiss = x0.fetchMiss := by unfold Thread.setP; split <;> rfl
@[simp] theorem Thread.setP_image (x0 : Thread) (r : BitVec 3) (b : Bool) : (x0.setP r b).image = x0.image := by unfold Thread.setP; split <;> rfl
@[simp] theorem Thread.setP_imagePa (x0 : Thread) (r : BitVec 3) (b : Bool) : (x0.setP r b).imagePa = x0.imagePa := by unfold Thread.setP; split <;> rfl
@[simp] theorem Thread.setP_rosterPa (x0 : Thread) (r : BitVec 3) (b : Bool) : (x0.setP r b).rosterPa = x0.rosterPa := by unfold Thread.setP; split <;> rfl
@[simp] theorem Thread.setP_ctx (x0 : Thread) (r : BitVec 3) (b : Bool) : (x0.setP r b).ctx = x0.ctx := by unfold Thread.setP; split <;> rfl
@[simp] theorem Thread.setP_core (x0 : Thread) (r : BitVec 3) (b : Bool) : (x0.setP r b).core = x0.core := by unfold Thread.setP; split <;> rfl
@[simp] theorem Thread.setP_queue (x0 : Thread) (r : BitVec 3) (b : Bool) : (x0.setP r b).queue = x0.queue := by unfold Thread.setP; split <;> rfl
@[simp] theorem Thread.setP_pinned (x0 : Thread) (r : BitVec 3) (b : Bool) : (x0.setP r b).pinned = x0.pinned := by unfold Thread.setP; split <;> rfl
@[simp] theorem Thread.setP_osThread (x0 : Thread) (r : BitVec 3) (b : Bool) : (x0.setP r b).osThread = x0.osThread := by unfold Thread.setP; split <;> rfl
@[simp] theorem Thread.setP_place (x0 : Thread) (r : BitVec 3) (b : Bool) : (x0.setP r b).place = x0.place := by unfold Thread.setP; split <;> rfl
@[simp] theorem Thread.setP_park (x0 : Thread) (r : BitVec 3) (b : Bool) : (x0.setP r b).park = x0.park := by unfold Thread.setP; split <;> rfl
@[simp] theorem Thread.setP_parkedAt (x0 : Thread) (r : BitVec 3) (b : Bool) : (x0.setP r b).parkedAt = x0.parkedAt := by unfold Thread.setP; split <;> rfl
@[simp] theorem Thread.setP_woken (x0 : Thread) (r : BitVec 3) (b : Bool) : (x0.setP r b).woken = x0.woken := by unfold Thread.setP; split <;> rfl
@[simp] theorem Thread.setP_stalled (x0 : Thread) (r : BitVec 3) (b : Bool) : (x0.setP r b).stalled = x0.stalled := by unfold Thread.setP; split <;> rfl
@[simp] theorem Thread.setP_lastIssue (x0 : Thread) (r : BitVec 3) (b : Bool) : (x0.setP r b).lastIssue = x0.lastIssue := by unfold Thread.setP; split <;> rfl
@[simp] theorem Thread.setP_joinedAt (x0 : Thread) (r : BitVec 3) (b : Bool) : (x0.setP r b).joinedAt = x0.joinedAt := by unfold Thread.setP; split <;> rfl
@[simp] theorem Thread.setP_issuedNow (x0 : Thread) (r : BitVec 3) (b : Bool) : (x0.setP r b).issuedNow = x0.issuedNow := by unfold Thread.setP; split <;> rfl
@[simp] theorem Thread.setP_debugHalt (x0 : Thread) (r : BitVec 3) (b : Bool) : (x0.setP r b).debugHalt = x0.debugHalt := by unfold Thread.setP; split <;> rfl
@[simp] theorem Thread.setP_debugStep (x0 : Thread) (r : BitVec 3) (b : Bool) : (x0.setP r b).debugStep = x0.debugStep := by unfold Thread.setP; split <;> rfl
@[simp] theorem Thread.setP_undo (x0 : Thread) (r : BitVec 3) (b : Bool) : (x0.setP r b).undo = x0.undo := by unfold Thread.setP; split <;> rfl
@[simp] theorem Thread.setP_evicted (x0 : Thread) (r : BitVec 3) (b : Bool) : (x0.setP r b).evicted = x0.evicted := by unfold Thread.setP; split <;> rfl

@[simp] theorem Thread.setCtr_g (x0 : Thread) (c : Ctr) (n : Nat) : (x0.setCtr c n).g = x0.g := by cases c <;> rfl
@[simp] theorem Thread.setCtr_v (x0 : Thread) (c : Ctr) (n : Nat) : (x0.setCtr c n).v = x0.v := by cases c <;> rfl
@[simp] theorem Thread.setCtr_tag (x0 : Thread) (c : Ctr) (n : Nat) : (x0.setCtr c n).tag = x0.tag := by cases c <;> rfl
@[simp] theorem Thread.setCtr_p (x0 : Thread) (c : Ctr) (n : Nat) : (x0.setCtr c n).p = x0.p := by cases c <;> rfl
@[simp] theorem Thread.setCtr_ras (x0 : Thread) (c : Ctr) (n : Nat) : (x0.setCtr c n).ras = x0.ras := by cases c <;> rfl
@[simp] theorem Thread.setCtr_pc (x0 : Thread) (c : Ctr) (n : Nat) : (x0.setCtr c n).pc = x0.pc := by cases c <;> rfl
@[simp] theorem Thread.setCtr_status (x0 : Thread) (c : Ctr) (n : Nat) : (x0.setCtr c n).status = x0.status := by cases c <;> rfl
@[simp] theorem Thread.setCtr_fcsr (x0 : Thread) (c : Ctr) (n : Nat) : (x0.setCtr c n).fcsr = x0.fcsr := by cases c <;> rfl
@[simp] theorem Thread.setCtr_rsp (x0 : Thread) (c : Ctr) (n : Nat) : (x0.setCtr c n).rsp = x0.rsp := by cases c <;> rfl
@[simp] theorem Thread.setCtr_rspb (x0 : Thread) (c : Ctr) (n : Nat) : (x0.setCtr c n).rspb = x0.rspb := by cases c <;> rfl
@[simp] theorem Thread.setCtr_detid (x0 : Thread) (c : Ctr) (n : Nat) : (x0.setCtr c n).detid = x0.detid := by cases c <;> rfl
@[simp] theorem Thread.setCtr_lc (x0 : Thread) (c : Ctr) (n : Nat) : (x0.setCtr c n).lc = x0.lc := by cases c <;> rfl
@[simp] theorem Thread.setCtr_lbeg (x0 : Thread) (c : Ctr) (n : Nat) : (x0.setCtr c n).lbeg = x0.lbeg := by cases c <;> rfl
@[simp] theorem Thread.setCtr_lend (x0 : Thread) (c : Ctr) (n : Nat) : (x0.setCtr c n).lend = x0.lend := by cases c <;> rfl
@[simp] theorem Thread.setCtr_tid (x0 : Thread) (c : Ctr) (n : Nat) : (x0.setCtr c n).tid = x0.tid := by cases c <;> rfl
@[simp] theorem Thread.setCtr_pour (x0 : Thread) (c : Ctr) (n : Nat) : (x0.setCtr c n).pour = x0.pour := by cases c <;> rfl
@[simp] theorem Thread.setCtr_cnv (x0 : Thread) (c : Ctr) (n : Nat) : (x0.setCtr c n).cnv = x0.cnv := by cases c <;> rfl
@[simp] theorem Thread.setCtr_tm (x0 : Thread) (c : Ctr) (n : Nat) : (x0.setCtr c n).tm = x0.tm := by cases c <;> rfl
@[simp] theorem Thread.setCtr_tmDesc (x0 : Thread) (c : Ctr) (n : Nat) : (x0.setCtr c n).tmDesc = x0.tmDesc := by cases c <;> rfl
@[simp] theorem Thread.setCtr_frames (x0 : Thread) (c : Ctr) (n : Nat) : (x0.setCtr c n).frames = x0.frames := by cases c <;> rfl
@[simp] theorem Thread.setCtr_tvec (x0 : Thread) (c : Ctr) (n : Nat) : (x0.setCtr c n).tvec = x0.tvec := by cases c <;> rfl
@[simp] theorem Thread.setCtr_tdeleg (x0 : Thread) (c : Ctr) (n : Nat) : (x0.setCtr c n).tdeleg = x0.tdeleg := by cases c <;> rfl
@[simp] theorem Thread.setCtr_pendG (x0 : Thread) (c : Ctr) (n : Nat) : (x0.setCtr c n).pendG = x0.pendG := by cases c <;> rfl
@[simp] theorem Thread.setCtr_pendV (x0 : Thread) (c : Ctr) (n : Nat) : (x0.setCtr c n).pendV = x0.pendV := by cases c <;> rfl
@[simp] theorem Thread.setCtr_loads (x0 : Thread) (c : Ctr) (n : Nat) : (x0.setCtr c n).loads = x0.loads := by cases c <;> rfl
@[simp] theorem Thread.setCtr_hold (x0 : Thread) (c : Ctr) (n : Nat) : (x0.setCtr c n).hold = x0.hold := by cases c <;> rfl
@[simp] theorem Thread.setCtr_refusal (x0 : Thread) (c : Ctr) (n : Nat) : (x0.setCtr c n).refusal = x0.refusal := by cases c <;> rfl
@[simp] theorem Thread.setCtr_copyFault (x0 : Thread) (c : Ctr) (n : Nat) : (x0.setCtr c n).copyFault = x0.copyFault := by cases c <;> rfl
@[simp] theorem Thread.setCtr_msgGone (x0 : Thread) (c : Ctr) (n : Nat) : (x0.setCtr c n).msgGone = x0.msgGone := by cases c <;> rfl
@[simp] theorem Thread.setCtr_fetchMiss (x0 : Thread) (c : Ctr) (n : Nat) : (x0.setCtr c n).fetchMiss = x0.fetchMiss := by cases c <;> rfl
@[simp] theorem Thread.setCtr_image (x0 : Thread) (c : Ctr) (n : Nat) : (x0.setCtr c n).image = x0.image := by cases c <;> rfl
@[simp] theorem Thread.setCtr_imagePa (x0 : Thread) (c : Ctr) (n : Nat) : (x0.setCtr c n).imagePa = x0.imagePa := by cases c <;> rfl
@[simp] theorem Thread.setCtr_rosterPa (x0 : Thread) (c : Ctr) (n : Nat) : (x0.setCtr c n).rosterPa = x0.rosterPa := by cases c <;> rfl
@[simp] theorem Thread.setCtr_ctx (x0 : Thread) (c : Ctr) (n : Nat) : (x0.setCtr c n).ctx = x0.ctx := by cases c <;> rfl
@[simp] theorem Thread.setCtr_core (x0 : Thread) (c : Ctr) (n : Nat) : (x0.setCtr c n).core = x0.core := by cases c <;> rfl
@[simp] theorem Thread.setCtr_queue (x0 : Thread) (c : Ctr) (n : Nat) : (x0.setCtr c n).queue = x0.queue := by cases c <;> rfl
@[simp] theorem Thread.setCtr_pinned (x0 : Thread) (c : Ctr) (n : Nat) : (x0.setCtr c n).pinned = x0.pinned := by cases c <;> rfl
@[simp] theorem Thread.setCtr_osThread (x0 : Thread) (c : Ctr) (n : Nat) : (x0.setCtr c n).osThread = x0.osThread := by cases c <;> rfl
@[simp] theorem Thread.setCtr_place (x0 : Thread) (c : Ctr) (n : Nat) : (x0.setCtr c n).place = x0.place := by cases c <;> rfl
@[simp] theorem Thread.setCtr_park (x0 : Thread) (c : Ctr) (n : Nat) : (x0.setCtr c n).park = x0.park := by cases c <;> rfl
@[simp] theorem Thread.setCtr_parkedAt (x0 : Thread) (c : Ctr) (n : Nat) : (x0.setCtr c n).parkedAt = x0.parkedAt := by cases c <;> rfl
@[simp] theorem Thread.setCtr_woken (x0 : Thread) (c : Ctr) (n : Nat) : (x0.setCtr c n).woken = x0.woken := by cases c <;> rfl
@[simp] theorem Thread.setCtr_stalled (x0 : Thread) (c : Ctr) (n : Nat) : (x0.setCtr c n).stalled = x0.stalled := by cases c <;> rfl
@[simp] theorem Thread.setCtr_lastIssue (x0 : Thread) (c : Ctr) (n : Nat) : (x0.setCtr c n).lastIssue = x0.lastIssue := by cases c <;> rfl
@[simp] theorem Thread.setCtr_joinedAt (x0 : Thread) (c : Ctr) (n : Nat) : (x0.setCtr c n).joinedAt = x0.joinedAt := by cases c <;> rfl
@[simp] theorem Thread.setCtr_issuedNow (x0 : Thread) (c : Ctr) (n : Nat) : (x0.setCtr c n).issuedNow = x0.issuedNow := by cases c <;> rfl
@[simp] theorem Thread.setCtr_debugHalt (x0 : Thread) (c : Ctr) (n : Nat) : (x0.setCtr c n).debugHalt = x0.debugHalt := by cases c <;> rfl
@[simp] theorem Thread.setCtr_debugStep (x0 : Thread) (c : Ctr) (n : Nat) : (x0.setCtr c n).debugStep = x0.debugStep := by cases c <;> rfl
@[simp] theorem Thread.setCtr_undo (x0 : Thread) (c : Ctr) (n : Nat) : (x0.setCtr c n).undo = x0.undo := by cases c <;> rfl
@[simp] theorem Thread.setCtr_evicted (x0 : Thread) (c : Ctr) (n : Nat) : (x0.setCtr c n).evicted = x0.evicted := by cases c <;> rfl

end Sys2Proof.Machine
end

