-- ==== Sys2Proof/Laws/Ops.lean ====
section
/-!
SUPPORT. What the shared operations do, said once: threads and cores after an update, an instruction that completes in sequence, a false guard.
-/

namespace Sys2Proof.Machine

@[simp] theorem State.thread_setThread (s : State) (t : Nat) (x : Thread) : (s.setThread t x).thread t = x := by
  simp [State.thread, State.setThread]

theorem State.thread_setThread_ne (s : State) {t u : Nat} (x : Thread) (h : u ≠ t) : (s.setThread t x).thread u = s.thread u := by
  simp [State.thread, State.setThread, Tab.get_set_ne _ _ _ h]

@[simp] theorem State.thread_modThread (s : State) (t : Nat) (f : Thread → Thread) : (s.modThread t f).thread t = f (s.thread t) := by
  simp [State.modThread]

@[simp] theorem State.self_modSelf (s : State) (f : Thread → Thread) : (s.modSelf f).self = f s.self := by
  simp [State.self, State.modSelf]

@[simp] theorem State.self_setG (s : State) (d : BitVec 5) (x : Word) : (s.setG d x).self = s.self.setG d x := by
  simp [State.setG]

@[simp] theorem State.self_setP (s : State) (d : BitVec 3) (c : Bool) : (s.setP d c).self = s.self.setP d c := by
  simp [State.setP]

@[simp] theorem State.setThread_setThread (s : State) (t : Nat) (x y : Thread) : (s.setThread t x).setThread t y = s.setThread t y := by
  simp [State.setThread]

@[simp] theorem State.modSelf_modSelf (s : State) (f h : Thread → Thread) : (s.modSelf f).modSelf h = s.modSelf fun x => h (f x) := by
  simp [State.modSelf, State.modThread]

@[simp] theorem State.coreAt_setCore (s : State) (c : Coord) (k : Core) : (s.setCore c k).coreAt c = k := by
  simp [State.coreAt, State.setCore]

theorem State.coreAt_setCore_ne (s : State) {c e : Coord} (k : Core) (h : e ≠ c) : (s.setCore c k).coreAt e = s.coreAt e := by
  have : e.toNat ≠ c.toNat := fun h' => h (BitVec.eq_of_toNat_eq h')
  simp [State.coreAt, State.setCore, Tab.get_set_ne _ _ _ this]

/-- No loop ends at the next address: the loop check changes nothing (R273). -/
theorem loopCheck_off (t : Thread) (n : Word)
    (h : ¬ (n = t.lend &&& 0xFFFFFFFFFFFE ∧ Word.field t.lend 48 2 = t.pl ∧ t.lc ≠ 0)) : loopCheck t n = (t, n) := by
  unfold loopCheck
  rw [if_neg]
  simpa [and_assoc] using h

/-- The next address of an instruction, in the width of the PC (R44). -/
theorem pc_add (pc : BitVec 48) (n : Nat) : (pc.setWidth 64 + BitVec.ofNat 64 n).setWidth 48 = pc + BitVec.ofNat 48 n := by
  apply BitVec.eq_of_toNat_eq
  simp [BitVec.toNat_add]

/-- Completion in sequence, without a single step and without the end of a loop, moves the PC and records the issue (R266, R273, R377). -/
theorem State.complete_off (s : State) (size : Nat)
    (h : ¬ (s.self.pc.setWidth 64 + BitVec.ofNat 64 size = s.self.lend &&& 0xFFFFFFFFFFFE ∧
      Word.field s.self.lend 48 2 = s.self.pl ∧ s.self.lc ≠ 0)) :
    s.complete size false = s.modSelf fun x =>
      { x with pc := s.self.pc + BitVec.ofNat 48 size, stalled := false, deferred := false, lastIssue := s.fresh, issuedNow := true, woken := false } := by
  have hl := loopCheck_off s.self _ h
  unfold State.self at hl
  simp only [State.complete, State.completeFor, hl, State.modSelf, State.modThread, Thread.issued, pc_add, State.self]
  rfl

/-- A false guard: the instruction completes with no effect (R56). -/
theorem guarded_false (g : BitVec 4) (s : State) (b : Body) (h : guardTrue s.self g = false) :
    guarded g s b = .next (s.complete 4 s.self.sstep) := by
  simp [guarded, h]

/-- A true guard: the body decides (R56). -/
theorem guarded_true (g : BitVec 4) (s : State) (b : Body) (h : guardTrue s.self g = true) : guarded g s b = finish 4 s b := by
  simp [guarded, h]

/-- Every ending of a body is a next state (R4). -/
theorem finish_next (n : Nat) (s : State) (b : Body) : ∃ t, finish n s b = .next t := by
  cases b with
  | ok s' => exact ⟨_, rfl⟩
  | error e => cases e <;> exact ⟨_, rfl⟩

theorem guarded_next (g : BitVec 4) (s : State) (b : Body) : ∃ t, guarded g s b = .next t := by
  unfold guarded
  split
  · exact finish_next _ _ _
  · exact ⟨_, rfl⟩

end Sys2Proof.Machine
end

