-- ==== Sys2Proof/Laws/Claims.lean ====
section
/-!
SUPPORT. The words of the obligations beside the operations of the machine: an instruction that changes its own thread only; what waking
changes; and what the request in hand leaves as it is.
-/

namespace Sys2Proof.Claims

open Sys2Proof.Machine

/-- A satisfied guard lets the body decide (R56). -/
theorem Guard.true {s : State} {g : BitVec 4} (h : Guard s g) : guardTrue s.self g = true := by
  unfold Guard at h; unfold guardTrue; simp [h]

/-- An instruction whose body changes its own thread, but not what the loop check reads, completes in sequence. -/
theorem finish_self (s : State) (size : Nat) (h : Plain s size) (f : Thread → Thread)
    (h1 : (f s.self).pc = s.self.pc) (h2 : (f s.self).lend = s.self.lend) (h3 : (f s.self).lc = s.self.lc)
    (h4 : (f s.self).pl = s.self.pl) : finish size s (.ok (s.modSelf f)) = onlySelf s size f := by
  unfold finish
  simp only [h.1]
  rw [State.complete_off]
  · simp only [onlySelf, past, issuedAt, State.modSelf_modSelf, State.self_modSelf, h1]
    rfl
  · simp only [State.self_modSelf, h1, h2, h3, h4]
    exact h.2

/-- An instruction that writes one general register. -/
theorem finish_setG (s : State) (size : Nat) (h : Plain s size) (d : BitVec 5) (v : Word) :
    finish size s (.ok (s.setG d v)) = writesG s size d v := by
  apply finish_self s size h
  all_goals simp [Thread.pl]

/-- An instruction that writes one predicate. -/
theorem finish_setP (s : State) (size : Nat) (h : Plain s size) (d : BitVec 3) (c : Bool) :
    finish size s (.ok (s.setP d c)) = writesP s size d c := by
  apply finish_self s size h
  all_goals simp [Thread.pl]

/-! ## Waking -/

theorem wakesOnly_of_threads {s u : State} (h : u.threads = s.threads) : wakesOnly s u := by
  intro t; simp [State.thread, h]

theorem wakesOnly_trans {s u v : State} (h : wakesOnly s u) (h' : wakesOnly u v) : wakesOnly s v := by
  intro t
  have a := h t
  have b := h' t
  simp only at a b ⊢
  rw [a] at b
  exact b

/-- A thread replaced by itself but for what waking changes. -/
theorem wakesOnly_setThread (s : State) (t : Nat) (x : Thread)
    (h : x = { s.thread t with park := x.park, woken := x.woken, place := x.place, joinedAt := x.joinedAt, issuedNow := x.issuedNow }) :
    wakesOnly s (s.setThread t x) := by
  intro n
  simp only [State.setThread, State.thread, Tab.get_set]
  split
  · subst n; exact h
  · rfl

theorem wakesOnly_foldl {α : Type} (f : State → α → State) (h : ∀ s a, wakesOnly s (f s a)) (l : List α) (s : State) :
    wakesOnly s (l.foldl f s) := by
  induction l generalizing s with
  | nil => exact wakesOnly_of_threads rfl
  | cons a l ih => exact wakesOnly_trans (h s a) (ih _)

theorem fillSlots_wakesOnly (s : State) (c : Coord) : wakesOnly s (s.fillSlots c) := by
  unfold State.fillSlots
  split
  · exact wakesOnly_of_threads rfl
  · refine wakesOnly_foldl _ (fun s n => ?_) _ _
    simp only
    split
    · exact wakesOnly_of_threads rfl
    · split
      · exact wakesOnly_setThread _ _ _ rfl
      · exact wakesOnly_of_threads rfl

theorem joinList_wakesOnly (s : State) (t : Nat) : wakesOnly s (s.joinList t) :=
  wakesOnly_trans (wakesOnly_setThread s t _ rfl) (wakesOnly_of_threads rfl)

/-- A thread that wakes, or is not parked: no thread changes but as waking does (R263). -/
theorem wakeThread_wakesOnly (s : State) (t : Nat) : wakesOnly s (s.wakeThread t) := by
  simp only [State.wakeThread]
  split
  · exact wakesOnly_of_threads rfl
  · split
    · exact wakesOnly_trans (wakesOnly_trans (wakesOnly_setThread s t _ rfl) (joinList_wakesOnly _ t)) (fillSlots_wakesOnly _ _)
    · exact wakesOnly_setThread s t _ rfl

/-- Poppers that wake: no thread changes but as waking does (R289). -/
theorem wakePoppers_wakesOnly (s : State) (c : Coord) (ctx : CtxId) : wakesOnly s (s.wakePoppers c ctx) :=
  wakesOnly_foldl _ (fun s (e : Nat × Thread) => wakesOnly_trans (wakesOnly_setThread s e.1 _ rfl) (wakeThread_wakesOnly _ e.1)) _ _

end Sys2Proof.Claims

namespace Sys2Proof.Machine

/-! ## The request in hand

Taking its source uses up nothing that the responder looks at. -/

@[simp] theorem State.nextRequest_heard (s : State) (src : Option Byte) : s.nextRequest.heard src = s.heard src := rfl
@[simp] theorem State.nextRequest_sec (s : State) : s.nextRequest.sec = s.sec := rfl
@[simp] theorem State.nextRequest_parts (s : State) : s.nextRequest.parts = s.parts := rfl
@[simp] theorem State.nextRequest_part (s : State) (p : Nat) : s.nextRequest.part p = s.part p := rfl
@[simp] theorem State.nextRequest_answers (s : State) : s.nextRequest.answers = s.answers := rfl
@[simp] theorem State.nextRequest_fresh (s : State) : s.nextRequest.fresh = s.fresh := rfl
@[simp] theorem State.nextRequest_mem (s : State) : s.nextRequest.mem = s.mem := rfl
@[simp] theorem State.nextRequest_threads (s : State) : s.nextRequest.threads = s.threads := rfl
@[simp] theorem State.nextRequest_resetting (s : State) : s.nextRequest.resetting = s.resetting := rfl
@[simp] theorem State.nextRequest_tokenOk (s : State) (tok : List Byte) (x : Word) : s.nextRequest.tokenOk tok x = s.tokenOk tok x := rfl
@[simp] theorem State.nextRequest_allMeasurements (s : State) : s.nextRequest.allMeasurements = s.allMeasurements := rfl
@[simp] theorem State.nextRequest_blockOf (s : State) (i : Nat) : s.nextRequest.blockOf i = s.blockOf i := rfl

end Sys2Proof.Machine
end

