-- ==== Sys2Proof/Laws/Memory.lean ====
section
/-!
SUPPORT. Memory: what a byte reads after a write, and that every operation on memory keeps its canonical form (log entry 1).
-/

namespace Sys2Proof.Machine

/-- Every listed address lies above `a`. -/
def Memory.Above (a : Nat) (m : List Host.Cell) : Prop := ∀ c ∈ m, a < c.1

theorem Memory.wf_cons (k : Nat) (b : Byte) (m : List Host.Cell) :
    Memory.wf ((k, b) :: m) = true ↔ b ≠ 0 ∧ Memory.Above k m ∧ Memory.wf m = true := by
  induction m generalizing k b with
  | nil => simp [Memory.wf, Memory.Above]
  | cons e m ih =>
    obtain ⟨k', b'⟩ := e
    simp only [Memory.wf, Bool.and_eq_true, decide_eq_true_eq, bne_iff_ne, ne_eq]
    constructor
    · rintro ⟨⟨h1, h2⟩, h3⟩
      refine ⟨h2, ?_, h3⟩
      have h4 := ((ih k' b').1 h3).2.1
      intro c hc
      rcases List.mem_cons.1 hc with rfl | hc
      · exact h1
      · exact lt_trans h1 (h4 c hc)
    · rintro ⟨h1, h2, h3⟩
      exact ⟨⟨h2 (k', b') (by simp), h1⟩, h3⟩

theorem Memory.read_above {a : Nat} {m : List Host.Cell} (h : Memory.Above a m) : Memory.read m a = 0 := by
  cases m with
  | nil => rfl
  | cons e m =>
    obtain ⟨k, b⟩ := e
    have hk : a < k := h (k, b) (by simp)
    simp [Memory.read, hk, Nat.ne_of_lt hk]

theorem Memory.mem_write {m : List Host.Cell} {a : Nat} {x : Byte} {c : Host.Cell} (h : c ∈ Memory.write m a x) :
    c ∈ m ∨ c = (a, x) := by
  induction m with
  | nil =>
    simp only [Memory.write] at h
    split at h <;> simp_all
  | cons e m ih =>
    obtain ⟨k, b⟩ := e
    simp only [Memory.write] at h
    split at h
    · split at h
      · exact Or.inl h
      · rcases List.mem_cons.1 h with h | h
        · exact Or.inr h
        · exact Or.inl h
    · split at h
      · split at h
        · exact Or.inl (List.mem_cons_of_mem _ h)
        · rcases List.mem_cons.1 h with h | h
          · exact Or.inr h
          · exact Or.inl (List.mem_cons_of_mem _ h)
      · rcases List.mem_cons.1 h with h | h
        · exact Or.inl (h ▸ List.mem_cons_self)
        · exact (ih h).imp (List.mem_cons_of_mem _) id

/-- A write of a byte keeps the canonical form. -/
theorem Memory.wf_write {m : List Host.Cell} (h : Memory.wf m = true) (a : Nat) (x : Byte) : Memory.wf (Memory.write m a x) = true := by
  induction m with
  | nil => simp only [Memory.write]; split <;> simp_all [Memory.wf]
  | cons e m ih =>
    obtain ⟨k, b⟩ := e
    obtain ⟨h1, h2, h3⟩ := (Memory.wf_cons k b m).1 h
    simp only [Memory.write]
    split
    · rename_i hk
      split
      · exact h
      · rename_i hx
        refine (Memory.wf_cons _ _ _).2 ⟨hx, ?_, h⟩
        intro c hc
        rcases List.mem_cons.1 hc with rfl | hc
        · exact hk
        · exact lt_trans hk (h2 c hc)
    · split
      · rename_i hk
        split
        · exact h3
        · rename_i hx; exact (Memory.wf_cons _ _ _).2 ⟨hx, hk ▸ h2, h3⟩
      · rename_i h4 h5
        refine (Memory.wf_cons _ _ _).2 ⟨h1, ?_, ih h3⟩
        intro c hc
        rcases Memory.mem_write hc with hc | rfl
        · exact h2 c hc
        · exact lt_of_le_of_ne (not_lt.1 h4) (Ne.symm h5)

/-- A byte reads as it was written. -/
theorem Memory.read_write_self {m : List Host.Cell} (h : Memory.wf m = true) (a : Nat) (x : Byte) :
    Memory.read (Memory.write m a x) a = x := by
  induction m with
  | nil => simp only [Memory.write]; split <;> simp_all [Memory.read]
  | cons e m ih =>
    obtain ⟨k, b⟩ := e
    obtain ⟨h1, h2, h3⟩ := (Memory.wf_cons k b m).1 h
    simp only [Memory.write]
    split
    · rename_i hk
      split
      · rename_i hx; simp [Memory.read, hk, Nat.ne_of_lt hk, hx]
      · simp [Memory.read]
    · split
      · rename_i hk
        split
        · rename_i hx; rw [hx]; exact Memory.read_above (hk ▸ h2)
        · simp [Memory.read]
      · rename_i h4 h5; simp [Memory.read, h4, h5, ih h3]

/-- Every other byte reads as before. -/
theorem Memory.read_write_ne {m : List Host.Cell} (h : Memory.wf m = true) {a i : Nat} (x : Byte) (hi : i ≠ a) :
    Memory.read (Memory.write m a x) i = Memory.read m i := by
  induction m with
  | nil => simp only [Memory.write]; split <;> simp [Memory.read, hi]
  | cons e m ih =>
    obtain ⟨k, b⟩ := e
    obtain ⟨h1, h2, h3⟩ := (Memory.wf_cons k b m).1 h
    simp only [Memory.write]
    split
    · rename_i hk
      split
      · rfl
      · simp only [Memory.read, hi, if_false]
        split
        · rename_i hl
          have : i < k := lt_trans hl hk
          simp [this, Nat.ne_of_lt this]
        · rfl
    · split
      · rename_i hk
        subst hk
        split
        · by_cases hl : i < a
          · have h4 : Memory.Above i m := fun c hc => lt_trans hl (h2 c hc)
            simp [Memory.read, hi, hl, Memory.read_above h4]
          · simp [Memory.read, hi, hl]
        · simp [Memory.read, hi]
      · simp only [Memory.read, ih h3]

/-- A write of bytes keeps the canonical form. -/
theorem Memory.wf_writeList {m : List Host.Cell} (h : Memory.wf m = true) (a : Nat) (bs : List Byte) :
    Memory.wf (Memory.writeList m a bs) = true := by
  induction bs generalizing m a with
  | nil => exact h
  | cons b bs ih => exact ih (Memory.wf_write h a b) (a + 1)

/-- A part of a canonical memory is canonical. -/
theorem Memory.wf_filter {m : List Host.Cell} (h : Memory.wf m = true) (f : Host.Cell → Bool) : Memory.wf (m.filter f) = true := by
  induction m with
  | nil => rfl
  | cons e m ih =>
    obtain ⟨k, b⟩ := e
    obtain ⟨h1, h2, h3⟩ := (Memory.wf_cons k b m).1 h
    by_cases hf : f (k, b) = true
    · rw [List.filter_cons_of_pos hf]
      exact (Memory.wf_cons _ _ _).2 ⟨h1, fun c hc => h2 c (List.mem_of_mem_filter hc), ih h3⟩
    · rw [List.filter_cons_of_neg hf]; exact ih h3

/-- Clearing a range keeps the canonical form. -/
theorem Memory.wf_clear {m : List Host.Cell} (h : Memory.wf m = true) (lo hi : Nat) : Memory.wf (Memory.clear m lo hi) = true :=
  Memory.wf_filter h _

/-- Moving a range keeps the canonical form. -/
theorem Memory.wf_copyRange {m : List Host.Cell} (h : Memory.wf m = true) (src dst len : Nat) :
    Memory.wf (Memory.copyRange m src dst len) = true := by
  unfold Memory.copyRange
  generalize (m.filter fun c => src ≤ c.1 && c.1 < src + len) = l
  have := Memory.wf_clear h dst (dst + len)
  revert this
  generalize Memory.clear m dst (dst + len) = acc
  intro this
  induction l generalizing acc with
  | nil => exact this
  | cons c l ih => exact ih _ (Memory.wf_write this _ _)

/-- Two canonical memories that read alike are equal. -/
theorem Memory.ext {m n : List Host.Cell} (hm : Memory.wf m = true) (hn : Memory.wf n = true)
    (h : ∀ a, Memory.read m a = Memory.read n a) : m = n := by
  induction m generalizing n with
  | nil =>
    cases n with
    | nil => rfl
    | cons e n =>
      obtain ⟨k, b⟩ := e
      have := h k
      simp only [Memory.read, if_true] at this
      exact absurd this.symm ((Memory.wf_cons k b n).1 hn).1
  | cons e m ih =>
    obtain ⟨k, b⟩ := e
    obtain ⟨h1, h2, h3⟩ := (Memory.wf_cons k b m).1 hm
    cases n with
    | nil =>
      have := h k
      simp only [Memory.read, if_true] at this
      exact absurd this h1
    | cons e n =>
      obtain ⟨k', b'⟩ := e
      obtain ⟨g1, g2, g3⟩ := (Memory.wf_cons k' b' n).1 hn
      have hk : k = k' := by
        rcases lt_trichotomy k k' with hl | he | hl
        · have := h k
          simp [Memory.read, hl, Nat.ne_of_lt hl] at this
          exact absurd this h1
        · exact he
        · have := h k'
          simp [Memory.read, hl, Nat.ne_of_lt hl] at this
          exact absurd this.symm g1
      subst hk
      have hb : b = b' := by simpa [Memory.read] using h k
      subst hb
      congr 1
      apply ih h3 g3
      intro a
      have := h a
      simp only [Memory.read] at this
      rcases lt_trichotomy a k with hl | rfl | hl
      · rw [Memory.read_above fun c hc => lt_trans hl (h2 c hc), Memory.read_above fun c hc => lt_trans hl (g2 c hc)]
      · rw [Memory.read_above h2, Memory.read_above g2]
      · simpa [Nat.ne_of_gt hl, Nat.lt_asymm hl] using this

@[simp] theorem State.putBytes_mem (s : State) (a : Nat) (bs : List Byte) : (s.putBytes a bs).mem = Memory.writeList s.mem a bs := rfl

/-- A store of bytes keeps memory canonical. -/
theorem State.wf_putBytes {s : State} (h : Memory.wf s.mem = true) (a : Nat) (bs : List Byte) :
    Memory.wf (s.putBytes a bs).mem = true := Memory.wf_writeList h a bs

theorem State.wf_putWord {s : State} (h : Memory.wf s.mem = true) (a : Nat) (x : Word) :
    Memory.wf (s.putWord a x).mem = true := Memory.wf_writeList h a _

/-- Memory after reset lists nothing. -/
theorem reset_memory_wf : Memory.wf State.reset.mem = true := rfl

end Sys2Proof.Machine
end

