-- ==== Sys2Proof/Laws/Frames.lean ====
section
/-!
SUPPORT. What the shared operations leave alone: taking and leaving exceptions, slots and run lists, waking, halts and soft errors change no byte
of memory, and the endings of an instruction add nothing to what its body wrote.
-/

namespace Sys2Proof.Machine

/-- A property that each round keeps holds after all of them. -/
theorem foldl_keeps {α β : Type} {P : β → Prop} {f : β → α → β} (hf : ∀ b a, P b → P (f b a)) (l : List α) {b : β} (h : P b) :
    P (l.foldl f b) := by
  induction l generalizing b with
  | nil => exact h
  | cons a l ih => exact ih (hf b a h)

theorem foldl_mem {α : Type} {f : State → α → State} (hf : ∀ s a, (f s a).mem = s.mem) (l : List α) (s : State) :
    (l.foldl f s).mem = s.mem :=
  foldl_keeps (P := fun u => u.mem = s.mem) (fun b a h => (hf b a).trans h) l rfl

/-! ## Halts -/

@[simp] theorem State.haltCtx_threads (s : State) (c : CtxId) (h : Halt) : (s.haltCtx c h).threads = s.threads := rfl
@[simp] theorem State.haltCtx_cores (s : State) (c : CtxId) (h : Halt) : (s.haltCtx c h).cores = s.cores := rfl
@[simp] theorem State.haltCtx_mem (s : State) (c : CtxId) (h : Halt) : (s.haltCtx c h).mem = s.mem := rfl
@[simp] theorem State.haltCtx_net (s : State) (c : CtxId) (h : Halt) : (s.haltCtx c h).net = s.net := rfl
@[simp] theorem State.haltCtx_cur (s : State) (c : CtxId) (h : Halt) : (s.haltCtx c h).cur = s.cur := rfl
@[simp] theorem State.haltCtx_fresh (s : State) (c : CtxId) (h : Halt) : (s.haltCtx c h).fresh = s.fresh := rfl

/-- A halt stays with its first cause (R381). -/
theorem State.haltCtx_again (s : State) (c : CtxId) (h : Halt) (hs : (s.ctxOf c).halt.isSome = true) :
    ((s.haltCtx c h).ctxOf c).halt = (s.ctxOf c).halt := by
  simp [State.haltCtx, State.modCtx, State.ctxOf] at *
  simp [hs]

/-- After a halt begins its context is halted, and no other is that was not (R381). -/
theorem State.halted_haltCtx (s : State) (c d : CtxId) (h : Halt) :
    (s.haltCtx c h).halted d = (s.halted d || d == c) := by
  by_cases hd : d = c
  · subst hd
    simp only [State.halted, State.haltCtx, State.modCtx, State.ctxOf, Tab.get_set_self]
    by_cases hc : (Tab.get s.ctxs {} d.toNat).halt.isSome = true <;> simp [hc]
  · have : d.toNat ≠ c.toNat := fun h' => hd (BitVec.eq_of_toNat_eq h')
    simp [State.halted, State.haltCtx, State.modCtx, State.ctxOf, Tab.get_set_ne _ _ _ this, hd]

/-! ## Slots and run lists -/

@[simp] theorem State.takeSlot_mem (s : State) (c : Coord) (n t : Nat) : (s.takeSlot c n t).mem = s.mem := rfl

@[simp] theorem State.fillSlots_mem (s : State) (c : Coord) : (s.fillSlots c).mem = s.mem := by
  unfold State.fillSlots
  split
  · rfl
  · apply foldl_mem
    intro s n
    dsimp only
    split
    · rfl
    · split <;> simp

@[simp] theorem State.joinList_mem (s : State) (t : Nat) : (s.joinList t).mem = s.mem := rfl

@[simp] theorem State.wakeThread_mem (s : State) (t : Nat) : (s.wakeThread t).mem = s.mem := by
  unfold State.wakeThread
  dsimp only
  split
  · rfl
  · split <;> simp

@[simp] theorem State.wake_mem (s : State) (f : Thread → Bool) : (s.wake f).mem = s.mem := foldl_mem (by simp) _ _

@[simp] theorem State.modLive_mem (s : State) (c : CtxId) (n : BitVec 32) (f : Nat → Nat) : (s.modLive c n f).mem = s.mem := rfl

@[simp] theorem State.unplace_mem (s : State) (t : Nat) : (s.unplace t).mem = s.mem := by
  unfold State.unplace
  dsimp only
  split <;> simp

/-! ## Exceptions -/

@[simp] theorem State.toService_mem (s : State) (t : Nat) (u : Undo) : (s.toService t u).mem = s.mem := by
  unfold State.toService
  dsimp only
  split <;> simp

@[simp] theorem State.deliverAt_mem (s : State) (t : Nat) (e : Exc) (n : Nat) : (s.deliverAt t e n).mem = s.mem := by
  induction n generalizing e with
  | zero => simp [State.deliverAt]
  | succ n ih =>
    simp only [State.deliverAt]
    repeat' split
    all_goals simp [ih]

@[simp] theorem State.deliver_mem (s : State) (t : Nat) (e : Exc) : (s.deliver t e).mem = s.mem := State.deliverAt_mem _ _ _ _

@[simp] theorem State.raise_mem (s : State) (c : Nat) (v : Word) (f : Nat) : (s.raise c v f).mem = s.mem := by
  unfold State.raise; split <;> simp

@[simp] theorem State.raiseAsync_mem (s : State) (t : Nat) (p : Pend) : (s.raiseAsync t p).mem = s.mem := State.deliver_mem _ _ _

@[simp] theorem State.stepTrap_mem (s : State) (t : Nat) (pc : BitVec 48) (i : Option (BitVec 12)) : (s.stepTrap t pc i).mem = s.mem :=
  State.deliver_mem _ _ _

@[simp] theorem State.backFromService_mem (s : State) (t : Nat) : (s.backFromService t).mem = s.mem := by
  simp [State.backFromService]

@[simp] theorem State.leaveForHyp_mem (s : State) (t : Nat) : (s.leaveForHyp t).mem = s.mem := by
  unfold State.leaveForHyp
  dsimp only
  split <;> simp

@[simp] theorem State.tret_mem (s : State) (w : Word) : (s.tret w).mem = s.mem := by
  unfold State.tret
  dsimp only
  repeat' split
  all_goals simp

/-! ## The endings of an instruction -/

@[simp] theorem State.completeFor_mem (s : State) (t n : Nat) (b : Bool) : (s.completeFor t n b).mem = s.mem := by
  unfold State.completeFor
  dsimp only
  split <;> simp

@[simp] theorem State.complete_mem (s : State) (n : Nat) (b : Bool) : (s.complete n b).mem = s.mem := State.completeFor_mem _ _ _ _

@[simp] theorem State.jumpTo_mem (s : State) (pc : BitVec 48) : (s.jumpTo pc).mem = s.mem := by
  unfold State.jumpTo State.jumpFor
  dsimp only
  split <;> simp

@[simp] theorem State.trapAfter_mem (s : State) (w : Word) : (s.trapAfter w).mem = s.mem := by
  unfold State.trapAfter
  dsimp only
  split <;> simp

/-- The state that a body leaves, if it leaves one. -/
def Body.left : Body → Option State
  | .ok s => some s
  | .error (.jump s _) | .error (.wait _ s) | .error (.held s) | .error (.left s) | .error (.trapAfter s _)
  | .error (.deliverPending _ s) => some s
  | .error (.trap ..) | .error (.halt _) | .error .later => none

/-- An instruction ends with the memory that its body left; a trap or a halt leaves memory as it was. -/
theorem finish_mem {n : Nat} {s t : State} {b : Body} (h : finish n s b = .next t) :
    t.mem = ((Body.left b).map (·.mem)).getD s.mem := by
  unfold finish at h
  split at h <;> cases h <;> simp [Body.left]

theorem guarded_mem {g : BitVec 4} {s t : State} {b : Body} (h : guarded g s b = .next t) :
    t.mem = s.mem ∨ t.mem = ((Body.left b).map (·.mem)).getD s.mem := by
  unfold guarded at h
  split at h
  · exact Or.inr (finish_mem h)
  · cases h; simp

/-! ## Soft errors -/

theorem foldl_threads {α : Type} {f : State → α → State} (hf : ∀ s a, (f s a).threads = s.threads) (l : List α) (s : State) :
    (l.foldl f s).threads = s.threads :=
  foldl_keeps (P := fun u => u.threads = s.threads) (fun b a h => (hf b a).trans h) l rfl

@[simp] theorem State.logError_mem (s : State) (d r : Nat) (u : Coord) (ue h : Bool) (c : CtxId) (a : Nat) :
    (s.logError d r u ue h c a).mem = s.mem := rfl
@[simp] theorem State.logError_threads (s : State) (d r : Nat) (u : Coord) (ue h : Bool) (c : CtxId) (a : Nat) :
    (s.logError d r u ue h c a).threads = s.threads := rfl

@[simp] theorem State.markBad_mem (s : State) (r : Nat) (u : Coord) (l : Nat) : (s.markBad r u l).mem = s.mem := by
  unfold State.markBad; split <;> rfl
@[simp] theorem State.markBad_threads (s : State) (r : Nat) (u : Coord) (l : Nat) : (s.markBad r u l).threads = s.threads := by
  unfold State.markBad; split <;> rfl

@[simp] theorem State.correctable_mem (s : State) (r : Nat) (u : Coord) (a : Nat) : (s.correctable r u a).mem = s.mem := by
  simp only [State.correctable]; split <;> rfl
@[simp] theorem State.correctable_threads (s : State) (r : Nat) (u : Coord) (a : Nat) : (s.correctable r u a).threads = s.threads := by
  simp only [State.correctable]; split <;> rfl

@[simp] theorem State.uncorrectable_mem (s : State) (r : Nat) (u : Coord) (l : Nat) (c : CtxId) (k : Nat) :
    (s.uncorrectable r u l c k).mem = s.mem := by
  simp only [State.uncorrectable]
  split
  · exact (foldl_mem (fun s c => State.haltCtx_mem s c _) _ _).trans (by simp)
  · simp
@[simp] theorem State.uncorrectable_threads (s : State) (r : Nat) (u : Coord) (l : Nat) (c : CtxId) (k : Nat) :
    (s.uncorrectable r u l c k).threads = s.threads := by
  simp only [State.uncorrectable]
  split
  · exact (foldl_threads (fun s c => State.haltCtx_threads s c _) _ _).trans (by simp)
  · simp

@[simp] theorem State.meetUnit_mem (s : State) (u : Coord) (c : CtxId) (k : Nat) (x : Nat × Nat × Nat) :
    (s.meetUnit u c k x).mem = s.mem := by
  simp only [State.meetUnit]; repeat' split
  all_goals simp
@[simp] theorem State.meetUnit_threads (s : State) (u : Coord) (c : CtxId) (k : Nat) (x : Nat × Nat × Nat) :
    (s.meetUnit u c k x).threads = s.threads := by
  simp only [State.meetUnit]; repeat' split
  all_goals simp

@[simp] theorem State.meetErrors_mem (s : State) (r : Nat) (u : Coord) (l n : Nat) (c : CtxId) (k : Nat) :
    (s.meetErrors r u l n c k).mem = s.mem := foldl_mem (by simp) _ _
@[simp] theorem State.meetErrors_threads (s : State) (r : Nat) (u : Coord) (l n : Nat) (c : CtxId) (k : Nat) :
    (s.meetErrors r u l n c k).threads = s.threads := foldl_threads (by simp) _ _

/-- Where no error stands a read meets none: nothing changes (R396). -/
theorem State.meetErrors_none (s : State) (r : Nat) (u : Coord) (l n : Nat) (c : CtxId) (k : Nat)
    (h : s.softUnits = []) (h' : s.badUnits = []) : s.meetErrors r u l n c k = s := by
  simp [State.meetErrors, h, h']

@[simp] theorem State.noticeErrors_mem (s : State) (r : Nat) (u : Coord) (l n : Nat) : (s.noticeErrors r u l n).mem = s.mem := by
  unfold State.noticeErrors
  apply foldl_mem
  intro s x
  dsimp only
  repeat' split
  all_goals simp
@[simp] theorem State.noticeErrors_threads (s : State) (r : Nat) (u : Coord) (l n : Nat) : (s.noticeErrors r u l n).threads = s.threads := by
  unfold State.noticeErrors
  apply foldl_threads
  intro s x
  dsimp only
  repeat' split
  all_goals simp

@[simp] theorem State.meetFor_mem (s : State) (c : Option CtxId) (r : Nat) (u : Coord) (l n k : Nat) : (s.meetFor c r u l n k).mem = s.mem := by
  unfold State.meetFor; split <;> simp
@[simp] theorem State.meetFor_threads (s : State) (c : Option CtxId) (r : Nat) (u : Coord) (l n k : Nat) :
    (s.meetFor c r u l n k).threads = s.threads := by
  unfold State.meetFor; split <;> simp

@[simp] theorem State.mendWhere_mem (s : State) (f : Nat × Nat × Nat → Bool) : (s.mendWhere f).mem = s.mem := rfl
@[simp] theorem State.mendWhere_threads (s : State) (f : Nat × Nat × Nat → Bool) : (s.mendWhere f).threads = s.threads := rfl
@[simp] theorem State.mend_mem (s : State) (r : Nat) (u : Coord) (l n : Nat) : (s.mend r u l n).mem = s.mem := rfl
@[simp] theorem State.mend_threads (s : State) (r : Nat) (u : Coord) (l n : Nat) : (s.mend r u l n).threads = s.threads := rfl
@[simp] theorem State.mendMarks_mem (s : State) (t : Nat) (g : BitVec 32) (v : BitVec 16) : (s.mendMarks t g v).mem = s.mem := rfl
@[simp] theorem State.mendMarks_threads (s : State) (t : Nat) (g : BitVec 32) (v : BitVec 16) : (s.mendMarks t g v).threads = s.threads := rfl

theorem State.errorFree_iff (s : State) : s.errorFree = true ↔ s.badUnits = [] ∧ s.softUnits = [] := by
  simp [State.errorFree]

/-- Where no error stands, a write has none to replace (R397). -/
theorem State.mendWhere_none {s : State} (h : s.errorFree = true) (f : Nat × Nat × Nat → Bool) : s.mendWhere f = s := by
  obtain ⟨hb, hs⟩ := s.errorFree_iff.1 h
  cases s; simp_all [State.mendWhere]

/-- Where no error stands, a read on behalf of no context finds none (R396). -/
theorem State.noticeErrors_none {s : State} (h : s.errorFree = true) (r : Nat) (u : Coord) (l n : Nat) : s.noticeErrors r u l n = s := by
  obtain ⟨hb, hs⟩ := s.errorFree_iff.1 h
  simp [State.noticeErrors, hb, hs]

/-! ## Slices and what the hardware itself reads and writes -/

/-- While no error stands, an access to the slices changes what they hold and nothing else (R22). -/
theorem State.slices_none {s : State} (h : s.errorFree = true) (t : State) : s.slices t = { s with l2 := t.l2 } := by simp [State.slices, h]

theorem State.slices_mem {s t : State} (h : t.mem = s.mem) : (s.slices t).mem = s.mem := by unfold State.slices; split <;> simp [h]
theorem State.slices_threads {s t : State} (h : t.threads = s.threads) : (s.slices t).threads = s.threads := by
  unfold State.slices; split <;> simp [h]

@[simp] theorem State.l2Take_mem (s : State) (home : Coord) (l : L2Line) : (s.l2Take home l).mem = s.mem := by
  unfold State.l2Take State.writeBack
  dsimp only
  repeat' split
  all_goals simp
@[simp] theorem State.l2Take_threads (s : State) (home : Coord) (l : L2Line) : (s.l2Take home l).threads = s.threads := by
  unfold State.l2Take State.writeBack
  dsimp only
  repeat' split
  all_goals simp

@[simp] theorem State.l2Fill_mem (s : State) (home : Coord) (pa : Nat) (c : Option CtxId) (w : Bool) (k : Nat) :
    (s.l2Fill home pa c w k).mem = s.mem := by
  unfold State.l2Fill
  dsimp only
  repeat' split
  all_goals simp
@[simp] theorem State.l2Fill_threads (s : State) (home : Coord) (pa : Nat) (c : Option CtxId) (w : Bool) (k : Nat) :
    (s.l2Fill home pa c w k).threads = s.threads := by
  unfold State.l2Fill
  dsimp only
  repeat' split
  all_goals simp

@[simp] theorem State.sliceLook_mem (s : State) (home : Coord) (pa n : Nat) (c : Option CtxId) (k : Nat) :
    (s.sliceLook home pa n c k).mem = s.mem := State.slices_mem (by simp)
@[simp] theorem State.sliceLook_threads (s : State) (home : Coord) (pa n : Nat) (c : Option CtxId) (k : Nat) :
    (s.sliceLook home pa n c k).threads = s.threads := State.slices_threads (by simp)
@[simp] theorem State.slicePut_mem (s : State) (home : Coord) (pa n : Nat) (c : Option CtxId) (k : Nat) :
    (s.slicePut home pa n c k).mem = s.mem := State.slices_mem (by simp)
@[simp] theorem State.slicePut_threads (s : State) (home : Coord) (pa n : Nat) (c : Option CtxId) (k : Nat) :
    (s.slicePut home pa n c k).threads = s.threads := State.slices_threads (by simp)

@[simp] theorem State.writeHome_mem (s : State) (c : Coord) (l : L1Line) : (s.writeHome c l).mem = s.mem := by
  unfold State.writeHome
  split
  · rfl
  · exact (State.slices_mem (by simp)).trans (by simp)
@[simp] theorem State.writeHome_threads (s : State) (c : Coord) (l : L1Line) : (s.writeHome c l).threads = s.threads := by
  unfold State.writeHome
  split
  · rfl
  · exact (State.slices_threads (by simp)).trans (by simp)

@[simp] theorem State.writeBackLines_mem (s : State) (c : Coord) (f : L1Line → Bool) : (s.writeBackLines c f).mem = s.mem := by
  unfold State.writeBackLines
  dsimp only
  split
  · rfl
  · exact foldl_mem (by simp) _ _
@[simp] theorem State.writeBackLines_threads (s : State) (c : Coord) (f : L1Line → Bool) : (s.writeBackLines c f).threads = s.threads := by
  unfold State.writeBackLines
  dsimp only
  split
  · rfl
  · exact foldl_threads (by simp) _ _

@[simp] theorem State.loseLines_mem (s : State) (c : Coord) (r : Region) : (s.loseLines c r).mem = s.mem := by simp [State.loseLines]
@[simp] theorem State.loseLines_threads (s : State) (c : Coord) (r : Region) : (s.loseLines c r).threads = s.threads := by simp [State.loseLines]

/-- A request for a line changes no byte and no thread (R189). -/
@[simp] theorem State.requestLine_mem (s : State) (line : Nat) (b : Option Coord) (take : Bool) (c : Option CtxId) :
    (s.requestLine line b take c).mem = s.mem := by
  unfold State.requestLine
  dsimp only
  repeat' split
  all_goals simp
@[simp] theorem State.requestLine_threads (s : State) (line : Nat) (b : Option Coord) (take : Bool) (c : Option CtxId) :
    (s.requestLine line b take c).threads = s.threads := by
  unfold State.requestLine
  dsimp only
  repeat' split
  all_goals simp

@[simp] theorem State.recallLines_mem (s : State) (c : Option CtxId) (pa n : Nat) : (s.recallLines c pa n).mem = s.mem := by
  unfold State.recallLines; split
  · rfl
  · exact foldl_mem (by simp) _ _
@[simp] theorem State.recallLines_threads (s : State) (c : Option CtxId) (pa n : Nat) : (s.recallLines c pa n).threads = s.threads := by
  unfold State.recallLines; split
  · rfl
  · exact foldl_threads (by simp) _ _

/-- What the hardware reads for itself changes no byte and no thread (R202). -/
@[simp] theorem State.unitRead_mem (s : State) (p : Nat) (pl : Placement) (c : Option CtxId) (pa n : Nat) : (s.unitRead p pl c pa n).mem = s.mem :=
  (State.slices_mem (foldl_mem (by simp) _ _)).trans (by simp)
@[simp] theorem State.unitRead_threads (s : State) (p : Nat) (pl : Placement) (c : Option CtxId) (pa n : Nat) :
    (s.unitRead p pl c pa n).threads = s.threads := (State.slices_threads (foldl_threads (by simp) _ _)).trans (by simp)
@[simp] theorem State.unitPut_mem (s : State) (p : Nat) (pl : Placement) (c : Option CtxId) (pa n : Nat) : (s.unitPut p pl c pa n).mem = s.mem :=
  (State.slices_mem (foldl_mem (by simp) _ _)).trans (by simp)
@[simp] theorem State.unitPut_threads (s : State) (p : Nat) (pl : Placement) (c : Option CtxId) (pa n : Nat) :
    (s.unitPut p pl c pa n).threads = s.threads := (State.slices_threads (foldl_threads (by simp) _ _)).trans (by simp)

/-- What the hardware writes for itself changes the bytes that it writes, and no thread (R383, R388). -/
@[simp] theorem State.unitWrite_mem (s : State) (p : Nat) (pl : Placement) (c : Option CtxId) (pa : Nat) (bs : List Byte) :
    (s.unitWrite p pl c pa bs).mem = (s.putBytes pa bs).mem := by simp [State.unitWrite, State.putBytes]
@[simp] theorem State.unitWrite_threads (s : State) (p : Nat) (pl : Placement) (c : Option CtxId) (pa : Nat) (bs : List Byte) :
    (s.unitWrite p pl c pa bs).threads = s.threads := by simp [State.unitWrite, State.putBytes]

/-- While no error stands and no line is owned, the hardware's own accesses change the bytes that they write and what the slices hold. -/
theorem State.unitRead_none {s : State} (h : s.errorFree = true) (hr : s.regions = []) (p : Nat) (pl : Placement) (c : Option CtxId) (pa n : Nat) :
    ∃ l, s.unitRead p pl c pa n = { s with l2 := l } := by
  have hq : s.recallLines c pa n = s := by simp [State.recallLines, hr]
  unfold State.unitRead
  simp only [hq]
  exact ⟨_, State.slices_none h _⟩
theorem State.unitWrite_none {s : State} (h : s.errorFree = true) (hr : s.regions = []) (p : Nat) (pl : Placement) (c : Option CtxId) (pa : Nat)
    (bs : List Byte) : ∃ l, s.unitWrite p pl c pa bs = { s.putBytes pa bs with l2 := l } := by
  have hq : s.recallLines c pa bs.length = s := by simp [State.recallLines, hr]
  unfold State.unitWrite State.unitPut
  simp only [hq]
  exact ⟨_, by rw [State.slices_none h]; rfl⟩

/-- An operation of a thread that is not stopped completes without a write to memory; one that is stopped has its count in its image
(R48, R385). -/
theorem State.wf_countDown {s : State} (h : Memory.wf s.mem = true) (t : Nat) (c : Ctr) (n : Nat) :
    Memory.wf (s.countDown t c n).mem = true := by
  unfold State.countDown
  split
  · exact h
  · dsimp only
    repeat' split
    all_goals first | simpa using h | (simp only [State.modThread_mem, State.wakeThread_mem, State.putRecordBytes, State.unitWrite_mem]; exact State.wf_putBytes h _ _)

end Sys2Proof.Machine
end

