-- ==== Sys2Proof/Laws/PerInstr.lean ====
section
/-!
SUPPORT. One statement for every instruction: bit 0 of its code tells its length (R52): a word ends in 1, a compact word in 0, and what is a
device operation has no code.
-/

namespace Sys2Proof.Laws.Framing

/-- Bit 0 of an instruction's code says whether it is a 32-bit word or a compact word (R52). -/
def Statement (i : Instr) : Prop :=
  match encode i with
  | .word w => w.getLsbD 0 = true
  | .half h => h.getLsbD 0 = false
  | .none => True

theorem low_one {n : Nat} (x : BitVec n) : (x ++ 1#1).getLsbD 0 = true := by simp [BitVec.getLsbD_append]
theorem low_zero {n m : Nat} (x : BitVec n) (c : BitVec (m + 1)) (h : c.getLsbD 0 = false) : (x ++ c).getLsbD 0 = false := by
  rw [BitVec.getLsbD_append]; simpa using h

theorem add (g : BitVec 4) (d : BitVec 5) (a : BitVec 5) (b : BitVec 5) : Statement (.add g d a b) := low_one _
theorem sub (g : BitVec 4) (d : BitVec 5) (a : BitVec 5) (b : BitVec 5) : Statement (.sub g d a b) := low_one _
theorem and (g : BitVec 4) (d : BitVec 5) (a : BitVec 5) (b : BitVec 5) : Statement (.and g d a b) := low_one _
theorem or (g : BitVec 4) (d : BitVec 5) (a : BitVec 5) (b : BitVec 5) : Statement (.or g d a b) := low_one _
theorem xor (g : BitVec 4) (d : BitVec 5) (a : BitVec 5) (b : BitVec 5) : Statement (.xor g d a b) := low_one _
theorem andn (g : BitVec 4) (d : BitVec 5) (a : BitVec 5) (b : BitVec 5) : Statement (.andn g d a b) := low_one _
theorem shl (g : BitVec 4) (d : BitVec 5) (a : BitVec 5) (b : BitVec 5) : Statement (.shl g d a b) := low_one _
theorem shr (g : BitVec 4) (d : BitVec 5) (a : BitVec 5) (b : BitVec 5) : Statement (.shr g d a b) := low_one _
theorem sra (g : BitVec 4) (d : BitVec 5) (a : BitVec 5) (b : BitVec 5) : Statement (.sra g d a b) := low_one _
theorem rot (g : BitVec 4) (d : BitVec 5) (a : BitVec 5) (b : BitVec 5) : Statement (.rot g d a b) := low_one _
theorem min (g : BitVec 4) (d : BitVec 5) (a : BitVec 5) (b : BitVec 5) : Statement (.min g d a b) := low_one _
theorem max (g : BitVec 4) (d : BitVec 5) (a : BitVec 5) (b : BitVec 5) : Statement (.max g d a b) := low_one _
theorem minn (g : BitVec 4) (d : BitVec 5) (a : BitVec 5) (b : BitVec 5) : Statement (.minn g d a b) := low_one _
theorem maxn (g : BitVec 4) (d : BitVec 5) (a : BitVec 5) (b : BitVec 5) : Statement (.maxn g d a b) := low_one _
theorem mov (g : BitVec 4) (d : BitVec 5) (a : BitVec 5) : Statement (.mov g d a) := low_one _
theorem sel (g : BitVec 4) (d : BitVec 5) (a : BitVec 5) (b : BitVec 5) (p : BitVec 3) : Statement (.sel g d a b p) := low_one _
theorem addi (d : BitVec 5) (a : BitVec 5) (imm : BitVec 12) : Statement (.addi d a imm) := low_one _
theorem andi (d : BitVec 5) (a : BitVec 5) (imm : BitVec 12) : Statement (.andi d a imm) := low_one _
theorem ori (d : BitVec 5) (a : BitVec 5) (imm : BitVec 12) : Statement (.ori d a imm) := low_one _
theorem xori (d : BitVec 5) (a : BitVec 5) (imm : BitVec 12) : Statement (.xori d a imm) := low_one _
theorem shli (d : BitVec 5) (a : BitVec 5) (sh : BitVec 6) : Statement (.shli d a sh) := low_one _
theorem shri (d : BitVec 5) (a : BitVec 5) (sh : BitVec 6) : Statement (.shri d a sh) := low_one _
theorem srai (d : BitVec 5) (a : BitVec 5) (sh : BitVec 6) : Statement (.srai d a sh) := low_one _
theorem movh (d : BitVec 5) (a : BitVec 5) (imm : BitVec 12) (sh : BitVec 2) : Statement (.movh d a imm sh) := low_one _
theorem movh60 (d : BitVec 5) (a : BitVec 5) (imm : BitVec 4) : Statement (.movh60 d a imm) := low_one _
theorem addpc (d : BitVec 5) (imm : BitVec 12) (sh : BitVec 3) : Statement (.addpc d imm sh) := low_one _
theorem cmp (d : BitVec 3) (a : BitVec 5) (b : BitVec 5) (cc : BitVec 3) : Statement (.cmp d a b cc) := low_one _
theorem cmpi (d : BitVec 3) (a : BitVec 5) (imm : BitVec 12) (cc : BitVec 3) : Statement (.cmpi d a imm cc) := low_one _
theorem pand (d : BitVec 3) (a : BitVec 3) (b : BitVec 3) : Statement (.pand d a b) := low_one _
theorem por (d : BitVec 3) (a : BitVec 3) (b : BitVec 3) : Statement (.por d a b) := low_one _
theorem pxor (d : BitVec 3) (a : BitVec 3) (b : BitVec 3) : Statement (.pxor d a b) := low_one _
theorem pnot (d : BitVec 3) (a : BitVec 3) : Statement (.pnot d a) := low_one _
theorem pmov (d : BitVec 3) (a : BitVec 3) : Statement (.pmov d a) := low_one _
theorem bfx (g : BitVec 4) (d : BitVec 5) (a : BitVec 5) (b : BitVec 5) : Statement (.bfx g d a b) := low_one _
theorem bfxn (g : BitVec 4) (d : BitVec 5) (a : BitVec 5) (b : BitVec 5) : Statement (.bfxn g d a b) := low_one _
theorem bfi (g : BitVec 4) (d : BitVec 5) (a : BitVec 5) (b : BitVec 5) : Statement (.bfi g d a b) := low_one _
theorem clz (g : BitVec 4) (d : BitVec 5) (a : BitVec 5) : Statement (.clz g d a) := low_one _
theorem ctz (g : BitVec 4) (d : BitVec 5) (a : BitVec 5) : Statement (.ctz g d a) := low_one _
theorem popc (g : BitVec 4) (d : BitVec 5) (a : BitVec 5) : Statement (.popc g d a) := low_one _
theorem brev (g : BitVec 4) (d : BitVec 5) (a : BitVec 5) : Statement (.brev g d a) := low_one _
theorem mul (g : BitVec 4) (d : BitVec 5) (a : BitVec 5) (b : BitVec 5) : Statement (.mul g d a b) := low_one _
theorem mulh (g : BitVec 4) (d : BitVec 5) (a : BitVec 5) (b : BitVec 5) : Statement (.mulh g d a b) := low_one _
theorem mulhn (g : BitVec 4) (d : BitVec 5) (a : BitVec 5) (b : BitVec 5) : Statement (.mulhn g d a b) := low_one _
theorem div (g : BitVec 4) (d : BitVec 5) (a : BitVec 5) (b : BitVec 5) : Statement (.div g d a b) := low_one _
theorem divn (g : BitVec 4) (d : BitVec 5) (a : BitVec 5) (b : BitVec 5) : Statement (.divn g d a b) := low_one _
theorem rem (g : BitVec 4) (d : BitVec 5) (a : BitVec 5) (b : BitVec 5) : Statement (.rem g d a b) := low_one _
theorem remn (g : BitVec 4) (d : BitVec 5) (a : BitVec 5) (b : BitVec 5) : Statement (.remn g d a b) := low_one _
theorem brp (p : BitVec 3) (off : BitVec 20) (neg : BitVec 1) : Statement (.brp p off neg) := low_one _
theorem jal (off : BitVec 25) : Statement (.jal off) := low_one _
theorem jalr (a : BitVec 5) (imm : BitVec 12) : Statement (.jalr a imm) := low_one _
theorem jmp (a : BitVec 5) (imm : BitVec 12) : Statement (.jmp a imm) := low_one _
theorem ret : Statement (.ret) := low_one _
theorem loop (a : BitVec 5) (imm : BitVec 12) : Statement (.loop a imm) := low_one _
theorem nop : Statement (.nop) := low_one _
theorem ldB (t : BitVec 5) (a : BitVec 5) (imm : BitVec 12) : Statement (.ldB t a imm) := low_one _
theorem ldH (t : BitVec 5) (a : BitVec 5) (imm : BitVec 12) : Statement (.ldH t a imm) := low_one _
theorem ldW (t : BitVec 5) (a : BitVec 5) (imm : BitVec 12) : Statement (.ldW t a imm) := low_one _
theorem ldD (t : BitVec 5) (a : BitVec 5) (imm : BitVec 12) : Statement (.ldD t a imm) := low_one _
theorem ldBN (t : BitVec 5) (a : BitVec 5) (imm : BitVec 12) : Statement (.ldBN t a imm) := low_one _
theorem ldHN (t : BitVec 5) (a : BitVec 5) (imm : BitVec 12) : Statement (.ldHN t a imm) := low_one _
theorem ldWN (t : BitVec 5) (a : BitVec 5) (imm : BitVec 12) : Statement (.ldWN t a imm) := low_one _
theorem stB (t : BitVec 5) (a : BitVec 5) (imm : BitVec 12) : Statement (.stB t a imm) := low_one _
theorem stH (t : BitVec 5) (a : BitVec 5) (imm : BitVec 12) : Statement (.stH t a imm) := low_one _
theorem stW (t : BitVec 5) (a : BitVec 5) (imm : BitVec 12) : Statement (.stW t a imm) := low_one _
theorem stD (t : BitVec 5) (a : BitVec 5) (imm : BitVec 12) : Statement (.stD t a imm) := low_one _
theorem ldAcq (t : BitVec 5) (a : BitVec 5) (zx : BitVec 1) (sz : BitVec 2) (sc : BitVec 3) : Statement (.ldAcq t a zx sz sc) := low_one _
theorem stRel (t : BitVec 5) (a : BitVec 5) (sz : BitVec 2) (sc : BitVec 3) : Statement (.stRel t a sz sc) := low_one _
theorem fenceRel (sc : BitVec 3) : Statement (.fenceRel sc) := low_one _
theorem fenceAcq (sc : BitVec 3) : Statement (.fenceAcq sc) := low_one _
theorem fenceAr (sc : BitVec 3) : Statement (.fenceAr sc) := low_one _
theorem pref (a : BitVec 5) (imm : BitVec 12) (l2 : BitVec 1) (own : BitVec 1) : Statement (.pref a imm l2 own) := low_one _
theorem discard (a : BitVec 5) (imm : BitVec 12) : Statement (.discard a imm) := low_one _
theorem clean (a : BitVec 5) (imm : BitVec 12) (depth : BitVec 1) : Statement (.clean a imm depth) := low_one _
theorem invalD (a : BitVec 5) (imm : BitVec 12) : Statement (.invalD a imm) := low_one _
theorem invalI (a : BitVec 5) (imm : BitVec 12) : Statement (.invalI a imm) := low_one _
theorem amoAdd (g : BitVec 4) (d : BitVec 5) (a : BitVec 5) (b : BitVec 5) (ord : BitVec 2) : Statement (.amoAdd g d a b ord) := low_one _
theorem amoAnd (g : BitVec 4) (d : BitVec 5) (a : BitVec 5) (b : BitVec 5) (ord : BitVec 2) : Statement (.amoAnd g d a b ord) := low_one _
theorem amoOr (g : BitVec 4) (d : BitVec 5) (a : BitVec 5) (b : BitVec 5) (ord : BitVec 2) : Statement (.amoOr g d a b ord) := low_one _
theorem amoXor (g : BitVec 4) (d : BitVec 5) (a : BitVec 5) (b : BitVec 5) (ord : BitVec 2) : Statement (.amoXor g d a b ord) := low_one _
theorem amoMin (g : BitVec 4) (d : BitVec 5) (a : BitVec 5) (b : BitVec 5) (ord : BitVec 2) : Statement (.amoMin g d a b ord) := low_one _
theorem amoMax (g : BitVec 4) (d : BitVec 5) (a : BitVec 5) (b : BitVec 5) (ord : BitVec 2) : Statement (.amoMax g d a b ord) := low_one _
theorem amoMinn (g : BitVec 4) (d : BitVec 5) (a : BitVec 5) (b : BitVec 5) (ord : BitVec 2) : Statement (.amoMinn g d a b ord) := low_one _
theorem amoMaxn (g : BitVec 4) (d : BitVec 5) (a : BitVec 5) (b : BitVec 5) (ord : BitVec 2) : Statement (.amoMaxn g d a b ord) := low_one _
theorem amoSwap (g : BitVec 4) (d : BitVec 5) (a : BitVec 5) (b : BitVec 5) (ord : BitVec 2) : Statement (.amoSwap g d a b ord) := low_one _
theorem amoCas (g : BitVec 4) (d : BitVec 5) (a : BitVec 5) (b : BitVec 5) (ord : BitVec 2) : Statement (.amoCas g d a b ord) := low_one _
theorem amoFadd (g : BitVec 4) (d : BitVec 5) (a : BitVec 5) (b : BitVec 5) (ord : BitVec 2) : Statement (.amoFadd g d a b ord) := low_one _
theorem vld (t : BitVec 4) (a : BitVec 5) (off : BitVec 8) (tag : BitVec 4) : Statement (.vld t a off tag) := low_one _
theorem vst (t : BitVec 4) (a : BitVec 5) (imm : BitVec 12) : Statement (.vst t a imm) := low_one _
theorem vadd (g : BitVec 4) (d : BitVec 4) (a : BitVec 4) (b : BitVec 4) : Statement (.vadd g d a b) := low_one _
theorem vsub (g : BitVec 4) (d : BitVec 4) (a : BitVec 4) (b : BitVec 4) : Statement (.vsub g d a b) := low_one _
theorem vmul (g : BitVec 4) (d : BitVec 4) (a : BitVec 4) (b : BitVec 4) : Statement (.vmul g d a b) := low_one _
theorem vdiv (g : BitVec 4) (d : BitVec 4) (a : BitVec 4) (b : BitVec 4) : Statement (.vdiv g d a b) := low_one _
theorem vmin (g : BitVec 4) (d : BitVec 4) (a : BitVec 4) (b : BitVec 4) : Statement (.vmin g d a b) := low_one _
theorem vmax (g : BitVec 4) (d : BitVec 4) (a : BitVec 4) (b : BitVec 4) : Statement (.vmax g d a b) := low_one _
theorem vfma (g : BitVec 4) (d : BitVec 4) (a : BitVec 4) (b : BitVec 4) : Statement (.vfma g d a b) := low_one _
theorem vfms (g : BitVec 4) (d : BitVec 4) (a : BitVec 4) (b : BitVec 4) : Statement (.vfms g d a b) := low_one _
theorem vfnma (g : BitVec 4) (d : BitVec 4) (a : BitVec 4) (b : BitVec 4) : Statement (.vfnma g d a b) := low_one _
theorem vfnms (g : BitVec 4) (d : BitVec 4) (a : BitVec 4) (b : BitVec 4) : Statement (.vfnms g d a b) := low_one _
theorem vcmp (g : BitVec 4) (d : BitVec 5) (a : BitVec 4) (b : BitVec 4) (cc : BitVec 3) : Statement (.vcmp g d a b cc) := low_one _
theorem vabs (g : BitVec 4) (d : BitVec 4) (a : BitVec 4) : Statement (.vabs g d a) := low_one _
theorem vneg (g : BitVec 4) (d : BitVec 4) (a : BitVec 4) : Statement (.vneg g d a) := low_one _
theorem vsqrt (g : BitVec 4) (d : BitVec 4) (a : BitVec 4) : Statement (.vsqrt g d a) := low_one _
theorem vrcp (g : BitVec 4) (d : BitVec 4) (a : BitVec 4) : Statement (.vrcp g d a) := low_one _
theorem vrsq (g : BitVec 4) (d : BitVec 4) (a : BitVec 4) : Statement (.vrsq g d a) := low_one _
theorem vexp2 (g : BitVec 4) (d : BitVec 4) (a : BitVec 4) : Statement (.vexp2 g d a) := low_one _
theorem vlog2 (g : BitVec 4) (d : BitVec 4) (a : BitVec 4) : Statement (.vlog2 g d a) := low_one _
theorem viadd (g : BitVec 4) (d : BitVec 4) (a : BitVec 4) (b : BitVec 4) : Statement (.viadd g d a b) := low_one _
theorem visub (g : BitVec 4) (d : BitVec 4) (a : BitVec 4) (b : BitVec 4) : Statement (.visub g d a b) := low_one _
theorem vimul (g : BitVec 4) (d : BitVec 4) (a : BitVec 4) (b : BitVec 4) : Statement (.vimul g d a b) := low_one _
theorem vimac (g : BitVec 4) (d : BitVec 4) (a : BitVec 4) (b : BitVec 4) : Statement (.vimac g d a b) := low_one _
theorem viaddS (g : BitVec 4) (d : BitVec 4) (a : BitVec 4) (b : BitVec 4) : Statement (.viaddS g d a b) := low_one _
theorem visubS (g : BitVec 4) (d : BitVec 4) (a : BitVec 4) (b : BitVec 4) : Statement (.visubS g d a b) := low_one _
theorem vimulS (g : BitVec 4) (d : BitVec 4) (a : BitVec 4) (b : BitVec 4) : Statement (.vimulS g d a b) := low_one _
theorem vimacS (g : BitVec 4) (d : BitVec 4) (a : BitVec 4) (b : BitVec 4) : Statement (.vimacS g d a b) := low_one _
theorem vshl (g : BitVec 4) (d : BitVec 4) (a : BitVec 4) (b : BitVec 4) : Statement (.vshl g d a b) := low_one _
theorem vshr (g : BitVec 4) (d : BitVec 4) (a : BitVec 4) (b : BitVec 4) : Statement (.vshr g d a b) := low_one _
theorem vsra (g : BitVec 4) (d : BitVec 4) (a : BitVec 4) (b : BitVec 4) : Statement (.vsra g d a b) := low_one _
theorem vand (g : BitVec 4) (d : BitVec 4) (a : BitVec 4) (b : BitVec 4) : Statement (.vand g d a b) := low_one _
theorem vor (g : BitVec 4) (d : BitVec 4) (a : BitVec 4) (b : BitVec 4) : Statement (.vor g d a b) := low_one _
theorem vxor (g : BitVec 4) (d : BitVec 4) (a : BitVec 4) (b : BitVec 4) : Statement (.vxor g d a b) := low_one _
theorem vcvt (g : BitVec 4) (d : BitVec 4) (a : BitVec 4) (tag : BitVec 4) (sat : BitVec 1) (k : BitVec 3) : Statement (.vcvt g d a tag sat k) := low_one _
theorem vqnt (g : BitVec 4) (d : BitVec 5) (a : BitVec 1) (b : BitVec 5) (f : BitVec 4) : Statement (.vqnt g d a b f) := low_one _
theorem vdeq (g : BitVec 4) (d : BitVec 2) (a : BitVec 5) (b : BitVec 5) (f : BitVec 4) : Statement (.vdeq g d a b f) := low_one _
theorem vdot (g : BitVec 4) (d : BitVec 4) (a : BitVec 4) (b : BitVec 4) : Statement (.vdot g d a b) := low_one _
theorem vsplat (g : BitVec 4) (d : BitVec 4) (a : BitVec 5) (tag : BitVec 4) : Statement (.vsplat g d a tag) := low_one _
theorem vmov (g : BitVec 4) (d : BitVec 4) (a : BitVec 4) : Statement (.vmov g d a) := low_one _
theorem vsel (g : BitVec 4) (d : BitVec 4) (a : BitVec 4) (b : BitVec 5) : Statement (.vsel g d a b) := low_one _
theorem vshuf (g : BitVec 4) (d : BitVec 4) (a : BitVec 4) (b : BitVec 5) : Statement (.vshuf g d a b) := low_one _
theorem vext (g : BitVec 4) (d : BitVec 5) (a : BitVec 4) (idx : BitVec 4) : Statement (.vext g d a idx) := low_one _
theorem vins (g : BitVec 4) (d : BitVec 4) (a : BitVec 5) (idx : BitVec 4) : Statement (.vins g d a idx) := low_one _
theorem vhsum (g : BitVec 4) (d : BitVec 4) (a : BitVec 4) : Statement (.vhsum g d a) := low_one _
theorem vhmax (g : BitVec 4) (d : BitVec 4) (a : BitVec 4) : Statement (.vhmax g d a) := low_one _
theorem mma (a : BitVec 5) (b : BitVec 5) (c : BitVec 5) : Statement (.mma a b c) := low_one _
theorem mmaL (a : BitVec 5) (b : BitVec 5) (c : BitVec 5) : Statement (.mmaL a b c) := low_one _
theorem mmaSp8 (a : BitVec 5) (b : BitVec 5) (c : BitVec 5) : Statement (.mmaSp8 a b c) := low_one _
theorem mmaSp16 (a : BitVec 5) (b : BitVec 5) (c : BitVec 5) : Statement (.mmaSp16 a b c) := low_one _
theorem mmaSp32 (a : BitVec 5) (b : BitVec 5) (c : BitVec 5) : Statement (.mmaSp32 a b c) := low_one _
theorem accInit (a : BitVec 5) (b : BitVec 5) : Statement (.accInit a b) := low_one _
theorem accSettle (a : BitVec 5) (b : BitVec 5) : Statement (.accSettle a b) := low_one _
theorem redV (a : BitVec 5) (b : BitVec 2) (c : BitVec 5) : Statement (.redV a b c) := low_one _
theorem detNext (a : BitVec 5) (b : BitVec 5) : Statement (.detNext a b) := low_one _
theorem drain (a : BitVec 5) (b : BitVec 5) (c : BitVec 5) (f : BitVec 5) : Statement (.drain a b c f) := low_one _
theorem tmld (a : BitVec 5) (imm : BitVec 12) (tm : BitVec 4) : Statement (.tmld a imm tm) := low_one _
theorem cpyTLd (a : BitVec 5) (b : BitVec 5) (c : BitVec 5) (tm : BitVec 4) : Statement (.cpyTLd a b c tm) := low_one _
theorem cpyTSt (a : BitVec 5) (b : BitVec 5) (c : BitVec 5) (tm : BitVec 4) : Statement (.cpyTSt a b c tm) := low_one _
theorem cpyLLd (a : BitVec 5) (b : BitVec 5) (c : BitVec 5) : Statement (.cpyLLd a b c) := low_one _
theorem cpyLSt (a : BitVec 5) (b : BitVec 5) (c : BitVec 5) : Statement (.cpyLSt a b c) := low_one _
theorem cpyWp (a : BitVec 5) (ch : BitVec 2) : Statement (.cpyWp a ch) := low_one _
theorem cpyStop (a : BitVec 5) (ch : BitVec 2) : Statement (.cpyStop a ch) := low_one _
theorem waitc (ms : BitVec 4) (mx : BitVec 4) (cp : BitVec 4) (st : BitVec 4) (ld : BitVec 4) : Statement (.waitc ms mx cp st ld) := low_one _
theorem barInit (a : BitVec 5) (b : BitVec 5) (sc : BitVec 1) : Statement (.barInit a b sc) := low_one _
theorem barArr (d : BitVec 5) (a : BitVec 5) : Statement (.barArr d a) := low_one _
theorem barArrx (d : BitVec 5) (a : BitVec 5) (b : BitVec 5) : Statement (.barArrx d a b) := low_one _
theorem barWait (a : BitVec 5) (b : BitVec 5) : Statement (.barWait a b) := low_one _
theorem barTry (a : BitVec 5) (b : BitVec 5) (p : BitVec 3) : Statement (.barTry a b p) := low_one _
theorem gbarArr (d : BitVec 5) (a : BitVec 5) (sc : BitVec 3) : Statement (.gbarArr d a sc) := low_one _
theorem gbarWait (a : BitVec 5) (b : BitVec 5) (sc : BitVec 3) : Statement (.gbarWait a b sc) := low_one _
theorem gbarTry (a : BitVec 5) (b : BitVec 5) (p : BitVec 3) (sc : BitVec 3) : Statement (.gbarTry a b p sc) := low_one _
theorem evSig (a : BitVec 5) : Statement (.evSig a) := low_one _
theorem evWait (a : BitVec 5) : Statement (.evWait a) := low_one _
theorem evTry (a : BitVec 5) (p : BitVec 3) : Statement (.evTry a p) := low_one _
theorem cnvJoin (g : BitVec 4) (d : BitVec 5) (a : BitVec 5) (b : BitVec 5) : Statement (.cnvJoin g d a b) := low_one _
theorem cnvTry (g : BitVec 4) (d : BitVec 5) (a : BitVec 5) (b : BitVec 5) (p : BitVec 3) : Statement (.cnvTry g d a b p) := low_one _
theorem cnvLeave (g : BitVec 4) : Statement (.cnvLeave g) := low_one _
theorem spawn (g : BitVec 4) (a : BitVec 5) (b : BitVec 5) : Statement (.spawn g a b) := low_one _
theorem spawnM (g : BitVec 4) (a : BitVec 5) (b : BitVec 5) : Statement (.spawnM g a b) := low_one _
theorem spawnTry (g : BitVec 4) (d : BitVec 5) (a : BitVec 5) (b : BitVec 5) (p : BitVec 3) : Statement (.spawnTry g d a b p) := low_one _
theorem spawnMTry (g : BitVec 4) (d : BitVec 5) (a : BitVec 5) (b : BitVec 5) (p : BitVec 3) : Statement (.spawnMTry g d a b p) := low_one _
theorem migrate (g : BitVec 4) (a : BitVec 5) : Statement (.migrate g a) := low_one _
theorem migrateTry (g : BitVec 4) (d : BitVec 5) (a : BitVec 5) : Statement (.migrateTry g d a) := low_one _
theorem suspend (g : BitVec 4) (a : BitVec 5) : Statement (.suspend g a) := low_one _
theorem yield (g : BitVec 4) : Statement (.yield g) := low_one _
theorem exit (g : BitVec 4) : Statement (.exit g) := low_one _
theorem msgApp (g : BitVec 4) (a : BitVec 5) (b : BitVec 5) : Statement (.msgApp g a b) := low_one _
theorem msgAppRel (g : BitVec 4) (a : BitVec 5) (b : BitVec 5) : Statement (.msgAppRel g a b) := low_one _
theorem msgTry (g : BitVec 4) (d : BitVec 5) (a : BitVec 5) (b : BitVec 5) (p : BitVec 3) : Statement (.msgTry g d a b p) := low_one _
theorem msgTryRel (g : BitVec 4) (d : BitVec 5) (a : BitVec 5) (b : BitVec 5) (p : BitVec 3) : Statement (.msgTryRel g d a b p) := low_one _
theorem msgPop (g : BitVec 4) (d : BitVec 5) (b : BitVec 5) : Statement (.msgPop g d b) := low_one _
theorem msgPoll (g : BitVec 4) (d : BitVec 5) (b : BitVec 5) (p : BitVec 3) : Statement (.msgPoll g d b p) := low_one _
theorem ringCfg (g : BitVec 4) (a : BitVec 5) (b : BitVec 5) : Statement (.ringCfg g a b) := low_one _
theorem ringPut (g : BitVec 4) (a : BitVec 5) (b : BitVec 5) : Statement (.ringPut g a b) := low_one _
theorem ringGo (g : BitVec 4) : Statement (.ringGo g) := low_one _
theorem steepDone (g : BitVec 4) : Statement (.steepDone g) := low_one _
theorem ringTry (g : BitVec 4) (d : BitVec 5) (a : BitVec 5) (b : BitVec 5) (p : BitVec 3) : Statement (.ringTry g d a b p) := low_one _
theorem ringTake (g : BitVec 4) (d : BitVec 5) (p : BitVec 3) : Statement (.ringTake g d p) := low_one _
theorem mfsr (d : BitVec 5) (r : BitVec 12) : Statement (.mfsr d r) := low_one _
theorem mtsr (a : BitVec 5) (r : BitVec 12) : Statement (.mtsr a r) := low_one _
theorem trap (imm : BitVec 12) : Statement (.trap imm) := low_one _
theorem tret : Statement (.tret) := low_one _
theorem tlbinvVa (a : BitVec 5) (c : BitVec 5) : Statement (.tlbinvVa a c) := low_one _
theorem tlbinvCtx (a : BitVec 5) (c : BitVec 5) : Statement (.tlbinvCtx a c) := low_one _
theorem tlbinvIpa (a : BitVec 5) (c : BitVec 5) : Statement (.tlbinvIpa a c) := low_one _
theorem tlbinvPart (a : BitVec 5) (c : BitVec 5) : Statement (.tlbinvPart a c) := low_one _
theorem bkpt (imm : BitVec 12) : Statement (.bkpt imm) := low_one _
theorem halt (imm : BitVec 12) : Statement (.halt imm) := low_one _
theorem cMov (d : BitVec 5) (a : BitVec 5) : Statement (.cMov d a) := low_zero _ _ rfl
theorem cAdd (d : BitVec 5) (a : BitVec 5) : Statement (.cAdd d a) := low_zero _ _ rfl
theorem cSub (d : BitVec 5) (a : BitVec 5) : Statement (.cSub d a) := low_zero _ _ rfl
theorem cAnd (d : BitVec 5) (a : BitVec 5) : Statement (.cAnd d a) := low_zero _ _ rfl
theorem cOr (d : BitVec 5) (a : BitVec 5) : Statement (.cOr d a) := low_zero _ _ rfl
theorem cXor (d : BitVec 5) (a : BitVec 5) : Statement (.cXor d a) := low_zero _ _ rfl
theorem cAddi (d : BitVec 5) (imm : BitVec 6) : Statement (.cAddi d imm) := low_zero _ _ rfl
theorem cLi (d : BitVec 5) (imm : BitVec 6) : Statement (.cLi d imm) := low_zero _ _ rfl
theorem cShli (d : BitVec 5) (sh : BitVec 6) : Statement (.cShli d sh) := low_zero _ _ rfl
theorem cLd (d : BitVec 5) (a : BitVec 5) (s : BitVec 1) : Statement (.cLd d a s) := low_zero _ _ rfl
theorem cSt (t : BitVec 5) (a : BitVec 5) (s : BitVec 1) : Statement (.cSt t a s) := low_zero _ _ rfl
theorem cBr (off : BitVec 11) : Statement (.cBr off) := low_zero _ _ rfl
theorem cRet : Statement (.cRet) := low_zero _ _ rfl
theorem cWaitc : Statement (.cWaitc) := low_zero _ _ rfl
theorem cNop : Statement (.cNop) := low_zero _ _ rfl
theorem configRegisterWrite (pl : BitVec 2) (r : CfgReg) (x : Word) : Statement (.configRegisterWrite pl r x) := trivial
theorem qtailDoorbell (q : Nat) (tail : BitVec 32) : Statement (.qtailDoorbell q tail) := trivial
theorem packetRead (q : Nat) : Statement (.packetRead q) := trivial
theorem materialiseThread (qc : Nat) : Statement (.materialiseThread qc) := trivial
theorem pourComplete (ctx : CtxId) (pour : BitVec 32) : Statement (.pourComplete ctx pour) := trivial
theorem queueBalance (qc : Nat) : Statement (.queueBalance qc) := trivial
theorem rotationBoundary (core : Coord) : Statement (.rotationBoundary core) := trivial
theorem instantiateContinuation (core : Coord) : Statement (.instantiateContinuation core) := trivial
theorem fullThreadArrival (k : Nat) : Statement (.fullThreadArrival k) := trivial
theorem registerCacheFill (t : Nat) (line : BitVec 4) : Statement (.registerCacheFill t line) := trivial
theorem inboxAppend (k : Nat) : Statement (.inboxAppend k) := trivial
theorem sendReply (k : Nat) : Statement (.sendReply k) := trivial
theorem sendRetry (k : Nat) : Statement (.sendRetry k) := trivial
theorem holdLapse (core : Coord) (ctx : CtxId) : Statement (.holdLapse core ctx) := trivial
theorem pendingTrapDeadline (t : Nat) : Statement (.pendingTrapDeadline t) := trivial
theorem loadReply (k : Nat) : Statement (.loadReply k) := trivial
theorem storeAck (k : Nat) : Statement (.storeAck k) := trivial
theorem storeRefusal (k : Nat) : Statement (.storeRefusal k) := trivial
theorem homeAccess (k : Nat) : Statement (.homeAccess k) := trivial
theorem atomicAtHome (k : Nat) : Statement (.atomicAtHome k) := trivial
theorem caddyAccessArrival (k : Nat) : Statement (.caddyAccessArrival k) := trivial
theorem regionMerge (base : Nat) (lg : Nat) : Statement (.regionMerge base lg) := trivial
theorem pageWalkComplete (t : Nat) (va : Word) (kind : BitVec 3) : Statement (.pageWalkComplete t va kind) := trivial
theorem copyLineTransfer (core : Coord) (ch : BitVec 2) : Statement (.copyLineTransfer core ch) := trivial
theorem copyComplete (core : Coord) (ch : BitVec 2) : Statement (.copyComplete core ch) := trivial
theorem engineArbitration (core : Coord) : Statement (.engineArbitration core) := trivial
theorem leaseIdleExpiry (core : Coord) : Statement (.leaseIdleExpiry core) := trivial
theorem matrixCommandComplete (core : Coord) : Statement (.matrixCommandComplete core) := trivial
theorem infuserArrival (k : Nat) : Statement (.infuserArrival k) := trivial
theorem reductionAck (k : Nat) : Statement (.reductionAck k) := trivial
theorem retryResend (core : Coord) (i : Nat) : Statement (.retryResend core i) := trivial
theorem accLineEvict (line : Nat) : Statement (.accLineEvict line) := trivial
theorem beatBoundary (ctx : CtxId) (ring : BitVec 6) : Statement (.beatBoundary ctx ring) := trivial
theorem steepTailDone (core : Coord) (i : Nat) : Statement (.steepTailDone core i) := trivial
theorem haltComplete (ctx : CtxId) : Statement (.haltComplete ctx) := trivial
theorem commit (part : BitVec 6) (pl : BitVec 2) : Statement (.commit part pl) := trivial
theorem ccommit (part : BitVec 6) (slot : BitVec 6) (pl : BitVec 2) : Statement (.ccommit part slot pl) := trivial
theorem plevel (part : BitVec 6) (level : BitVec 2) : Statement (.plevel part level) := trivial
theorem powerGateCore (part : BitVec 6) (core : Coord) : Statement (.powerGateCore part core) := trivial
theorem powerWakeCore (part : BitVec 6) (core : Coord) : Statement (.powerWakeCore part core) := trivial
theorem partitionSleep (part : BitVec 6) : Statement (.partitionSleep part) := trivial
theorem partitionWake (part : BitVec 6) : Statement (.partitionWake part) := trivial
theorem switchOut (part : BitVec 6) (ctx : CtxId) (core : Coord) : Statement (.switchOut part ctx core) := trivial
theorem switchIn (part : BitVec 6) (ctx : CtxId) (core : Coord) : Statement (.switchIn part ctx core) := trivial
theorem haltreq (part : BitVec 6) (ctx : CtxId) : Statement (.haltreq part ctx) := trivial
theorem rankcmd (part : BitVec 6) (slot : BitVec 6) (rank : BitVec 16) (all : Bool) : Statement (.rankcmd part slot rank all) := trivial
theorem refusalsClear (part : BitVec 6) (pl : BitVec 2) : Statement (.refusalsClear part pl) := trivial
theorem contextTeardown (ctx : CtxId) : Statement (.contextTeardown ctx) := trivial
theorem partitionReset (part : BitVec 6) : Statement (.partitionReset part) := trivial
theorem hbmPreservingReset : Statement (.hbmPreservingReset) := trivial
theorem coldReset : Statement (.coldReset) := trivial
theorem recoveryImageWrite (image : List Byte) : Statement (.recoveryImageWrite image) := trivial
theorem fullServiceStart : Statement (.fullServiceStart) := trivial
theorem vfReset (vf : BitVec 9) : Statement (.vfReset vf) := trivial
theorem cxlLinkDown (port : BitVec 5) (ld : BitVec 4) (restart : Bool) : Statement (.cxlLinkDown port ld restart) := trivial
theorem podLinkDown (port : BitVec 5) : Statement (.podLinkDown port) := trivial
theorem hostRequestTimeout (port : BitVec 5) (ld : BitVec 4) : Statement (.hostRequestTimeout port ld) := trivial
theorem podRequestTimeout (port : BitVec 5) : Statement (.podRequestTimeout port) := trivial
theorem linkRetryExhausted (kind : LinkKind) (port : BitVec 5) : Statement (.linkRetryExhausted kind port) := trivial
theorem hostCxlMemAccess (ld : BitVec 4) (pa : BitVec 52) (write : Bool) (x : Word) : Statement (.hostCxlMemAccess ld pa write x) := trivial
theorem peerQueueWrite (node : BitVec 8) (q : Nat) (w : PeerWrite) : Statement (.peerQueueWrite node q w) := trivial
theorem podMemoryAccess (node : BitVec 8) (part : BitVec 6) (pa : BitVec 52) (write : Bool) (x : Word) : Statement (.podMemoryAccess node part pa write x) := trivial
theorem thermalThrottle : Statement (.thermalThrottle) := trivial
theorem coreClockGate (core : Coord) : Statement (.coreClockGate core) := trivial
theorem d3hotEntry : Statement (.d3hotEntry) := trivial
theorem scrub (row : Nat) (unit : Coord) (loc : Nat) (err : ErrKind) : Statement (.scrub row unit loc err) := trivial
theorem debugRequest (op : DebugOp) : Statement (.debugRequest op) := trivial
theorem getVersion : Statement (.getVersion) := trivial
theorem getCapabilities : Statement (.getCapabilities) := trivial
theorem negotiateAlgorithms : Statement (.negotiateAlgorithms) := trivial
theorem getDigests : Statement (.getDigests) := trivial
theorem getCertificate (slot : Nat) : Statement (.getCertificate slot) := trivial
theorem challenge (slot : Nat) (nonce : Word) : Statement (.challenge slot nonce) := trivial
theorem getMeasurements (index : Nat) : Statement (.getMeasurements index) := trivial
theorem keyExchange (share : Word) : Statement (.keyExchange share) := trivial
theorem finish (mac : Word) : Statement (.finish mac) := trivial
theorem endSession : Statement (.endSession) := trivial
theorem vendorDefinedRequest (inSession : Bool) (token : List Byte) : Statement (.vendorDefinedRequest inSession token) := trivial
theorem spdmUnsupportedRequest (code : Byte) : Statement (.spdmUnsupportedRequest code) := trivial
theorem powerLoss (duringUpdate : Bool) : Statement (.powerLoss duringUpdate) := trivial
theorem d3hotExit : Statement (.d3hotExit) := trivial
theorem enterDeployed : Statement (.enterDeployed) := trivial
theorem podGbarArrival (ctx : CtxId) (id : BitVec 6) : Statement (.podGbarArrival ctx id) := trivial
theorem cxlCacheSnoop (line : BitVec 52) (invalidate : Bool) : Statement (.cxlCacheSnoop line invalidate) := trivial
theorem linkUp (kind : LinkKind) (port : BitVec 5) : Statement (.linkUp kind port) := trivial

end Sys2Proof.Laws.Framing
end

