-- ==== Sys2Proof/Tests/Slice0.lean ====
section
/-!
SUPPORT. The model's own tests: words written out from the spec's encodings, ill-formed terms that are refused, single instructions on small
states, and for each obligation with hypotheses a state and operands that meet them (the theorems test_meets_…).
-/

set_option Elab.async false
set_option linter.unusedTactic false
set_option linter.unreachableTactic false

namespace Sys2Proof.Tests

open Sys2Proof.Machine Sys2Proof.Claims

/-! ## A small device -/

/-- Page tables: pages of 1 GiB from address zero, of classes TRK, ACC, DET and UNT, readable, writable, the first executable too, all pinned to
core 0 (R337, R338). -/
def tables : List (Nat × Word) :=
  [(0x1000, 0x2003), (0x2000, 0x3003), (0x3000, 0x41D), (0x3008, 0x4000051D), (0x3010, 0x8000059D), (0x3018, 0xC000049D)]

/-- Partition 0 with granule 0 and one context, 1, with room for threads, a rank table of 4 entries, the global barrier 5 of POD scope for 3
arrivals, and ring 0 of six cores (R341, R354, R355). -/
def demoPart : Part :=
  { active := [(0x8, 1), (0x10000, 0x400001), (0x10008, 0x1000), (0x10028, 0x50000), (0x10050, 0x8000), (0x10058, 4), (0x10508, 0x30000),
      (0x10800, 0x40)] }

/-- Core 0 with context 1 switched in as its primary one, and thread 0 in slot 0 at address 0x10000; granules of kinds plain, ACC, DET and plain
belong to partition 0, one for each page. Rank 0 is core 0, and rank 1 is in transit. -/
def demo : State :=
  let s := tables.foldl (fun s e => s.putWord e.1 e.2) ({} : State)
  { s with
    threads := [(0, { pc := 0x10000, ctx := 1, place := .slot 0 })]
    cores := [(0, { ctxs := [1], primary := some 1, slots := [(0, 0)] })]
    ctxs := [(1, { ranks := [(0, 0x8000000000010000), (1, 0xC000000000010000)] })]
    parts := [(0, demoPart)]
    ownership := [(0, 0x100), (512, 0x140), (1024, 0x180), (1536, 0x100)] }

/-- A caddy address of the own core (R49). -/
def own (off : Nat) : Word := BitVec.ofNat 64 (0x1FE * 2 ^ 48 + off)

/-- The small device with general registers of its thread set. -/
def demoG (rs : List (BitVec 5 × Word)) : State := demo.modSelf fun x => rs.foldl (fun x r => x.setG r.1 r.2) x

/-- The small device with its thread changed. -/
def demoT (f : Thread → Thread) : State := demo.modSelf f

/-- The small device with its core 0 changed. -/
def demoC (f : Core → Core) : State := demo.modCore 0 f

/-- The state that an outcome goes on with, if it does. -/
def nextOf (o : Out) : Option State := match o with
  | .next t => some t
  | _ => none

/-- A test of the next state. -/
def after (o : Out) (p : State → Bool) : Bool := match o with
  | .next t => p t
  | _ => false


/-- Two ways to prove what a computation that may fail comes to. -/
theorem ok_of {ε α : Type} [DecidableEq α] {e : Except ε α} {a : α}
    (h : (match e with | .ok b => decide (b = a) | .error _ => false) = true) : e = .ok a := by
  cases e <;> simp_all
theorem error_of {ε α : Type} [DecidableEq ε] {e : Except ε α} {a : ε}
    (h : (match e with | .ok _ => false | .error b => decide (b = a)) = true) : e = .error a := by
  cases e <;> simp_all

/-- Where a partition has slices on a requester's die, one of them is looked up. -/
theorem slice_isSome {s : State} {q : Who} {part : Nat} {va : Word} (h : 0 < (s.slicesFor part (.hdie (q.core.extractLsb' 7 2))).length) :
    (s.tlbSliceOf q part va).isSome = true := by
  simp [State.tlbSliceOf, Nat.mod_lt _ h]

/-! ## States that meet the hypotheses of the obligations -/

def caddyTarget : Target := ⟨caddyKey 0 0x40, .caddy, 0⟩
def target (a : Nat) : Target := ⟨a, .trk, 0⟩
def withNet (s : State) (n : List Packet) : State := { s with net := n }
def withMem (s : State) (a : Nat) (bs : List Byte) : State := s.putBytes a bs

/-- An access of thread 0 of 8 bytes, or of n. -/
def access (cls : Cls) (pa : Nat) (n : Nat := 8) : Access :=
  { thread := 0, ctx := 1, core := 0, svc := false, pl := 0, va := 0x100, pa, n, cls, home := 0, id := 0 }
def w1 : State := demoG [(2, -5), (3, 7)]
def w2 : State := demoG [(2, 0x8000000000000000), (3, -1)]
/-- Every clause of IntegerRegisterForms has a state and operands that meet its hypotheses. -/
theorem test_meets_IntegerRegisterForms :
    (Plain w1 4 ∧ Guard w1 0) ∧
    (Plain w2 4 ∧ Guard w2 0) ∧
    ((0 : BitVec 4) ≠ 8) := by
  (repeat' apply And.intro) <;> decide +kernel

def w3 : State := demoG [(2, -5)]
/-- Every clause of IntegerImmediateForms has a state and operands that meet its hypotheses. -/
theorem test_meets_IntegerImmediateForms :
    (Plain w3 4) := by decide +kernel

def w4 : State := demoG [(2, -5), (3, 5)]
/-- Every clause of CompareAndPredicateForms has a state and operands that meet its hypotheses. -/
theorem test_meets_CompareAndPredicateForms :
    (Plain w4 4) := by decide +kernel

def w5 : State := demoG [(2, 0xB700), (3, 0x7F3F)]
def w6 : State := demoG [(2, 0xB700), (3, 0x808)]
def w7 : State := demoG [(2, 0), (3, 0x808)]
def w8 : State := demoG [(2, -1)]
/-- Every clause of BitFieldForms has a state and operands that meet its hypotheses. -/
theorem test_meets_BitFieldForms :
    (Plain w5 4 ∧ Guard w5 0 ∧ BitVec.getLsbD (w5.g 2) 8 = true ∧ (∀ k < 8, BitVec.getLsbD (w5.g 2) k = false) ∧
      (∀ k < 64, BitVec.getLsbD (0xed000000000000 : Word) k = BitVec.getLsbD (w5.g 2) (63 - k))) ∧
    (Plain w6 4 ∧ Guard w6 0 ∧ 15 < 64 ∧ BitVec.getLsbD (w6.g 2) 15 = true ∧ (∀ k < 64, 15 < k → BitVec.getLsbD (w6.g 2) k = false) ∧
      (∀ k < 64, BitVec.getLsbD (0xed000000000000 : Word) k = BitVec.getLsbD (w6.g 2) (63 - k))) ∧
    (Plain w7 4 ∧ Guard w7 0 ∧ w7.g 2 = (0 : Word) ∧ (∀ k < 64, BitVec.getLsbD (0 : Word) k = BitVec.getLsbD (w7.g 2) (63 - k))) ∧
    (Plain w8 4 ∧ Guard w8 0 ∧ 63 < 64 ∧ BitVec.getLsbD (w8.g 2) 63 = true ∧ (∀ k < 64, 63 < k → BitVec.getLsbD (w8.g 2) k = false) ∧
      (∀ k < 64, BitVec.getLsbD (0xffffffffffffffff : Word) k = BitVec.getLsbD (w8.g 2) (63 - k))) := by
  (repeat' apply And.intro) <;> decide +kernel

def w9 : State := demoG [(1, -1), (3, 2)]
/-- Every clause of CompactRegisterForms has a state and operands that meet its hypotheses. -/
theorem test_meets_CompactRegisterForms :
    (Plain w9 2) := by decide +kernel

/-- Every clause of FalseGuardHasNoEffect has a state and operands that meet its hypotheses. -/
theorem test_meets_FalseGuardHasNoEffect :
    (Claims.guardOf (Instr.ringTake (1 : BitVec 4) (1 : BitVec 5) (2 : BitVec 3)) = some (1 : BitVec 4) ∧ Plain demo 4 ∧ ¬Guard demo 1 ∧
      demo.self.onService = none) := by
  (repeat' apply And.intro) <;> decide +kernel

def w10 : State := demoG [(2, own 0x40), (1, 0xFEDCBA9876543210)]
/-- Every clause of OwnCaddyLoadsAndStores has a state and operands that meet its hypotheses. -/
theorem test_meets_OwnCaddyLoadsAndStores :
    (Plain w10 4 ∧ OwnCaddy w10 (w10.g 2 + BitVec.ofInt 64 (BitVec.toInt (0 : BitVec 12))) 1 .load caddyTarget ∧ w10.self.ld < 63 ∧
      OwnCaddy w10 (w10.g 2 + BitVec.ofInt 64 (BitVec.toInt (0 : BitVec 12))) 2 .load caddyTarget ∧
      OwnCaddy w10 (w10.g 2 + BitVec.ofInt 64 (BitVec.toInt (0 : BitVec 12))) 4 .load caddyTarget ∧
      OwnCaddy w10 (w10.g 2 + BitVec.ofInt 64 (BitVec.toInt (0 : BitVec 12))) 8 .load caddyTarget ∧
      OwnCaddy w10 (w10.g 2 + BitVec.ofInt 64 (BitVec.toInt (0 : BitVec 12))) 1 .store caddyTarget ∧ w10.self.st < 63 ∧
      OwnCaddy w10 (w10.g 2 + BitVec.ofInt 64 (BitVec.toInt (0 : BitVec 12))) 2 .store caddyTarget ∧
      OwnCaddy w10 (w10.g 2 + BitVec.ofInt 64 (BitVec.toInt (0 : BitVec 12))) 4 .store caddyTarget ∧
      OwnCaddy w10 (w10.g 2 + BitVec.ofInt 64 (BitVec.toInt (0 : BitVec 12))) 8 .store caddyTarget ∧ Plain w10 2 ∧
      OwnCaddy w10 (w10.g 2 + BitVec.ofNat 64 (8 * BitVec.toNat (0 : BitVec 1))) 8 .load caddyTarget ∧
      OwnCaddy w10 (w10.g 2 + BitVec.ofNat 64 (8 * BitVec.toNat (0 : BitVec 1))) 8 .store caddyTarget) := by
  (repeat' apply And.intro) <;> first | decide +kernel | (refine ok_of ?_; decide +kernel)

def w11 : State := demoG [(2, 0x101), (1, 77)]
/-- Every clause of LoadsAndStoresSetOut has a state and operands that meet its hypotheses. -/
theorem test_meets_LoadsAndStoresSetOut :
    (Plain w11 4 ∧ InMemory w11 (w11.g 2 + BitVec.ofInt 64 (BitVec.toInt (0xfff : BitVec 12))) 1 .load (target 256) ∧ w11.self.ld < 63 ∧
      InMemory w11 (w11.g 2 + BitVec.ofInt 64 (BitVec.toInt (0xfff : BitVec 12))) 2 .load (target 256) ∧
      InMemory w11 (w11.g 2 + BitVec.ofInt 64 (BitVec.toInt (0xfff : BitVec 12))) 4 .load (target 256) ∧
      InMemory w11 (w11.g 2 + BitVec.ofInt 64 (BitVec.toInt (0xfff : BitVec 12))) 8 .load (target 256) ∧
      InMemory w11 (w11.g 2 + BitVec.ofInt 64 (BitVec.toInt (0xfff : BitVec 12))) 1 .store (target 256) ∧ w11.self.st < 63 ∧
      InMemory w11 (w11.g 2 + BitVec.ofInt 64 (BitVec.toInt (0xfff : BitVec 12))) 2 .store (target 256) ∧
      InMemory w11 (w11.g 2 + BitVec.ofInt 64 (BitVec.toInt (0xfff : BitVec 12))) 4 .store (target 256) ∧
      InMemory w11 (w11.g 2 + BitVec.ofInt 64 (BitVec.toInt (0xfff : BitVec 12))) 8 .store (target 256)) := by
  (repeat' apply And.intro) <;> first | decide +kernel | (refine ok_of ?_; decide +kernel)

def w12 : State := demoG [(2, own 0x40), (1, 77)]
def w13 : State := demoG [(2, own 0x41), (1, 77)]
/-- Every clause of OrderedAccessesAndFences has a state and operands that meet its hypotheses. -/
theorem test_meets_OrderedAccessesAndFences :
    (Plain w12 4 ∧ BitVec.toNat (w12.g 2) % 2 ^ BitVec.toNat (3 : BitVec 2) = 0 ∧
      OwnCaddy w12 (w12.g 2) (2 ^ BitVec.toNat (3 : BitVec 2)) .load caddyTarget ∧ w12.self.ld < 63 ∧
      OwnCaddy w12 (w12.g 2) (2 ^ BitVec.toNat (3 : BitVec 2)) .store caddyTarget ∧ Released w12 (BitVec.toNat (5 : BitVec 3)) ∧
      w12.self.loads = []) ∧
    (Plain w13 4 ∧ Released w13 (BitVec.toNat (1 : BitVec 3)) ∧ w13.self.loads = [] ∧ BitVec.toNat (w13.g 2) % 2 ^ BitVec.toNat (3 : BitVec 2) ≠ 0) := by
  (repeat' apply And.intro) <;> first | decide +kernel | (refine ok_of ?_; decide +kernel)

def w14 : State := demoG [(2, own 0x40), (1, 77)]
def w15 : State := demoG [(2, 0x100), (1, 77)]
/-- Every clause of CacheOperations has a state and operands that meet its hypotheses. -/
theorem test_meets_CacheOperations :
    (Plain w14 4 ∧ isCaddy (w14.g 2 + BitVec.ofInt 64 (BitVec.toInt (0 : BitVec 12))) = true) ∧
    (Plain w15 4 ∧ isCaddy (w15.g 2 + BitVec.ofInt 64 (BitVec.toInt (0 : BitVec 12))) = false ∧
      w15.translate w15.self.who (w15.g 2 + BitVec.ofInt 64 (BitVec.toInt (0 : BitVec 12))) .load = Except.ok (target 256) ∧
      (target 256).cls = Cls.trk ∧ BitVec.toNat (w15.g 2 + BitVec.ofInt 64 (BitVec.toInt (0 : BitVec 12))) % 64 = 0 ∧
      w15.translate w15.self.who (w15.g 2 + BitVec.ofInt 64 (BitVec.toInt (0 : BitVec 12))) .store = Except.ok (target 256) ∧
      w15.lineOwner ((target 256).pa / 64) ≠ some w15.self.unit ∧ w15.self.st < 63 ∧
      w15.translate w15.self.who (w15.g 2 + BitVec.ofInt 64 (BitVec.toInt (0 : BitVec 12))) .exec = Except.ok (target 256)) := by
  (repeat' apply And.intro) <;> first | decide +kernel | (refine ok_of ?_; decide +kernel)

def w16 : State := demoG [(2, own 0x40), (1, 77), (3, 5)]
/-- Every clause of AtomicsOnTheOwnCaddy has a state and operands that meet its hypotheses. -/
theorem test_meets_AtomicsOnTheOwnCaddy :
    (Plain w16 4 ∧ Guard w16 0 ∧ Released w16 3 ∧ w16.self.ld < 63 ∧ BitVec.toNat (w16.g 2) % 8 = 0 ∧ OwnCaddy w16 (w16.g 2) 8 .atomic caddyTarget ∧
      BitVec.toNat (w16.g 2) % 4 = 0 ∧ OwnCaddy w16 (w16.g 2) 4 .atomic caddyTarget) := by
  (repeat' apply And.intro) <;> first | decide +kernel | (refine ok_of ?_; decide +kernel)


def refusal : Pend := { cause := 14, val := 9, since := 0 }
/-- A pending load of two bytes, sign-extended, into g3. -/
def pending : PendLoad := { id := 5, dest := .g 3 2 true, buf := [0, 0], left := 1, words := 1 }
/-- Thread 0 with that load and one store on their way. -/
def waiting (p : Packet) : State := { demoT (fun x => { x with loads := [pending], ld := 1, pendG := 8, st := 1 }) with net := [p] }
def refusedStore : State := { demoT (fun x => { x with refusal := some refusal }) with cycle := 4096 }
/-- The turn of a thread whose refused store is due, and the trap that it takes. -/
def dueTurn : State := { demoT (fun x => { x with refusal := some { refusal with due := true } }) with turn := true }
def dueTrap : Pend × Thread := ((dueTurn.thread 0).duePending dueTurn.tick.cycle).getD (refusal, demo.self)
def w17 : State := waiting (.loadReply 0 5 0 [0xFE, 0xFF])
def w18 : State := waiting (.loadRefused 0 5 14 0x999)
def w19 : State := waiting (.ack 0 0)
def w20 : State := waiting (.storeRefused 0 0 14 0x999 7)
/-- Every clause of RepliesReachTheThread has a state and operands that meet its hypotheses. -/
theorem test_meets_RepliesReachTheThread :
    (Running w17 0 ∧ List.find? (fun (x : PendLoad) ↦ x.id == 5) (w17.thread 0).loads = some pending ∧ pending.left = 1 ∧
      pending.dest = Dest.g 3 2 true ∧ pending.acq = none ∧ pending.held = none ∧
      w17.net[0]? = some (Packet.loadReply 0 5 0 [(254 : Byte), (255 : Byte)]) ∧ 1 ≤ 2 ∧ 2 ≤ 8) ∧
    (Running w18 0 ∧ List.find? (fun (x : PendLoad) ↦ x.id == 5) (w18.thread 0).loads = some pending ∧
      w18.net[0]? = some (Packet.loadRefused 0 5 14 (0x999 : Word))) ∧
    (Running w19 0 ∧ w19.net[0]? = some (Packet.ack 0 0)) ∧
    (Running w20 0 ∧ w20.net[0]? = some (Packet.storeRefused 0 0 14 (0x999 : Word) 7) ∧ (w20.thread 0).refusal = none) ∧
    ((refusedStore.thread 0).refusal = some refusal ∧ (refusal.due = true ∨ refusal.since + 4096 ≤ refusedStore.cycle) ∧
      (refusedStore.thread 0).atBoundary = true ∧ refusedStore.halted (refusedStore.thread 0).ctx = false ∧
      refusedStore.switching (refusedStore.thread 0).ctx (refusedStore.thread 0).core false = false ∧ (refusedStore.thread 0).debugHalt = false) ∧
    (dueTurn.inputs = [] ∧ dueTurn.turn = true ∧ dueTurn.tick.nextIssuer = some 0 ∧ (dueTurn.thread 0).stalled = false ∧
      (dueTurn.thread 0).duePending dueTurn.tick.cycle = some dueTrap) := by
  (repeat' apply And.intro) <;> decide +kernel


def acc0 : Access := access .unt 0xC0000100
/-- An access to core 0's caddy from core 1. -/
def toCaddy : Access := { access .caddy (caddyKey 0 0x40) with core := 1 }
def w21 : State := withNet demo [.load acc0]
def w22 : State := withNet demo [.store acc0 [1, 2, 3, 4, 5, 6, 7, 8]]
def w23 : State := withNet demo [.atomic acc0 .add 5 6 true]
def w24 : State := withNet demo [.load toCaddy]
def w25 : State := withNet demo [.store toCaddy [1, 2, 3, 4, 5, 6, 7, 8]]
/-- Every clause of AccessesAtTheirHomes has a state and operands that meet its hypotheses. -/
theorem test_meets_AccessesAtTheirHomes :
    (w21.ready 0 = true ∧ (acc0.cls = Cls.unt ∨ acc0.cls = Cls.trk) ∧ w21.net[0]? = some (Packet.load acc0) ∧ w21.staleHit acc0 = none) ∧
    ((Packet.load acc0).ordinary = true ∧ w21.packetOf 5 (.load acc0) = false) ∧
    (w22.ready 0 = true ∧
      w22.net[0]? = some (Packet.store acc0 [(1 : Byte), (2 : Byte), (3 : Byte), (4 : Byte), (5 : Byte), (6 : Byte), (7 : Byte), (8 : Byte)])) ∧
    (w23.ready 0 = true ∧ w23.net[0]? = some (Packet.atomic acc0 Amo.add (5 : Word) (6 : Word) true)) ∧
    (w24.ready 0 = true ∧ toCaddy.cls = Cls.caddy ∧ w24.net[0]? = some (Packet.load toCaddy)) ∧
    (w25.ready 0 = true ∧
      w25.net[0]? = some (Packet.store toCaddy [(1 : Byte), (2 : Byte), (3 : Byte), (4 : Byte), (5 : Byte), (6 : Byte), (7 : Byte), (8 : Byte)]) ∧
      (w25.coreAt toCaddy.home).convene = Vector.replicate 8 none ∧ (w25.coreAt toCaddy.home).savedConv = []) := by
  (repeat' apply And.intro) <;> decide +kernel


def w26 : State := demoG [(2, 0x20000)]
def w27 : State := demoG [(2, 0x20000)]
def w28 : State := demoT (fun x => { x with ras := [8, 16], pc := 2 })
def w29 : State := demoT (fun x => { x with ras := [1, 2, 3, 4, 5, 6, 7, 8], rsp := 0x40, rspb := 0x40 })
/-- The address that a RET pops from memory stands in the own caddy, good or not, or in memory. -/
def popped (a : Word) : State := (demoT fun x => { x with rsp := own 0x48, rspb := own 0x40 }).putWord (caddyKey 0 0x40) a
def poppedFar : State := demoT fun x => { x with rsp := 0x108, rspb := 0x100 }
/-- Every clause of ControlTransfers has a state and operands that meet its hypotheses. -/
theorem test_meets_ControlTransfers :
    (w26.self.sstep = false ∧ (w26.self.getP (0 : BitVec 3) != ((0 : BitVec 1) == (1 : BitVec 1))) = true ∧
      GoodPc (BitVec.ofInt 64 (↑w26.self.pc.toNat + (2 : ℤ) * BitVec.toInt (5 : BitVec 20))) ∧
      GoodPc (BitVec.ofInt 64 (↑w26.self.pc.toNat + (2 : ℤ) * (-4 : BitVec 11).toInt)) ∧
      GoodPc (w26.g 2 + BitVec.ofInt 64 (BitVec.toInt (2 : BitVec 12))) ∧ w26.self.ras.length < 8 ∧
      GoodPc (BitVec.ofInt 64 (↑w26.self.pc.toNat + (2 : ℤ) * BitVec.toInt (5 : BitVec 25))) ∧ w26.self.ras = [] ∧
      BitVec.toNat w26.self.rsp ≤ BitVec.toNat w26.self.rspb) ∧
    (w27.self.sstep = false ∧ GoodPc (BitVec.ofInt 64 (↑w27.self.pc.toNat + (2 : ℤ) * (-4 : BitVec 11).toInt)) ∧
      (w27.self.getP (0 : BitVec 3) != ((1 : BitVec 1) == (1 : BitVec 1))) = false ∧ Plain w27 4 ∧
      ¬GoodPc (w27.g 2 + BitVec.ofInt 64 (BitVec.toInt (3 : BitVec 12))) ∧ w27.self.ras.length < 8 ∧
      GoodPc (BitVec.ofInt 64 (↑w27.self.pc.toNat + (2 : ℤ) * BitVec.toInt (5 : BitVec 25))) ∧ w27.self.ras = [] ∧
      BitVec.toNat w27.self.rsp ≤ BitVec.toNat w27.self.rspb) ∧
    ((w28.self.getP (0 : BitVec 3) != ((0 : BitVec 1) == (1 : BitVec 1))) = true ∧
      ¬GoodPc (BitVec.ofInt 64 (↑w28.self.pc.toNat + (2 : ℤ) * (-5 : BitVec 20).toInt)) ∧
      ¬GoodPc (w28.g 2 + BitVec.ofInt 64 (BitVec.toInt (3 : BitVec 12))) ∧ w28.self.sstep = false ∧ w28.self.ras = [(8 : Word)] ++ [(16 : Word)] ∧
      GoodPc (16 : Word)) ∧
    (w29.self.sstep = false ∧ (w29.self.getP (0 : BitVec 3) != ((0 : BitVec 1) == (1 : BitVec 1))) = true ∧
      GoodPc (BitVec.ofInt 64 (↑w29.self.pc.toNat + (2 : ℤ) * BitVec.toInt (5 : BitVec 20))) ∧
      GoodPc (BitVec.ofInt 64 (↑w29.self.pc.toNat + (2 : ℤ) * (-4 : BitVec 11).toInt)) ∧
      ¬GoodPc (w29.g 2 + BitVec.ofInt 64 (BitVec.toInt (3 : BitVec 12))) ∧
      w29.self.ras = [(1 : Word), (2 : Word), (3 : Word), (4 : Word), (5 : Word), (6 : Word), (7 : Word), (8 : Word)] ∧
      [(2 : Word), (3 : Word), (4 : Word), (5 : Word), (6 : Word), (7 : Word), (8 : Word)].length = 7 ∧
      GoodPc (BitVec.ofInt 64 (↑w29.self.pc.toNat + (2 : ℤ) * BitVec.toInt (5 : BitVec 25))) ∧ InMemory w29 w29.self.rsp 8 .store (target 64) ∧
      w29.self.st < 63) ∧
    ((popped 0x20000).self.ras = [] ∧ (popped 0x20000).self.rspb.toNat < (popped 0x20000).self.rsp.toNat ∧
      OwnCaddy (popped 0x20000) ((popped 0x20000).self.rsp - 8) 8 .load caddyTarget ∧ (popped 0x20000).self.sstep = false ∧
      GoodPc (BitVec.ofNat 64 (leNat ((popped 0x20000).bytes caddyTarget.pa 8)))) ∧
    ((popped 3).self.ras = [] ∧ (popped 3).self.rspb.toNat < (popped 3).self.rsp.toNat ∧
      OwnCaddy (popped 3) ((popped 3).self.rsp - 8) 8 .load caddyTarget ∧ ¬GoodPc (BitVec.ofNat 64 (leNat ((popped 3).bytes caddyTarget.pa 8)))) ∧
    (poppedFar.self.ras = [] ∧ poppedFar.self.rspb.toNat < poppedFar.self.rsp.toNat ∧ InMemory poppedFar (poppedFar.self.rsp - 8) 8 .load (target 256)) := by
  (repeat' apply And.intro) <;> first | decide +kernel | (refine ok_of ?_; decide +kernel)

def w30 : State := demoG [(2, 5)]
def w31 : State := demoG [(2, 0)]
def w32 : State := demoT (fun x => { x with lc := 2, lend := 0x10004, lbeg := 0x100 })
def w33 : State := demoT (fun x => { x with lc := 1, lend := 0x10004, lbeg := 0x100 })
/-- Every clause of LoopsAndNop has a state and operands that meet its hypotheses. -/
theorem test_meets_LoopsAndNop :
    (w30.self.sstep = false ∧ (3 : BitVec 12) ≠ (0 : BitVec 12) ∧ w30.self.pc.toNat + 4 + 2 * BitVec.toNat (3 : BitVec 12) < 2 ^ 48 ∧
      w30.g 2 ≠ (0 : Word) ∧ Plain w30 4) ∧
    (w31.self.sstep = false ∧ (0xfff : BitVec 12) ≠ (0 : BitVec 12) ∧ w31.self.pc.toNat + 4 + 2 * BitVec.toNat (0xfff : BitVec 12) < 2 ^ 48 ∧
      w31.g 2 = (0 : Word) ∧ Plain w31 4) ∧
    (w32.self.sstep = false ∧ w32.self.pc.toNat + 4 + 2 * BitVec.toNat (0xfff : BitVec 12) < 2 ^ 48 ∧ w32.g 2 = (0 : Word) ∧
      BitVec.setWidth 64 w32.self.pc + (4 : BitVec 64) = w32.self.lend &&& (0xfffffffffffe : BitVec 64) ∧
      Word.field w32.self.lend 48 2 = w32.self.pl ∧ 2 ≤ BitVec.toNat w32.self.lc) ∧
    (w33.self.sstep = false ∧ w33.self.pc.toNat + 4 + 2 * BitVec.toNat (0xfff : BitVec 12) < 2 ^ 48 ∧ w33.g 2 = (0 : Word) ∧
      BitVec.setWidth 64 w33.self.pc + (4 : BitVec 64) = w33.self.lend &&& (0xfffffffffffe : BitVec 64) ∧
      Word.field w33.self.lend 48 2 = w33.self.pl ∧ BitVec.toNat w33.self.lc = 1) := by
  (repeat' apply And.intro) <;> decide +kernel

def w34 : State := demoG [(4, 0x1F4)]
def w35 : State := (demoT (fun x => { x with status := 1 })).modSelf (·.setG 4 0x1F)
/-- Every clause of SpecialRegisters has a state and operands that meet its hypotheses. -/
theorem test_meets_SpecialRegisters :
    (Plain w34 4 ∧ flagsOwed w34.self = false ∧ BitVec.toNat (w34.g 4) < 2 ^ 9 ∧ BitVec.getLsbD (w34.g 4) 3 = false ∧
      BitVec.toNat (w34.g 4) % 8 ≤ 4 ∧ BitVec.toNat (w34.g 4) < 2 ^ 32 ∧
      BitVec.setWidth 64 w34.self.pc + (4 : BitVec 64) ≠ w34.self.lend &&& (0xfffffffffffe : BitVec 64) ∧ BitVec.toNat (w34.g 4) < 2 ^ 48 ∧
      w34.self.pc.toNat + 4 ≠ BitVec.toNat (w34.g 4) / 2 * 2 ∧
      (0 : BitVec 12) ∈ [(0 : BitVec 12), (1 : BitVec 12), (2 : BitVec 12), (3 : BitVec 12), (4 : BitVec 12), (5 : BitVec 12), (6 : BitVec 12), (9 : BitVec 12), (32 : BitVec 12), (33 : BitVec 12), (34 : BitVec 12), (35 : BitVec 12), (36 : BitVec 12)]) ∧
    (Plain w35 4 ∧ flagsOwed w35.self = false ∧ BitVec.toNat (w35.g 4) < 2 ^ 32 ∧
      BitVec.setWidth 64 w35.self.pc + (4 : BitVec 64) ≠ w35.self.lend &&& (0xfffffffffffe : BitVec 64) ∧ BitVec.toNat (w35.g 4) < 2 ^ 48 ∧
      w35.self.pc.toNat + 4 ≠ BitVec.toNat (w35.g 4) / 2 * 2 ∧ 1 ≤ w35.self.pl ∧ BitVec.toNat (w35.g 4) < 2 ^ 5 ∧ srOf (31 : BitVec 12) = none) ∧
    (Plain demo 4 ∧ flagsOwed demo.self = false ∧ BitVec.toNat (demo.g 4) < 2 ^ 9 ∧ BitVec.getLsbD (demo.g 4) 3 = false ∧
      BitVec.toNat (demo.g 4) % 8 ≤ 4 ∧ BitVec.toNat (demo.g 4) < 2 ^ 32 ∧
      BitVec.setWidth 64 demo.self.pc + (4 : BitVec 64) ≠ demo.self.lend &&& (0xfffffffffffe : BitVec 64) ∧ BitVec.toNat (demo.g 4) < 2 ^ 48 ∧
      demo.self.pc.toNat + 4 ≠ BitVec.toNat (demo.g 4) / 2 * 2 ∧ 5 < 6 ∧ (0x115 : BitVec 12) = BitVec.ofNat 12 (272 + 5) ∧ demo.self.pl < 1) ∧
    (0 < 6 ∧ (0x120 : BitVec 12) = BitVec.ofNat 12 (288 + 0) ∧ demo.self.pl < 2) ∧
    ((0x135 : BitVec 12) = BitVec.ofNat 12 (304 + 5) ∧ demo.self.pl < 3) ∧
    (15 < 16 ∧ (0x20f : BitVec 12) = BitVec.ofNat 12 (512 + 15)) := by
  (repeat' apply And.intro) <;> decide +kernel

def breakpoint : Exc := { cause := 4, val := 9, epc := 0x10000 }
def w36 : State := demoT (fun x => { x with tvec := x.tvec.set 0 0x500, tdeleg := x.tdeleg.set 0 16 })
def w37 : State := demoT (fun x => { x with status := 3 })
/-- Every clause of TrapEntry has a state and operands that meet its hypotheses. -/
theorem test_meets_TrapEntry :
    ((w36.thread 0).pl ≠ 3 ∧ ((w36.thread 0).frame 3).act = false ∧ 0 ≤ 3 ∧ (w36.thread 0).pl ≤ 0 ∧ breakpoint.floor ≤ 0 ∧
      (((w36.thread 0).frame 0).act = false ∧ BitVec.getLsbD (w36.tdelegOf (w36.thread 0) 0) breakpoint.cause = true ∨ 0 = 3) ∧
      (∀ k < 0, (w36.thread 0).pl ≤ k → breakpoint.floor ≤ k → ¬(((w36.thread 0).frame k).act = false ∧
      BitVec.getLsbD (w36.tdelegOf (w36.thread 0) k) breakpoint.cause = true ∨ k = 3)) ∧ GoodPc (w36.tvecOf (w36.thread 0) 0) ∧
      (0 = 2 → (w36.thread 0).onService.isSome = true)) ∧
    ((demo.thread 0).pl ≠ 3 ∧ ((demo.thread 0).frame 3).act = false ∧ 3 ≤ 3 ∧ (demo.thread 0).pl ≤ 3 ∧ breakpoint.floor ≤ 3 ∧
      (((demo.thread 0).frame 3).act = false ∧ BitVec.getLsbD (demo.tdelegOf (demo.thread 0) 3) breakpoint.cause = true ∨ 3 = 3) ∧
      (∀ k < 3, (demo.thread 0).pl ≤ k → breakpoint.floor ≤ k → ¬(((demo.thread 0).frame k).act = false ∧
      BitVec.getLsbD (demo.tdelegOf (demo.thread 0) k) breakpoint.cause = true ∨ k = 3)) ∧ GoodPc (demo.tvecOf (demo.thread 0) 3) ∧
      (3 = 2 → (demo.thread 0).onService.isSome = true)) ∧
    (((w37.thread 0).pl = 3 ∨ ((w37.thread 0).frame 3).act = true) ∧ (w37.ctxOf (w37.thread 0).ctx).halt = none) := by
  (repeat' apply And.intro) <;> decide +kernel

def w38 : State := demoT (fun x => { x with status := 1 })
/-- Every clause of TrapBkptHalt has a state and operands that meet its hypotheses. -/
theorem test_meets_TrapBkptHalt :
    (Plain demo 4 ∧ demo.self.pl = 0) ∧
    (Plain w38 4 ∧ 1 ≤ w38.self.pl ∧ (w38.ctxOf w38.self.ctx).halt = none) := by
  (repeat' apply And.intro) <;> decide +kernel


def usedFrame : Frame := { cause := 0x8000000000000004, epc := 0x400, stat := 0 }
def badFrame : Frame := { usedFrame with stat := 2 }
def freeFrame : Frame := {}
def w39 : State := demoT (fun x => { x with status := 1, frames := x.frames.set 1 usedFrame })
def w40 : State := demoT (fun x => { x with status := 1, frames := x.frames.set 1 badFrame })
/-- Every clause of TrapReturn has a state and operands that meet its hypotheses. -/
theorem test_meets_TrapReturn :
    (w39.self.frame w39.self.pl = usedFrame ∧ usedFrame.act = true ∧ BitVec.toNat usedFrame.stat < 2 ^ 5 ∧
      Word.field usedFrame.stat 0 2 ≤ w39.self.pl ∧ BitVec.getLsbD usedFrame.stat 3 = w39.self.conv ∧
      BitVec.getLsbD usedFrame.stat 4 = w39.self.steep ∧ GoodPc usedFrame.epc ∧ BitVec.getLsbD usedFrame.cause 24 = false ∧ w39.self.sstep = false ∧
      w39.self.onService = none) ∧
    (w40.self.frame w40.self.pl = badFrame ∧ badFrame.act = true ∧
      (2 ^ 5 ≤ BitVec.toNat badFrame.stat ∨ w40.self.pl < Word.field badFrame.stat 0 2 ∨ BitVec.getLsbD badFrame.stat 3 ≠ w40.self.conv ∨ BitVec.getLsbD badFrame.stat 4 ≠ w40.self.steep)) ∧
    (demo.self.frame demo.self.pl = freeFrame ∧ freeFrame.act = false ∧ demo.self.pl = 0) := by
  (repeat' apply And.intro) <;> decide +kernel


def region (b : Nat) : Region := { base := b, lg := 3, core := 0, since := 0 }
def quietRegions : State := { demo with regions := [region 0, region 8], cycle := 65536 }
/-- The translation that the small device's tables give an address. -/
def xlatOf (va : Word) (k : Kind) : Xlat := match demo.xlate demo.self.who va k with
  | .ok y => y
  | .error _ => ⟨1, 0, 4096, 0, 0, true, true, true, 0, true, true, true, .trk, .hall, false, false, []⟩
/-- A walk under way for thread 0, of an address that the tables map or do not. -/
def aWalk (va : Word) : Walk := { thread := 0, ctx := 1, part := 0, die := 0, va, kind := 0 }
def walking (va : Word) : State := { demo with walks := [aWalk va] }
def walkedState (va : Word) : State := State.walkTouch { walking va with walks := (walking va).walks.erase (aWalk va) } demo.self.who va
def walked : Xlat := match (walkedState 0x100).walk demo.self.who 0x100 .load with
  | .ok y => y
  | .error _ => xlatOf 0 .load
def unmapped : Fail := match demo.walk demo.self.who 0x9000000000 .load with
  | .ok _ => { cause := 0, val := 0 }
  | .error f => f
/-- Thread 0 at a level, with a translation in the shared TLB. -/
def atLevel (l : BitVec 64) : State := { demoT (fun x => { x with status := l }) with stlb := [(0, { full := [xlatOf 0 .load] })] }
def w41 : State := atLevel 1
def w42 : State := atLevel 2
/-- A line of thread 0's image, in a page of the minimum level PL.HYP, has not come into the register cache yet, and reads in memory as it was
written. -/
def missing : State := (demoT fun x => { x with image := 0x100004000, fetchMiss := 8 }).putWord 0x3020 0x45D
/-- Every clause of TranslationsComeAndGo has a state and operands that meet its hypotheses. -/
theorem test_meets_TranslationsComeAndGo :
    (List.find? (fun (x : Region) ↦ x.base == (region 0).base && x.lg == (region 0).lg) quietRegions.regions = some (region 0) ∧
      List.find? (fun (x : Region) ↦ x.base == (region 0).base + 2 ^ (region 0).lg && x.lg == (region 0).lg) quietRegions.regions = some (region 8) ∧
      (region 0).core = (region 8).core ∧ (region 0).lg < 10 ∧ (region 0).base % 2 ^ ((region 0).lg + 1) = 0 ∧
      (region 0).since + 0x10000 ≤ quietRegions.cycle ∧ (region 8).since + 0x10000 ≤ quietRegions.cycle) ∧
    (demo.walks.find? (fun w => w.thread == 0 && w.va == 0x100) = none) ∧
    ((walking 0x100).walks.find? (fun w => w.thread == 0 && w.va == 0x100) = some (aWalk 0x100) ∧
      (aWalk 0x100).ctx = ((walking 0x100).thread 0).ctx ∧ ((walking 0x100).ctxOf (aWalk 0x100).ctx).gone = false ∧
      (walkedState 0x100).walk ((walking 0x100).thread 0).who 0x100 (kindOf (aWalk 0x100).kind) = .ok walked ∧ walked.s2en = false ∧
      ((walkedState 0x100).tlbSliceOf ((walking 0x100).thread 0).who (aWalk 0x100).part 0x100).isSome = true) ∧
    ((walking 0x9000000000).walks.find? (fun w => w.thread == 0 && w.va == 0x9000000000) = some (aWalk 0x9000000000) ∧
      (walkedState 0x9000000000).walk ((walking 0x9000000000).thread 0).who 0x9000000000 (kindOf (aWalk 0x9000000000).kind) = .error unmapped) ∧
    ((missing.threads.find 0).isSome = true ∧ missing.imagePlace (missing.thread 0) = some 0x4000 ∧
      (missing.cachedLines (missing.thread 0).core).length < 2048 ∧ (missing.thread 0).fetchMiss.getLsbD 3 = true ∧
      missing.bytes (0x4000 + 64 * 3) 64 = Tab.get (missing.thread 0).evicted (missing.bytes (0x4000 + 64 * 3) 64) 3) ∧
    (Plain w41 4 ∧ w41.self.pl = 1 ∧ Released w41 3 ∧ w41.net = []) ∧
    (Plain w42 4 ∧ 2 ≤ w42.self.pl ∧ Released w42 3 ∧ w42.net = []) ∧ demo.self.pl = 0 := by
  (repeat' apply And.intro) <;>
    first | decide +kernel | exact slice_isSome (by decide +kernel) | exact ok_of (by decide +kernel) | exact error_of (by decide +kernel)



/-! ### Packed vectors -/

def inVec (tag : BitVec 4) (a b d : BitVec 128) : State := (demoT fun x => (((x.setV 1 a tag).setV 2 b tag).setV 3 d tag)).modSelf (·.setG 5 0xFEDCBA9876543210)
/-- Eight packed registers of one tag, and general registers. -/
def eight (tag : BitVec 4) (rs : List (BitVec 5 × Word)) : State :=
  (demoG rs).modSelf fun x => (List.range 8).foldl (fun x i => x.setV (BitVec.ofNat 4 i) (0x3F8000004000000040400000BF800000 + BitVec.ofNat 128 (7 * i)) tag) x
def w43 : State := demoG [(2, own 0x40)]
def w44 : State := demoG [(2, 0x40)]
def w45 : State := eight 2 [(2, own 0x40), (3, own 0x20)]
def w46 : State := eight 3 [(2, own 0x40), (3, own 0x20)]
/-- Every clause of VectorMemoryForms has a state and operands that meet its hypotheses. -/
theorem test_meets_VectorMemoryForms :
    (Plain w43 4 ∧ BitVec.toNat (w43.g 2 + BitVec.ofInt 64 ((16 : ℤ) * BitVec.toInt (0 : BitVec 8))) % 16 = 0 ∧
      OwnCaddyAt w43 (w43.g 2 + BitVec.ofInt 64 ((16 : ℤ) * BitVec.toInt (0 : BitVec 8))) 16 (caddyKey (0 : Coord) 64) ∧ w43.self.ld < 63 ∧
      BitVec.toNat (w43.g 2 + BitVec.ofInt 64 (BitVec.toInt (0 : BitVec 12))) % 16 = 0 ∧
      OwnCaddyAt w43 (w43.g 2 + BitVec.ofInt 64 (BitVec.toInt (0 : BitVec 12))) 16 (caddyKey (0 : Coord) 64) ∧ w43.self.st < 63) ∧
    (Plain w44 4 ∧ BitVec.toNat (w44.g 2 + BitVec.ofInt 64 ((16 : ℤ) * BitVec.toInt (0 : BitVec 8))) % 16 = 0 ∧
      w44.locate w44.self.who (w44.g 2 + BitVec.ofInt 64 ((16 : ℤ) * BitVec.toInt (0 : BitVec 8))) 16 .load = Except.ok (target 64) ∧
      (target 64).cls ≠ Cls.caddy ∧ (target 64).cls ≠ Cls.pod ∧ w44.self.ld < 63 ∧
      BitVec.toNat (w44.g 2 + BitVec.ofInt 64 (BitVec.toInt (0 : BitVec 12))) % 16 = 0 ∧
      w44.locate w44.self.who (w44.g 2 + BitVec.ofInt 64 (BitVec.toInt (0 : BitVec 12))) 16 .store = Except.ok (target 64) ∧ w44.self.st < 63) ∧
    (Plain w45 4 ∧ Guard w45 0 ∧ BitVec.toNat (0 : BitVec 4) < 9 ∧
      w45.tag (BitVec.ofNat 4 (8 * BitVec.toNat (0 : BitVec 1))) ∈ [BitVec.ofNat 4 2, BitVec.ofNat 4 3, BitVec.ofNat 4 4] ∧
      (∀ j < (if decide (BitVec.toNat (0 : BitVec 4) ≤ 5) = true then 32 else 16) / tagLanes (w45.tag (BitVec.ofNat 4 (8 * BitVec.toNat (0 : BitVec 1)))), w45.tag (BitVec.ofNat 4 (8 * BitVec.toNat (0 : BitVec 1)) + BitVec.ofNat 4 j) = w45.tag (BitVec.ofNat 4 (8 * BitVec.toNat (0 : BitVec 1)))) ∧ w45.self.st < 62 ∧ OwnCaddyAt w45 (w45.g 2) (blockBytes (12 + BitVec.toNat (0 : BitVec 4))) (caddyKey (0 : Coord) 64) ∧ decide (BitVec.toNat (0 : BitVec 4) ≤ 5) = true ∧ OwnCaddyAt w45 (w45.g 3) 1 (caddyKey (0 : Coord) 32) ∧ wellFormed (Instr.vdeq (0 : BitVec 4) (0 : BitVec 2) (2 : BitVec 5) (3 : BitVec 5) (0 : BitVec 4)) = true ∧ w45.self.ld < 62 ∧ (decide (BitVec.toNat (0 : BitVec 4) ≤ 5) = true → OwnCaddyAt w45 (w45.g 3) 1 (caddyKey (0 : Coord) 32))) ∧
    (Plain w46 4 ∧ Guard w46 0 ∧ BitVec.toNat (8 : BitVec 4) < 9 ∧
      w46.tag (BitVec.ofNat 4 (8 * BitVec.toNat (0 : BitVec 1))) ∈ [BitVec.ofNat 4 2, BitVec.ofNat 4 3, BitVec.ofNat 4 4] ∧
      (∀ j < (if decide (BitVec.toNat (8 : BitVec 4) ≤ 5) = true then 32 else 16) / tagLanes (w46.tag (BitVec.ofNat 4 (8 * BitVec.toNat (0 : BitVec 1)))), w46.tag (BitVec.ofNat 4 (8 * BitVec.toNat (0 : BitVec 1)) + BitVec.ofNat 4 j) = w46.tag (BitVec.ofNat 4 (8 * BitVec.toNat (0 : BitVec 1)))) ∧ w46.self.st < 62 ∧ OwnCaddyAt w46 (w46.g 2) (blockBytes (12 + BitVec.toNat (8 : BitVec 4))) (caddyKey (0 : Coord) 64) ∧ decide (BitVec.toNat (8 : BitVec 4) ≤ 5) = false) := by
  (repeat' apply And.intro) <;> first | decide +kernel | (refine ok_of ?_; decide +kernel)

def w47 : State := inVec 2 0x3F8000004000000040400000BF800000 0x3F8000007F80000000000000C0000000 0x4
def w48 : State := inVec 1 0x3FF80000040000000404000000BF8000 0x7FF8000007F80000800000000C000000 0x4
/-- Every clause of VectorFloatForms has a state and operands that meet its hypotheses. -/
theorem test_meets_VectorFloatForms :
    (Plain w47 4 ∧ Guard w47 0 ∧ w47.tag 1 ∈ [BitVec.ofNat 4 1, BitVec.ofNat 4 2, BitVec.ofNat 4 3, BitVec.ofNat 4 4] ∧ w47.tag 2 = w47.tag 1 ∧
      w47.tag 3 = w47.tag 1) ∧
    (Plain w48 4 ∧ Guard w48 0 ∧ w48.tag 1 ∈ [BitVec.ofNat 4 1, BitVec.ofNat 4 2, BitVec.ofNat 4 3, BitVec.ofNat 4 4] ∧ w48.tag 2 = w48.tag 1 ∧
      w48.tag 3 = w48.tag 1) := by
  (repeat' apply And.intro) <;> decide +kernel

def w49 : State := inVec 7 0x80FF7F01000102039A9B9C9D7FFFFFFF 0x8001FF7F80808080FFFFFFFF00000021 3
def w50 : State := inVec 11 0x80FF7F01000102039A9B9C9D7FFFFFFF 0x8001FF7F80808080FFFFFFFF00000021 3
/-- Every clause of VectorIntegerForms has a state and operands that meet its hypotheses. -/
theorem test_meets_VectorIntegerForms :
    (Plain w49 4 ∧ Guard w49 0 ∧ w49.tag 1 ∈ [BitVec.ofNat 4 7, BitVec.ofNat 4 8, BitVec.ofNat 4 9, BitVec.ofNat 4 10, BitVec.ofNat 4 11] ∧
      w49.tag 2 = w49.tag 1 ∧ w49.tag 3 = w49.tag 1) ∧
    (Plain w50 4 ∧ Guard w50 0 ∧ w50.tag 1 ∈ [BitVec.ofNat 4 7, BitVec.ofNat 4 8, BitVec.ofNat 4 9, BitVec.ofNat 4 10, BitVec.ofNat 4 11] ∧
      w50.tag 2 = w50.tag 1 ∧ w50.tag 3 = w50.tag 1) := by
  (repeat' apply And.intro) <;> decide +kernel

def w51 : State := inVec 7 0x80FF7F01000102039A9B9C9D7FFFFFFF 0x8001FF7F80808080FFFFFFFF00000021 3
def w52 : State := inVec 1 0x7FF8000007F80000800000000C000000 0 3
/-- Every clause of VectorCompare has a state and operands that meet its hypotheses. -/
theorem test_meets_VectorCompare :
    (Plain w51 4 ∧ Guard w51 0 ∧ w51.tag 1 ≠ (0 : BitVec 4) ∧ (w51.tag 1).toNat ≤ 11 ∧ w51.tag 2 = w51.tag 1) ∧
    (Plain w52 4 ∧ Guard w52 0 ∧ w52.tag 1 ≠ (0 : BitVec 4) ∧ (w52.tag 1).toNat ≤ 11 ∧ w52.tag 2 = w52.tag 1) := by
  (repeat' apply And.intro) <;> decide +kernel

def w53 : State := inVec 10 3 4 5
def w54 : State := inVec 2 3 4 5
def w55 : State := (inVec 10 3 4 5).modSelf (·.setV 3 5 8)
def w56 : State := (inVec 3 3 4 5).modSelf (·.setV 3 5 2)
def w57 : State := (inVec 6 3 4 5).modSelf (·.setV 3 5 2)
/-- Every clause of VectorConversions has a state and operands that meet its hypotheses. -/
theorem test_meets_VectorConversions :
    (Plain w53 4 ∧ Guard w53 0 ∧ w53.tag 1 ≠ (0 : BitVec 4) ∧ tagLanes (2 : BitVec 4) ≤ tagLanes (w53.tag 1)) ∧
    (Plain w54 4 ∧ Guard w54 0 ∧ w54.tag 1 ≠ (0 : BitVec 4) ∧ tagLanes (w54.tag 1) < tagLanes (11 : BitVec 4) ∧
      (w54.tag 4 = (11 : BitVec 4) ∨ w54.tag 4 = (0 : BitVec 4))) ∧
    (Plain w55 4 ∧ Guard w55 0 ∧ w55.tag 1 ≠ (0 : BitVec 4) ∧ tagLanes (8 : BitVec 4) ≤ tagLanes (w55.tag 1) ∧
      (w55.tag 1 = (10 : BitVec 4) ∨ w55.tag 1 = (11 : BitVec 4)) ∧ (w55.tag 2 = (10 : BitVec 4) ∨ w55.tag 2 = (11 : BitVec 4)) ∧
      w55.tag 3 = (8 : BitVec 4)) ∧
    (Plain w56 4 ∧ Guard w56 0 ∧ w56.tag 1 ≠ (0 : BitVec 4) ∧ tagLanes (8 : BitVec 4) ≤ tagLanes (w56.tag 1) ∧
      (w56.tag 1 = (3 : BitVec 4) ∨ w56.tag 1 = (4 : BitVec 4)) ∧ w56.tag 2 = w56.tag 1 ∧ w56.tag 3 = (2 : BitVec 4)) ∧
    (Plain w57 4 ∧ Guard w57 0 ∧ w57.tag 1 ≠ (0 : BitVec 4) ∧ tagLanes (8 : BitVec 4) ≤ tagLanes (w57.tag 1) ∧
      (w57.tag 1 = (5 : BitVec 4) ∨ w57.tag 1 = (6 : BitVec 4)) ∧ (w57.tag 2 = (5 : BitVec 4) ∨ w57.tag 2 = (6 : BitVec 4)) ∧
      w57.tag 3 = (2 : BitVec 4)) := by
  (repeat' apply And.intro) <;> decide +kernel

def w58 : State := inVec 10 3 4 5
def w59 : State := inVec 1 3 4 5
/-- Every clause of VectorMoves has a state and operands that meet its hypotheses. -/
theorem test_meets_VectorMoves :
    (Plain w58 4 ∧ Guard w58 0 ∧ w58.tag 3 = w58.tag 1 ∧ w58.tag 1 ≠ (0 : BitVec 4) ∧ w58.tag 3 ≠ (0 : BitVec 4) ∧
      w58.tag 1 ∈ [BitVec.ofNat 4 7, BitVec.ofNat 4 8, BitVec.ofNat 4 9, BitVec.ofNat 4 10, BitVec.ofNat 4 11]) ∧
    (Plain w59 4 ∧ Guard w59 0 ∧ w59.tag 3 = w59.tag 1 ∧ w59.tag 1 ≠ (0 : BitVec 4) ∧ w59.tag 3 ≠ (0 : BitVec 4) ∧
      w59.tag 1 ∈ [BitVec.ofNat 4 1, BitVec.ofNat 4 2, BitVec.ofNat 4 3, BitVec.ofNat 4 4]) := by
  (repeat' apply And.intro) <;> decide +kernel

def w60 : State := inVec 9 3 4 5
def w61 : State := inVec 3 3 4 5
def w62 : State := inVec 3 3 4 5
/-- Every clause of VectorTagsAreChecked has a state and operands that meet its hypotheses. -/
theorem test_meets_VectorTagsAreChecked :
    (Guard w60 0 ∧ w60.tag 1 ∉ [BitVec.ofNat 4 1, BitVec.ofNat 4 2, BitVec.ofNat 4 3, BitVec.ofNat 4 4] ∧
      w60.tag 1 ∈ [BitVec.ofNat 4 7, BitVec.ofNat 4 8, BitVec.ofNat 4 9, BitVec.ofNat 4 10, BitVec.ofNat 4 11] ∧ w60.tag 4 ≠ w60.tag 1) ∧
    (Guard w61 0 ∧ w61.tag 1 ∈ [BitVec.ofNat 4 1, BitVec.ofNat 4 2, BitVec.ofNat 4 3, BitVec.ofNat 4 4] ∧ w61.tag 4 ≠ w61.tag 1 ∧
      w61.tag 1 ∉ [BitVec.ofNat 4 7, BitVec.ofNat 4 8, BitVec.ofNat 4 9, BitVec.ofNat 4 10, BitVec.ofNat 4 11]) ∧
    (Guard w62 0 ∧ w62.tag 1 ∈ [BitVec.ofNat 4 1, BitVec.ofNat 4 2, BitVec.ofNat 4 3, BitVec.ofNat 4 4] ∧ w62.tag 2 = w62.tag 1 ∧
      w62.tag 4 ≠ w62.tag 1 ∧ w62.tag 1 ∉ [BitVec.ofNat 4 7, BitVec.ofNat 4 8, BitVec.ofNat 4 9, BitVec.ofNat 4 10, BitVec.ofNat 4 11]) := by
  (repeat' apply And.intro) <;> decide +kernel


/-! ### The matrix engine -/

/-- An operand word: format, caddy offset, depth (R143). -/
def operand (fmt off k : Nat) : Word := BitVec.ofNat 64 (off + fmt * 2 ^ 24 + k * 2 ^ 32)
/-- A formed group of one thread whose object stands at 0x40. -/
def group1 : Convene := { off := 0x40, ctx := 1, count := 1, present := 1, formed := true }
/-- A command that thread 5 has issued. -/
def command : Cmd :=
  { ctx := 1, form := 0, a := operand 4 0x100 16, b := operand 4 0x300 0, c := 0x40000000, pa := 0x40000000, place := .pin 0, issuers := [5], group := 3 }
def group2 : Convene := { group1 with count := 2, present := 3, pending := some command, issued := 2 }
def goodWords : List (BitVec 5 × Word) := [(1, operand 4 0x100 16), (2, operand 4 0x300 0), (3, 0x40000000)]
def badWords : List (BitVec 5 × Word) := [(1, operand 4 0x100 64), (2, operand 4 0x900 0), (3, 0x40000000)]
/-- Thread 0 as the first member of a group. -/
def inGroup (rs : List (BitVec 5 × Word)) (c : Convene) : State :=
  ((demoG rs).modSelf fun x => { x with status := 8, cnv := 1 }).modCore 0 fun k => { k with convene := k.convene.set 0 (some c) }
def w63 : State := inGroup goodWords group1
def w64 : State := inGroup badWords group1
def w65 : State := inGroup goodWords group2
def w66 : State := (demoG goodWords).modSelf (fun x => { x with status := 16, place := .slot 60 })
def w67 : State := demoG goodWords
/-- Every clause of MatrixCommandsIssue has a state and operands that meet its hypotheses. -/
theorem test_meets_MatrixCommandsIssue :
    (Plain w63 4 ∧ Memory.wf w63.mem = true ∧ w63.self.onService = none ∧ w63.primary w63.self.ctx w63.self.core = true ∧ isCaddy (w63.g 3) = false ∧
      w63.xlate w63.self.who (w63.g 3) .reduce = Except.ok (xlatOf (0x40000000 : Word) .reduce) ∧ w63.self.mx < 63 ∧ w63.self.conv = true ∧
      w63.convAt (cnvPlace w63.self.cnv).1 w63.self.ctx (cnvPlace w63.self.cnv).2.1 = some (0, group1) ∧ group1.formed = true ∧
      group1.broken = false ∧ checkWords (w63.g 1) (w63.g 2) (w63.g 3) (0 : BitVec 6) = 0 ∧ group1.pending = none ∧ w63.self.loads = [] ∧ w63.self.st = 0 ∧ w63.self.steep = false) ∧
    (Plain w64 4 ∧ Memory.wf w64.mem = true ∧ w64.self.onService = none ∧ w64.primary w64.self.ctx w64.self.core = true ∧ isCaddy (w64.g 3) = false ∧
      w64.xlate w64.self.who (w64.g 3) .reduce = Except.ok (xlatOf (0x40000000 : Word) .reduce) ∧ w64.self.mx < 63 ∧ w64.self.conv = true ∧
      w64.convAt (cnvPlace w64.self.cnv).1 w64.self.ctx (cnvPlace w64.self.cnv).2.1 = some (0, group1) ∧
      checkWords (w64.g 1) (w64.g 2) (w64.g 3) (0 : BitVec 6) = 0 ∧ checkWords (w64.g 1) (w64.g 2) (w64.g 3) (2 : BitVec 6) = 0 ∧
      checkWords (w64.g 1) (w64.g 2) (w64.g 3) (3 : BitVec 6) = 0 ∧ checkWords (w64.g 1) (w64.g 2) (w64.g 3) (4 : BitVec 6) = 0 ∧
      w64.self.steep = false) ∧
    (Plain w65 4 ∧ Memory.wf w65.mem = true ∧ w65.self.onService = none ∧ w65.primary w65.self.ctx w65.self.core = true ∧ isCaddy (w65.g 3) = false ∧
      w65.xlate w65.self.who (w65.g 3) .reduce = Except.ok (xlatOf (0x40000000 : Word) .reduce) ∧ w65.self.mx < 63 ∧ w65.self.conv = true ∧
      w65.convAt (cnvPlace w65.self.cnv).1 w65.self.ctx (cnvPlace w65.self.cnv).2.1 = some (0, group2) ∧ group2.formed = true ∧
      group2.broken = false ∧ checkWords (w65.g 1) (w65.g 2) (w65.g 3) (0 : BitVec 6) = 0 ∧ group2.pending = some command ∧ command.a = w65.g 1 ∧
      command.b = w65.g 2 ∧ command.c = w65.g 3 ∧ command.form = (0 : BitVec 6) ∧ group2.issued.getLsbD (cnvPlace w65.self.cnv).2.2 = false ∧
      w65.self.loads = [] ∧ w65.self.st = 0 ∧ w65.self.steep = false) ∧
    (Plain w66 4 ∧ Memory.wf w66.mem = true ∧ w66.self.onService = none ∧ w66.primary w66.self.ctx w66.self.core = true ∧ isCaddy (w66.g 3) = false ∧
      w66.xlate w66.self.who (w66.g 3) .reduce = Except.ok (xlatOf (0x40000000 : Word) .reduce) ∧ w66.self.mx < 63 ∧ w66.self.conv = false ∧
      w66.self.steep = true ∧ checkWords (w66.g 1) (w66.g 2) (w66.g 3) (1 : BitVec 6) = 0) ∧
    (Plain w67 4 ∧ Memory.wf w67.mem = true ∧ w67.self.onService = none ∧ w67.primary w67.self.ctx w67.self.core = true ∧ isCaddy (w67.g 3) = false ∧
      w67.xlate w67.self.who (w67.g 3) .reduce = Except.ok (xlatOf (0x40000000 : Word) .reduce) ∧ w67.self.mx < 63 ∧ w67.self.conv = false ∧
      w67.self.steep = false) := by
  (repeat' apply And.intro) <;> first | decide +kernel | (refine ok_of ?_; decide +kernel)

def group3 : Convene := { group2 with issued := 3 }
def withEngine (g : Convene) (f : Engine → Engine) : State := demoC fun k => { k with convene := k.convene.set 0 (some g), engine := f k.engine }
def w68 : State := withEngine group3 id
def w69 : State := withEngine group3 (fun e => { e with holder := some 0 })
def w70 : State := withEngine group3 (fun e => { e with steepQ := [command] })
def w71 : State := withEngine group2 (fun e => { e with holder := some 0, queue := [command] })
/-- A command one line of which has still to be sent. -/
def sentPartly : State := withEngine group2 (fun e => { e with
  holder := some 0, queue := [command]
  out := [{ ctx := 1, pa := 0x40000000, home := 0, words := List.replicate 16 0, key := 0, ord := false, scope := 3, cores := [0], groups := [3] }] })
/-- Every clause of TheEngineRunsItsCommands has a state and operands that meet its hypotheses. -/
theorem test_meets_TheEngineRunsItsCommands :
    (w68.engineStopped (0 : Coord) = false ∧ (w68.coreAt 0).engine.queue.length < 2 ∧ (w68.coreAt 0).engine.holder = none ∧
      (w68.coreAt 0).engine.steepQ = [] ∧ w68.nextReady (0 : Coord) (w68.coreAt 0).engine.last = some 0 ∧ w68.conv 0 0 = some group3 ∧
      command.form = (0 : BitVec 6) ∧ Word.field command.a 24 5 = 4 ∧ Word.field command.b 24 5 = 4 ∧ Word.field command.a 32 16 = 16 ∧
      (w68.coreAt 0).savedCaddy = []) ∧
    (w69.engineStopped (0 : Coord) = false ∧ (w69.coreAt 0).engine.queue.length < 2 ∧ (w69.coreAt 0).engine.holder = some 0 ∧
      w69.conv 0 0 = some group3 ∧ group3.ready = true ∧ group3.pending = some command ∧ group3.present ≠ (0 : BitVec 32) ∧ group3.cmds + 1 < 16 ∧
      (w69.coreAt 0).savedCaddy = []) ∧
    (w70.engineStopped (0 : Coord) = false ∧ (w70.coreAt 0).engine.queue.length < 2 ∧ (w70.coreAt 0).engine.holder = none ∧
      (w70.coreAt 0).engine.steepQ = [command] ∧ (w70.coreAt 0).engine.run < 16 ∧ (w70.coreAt 0).savedCaddy = []) ∧
    ((w71.coreAt 0).engine.holder = some 0 ∧ w71.conv 0 0 = some group2 ∧ group2.ready = false ∧ (w71.coreAt 0).engine.queue = [command] ∧
      w71.halted command.ctx = false ∧ (w71.coreAt 0).engine.out = [] ∧ (w71.coreAt 0).savedCaddy = [] ∧ 15 < 16) ∧
    ((sentPartly.coreAt 0).engine.queue = [command] ∧ sentPartly.halted command.ctx = false ∧ (sentPartly.coreAt 0).engine.out ≠ []) := by
  (repeat' apply And.intro) <;> decide +kernel


/-- Four binary32 registers in the first quad. -/
def quad (rs : List (BitVec 5 × Word)) : State :=
  (demoG rs).modSelf fun x => (List.range 4).foldl (fun x i => x.setV (BitVec.ofNat 4 i) (0x3F8000004000000040400000BF800000 + BitVec.ofNat 128 i) 2) x
/-- The pieces of a row's place, as DRAIN finds them. -/
def rowAt (s : State) (base : Word) (n st r : Nat) : List (Word × Nat × Target) := match drainPlace s (base + BitVec.ofNat 64 (r * st)) n with
  | .ok l => l
  | .error _ => []
/-- A tile descriptor of rank 2 (R224). -/
def tileDesc : List Byte := leBytes 8 0x2000 ++ [(4 : Byte), 2, 0, 0, 0, 0, 0, 0] ++ leBytes 4 64 ++ leBytes 4 16 ++ leBytes 12 0 ++ leBytes 2 8 ++
  leBytes 2 4 ++ leBytes 8 0 ++ leBytes 4 16 ++ leBytes 12 0
def noScales (_ : Nat) : List (Word × Nat × Target) := []
def drained : State := quad [(1, 0x40000000), (2, 0x1008), (3, 0x2000)]
def w72 : State := quad [(1, 0x40000000), (2, 0x3F800000)]
def w73 : State := quad [(1, 0x40000000), (2, 8)]
def w74 : State := quad []
def w75 : State := quad [(1, 0x40000040)]
def w76 : State := quad [(1, 0x80000040), (2, 0x80)]
def w77 : State := quad [(1, 0x20)]
def w78 : State := quad [(1, own 0x40)]
def w79 : State := withMem (quad [(1, own 0x40)]) (caddyKey 0 0x40) tileDesc
/-- Every clause of AccumulationInstructions has a state and operands that meet its hypotheses. -/
theorem test_meets_AccumulationInstructions :
    (Plain w72 4 ∧ BitVec.toNat (w72.g 1) % 0x400 = 0 ∧ BitVec.toNat (w72.g 1) < 2 ^ 57 ∧ Word.field (w72.g 2) 48 16 = 0 ∧
      isCaddy (w72.g 1) = false ∧ w72.xlate w72.self.who (w72.g 1) .store = Except.ok (xlatOf (0x40000000 : Word) .store) ∧
      (xlatOf (0x40000000 : Word) .store).cls = Cls.acc ∧ w72.self.st < 63 ∧ Word.field (w72.g 2) 4 12 = 0 ∧ Word.field (w72.g 2) 32 32 = 0 ∧
      Word.field (w72.g 2) 0 3 ≤ 5 ∧ w72.self.mx = 0 ∧ w72.g 1 ≠ (0 : Word) ∧
      w72.xlate w72.self.who (w72.g 1) .load = Except.ok (xlatOf (0x40000000 : Word) .store) ∧
      (BitVec.getLsbD (w72.g 2) 3 = true → ∀ i < 16, w72.keyOf ((w72.targetOf (xlatOf (0x40000000 : Word) .store) (w72.g 1)).pa + 64 * i) = BitVec.ofNat 16 (Word.field (w72.g 2) 16 16)) ∧ BitVec.toNat (w72.g 1) % 64 = 0 ∧ Word.field (w72.g 0) 0 32 = 0 ∧ Word.field (w72.g 0) 36 12 = 0 ∧ Word.field (w72.g 0) 32 3 ≤ 5 ∧ (BitVec.getLsbD (w72.g 0) 35 = false → Word.field (w72.g 0) 48 16 = 0) ∧ (BitVec.getLsbD (w72.g 0) 35 = true → Word.field (w72.g 0) 32 3 = 0) ∧ w72.xlate w72.self.who (w72.g 1) .reduce = Except.ok (xlatOf (0x40000000 : Word) .store) ∧ (∀ j < 4, w72.tag (BitVec.ofNat 4 (4 * BitVec.toNat (0 : BitVec 2) + j)) = (2 : BitVec 4)) ∧ w72.self.mx < 63 ∧ Quiet w72) ∧
    (Plain w73 4 ∧ BitVec.toNat (w73.g 1) % 0x400 = 0 ∧ BitVec.toNat (w73.g 1) < 2 ^ 57 ∧ Word.field (w73.g 2) 48 16 = 0 ∧
      isCaddy (w73.g 1) = false ∧ w73.xlate w73.self.who (w73.g 1) .store = Except.ok (xlatOf (0x40000000 : Word) .load) ∧
      (xlatOf (0x40000000 : Word) .load).cls = Cls.acc ∧ w73.self.st < 63 ∧ Word.field (w73.g 2) 4 12 = 0 ∧ Word.field (w73.g 2) 32 32 = 0 ∧
      Word.field (w73.g 2) 0 3 ≤ 5 ∧ w73.self.mx = 0 ∧ w73.g 1 ≠ (0 : Word) ∧
      w73.xlate w73.self.who (w73.g 1) .load = Except.ok (xlatOf (0x40000000 : Word) .load) ∧
      (BitVec.getLsbD (w73.g 2) 3 = true → ∀ i < 16, w73.keyOf ((w73.targetOf (xlatOf (0x40000000 : Word) .load) (w73.g 1)).pa + 64 * i) = BitVec.ofNat 16 (Word.field (w73.g 2) 16 16)) ∧ BitVec.toNat (w73.g 1) % 64 = 0 ∧ Word.field (w73.g 3) 0 32 = 0 ∧ Word.field (w73.g 3) 36 12 = 0 ∧ Word.field (w73.g 3) 32 3 ≤ 5 ∧ (BitVec.getLsbD (w73.g 3) 35 = false → Word.field (w73.g 3) 48 16 = 0) ∧ (BitVec.getLsbD (w73.g 3) 35 = true → Word.field (w73.g 3) 32 3 = 0) ∧ w73.xlate w73.self.who (w73.g 1) .reduce = Except.ok (xlatOf (0x40000000 : Word) .load) ∧ (∀ j < 4, w73.tag (BitVec.ofNat 4 (4 * BitVec.toNat (0 : BitVec 2) + j)) = (2 : BitVec 4)) ∧ w73.self.mx < 63 ∧ Quiet w73) ∧
    (Plain w74 4 ∧ Word.field (w74.g 2) 4 12 = 0 ∧ Word.field (w74.g 2) 32 32 = 0 ∧ Word.field (w74.g 2) 0 3 ≤ 5 ∧ w74.self.mx = 0 ∧
      w74.g 1 = (0 : Word) ∧ BitVec.getLsbD (w74.g 2) 3 = false ∧ w74.g 1 + BitVec.ofInt 64 (BitVec.toInt (0 : BitVec 12)) = (0 : Word)) ∧
    (Plain w75 4 ∧ BitVec.toNat (w75.g 1) % 64 = 0 ∧ BitVec.toNat (w75.g 1) < 2 ^ 57 ∧ Word.field (w75.g 3) 0 32 = 0 ∧
      Word.field (w75.g 3) 36 12 = 0 ∧ Word.field (w75.g 3) 32 3 ≤ 5 ∧ (BitVec.getLsbD (w75.g 3) 35 = false → Word.field (w75.g 3) 48 16 = 0) ∧
      (BitVec.getLsbD (w75.g 3) 35 = true → Word.field (w75.g 3) 32 3 = 0) ∧ isCaddy (w75.g 1) = false ∧
      w75.xlate w75.self.who (w75.g 1) .reduce = Except.ok (xlatOf (0x40000000 : Word) .reduce) ∧
      (xlatOf (0x40000000 : Word) .reduce).cls = Cls.acc ∧
      (∀ j < 4, w75.tag (BitVec.ofNat 4 (4 * BitVec.toNat (0 : BitVec 2) + j)) = (2 : BitVec 4)) ∧ w75.self.mx < 63 ∧ Quiet w75) ∧
    (Plain w76 4 ∧ BitVec.toNat (w76.g 1) % 64 = 0 ∧ BitVec.toNat (w76.g 1) < 2 ^ 57 ∧ w76.g 2 ≠ (0 : Word) ∧ BitVec.toNat (w76.g 2) % 64 = 0 ∧
      isCaddy (w76.g 1) = false ∧ w76.xlate w76.self.who (w76.g 1) .store = Except.ok (xlatOf (0x80000000 : Word) .store) ∧
      (xlatOf (0x80000000 : Word) .store).cls = Cls.det ∧
      BitVec.toNat (w76.g 1) + BitVec.toNat (w76.g 2) ≤ (xlatOf (0x80000000 : Word) .store).vbase + (xlatOf (0x80000000 : Word) .store).size ∧
      w76.self.st < 63) ∧
    (Plain drained 4 ∧ BitVec.toNat (drained.g 1) % 0x400 = 0 ∧ BitVec.toNat (drained.g 1) < 2 ^ 57 ∧ Word.field (drained.g 2) 48 16 = 0 ∧
      isCaddy (drained.g 1) = false ∧ drained.xlate drained.self.who (drained.g 1) .store = Except.ok (xlatOf (0x40000000 : Word) .load) ∧
      drained.self.st < 63 ∧ BitVec.toNat (drained.g 1) % 64 = 0 ∧ Word.field (drained.g 4) 0 32 = 0 ∧ Word.field (drained.g 4) 36 12 = 0 ∧
      Word.field (drained.g 4) 32 3 ≤ 5 ∧ (BitVec.getLsbD (drained.g 4) 35 = false → Word.field (drained.g 4) 48 16 = 0) ∧
      (BitVec.getLsbD (drained.g 4) 35 = true → Word.field (drained.g 4) 32 3 = 0) ∧
      drained.xlate drained.self.who (drained.g 1) .reduce = Except.ok (xlatOf (0x40000000 : Word) .load) ∧
      (∀ j < 4, drained.tag (BitVec.ofNat 4 (4 * BitVec.toNat (0 : BitVec 2) + j)) = (2 : BitVec 4)) ∧ drained.self.mx < 63 ∧
      (BitVec.toNat (drained.g 1) % if isMxCode (BitVec.toNat (2 : BitVec 5)) = true then 0x800 else 0x400) = 0 ∧
      BitVec.toNat (drained.g 2) < 2 ^ 57 ∧
      (isMxCode (BitVec.toNat (2 : BitVec 5)) = true → BitVec.toNat (drained.g ((2 : BitVec 5) + (1 : BitVec 5))) < 2 ^ 57) ∧
      Word.field (drained.g 4) 49 15 = 0 ∧
      (Word.field (drained.g 4) 0 24 = 0 ∨ drainRowBytes (BitVec.toNat (2 : BitVec 5)) ≤ Word.field (drained.g 4) 0 24) ∧
      (isMxCode (BitVec.toNat (2 : BitVec 5)) = false → Word.field (drained.g 4) 24 24 = 0) ∧
      drained.xlate drained.self.who (drained.g 1) .load = Except.ok (xlatOf (0x40000000 : Word) .load) ∧
      (∀ r < 16, drainPlace drained (drained.g 2 + BitVec.ofNat 64 (r * if Word.field (drained.g 4) 0 24 = 0 then drainRowBytes (BitVec.toNat (2 : BitVec 5)) else Word.field (drained.g 4) 0 24)) (drainRowBytes (BitVec.toNat (2 : BitVec 5))) = Except.ok (rowAt drained (0x1008 : Word) 64 64 r)) ∧ (if isMxCode (BitVec.toNat (2 : BitVec 5)) = true then ∀ r < 16, drainPlace drained (drained.g ((2 : BitVec 5) + (1 : BitVec 5)) + BitVec.ofNat 64 (r * if Word.field (drained.g 4) 24 24 = 0 then 1 else Word.field (drained.g 4) 24 24)) 1 = Except.ok (noScales r) else ∀ (r : ℕ), noScales r = [])) ∧
    ((BitVec.toNat (drained.g 1) % if isMxCode (BitVec.toNat (13 : BitVec 5)) = true then 0x800 else 0x400) = 0 ∧
      (isMxCode (BitVec.toNat (13 : BitVec 5)) = true → BitVec.toNat (drained.g ((2 : BitVec 5) + (1 : BitVec 5))) < 2 ^ 57) ∧
      (Word.field (drained.g 4) 0 24 = 0 ∨ drainRowBytes (BitVec.toNat (13 : BitVec 5)) ≤ Word.field (drained.g 4) 0 24) ∧
      (isMxCode (BitVec.toNat (13 : BitVec 5)) = false → Word.field (drained.g 4) 24 24 = 0) ∧
      (∀ r < 16, drainPlace drained (drained.g 2 + BitVec.ofNat 64 (r * if Word.field (drained.g 4) 0 24 = 0 then drainRowBytes (BitVec.toNat (13 : BitVec 5)) else Word.field (drained.g 4) 0 24)) (drainRowBytes (BitVec.toNat (13 : BitVec 5))) = Except.ok (rowAt drained (0x1008 : Word) (drainRowBytes 13) (drainRowBytes 13) r)) ∧ (if isMxCode (BitVec.toNat (13 : BitVec 5)) = true then ∀ r < 16, drainPlace drained (drained.g ((2 : BitVec 5) + (1 : BitVec 5)) + BitVec.ofNat 64 (r * if Word.field (drained.g 4) 24 24 = 0 then 1 else Word.field (drained.g 4) 24 24)) 1 = Except.ok (rowAt drained (0x2000 : Word) 1 1 r) else ∀ (r : ℕ), rowAt drained (0x2000 : Word) 1 1 r = [])) ∧
    (Plain w77 4 ∧ w77.g 1 + BitVec.ofInt 64 (BitVec.toInt (0 : BitVec 12)) ≠ (0 : Word) ∧
      BitVec.toNat (w77.g 1 + BitVec.ofInt 64 (BitVec.toInt (0 : BitVec 12))) % 64 ≠ 0) ∧
    (Plain w78 4 ∧ w78.g 1 + BitVec.ofInt 64 (BitVec.toInt (0 : BitVec 12)) ≠ (0 : Word) ∧
      BitVec.toNat (w78.g 1 + BitVec.ofInt 64 (BitVec.toInt (0 : BitVec 12))) % 64 = 0 ∧
      OwnCaddyAt w78 (w78.g 1 + BitVec.ofInt 64 (BitVec.toInt (0 : BitVec 12))) 64 (caddyKey (0 : Coord) 64) ∧
      tmValid (w78.bytes (caddyKey (0 : Coord) 64) 64) = false) ∧
    (Plain w79 4 ∧ w79.g 1 + BitVec.ofInt 64 (BitVec.toInt (0 : BitVec 12)) ≠ (0 : Word) ∧
      BitVec.toNat (w79.g 1 + BitVec.ofInt 64 (BitVec.toInt (0 : BitVec 12))) % 64 = 0 ∧
      OwnCaddyAt w79 (w79.g 1 + BitVec.ofInt 64 (BitVec.toInt (0 : BitVec 12))) 64 (caddyKey (0 : Coord) 64) ∧
      tmValid (w79.bytes (caddyKey (0 : Coord) 64) 64) = true) := by
  (repeat' apply And.intro) <;> first | decide +kernel | (refine ok_of ?_; decide +kernel) | (intro r hr; interval_cases r <;> exact ok_of (by decide +kernel)) | rfl | exact fun _ => rfl


/-- A partial for a line of the ACC page. -/
def partialLine (ord : Bool) (key : BitVec 16) : RedLine :=
  { ctx := 1, pa := 0x40000040, home := 0, words := List.replicate 16 0x3F800000, key, ord, scope := 3, cores := [0], groups := [7] }
def accLine : Access := access .acc 0x40000040 64
def detLines : Access := { access .det 0x80000040 128 with home := 0 }
def toTrk : Access := access .trk 0x100 64
def redGroup (l : Nat) : Group := { left := l, ctr := .mx, threads := [0] }
def w80 : State := withNet demo [.red (partialLine true 0)]
def w81 : State := withNet demo [.red (partialLine true 1)]
def w82 : State := withNet demo [.red (partialLine false 0)]
def w83 : State := { withNet demo [.red (partialLine true 5)] with parks := List.replicate 64 (partialLine true 6) }
/-- A context whose retry area is one line, with a line in it. -/
def fullRetry : State :=
  { w83.modCore 0 (fun k => { k with retry := [partialLine true 3] }) with parts := [(0, { demoPart with active := (0x10038, 64) :: demoPart.active })] }
def w84 : State := { withNet (demoT fun x => { x with mx := 1 }) [.redAck 7] with groups := [(7, redGroup 1)] }
def w85 : State := { withNet (demoT fun x => { x with mx := 1 }) [.redAck 7] with groups := [(7, redGroup 2)] }
def w86 : State := demoC fun k => { k with retry := [partialLine true 3] }
def w87 : State := withNet demo [.accInit accLine 0x3F800000 4]
def w88 : State := withNet demo [.detNext detLines (.pin 0)]
def w89 : State := withNet demo [.drainRow [accLine] 2 false [toTrk] []]
/-- Every clause of TheInfusersAccumulate has a state and operands that meet its hypotheses. -/
theorem test_meets_TheInfusersAccumulate :
    (w80.net[0]? = some (Packet.red (partialLine true (0 : BitVec 16))) ∧ Memory.wf w80.mem = true ∧
      w80.halted (partialLine true (0 : BitVec 16)).ctx = false ∧ w80.homeAsleep (partialLine true (0 : BitVec 16)).home = false ∧ (partialLine true (0 : BitVec 16)).words.length = 16 ∧
      (partialLine true (0 : BitVec 16)).pa % 64 = 0 ∧ (partialLine true (0 : BitVec 16)).ord = true ∧
      (partialLine true (0 : BitVec 16)).key = w80.keyOf (partialLine true (0 : BitVec 16)).pa ∧
      (∀ r ∈ w80.parks, r.pa ≠ (partialLine true (0 : BitVec 16)).pa)) ∧
    (w81.net[0]? = some (Packet.red (partialLine true (1 : BitVec 16))) ∧ Memory.wf w81.mem = true ∧
      w81.halted (partialLine true (1 : BitVec 16)).ctx = false ∧ w81.homeAsleep (partialLine true (1 : BitVec 16)).home = false ∧ (partialLine true (1 : BitVec 16)).words.length = 16 ∧
      (partialLine true (1 : BitVec 16)).pa % 64 = 0 ∧ (partialLine true (1 : BitVec 16)).ord = true ∧
      (partialLine true (1 : BitVec 16)).key ≠ w81.keyOf (partialLine true (1 : BitVec 16)).pa ∧
      (List.filter (fun (x : RedLine) ↦ x.home == (partialLine true (1 : BitVec 16)).home) w81.parks).length < 64) ∧
    (w82.net[0]? = some (Packet.red (partialLine false (0 : BitVec 16))) ∧ Memory.wf w82.mem = true ∧
      w82.halted (partialLine false (0 : BitVec 16)).ctx = false ∧ w82.homeAsleep (partialLine false (0 : BitVec 16)).home = false ∧ (partialLine false (0 : BitVec 16)).words.length = 16 ∧
      (partialLine false (0 : BitVec 16)).pa % 64 = 0 ∧ (partialLine false (0 : BitVec 16)).ord = false ∧ w82.net.length = 0 + 1) ∧
    (w83.net[0]? = some (Packet.red (partialLine true (5 : BitVec 16))) ∧ Memory.wf w83.mem = true ∧
      w83.halted (partialLine true (5 : BitVec 16)).ctx = false ∧ w83.homeAsleep (partialLine true (5 : BitVec 16)).home = false ∧ (partialLine true (5 : BitVec 16)).words.length = 16 ∧
      (partialLine true (5 : BitVec 16)).pa % 64 = 0 ∧ (partialLine true (5 : BitVec 16)).ord = true ∧
      (partialLine true (5 : BitVec 16)).key ≠ w83.keyOf (partialLine true (5 : BitVec 16)).pa ∧
      64 ≤ (List.filter (fun (x : RedLine) ↦ x.home == (partialLine true (5 : BitVec 16)).home) w83.parks).length ∧
      w83.retrySlot (partialLine true (5 : BitVec 16)).ctx < w83.retryPlaces (partialLine true (5 : BitVec 16)).ctx ∧
      fullRetry.retryPlaces (partialLine true (5 : BitVec 16)).ctx ≤ fullRetry.retrySlot (partialLine true (5 : BitVec 16)).ctx) ∧
    (w84.net[0]? = some (Packet.redAck 7) ∧ w84.groups.find 7 = some (redGroup 1) ∧ (redGroup 1).ctr = Ctr.mx ∧ (redGroup 1).threads = [0] ∧
      (redGroup 1).pour = none ∧ Running w84 0 ∧ (redGroup 1).left = 1) ∧
    (w85.net[0]? = some (Packet.redAck 7) ∧ w85.groups.find 7 = some (redGroup 2) ∧ (redGroup 2).ctr = Ctr.mx ∧ (redGroup 2).threads = [0] ∧
      (redGroup 2).pour = none ∧ Running w85 0 ∧ 1 < (redGroup 2).left) ∧
    ((w86.coreAt 0).retry[0]? = some (partialLine true (3 : BitVec 16)) ∧ (partialLine true (3 : BitVec 16)).ctx ∈ (w86.coreAt 0).ctxs ∧
      w86.halted (partialLine true (3 : BitVec 16)).ctx = false) ∧
    (w87.ready 0 = true ∧ w87.net[0]? = some (Packet.accInit accLine (0x3f800000 : BitVec 32) (4 : BitVec 16)) ∧
      (∀ r ∈ w87.parks, r.pa ≠ accLine.pa)) ∧
    (w88.ready 0 = true ∧ w88.net[0]? = some (.detNext detLines (.pin 0))) ∧
    (w89.ready 0 = true ∧ w89.net[0]? = some (Packet.drainRow [accLine] (2 : BitVec 5) false [toTrk] [])) := by
  (repeat' apply And.intro) <;> decide +kernel


/-! ### Copies and barriers -/

/-- The word of a copy of 64 bytes in channel 1. -/
def copyWord : Word := 0x40000001
def copyRegs (w x : Word) : State := demoG [(1, own 0x1000), (2, w), (3, x)]
def aCopy (mem : Word) (done : Nat) : Copy :=
  { thread := 0, ctx := 1, pl := 0, core := 0, word := copyWord, caddy := own 0x1000, tile := false, load := true, mem, desc := [], coords := []
    iword := 0, dst := 0, off := 0x1000, region := 64, done }
def copying (c : Copy) : State := (demoC fun k => k.setChan 1 { copies := [c], w := 0x1000, newest := true }).modSelf fun x => { x with cp := 1 }
def w90 : State := copyRegs copyWord 0x2000
def w91 : State := (copyRegs 1 0).modSelf (fun x => { x with tm := x.tm.set 2 0x40, tmDesc := x.tmDesc.set 2 (some tileDesc) })
def w92 : State := copying (aCopy 0x2000 0)
def w93 : State := copying (aCopy (own 0x2000) 0)
def w94 : State := copying (aCopy 0x9000000000 0)
def w95 : State := copying (aCopy 0x2000 64)
/-- Every clause of CopiesIssueAndRun has a state and operands that meet its hypotheses. -/
theorem test_meets_CopiesIssueAndRun :
    (Plain w90 4 ∧ w90.self.onService = none ∧ w90.primary w90.self.ctx w90.self.core = true ∧ isCaddy (w90.g 1) = true ∧
      w90.caddyPlace w90.self.who (w90.g 1) 1 = Except.ok (w90.self.core, 0x1000) ∧ 0x1000 % 16 = 0 ∧ w90.self.cp < 63 ∧ Quiet w90 ∧
      ((w90.coreAt w90.self.core).chan (cwChan (w90.g 2))).copies.length < 8 ∧ (cwBind (w90.g 2) = true → cwBar (w90.g 2) + 16 ≤ 2 ^ 18 ∧
      (w90.bar w90.self.ctx w90.self.core (cwBar (w90.g 2))).count ≠ 0) ∧ cwBad (w90.g 2) false = false ∧ Word.field (w90.g 3) 0 4 = 0 ∧
      0x1000 + cwLen (w90.g 2) ≤ 2 ^ 18 ∧ isCaddy (w90.g 3) = false) ∧
    (Plain w91 4 ∧ w91.self.onService = none ∧ w91.primary w91.self.ctx w91.self.core = true ∧ isCaddy (w91.g 1) = true ∧
      w91.caddyPlace w91.self.who (w91.g 1) 1 = Except.ok (w91.self.core, 0x1000) ∧ w91.self.cp < 63 ∧ Quiet w91 ∧
      ((w91.coreAt w91.self.core).chan (cwChan (w91.g 2))).copies.length < 8 ∧ (cwBind (w91.g 2) = true → cwBar (w91.g 2) + 16 ≤ 2 ^ 18 ∧
      (w91.bar w91.self.ctx w91.self.core (cwBar (w91.g 2))).count ≠ 0) ∧ cwBad (w91.g 2) true = false ∧
      w91.self.tm[BitVec.toNat (2 : BitVec 4)] ≠ (0 : Word) ∧ w91.self.tmDesc[BitVec.toNat (2 : BitVec 4)] = some tileDesc ∧
      tmValid tileDesc = true ∧ fmtShape (descField tileDesc 8 1) = some (16, 1, 2) ∧ BitVec.toNat (3 : BitVec 5) + tmRank tileDesc ≤ 32 ∧
      BitVec.toInt (w91.g 3) % ↑1 = (0 : ℤ) ∧ 0x1000 + ((tmRows tileDesc - 1) * tmPitch tileDesc + tmRowBytes tileDesc) ≤ 2 ^ 18) ∧
    (Plain w92 4 ∧ w92.self.onService = none ∧ w92.primary w92.self.ctx w92.self.core = true ∧
      (∀ e ∈ w92.threads, e.2.park ≠ some (Park.channel (BitVec.toNat (1 : BitVec 2)))) ∧
      (∀ cp ∈ List.filter (fun (x : Copy) ↦ x.thread == w92.cur) ((w92.coreAt w92.self.core).chan (BitVec.toNat (1 : BitVec 2))).copies, cwBind cp.word = false) ∧ Running w92 w92.cur) ∧
    (((w93.coreAt 0).chan (BitVec.toNat (1 : BitVec 2))).copies = [aCopy (own 0x2000) 0] ∧ w93.halted (aCopy (own 0x2000) 0).ctx = false ∧
      (∀ e ∈ w93.threads, e.2.park ≠ some (Park.channel (BitVec.toNat (1 : BitVec 2)))) ∧ Memory.wf w93.mem = true ∧
      (aCopy (own 0x2000) 0).load = true ∧ (aCopy (own 0x2000) 0).tile = false ∧ (aCopy (own 0x2000) 0).dst = (aCopy (own 0x2000) 0).core ∧
      min ((aCopy (own 0x2000) 0).region - (aCopy (own 0x2000) 0).done) (64 - ((aCopy (own 0x2000) 0).off + (aCopy (own 0x2000) 0).done) % 64) ≠ 0 ∧
      w93.net = [] ∧ w93.primary (aCopy (own 0x2000) 0).ctx (aCopy (own 0x2000) 0).core = true ∧
      NoConvene (w93.coreAt (aCopy (own 0x2000) 0).core) ∧
      (∀ i < (aCopy (own 0x2000) 0).region, isCaddy ((aCopy (own 0x2000) 0).mem + BitVec.ofNat 64 i) = true ∧
      w93.caddyPlace (aCopy (own 0x2000) 0).who ((aCopy (own 0x2000) 0).mem + BitVec.ofNat 64 i) 1 = Except.ok ((aCopy (own 0x2000) 0).core, 0x2000 + i)) ∧ (0x2000 + (aCopy (own 0x2000) 0).region ≤ (aCopy (own 0x2000) 0).off ∨ (aCopy (own 0x2000) 0).off + (aCopy (own 0x2000) 0).region ≤ 0x2000)) ∧
    (((w94.coreAt 0).chan (BitVec.toNat (1 : BitVec 2))).copies = [aCopy (0x9000000000 : Word) 0] ∧
      w94.halted (aCopy (0x9000000000 : Word) 0).ctx = false ∧ (∀ e ∈ w94.threads, e.2.park ≠ some (Park.channel (BitVec.toNat (1 : BitVec 2)))) ∧
      (aCopy (0x9000000000 : Word) 0).load = true ∧ (aCopy (0x9000000000 : Word) 0).dst = (aCopy (0x9000000000 : Word) 0).core ∧
      min ((aCopy (0x9000000000 : Word) 0).region - (aCopy (0x9000000000 : Word) 0).done) (64 - ((aCopy (0x9000000000 : Word) 0).off + (aCopy (0x9000000000 : Word) 0).done) % 64) ≠ 0 ∧ w94.net = [] ∧ w94.primary (aCopy (0x9000000000 : Word) 0).ctx (aCopy (0x9000000000 : Word) 0).core = true ∧ cwBind (aCopy (0x9000000000 : Word) 0).word = false ∧ (aCopy (0x9000000000 : Word) 0).pages = [] ∧ (aCopy (0x9000000000 : Word) 0).byteAt (aCopy (0x9000000000 : Word) 0).done = CopyByte.mem (0x9000000000 : Word) ∧ isCaddy (0x9000000000 : Word) = false ∧ w94.translate (aCopy (0x9000000000 : Word) 0).who (0x9000000000 : Word) .load = Except.error unmapped ∧ Running w94 (aCopy (0x9000000000 : Word) 0).thread ∧ (w94.thread (aCopy (0x9000000000 : Word) 0).thread).copyFault = none) ∧
    (((w95.coreAt 0).chan (BitVec.toNat (1 : BitVec 2))).copies = [aCopy (0x2000 : Word) 64] ∧ w95.halted (aCopy (0x2000 : Word) 64).ctx = false ∧
      (∀ e ∈ w95.threads, e.2.park ≠ some (Park.channel (BitVec.toNat (1 : BitVec 2)))) ∧
      (aCopy (0x2000 : Word) 64).region ≤ (aCopy (0x2000 : Word) 64).done ∧ w95.copyHeld (aCopy (0x2000 : Word) 64) = false ∧
      cwBind (aCopy (0x2000 : Word) 64).word = false ∧ Running w95 (aCopy (0x2000 : Word) 64).thread) := by
  (repeat' apply And.intro) <;> first | decide +kernel | (refine ok_of ?_; decide +kernel) | (refine error_of ?_; decide +kernel) | rfl


/-- No thread is parked at a barrier. -/
theorem no_barrier {s : State} {k : Nat} (h : s.threads.all (fun e => e.2.park.isNone) = true) :
    ∀ e ∈ s.threads, ∀ ga par, e.2.park ≠ some (Park.barrier k ga par) := by
  intro e he ga par hp
  have := List.all_eq_true.1 h e he
  simp [hp] at this

/-- A barrier object with a first word at 0x100 of the own caddy, its address and a number in registers. -/
def barrier (w0 n : Word) : State := (demoG [(1, own 0x100), (2, n)]).putWord (caddyKey 0 0x100) w0
def w96 : State := barrier 0 0xFFFF
def w97 : State := barrier 0 0x10000
def w98 : State := barrier 0x00030003 1
def w99 : State := barrier 0x00010003 1
def w100 : State := barrier 0x00000003 0
def w101 : State := barrier 0x0002000000000003 0
/-- Every clause of BarrierObjects has a state and operands that meet its hypotheses. -/
theorem test_meets_BarrierObjects :
    (Plain w96 4 ∧ Memory.wf w96.mem = true ∧ w96.self.onService = none ∧ w96.primary w96.self.ctx w96.self.core = true ∧
      (w96.coreAt w96.self.core).savedCaddy = [] ∧ isCaddy (w96.g 1) = true ∧
      w96.caddyPlace w96.self.who (w96.g 1) 16 = Except.ok (w96.self.core, 256) ∧ 256 % 16 = 0 ∧
      (Quiet w96 ∧ w96.self.st < 63 ∧ ∀ e ∈ w96.threads, ∀ ga par, e.2.park ≠ some (Park.barrier (caddyKey w96.self.core 256) ga par)) ∧ 1 ≤ BitVec.toNat (w96.g 2) ∧
      BitVec.toNat (w96.g 2) ≤ 0xffff) ∧
    (Plain w97 4 ∧ Memory.wf w97.mem = true ∧ w97.self.onService = none ∧ w97.primary w97.self.ctx w97.self.core = true ∧
      (w97.coreAt w97.self.core).savedCaddy = [] ∧ isCaddy (w97.g 1) = true ∧
      w97.caddyPlace w97.self.who (w97.g 1) 16 = Except.ok (w97.self.core, 256) ∧
      (Quiet w97 ∧ w97.self.st < 63 ∧ ∀ e ∈ w97.threads, ∀ ga par, e.2.park ≠ some (Park.barrier (caddyKey w97.self.core 256) ga par)) ∧
      (BitVec.toNat (w97.g 2) = 0 ∨ 0xffff < BitVec.toNat (w97.g 2))) ∧
    (Plain w98 4 ∧ Memory.wf w98.mem = true ∧ w98.self.onService = none ∧ w98.primary w98.self.ctx w98.self.core = true ∧
      (w98.coreAt w98.self.core).savedCaddy = [] ∧ isCaddy (w98.g 1) = true ∧
      w98.caddyPlace w98.self.who (w98.g 1) 16 = Except.ok (w98.self.core, 256) ∧
      (Quiet w98 ∧ w98.self.st < 63 ∧ ∀ e ∈ w98.threads, ∀ ga par, e.2.park ≠ some (Park.barrier (caddyKey w98.self.core 256) ga par)) ∧ 1 ≤ BitVec.toNat (w98.g 2) ∧
      BitVec.toNat (w98.g 2) ≤ 0xffff ∧ (w98.bar w98.self.ctx w98.self.core 256).count ≠ 0 ∧ (w98.bar w98.self.ctx w98.self.core 256).scope ≤ 1 ∧
      Released w98 1 ∧ 1 < (w98.bar w98.self.ctx w98.self.core 256).pend ∧ BitVec.toNat (w98.g 2) ≤ 0x7fff ∧
      (w98.bar w98.self.ctx w98.self.core 256).xfer + ↑(BitVec.toNat (w98.g 2)) ≤ (0x7fff : ℤ) ∧ w98.self.steep = false ∧
      (w98.bar w98.self.ctx w98.self.core 256).phase ≠ BitVec.getLsbD (w98.g 2) 0) ∧
    (Plain w99 4 ∧ Memory.wf w99.mem = true ∧ w99.self.onService = none ∧ w99.primary w99.self.ctx w99.self.core = true ∧
      (w99.coreAt w99.self.core).savedCaddy = [] ∧ isCaddy (w99.g 1) = true ∧
      w99.caddyPlace w99.self.who (w99.g 1) 16 = Except.ok (w99.self.core, 256) ∧
      (Quiet w99 ∧ w99.self.st < 63 ∧ ∀ e ∈ w99.threads, ∀ ga par, e.2.park ≠ some (Park.barrier (caddyKey w99.self.core 256) ga par)) ∧ 1 ≤ BitVec.toNat (w99.g 2) ∧
      BitVec.toNat (w99.g 2) ≤ 0xffff ∧ (w99.bar w99.self.ctx w99.self.core 256).count ≠ 0 ∧ (w99.bar w99.self.ctx w99.self.core 256).scope ≤ 1 ∧
      Released w99 1 ∧ (w99.bar w99.self.ctx w99.self.core 256).pend = 1 ∧ (w99.bar w99.self.ctx w99.self.core 256).xfer = (0 : ℤ) ∧
      (w99.bar w99.self.ctx w99.self.core 256).fault = false ∧ w99.self.steep = false ∧
      (w99.bar w99.self.ctx w99.self.core 256).phase ≠ BitVec.getLsbD (w99.g 2) 0) ∧
    (Plain w100 4 ∧ Memory.wf w100.mem = true ∧ w100.self.onService = none ∧ w100.primary w100.self.ctx w100.self.core = true ∧
      (w100.coreAt w100.self.core).savedCaddy = [] ∧ isCaddy (w100.g 1) = true ∧
      w100.caddyPlace w100.self.who (w100.g 1) 16 = Except.ok (w100.self.core, 256) ∧
      (Quiet w100 ∧ w100.self.st < 63 ∧ ∀ e ∈ w100.threads, ∀ ga par, e.2.park ≠ some (Park.barrier (caddyKey w100.self.core 256) ga par)) ∧
      (BitVec.toNat (w100.g 2) = 0 ∨ 0xffff < BitVec.toNat (w100.g 2)) ∧ (w100.bar w100.self.ctx w100.self.core 256).count ≠ 0 ∧
      (w100.bar w100.self.ctx w100.self.core 256).scope ≤ 1 ∧ Released w100 1 ∧ (w100.bar w100.self.ctx w100.self.core 256).pend = 0 ∧
      w100.self.steep = false ∧ (w100.bar w100.self.ctx w100.self.core 256).phase = BitVec.getLsbD (w100.g 2) 0 ∧
      (w100.bar w100.self.ctx w100.self.core 256).fault = false) ∧
    (Plain w101 4 ∧ Memory.wf w101.mem = true ∧ w101.self.onService = none ∧ w101.primary w101.self.ctx w101.self.core = true ∧
      (w101.coreAt w101.self.core).savedCaddy = [] ∧ isCaddy (w101.g 1) = true ∧
      w101.caddyPlace w101.self.who (w101.g 1) 16 = Except.ok (w101.self.core, 256) ∧
      (Quiet w101 ∧ w101.self.st < 63 ∧ ∀ e ∈ w101.threads, ∀ ga par, e.2.park ≠ some (Park.barrier (caddyKey w101.self.core 256) ga par)) ∧
      (BitVec.toNat (w101.g 2) = 0 ∨ 0xffff < BitVec.toNat (w101.g 2)) ∧ (w101.bar w101.self.ctx w101.self.core 256).count ≠ 0 ∧
      (w101.bar w101.self.ctx w101.self.core 256).scope ≤ 1 ∧ Released w101 1 ∧ (w101.bar w101.self.ctx w101.self.core 256).pend = 0 ∧
      w101.self.steep = false ∧ (w101.bar w101.self.ctx w101.self.core 256).phase = BitVec.getLsbD (w101.g 2) 0 ∧
      (w101.bar w101.self.ctx w101.self.core 256).fault = true) := by
  (repeat' apply And.intro) <;> first | exact no_barrier (by decide +kernel) | decide +kernel | (refine ok_of ?_; decide +kernel)

def gbars (f : GBar) (id : Word) : State := { demoG [(1, id), (2, 0)] with gbars := [(gbarKey 1 4 5 0, f)] }
def w102 : State := gbars {} 5
def w103 : State := gbars { arrived := 2 } 5
def w104 : State := gbars { phase := true } 5
def w105 : State := gbars {} 6
def w106 : State := (gbars {} 5).modSelf fun x => { x with ld := 15 }
def w107 : State := (gbars {} 5).modCore 0 (·.setFlag 1 5 true)
/-- Every clause of GlobalBarriersEventsAndWaits has a state and operands that meet its hypotheses. -/
theorem test_meets_GlobalBarriersEventsAndWaits :
    (Plain w102 4 ∧ w102.self.steep = false ∧ 2 ≤ BitVec.toNat (4 : BitVec 3) ∧ BitVec.toNat (4 : BitVec 3) ≤ 4 ∧
      Quiet w102 ∧ (∀ e ∈ w102.threads, e.2.park ≠ some (Park.gbar (gbarKey 1 4 5 0))) ∧ Word.field (w102.g 1) 6 58 = 0 ∧
      w102.gbarCount w102.self.ctx (BitVec.toNat (4 : BitVec 3)) (BitVec.toNat (w102.g 1) % 64) ≠ 0 ∧ Released w102 (BitVec.toNat (4 : BitVec 3)) ∧
      w102.viral.on = false ∧ w102.viral.arrivals = [] ∧
      (w102.gbars.get { } (gbarKey w102.self.ctx (BitVec.toNat (4 : BitVec 3)) (BitVec.toNat (w102.g 1) % 64) w102.self.core)).arrived + 1 < w102.gbarCount w102.self.ctx (BitVec.toNat (4 : BitVec 3)) (BitVec.toNat (w102.g 1) % 64) ∧ (w102.gbars.get { } (gbarKey w102.self.ctx (BitVec.toNat (4 : BitVec 3)) (BitVec.toNat (w102.g 1) % 64) w102.self.core)).phase = BitVec.getLsbD (w102.g 2) 0 ∧ (w102.gbars.get { } (gbarKey (1 : CtxId) 4 (BitVec.toNat (5 : BitVec 6)) (0 : Coord))).arrived + 1 < w102.gbarCount (1 : CtxId) 4 (BitVec.toNat (5 : BitVec 6)) ∧ w102.self.loads = [] ∧ w102.self.st = 0 ∧ (∀ e ∈ w102.threads, e.2.park ≠ some (Park.event (BitVec.toNat (w102.g 1) % 32))) ∧ ((w102.coreAt w102.self.core).flags w102.self.ctx).getLsbD (BitVec.toNat (w102.g 1) % 32) = false ∧ w102.self.refusal = none ∧ w102.self.copyFault = none ∧ w102.self.msgGone = none ∧ (∀ e ∈ [(w102.self.ld, (0 : BitVec 4)), (w102.self.st, (0 : BitVec 4)), (w102.self.cp, (0 : BitVec 4)), (w102.self.mx, (0 : BitVec 4)), (w102.self.ms, (0 : BitVec 4))], e.2 = (15 : BitVec 4) ∨ e.1 ≤ e.2.toNat) ∧ Plain w102 2 ∧ w102.self.drained = true) ∧
    (Plain w103 4 ∧ w103.self.steep = false ∧ Quiet w103 ∧ (∀ e ∈ w103.threads, e.2.park ≠ some (Park.gbar (gbarKey 1 4 5 0))) ∧ Word.field (w103.g 1) 6 58 = 0 ∧
      w103.gbarCount w103.self.ctx (BitVec.toNat (4 : BitVec 3)) (BitVec.toNat (w103.g 1) % 64) ≠ 0 ∧ Released w103 (BitVec.toNat (4 : BitVec 3)) ∧
      w103.viral.on = false ∧ w103.viral.arrivals = [] ∧
      (w103.gbars.get { } (gbarKey w103.self.ctx (BitVec.toNat (4 : BitVec 3)) (BitVec.toNat (w103.g 1) % 64) w103.self.core)).arrived + 1 = w103.gbarCount w103.self.ctx (BitVec.toNat (4 : BitVec 3)) (BitVec.toNat (w103.g 1) % 64) ∧ (w103.gbars.get { } (gbarKey w103.self.ctx (BitVec.toNat (4 : BitVec 3)) (BitVec.toNat (w103.g 1) % 64) w103.self.core)).phase = BitVec.getLsbD (w103.g 2) 0 ∧ w103.self.loads = [] ∧ w103.self.st = 0 ∧ (∀ e ∈ w103.threads, e.2.park ≠ some (Park.event (BitVec.toNat (w103.g 1) % 32))) ∧ ((w103.coreAt w103.self.core).flags w103.self.ctx).getLsbD (BitVec.toNat (w103.g 1) % 32) = false ∧ w103.self.refusal = none ∧ w103.self.copyFault = none ∧ w103.self.msgGone = none ∧ (∀ e ∈ [(w103.self.ld, (0 : BitVec 4)), (w103.self.st, (0 : BitVec 4)), (w103.self.cp, (0 : BitVec 4)), (w103.self.mx, (0 : BitVec 4)), (w103.self.ms, (0 : BitVec 4))], e.2 = (15 : BitVec 4) ∨ e.1 ≤ e.2.toNat) ∧ Plain w103 2 ∧ w103.self.drained = true) ∧
    (Plain w104 4 ∧ w104.self.steep = false ∧ Quiet w104 ∧ (∀ e ∈ w104.threads, e.2.park ≠ some (Park.gbar (gbarKey 1 4 5 0))) ∧ Word.field (w104.g 1) 6 58 = 0 ∧
      w104.gbarCount w104.self.ctx (BitVec.toNat (4 : BitVec 3)) (BitVec.toNat (w104.g 1) % 64) ≠ 0 ∧ Released w104 (BitVec.toNat (4 : BitVec 3)) ∧
      w104.viral.on = false ∧ w104.viral.arrivals = [] ∧
      (w104.gbars.get { } (gbarKey w104.self.ctx (BitVec.toNat (4 : BitVec 3)) (BitVec.toNat (w104.g 1) % 64) w104.self.core)).arrived + 1 < w104.gbarCount w104.self.ctx (BitVec.toNat (4 : BitVec 3)) (BitVec.toNat (w104.g 1) % 64) ∧ (w104.gbars.get { } (gbarKey w104.self.ctx (BitVec.toNat (4 : BitVec 3)) (BitVec.toNat (w104.g 1) % 64) w104.self.core)).phase ≠ BitVec.getLsbD (w104.g 2) 0 ∧ (w104.gbars.get { } (gbarKey (1 : CtxId) 4 (BitVec.toNat (5 : BitVec 6)) (0 : Coord))).arrived + 1 < w104.gbarCount (1 : CtxId) 4 (BitVec.toNat (5 : BitVec 6)) ∧ w104.self.loads = [] ∧ w104.self.st = 0 ∧ (∀ e ∈ w104.threads, e.2.park ≠ some (Park.event (BitVec.toNat (w104.g 1) % 32))) ∧ ((w104.coreAt w104.self.core).flags w104.self.ctx).getLsbD (BitVec.toNat (w104.g 1) % 32) = false ∧ w104.self.refusal = none ∧ w104.self.copyFault = none ∧ w104.self.msgGone = none ∧ (∀ e ∈ [(w104.self.ld, (0 : BitVec 4)), (w104.self.st, (0 : BitVec 4)), (w104.self.cp, (0 : BitVec 4)), (w104.self.mx, (0 : BitVec 4)), (w104.self.ms, (0 : BitVec 4))], e.2 = (15 : BitVec 4) ∨ e.1 ≤ e.2.toNat) ∧ Plain w104 2 ∧ w104.self.drained = true) ∧
    (Plain w105 4 ∧ w105.self.steep = false ∧ w105.self.loads = [] ∧ w105.self.st = 0 ∧
      (∀ e ∈ w105.threads, e.2.park ≠ some (Park.event (BitVec.toNat (w105.g 1) % 32))) ∧
      ((w105.coreAt w105.self.core).flags w105.self.ctx).getLsbD (BitVec.toNat (w105.g 1) % 32) = false ∧ w105.self.refusal = none ∧
      w105.self.copyFault = none ∧ w105.self.msgGone = none ∧
      (∀ e ∈ [(w105.self.ld, (0 : BitVec 4)), (w105.self.st, (0 : BitVec 4)), (w105.self.cp, (0 : BitVec 4)), (w105.self.mx, (0 : BitVec 4)), (w105.self.ms, (0 : BitVec 4))], e.2 = (15 : BitVec 4) ∨ e.1 ≤ e.2.toNat) ∧ Plain w105 2 ∧ w105.self.drained = true) ∧
    (Plain w106 4 ∧ w106.self.steep = false ∧ Quiet w106 ∧ (∀ e ∈ w106.threads, e.2.park ≠ some (Park.gbar (gbarKey 1 4 5 0))) ∧ Word.field (w106.g 1) 6 58 = 0 ∧
      w106.gbarCount w106.self.ctx (BitVec.toNat (4 : BitVec 3)) (BitVec.toNat (w106.g 1) % 64) ≠ 0 ∧ Released w106 (BitVec.toNat (4 : BitVec 3)) ∧
      w106.viral.on = false ∧ w106.viral.arrivals = [] ∧
      (w106.gbars.get { } (gbarKey w106.self.ctx (BitVec.toNat (4 : BitVec 3)) (BitVec.toNat (w106.g 1) % 64) w106.self.core)).arrived + 1 < w106.gbarCount w106.self.ctx (BitVec.toNat (4 : BitVec 3)) (BitVec.toNat (w106.g 1) % 64) ∧ (w106.gbars.get { } (gbarKey w106.self.ctx (BitVec.toNat (4 : BitVec 3)) (BitVec.toNat (w106.g 1) % 64) w106.self.core)).phase = BitVec.getLsbD (w106.g 2) 0 ∧ (w106.gbars.get { } (gbarKey (1 : CtxId) 4 (BitVec.toNat (5 : BitVec 6)) (0 : Coord))).arrived + 1 < w106.gbarCount (1 : CtxId) 4 (BitVec.toNat (5 : BitVec 6)) ∧ w106.self.loads = [] ∧ w106.self.st = 0 ∧ (∀ e ∈ w106.threads, e.2.park ≠ some (Park.event (BitVec.toNat (w106.g 1) % 32))) ∧ ((w106.coreAt w106.self.core).flags w106.self.ctx).getLsbD (BitVec.toNat (w106.g 1) % 32) = false ∧ w106.self.refusal = none ∧ w106.self.copyFault = none ∧ w106.self.msgGone = none ∧ (¬∀ e ∈ [(w106.self.ld, (14 : BitVec 4)), (w106.self.st, (0 : BitVec 4)), (w106.self.cp, (0 : BitVec 4)), (w106.self.mx, (0 : BitVec 4)), (w106.self.ms, (0 : BitVec 4))], e.2 = (15 : BitVec 4) ∨ e.1 ≤ e.2.toNat)) ∧
    (Plain w107 4 ∧ w107.self.steep = false ∧ Quiet w107 ∧ (∀ e ∈ w107.threads, e.2.park ≠ some (Park.gbar (gbarKey 1 4 5 0))) ∧ Word.field (w107.g 1) 6 58 = 0 ∧
      w107.gbarCount w107.self.ctx (BitVec.toNat (4 : BitVec 3)) (BitVec.toNat (w107.g 1) % 64) ≠ 0 ∧ Released w107 (BitVec.toNat (4 : BitVec 3)) ∧
      w107.viral.on = false ∧ w107.viral.arrivals = [] ∧
      (w107.gbars.get { } (gbarKey w107.self.ctx (BitVec.toNat (4 : BitVec 3)) (BitVec.toNat (w107.g 1) % 64) w107.self.core)).arrived + 1 < w107.gbarCount w107.self.ctx (BitVec.toNat (4 : BitVec 3)) (BitVec.toNat (w107.g 1) % 64) ∧ (w107.gbars.get { } (gbarKey w107.self.ctx (BitVec.toNat (4 : BitVec 3)) (BitVec.toNat (w107.g 1) % 64) w107.self.core)).phase = BitVec.getLsbD (w107.g 2) 0 ∧ (w107.gbars.get { } (gbarKey (1 : CtxId) 4 (BitVec.toNat (5 : BitVec 6)) (0 : Coord))).arrived + 1 < w107.gbarCount (1 : CtxId) 4 (BitVec.toNat (5 : BitVec 6)) ∧ w107.self.loads = [] ∧ w107.self.st = 0 ∧ (∀ e ∈ w107.threads, e.2.park ≠ some (Park.event (BitVec.toNat (w107.g 1) % 32))) ∧ ((w107.coreAt w107.self.core).flags w107.self.ctx).getLsbD (BitVec.toNat (w107.g 1) % 32) = true ∧ w107.self.refusal = none ∧ w107.self.copyFault = none ∧ w107.self.msgGone = none ∧ (∀ e ∈ [(w107.self.ld, (15 : BitVec 4)), (w107.self.st, (0 : BitVec 4)), (w107.self.cp, (0 : BitVec 4)), (w107.self.mx, (0 : BitVec 4)), (w107.self.ms, (0 : BitVec 4))], e.2 = (15 : BitVec 4) ∨ e.1 ≤ e.2.toNat) ∧ Plain w107 2 ∧ w107.self.drained = true) := by
  (repeat' apply And.intro) <;> decide +kernel



/-! ### Groups, threads and messages -/

/-- Thread 0 with the address of an object and a count in registers, and a group of that object. -/
def joining (n : Word) (g : Option Convene) : State := (demoG [(1, own 0x40), (2, n)]).modCore 0 fun k => { k with convene := k.convene.set 0 g }
def newGroup (n : Nat) : Convene := { off := 0x40, ctx := 1, count := n }
def halfGroup : Convene := { newGroup 2 with present := 1 }
def w108 : State := joining 1 none
def w109 : State := joining 32 none
def w110 : State := joining 2 (some halfGroup)
def w111 : State := joining 1 (some group1)
def w112 : State := joining 3 (some halfGroup)
def w113 : State := inGroup [] group1
/-- Every clause of ConvenedGroups has a state and operands that meet its hypotheses. -/
theorem test_meets_ConvenedGroups :
    (Plain w108 4 ∧ Memory.wf w108.mem = true ∧ Guard w108 0 ∧ w108.self.onService = none ∧ w108.primary w108.self.ctx w108.self.core = true ∧
      isCaddy (w108.g 1) = true ∧ w108.caddyPlace w108.self.who (w108.g 1) 1 = Except.ok (w108.self.core, 64) ∧ 64 % 64 = 0 ∧
      w108.self.steep = false ∧ w108.self.conv = false ∧ 1 ≤ BitVec.toNat (w108.g 2) ∧ BitVec.toNat (w108.g 2) ≤ 32 ∧ (newGroup 1).broken = false ∧
      (w108.convAt w108.self.core w108.self.ctx 64 = some (0, newGroup 1) ∨ w108.convAt w108.self.core w108.self.ctx 64 = none ∧
      w108.savedGroup w108.self.core w108.self.ctx 64 = none ∧ w108.convFree w108.self.core = some 0 ∧
      newGroup 1 = { off := 64, ctx := w108.self.ctx, count := BitVec.toNat (w108.g 2), gen := BitVec.ofNat 16 (Word.field (w108.word (w108.caddyAt w108.self.ctx w108.self.core 64)) 16 16) }) ∧ (newGroup 1).formed = false ∧ (newGroup 1).count = BitVec.toNat (w108.g 2) ∧ 0 < 32 ∧ (newGroup 1).present.getLsbD 0 = false ∧ (∀ k < 0, (newGroup 1).present.getLsbD k = true) ∧ (popcount ((newGroup 1).present ||| BitVec.twoPow 32 0) == BitVec.toNat (w108.g 2)) = true) ∧
    (Plain w109 4 ∧ Memory.wf w109.mem = true ∧ Guard w109 0 ∧ w109.self.onService = none ∧ w109.primary w109.self.ctx w109.self.core = true ∧
      isCaddy (w109.g 1) = true ∧ w109.caddyPlace w109.self.who (w109.g 1) 1 = Except.ok (w109.self.core, 64) ∧ w109.self.steep = false ∧
      w109.self.conv = false ∧ 1 ≤ BitVec.toNat (w109.g 2) ∧ BitVec.toNat (w109.g 2) ≤ 32 ∧ (newGroup 32).broken = false ∧
      (w109.convAt w109.self.core w109.self.ctx 64 = some (0, newGroup 32) ∨ w109.convAt w109.self.core w109.self.ctx 64 = none ∧
      w109.savedGroup w109.self.core w109.self.ctx 64 = none ∧ w109.convFree w109.self.core = some 0 ∧
      newGroup 32 = { off := 64, ctx := w109.self.ctx, count := BitVec.toNat (w109.g 2), gen := BitVec.ofNat 16 (Word.field (w109.word (w109.caddyAt w109.self.ctx w109.self.core 64)) 16 16) }) ∧ (newGroup 32).formed = false ∧ (newGroup 32).count = BitVec.toNat (w109.g 2) ∧ (newGroup 32).present.getLsbD 0 = false ∧ (∀ k < 0, (newGroup 32).present.getLsbD k = true) ∧ (popcount ((newGroup 32).present ||| BitVec.twoPow 32 0) == BitVec.toNat (w109.g 2)) = false) ∧
    (Plain w110 4 ∧ Memory.wf w110.mem = true ∧ Guard w110 0 ∧ w110.self.onService = none ∧ w110.primary w110.self.ctx w110.self.core = true ∧
      isCaddy (w110.g 1) = true ∧ w110.caddyPlace w110.self.who (w110.g 1) 1 = Except.ok (w110.self.core, 64) ∧ w110.self.steep = false ∧
      w110.self.conv = false ∧ 1 ≤ BitVec.toNat (w110.g 2) ∧ BitVec.toNat (w110.g 2) ≤ 32 ∧ halfGroup.broken = false ∧
      (w110.convAt w110.self.core w110.self.ctx 64 = some (0, halfGroup) ∨ w110.convAt w110.self.core w110.self.ctx 64 = none ∧
      w110.savedGroup w110.self.core w110.self.ctx 64 = none ∧ w110.convFree w110.self.core = some 0 ∧
      halfGroup = { off := 64, ctx := w110.self.ctx, count := BitVec.toNat (w110.g 2), gen := BitVec.ofNat 16 (Word.field (w110.word (w110.caddyAt w110.self.ctx w110.self.core 64)) 16 16) }) ∧ halfGroup.formed = false ∧ halfGroup.count = BitVec.toNat (w110.g 2) ∧ 1 < 32 ∧ halfGroup.present.getLsbD 1 = false ∧ (∀ k < 1, halfGroup.present.getLsbD k = true) ∧ (popcount (halfGroup.present ||| BitVec.twoPow 32 1) == BitVec.toNat (w110.g 2)) = true) ∧
    (Plain w111 4 ∧ Memory.wf w111.mem = true ∧ Guard w111 0 ∧ w111.self.onService = none ∧ w111.primary w111.self.ctx w111.self.core = true ∧
      isCaddy (w111.g 1) = true ∧ w111.caddyPlace w111.self.who (w111.g 1) 1 = Except.ok (w111.self.core, 64) ∧ w111.self.steep = false ∧
      w111.self.conv = false ∧ 1 ≤ BitVec.toNat (w111.g 2) ∧ BitVec.toNat (w111.g 2) ≤ 32 ∧ group1.broken = false ∧
      (w111.convAt w111.self.core w111.self.ctx 64 = some (0, group1) ∨ w111.convAt w111.self.core w111.self.ctx 64 = none ∧
      w111.savedGroup w111.self.core w111.self.ctx 64 = none ∧ w111.convFree w111.self.core = some 0 ∧
      group1 = { off := 64, ctx := w111.self.ctx, count := BitVec.toNat (w111.g 2), gen := BitVec.ofNat 16 (Word.field (w111.word (w111.caddyAt w111.self.ctx w111.self.core 64)) 16 16) }) ∧ group1.formed = true) ∧
    (Plain w112 4 ∧ Memory.wf w112.mem = true ∧ Guard w112 0 ∧ w112.self.onService = none ∧ w112.primary w112.self.ctx w112.self.core = true ∧
      isCaddy (w112.g 1) = true ∧ w112.caddyPlace w112.self.who (w112.g 1) 1 = Except.ok (w112.self.core, 64) ∧ w112.self.steep = false ∧
      w112.self.conv = false ∧ 1 ≤ BitVec.toNat (w112.g 2) ∧ BitVec.toNat (w112.g 2) ≤ 32 ∧
      (w112.convAt w112.self.core w112.self.ctx 64 = some (0, halfGroup) ∨ w112.convAt w112.self.core w112.self.ctx 64 = none ∧
      w112.savedGroup w112.self.core w112.self.ctx 64 = none ∧ w112.convFree w112.self.core = some 0 ∧
      halfGroup = { off := 64, ctx := w112.self.ctx, count := BitVec.toNat (w112.g 2), gen := BitVec.ofNat 16 (Word.field (w112.word (w112.caddyAt w112.self.ctx w112.self.core 64)) 16 16) }) ∧ halfGroup.count ≠ BitVec.toNat (w112.g 2)) ∧
    (Plain w113 4 ∧ Memory.wf w113.mem = true ∧ Guard w113 0 ∧ w113.self.onService = none ∧ w113.primary w113.self.ctx w113.self.core = true ∧
      w113.self.conv = true ∧ w113.convAt (cnvPlace w113.self.cnv).1 w113.self.ctx (cnvPlace w113.self.cnv).2.1 = some (0, group1)) := by
  (repeat' apply And.intro) <;> first | decide +kernel | (refine ok_of ?_; decide +kernel)


def recordBytes : List Byte := leBytes 8 0x1000000020000 ++ List.replicate 56 0
def sender (a b : Word) : State := demoG [(2, a), (3, b)]
def withRecord : State := withMem (sender 0 0x20000) 0x20000 recordBytes
def w114 : State := sender 0 0x20000
def w115 : State := sender 1 0x20000
def w116 : State := sender 0x20000 0
def otherThread : Thread := { pc := 0x20000, ctx := 1, place := .waiting }
/-- A second thread waits for the slot. -/
def twoThreads : State := { demoC (fun k => k.setList 0 [1]) with threads := [(0, { pc := 0x10000, ctx := 1, place := .slot 0 }), (1, otherThread)] }
/-- Every clause of ThreadsSpawnMoveAndEnd has a state and operands that meet its hypotheses. -/
theorem test_meets_ThreadsSpawnMoveAndEnd :
    (Plain w114 4 ∧ Guard w114 0 ∧ Idle w114 ∧ w114.self.steep = false ∧ w114.self.conv = false ∧ threadDestBad (w114.g 2) = false ∧
      BitVec.getLsbD (w114.g 2) 63 = false ∧ Word.field (w114.g 2) 0 16 ≠ 0xffff ∧ Word.field (w114.g 2) 0 16 < w114.rankLen w114.self.ctx ∧
      BitVec.getLsbD (w114.rankEntry w114.self.ctx (Word.field (w114.g 2) 0 16)) 63 = true ∧
      Word.field (w114.rankEntry w114.self.ctx (Word.field (w114.g 2) 0 16)) 16 16 = BitVec.toNat w114.self.ctx ∧ GoodPc (w114.g 3) ∧
      BitVec.getLsbD (w114.rankEntry w114.self.ctx (Word.field (w114.g 2) 0 16)) 62 = false) ∧
    (Plain w115 4 ∧ Guard w115 0 ∧ Idle w115 ∧ w115.self.steep = false ∧ w115.self.conv = false ∧ threadDestBad (w115.g 2) = false ∧
      BitVec.getLsbD (w115.g 2) 63 = false ∧ Word.field (w115.g 2) 0 16 ≠ 0xffff ∧ Word.field (w115.g 2) 0 16 < w115.rankLen w115.self.ctx ∧
      BitVec.getLsbD (w115.rankEntry w115.self.ctx (Word.field (w115.g 2) 0 16)) 63 = true ∧
      Word.field (w115.rankEntry w115.self.ctx (Word.field (w115.g 2) 0 16)) 16 16 = BitVec.toNat w115.self.ctx ∧ GoodPc (w115.g 3) ∧
      BitVec.getLsbD (w115.rankEntry w115.self.ctx (Word.field (w115.g 2) 0 16)) 62 = true) ∧
    (Plain withRecord 4 ∧ Guard withRecord 0 ∧ Idle withRecord ∧ withRecord.self.steep = false ∧ withRecord.self.conv = false ∧
      threadDestBad (withRecord.g 2) = false ∧ BitVec.getLsbD (withRecord.g 2) 63 = false ∧ Word.field (withRecord.g 2) 0 16 ≠ 0xffff ∧
      Word.field (withRecord.g 2) 0 16 < withRecord.rankLen withRecord.self.ctx ∧
      BitVec.getLsbD (withRecord.rankEntry withRecord.self.ctx (Word.field (withRecord.g 2) 0 16)) 63 = true ∧
      Word.field (withRecord.rankEntry withRecord.self.ctx (Word.field (withRecord.g 2) 0 16)) 16 16 = BitVec.toNat withRecord.self.ctx ∧
      GoodPc (withRecord.g 3) ∧ BitVec.getLsbD (withRecord.rankEntry withRecord.self.ctx (Word.field (withRecord.g 2) 0 16)) 62 = false ∧
      BitVec.toNat (withRecord.g 3) % 64 = 0 ∧ isCaddy (withRecord.g 3) = false ∧
      withRecord.translate withRecord.self.who (withRecord.g 3) .load = Except.ok (target 0x20000) ∧
      ((target 0x20000).cls = Cls.trk ∨ (target 0x20000).cls = Cls.unt) ∧ Quiet withRecord ∧
      Word.field (wordsOf (withRecord.bytes (target 0x20000).pa 64))[0] 48 16 = BitVec.toNat withRecord.self.ctx ∧
      BitVec.getLsbD (wordsOf (withRecord.bytes (target 0x20000).pa 64))[0] 0 = false) ∧
    (Plain w116 4 ∧ Guard w116 0 ∧ Idle w116 ∧ w116.self.steep = false ∧ w116.self.conv = false ∧ BitVec.toNat (w116.g 2) % 64 = 0 ∧
      isCaddy (w116.g 2) = false ∧ w116.translate w116.self.who (w116.g 2) .store = Except.ok (target 0x20000) ∧ (target 0x20000).cls ≠ Cls.acc ∧
      (target 0x20000).cls ≠ Cls.det ∧ w116.self.place = Place.slot 0 ∧ (w116.coreAt w116.self.core).list (w116.slotQueue w116.cur) = []) ∧
    (Plain twoThreads 4 ∧ Guard twoThreads 0 ∧ Idle twoThreads ∧ twoThreads.self.steep = false ∧ twoThreads.self.conv = false ∧
      threadDestBad (twoThreads.g 2) = false ∧ BitVec.getLsbD (twoThreads.g 2) 63 = false ∧ Word.field (twoThreads.g 2) 0 16 ≠ 0xffff ∧
      Word.field (twoThreads.g 2) 0 16 < twoThreads.rankLen twoThreads.self.ctx ∧
      BitVec.getLsbD (twoThreads.rankEntry twoThreads.self.ctx (Word.field (twoThreads.g 2) 0 16)) 63 = true ∧
      Word.field (twoThreads.rankEntry twoThreads.self.ctx (Word.field (twoThreads.g 2) 0 16)) 16 16 = BitVec.toNat twoThreads.self.ctx ∧
      GoodPc (twoThreads.g 3) ∧ BitVec.getLsbD (twoThreads.rankEntry twoThreads.self.ctx (Word.field (twoThreads.g 2) 0 16)) 62 = false ∧
      twoThreads.self.place = Place.slot 0 ∧ (twoThreads.coreAt twoThreads.self.core).list (twoThreads.slotQueue twoThreads.cur) = [1] ∧
      1 ≠ twoThreads.cur) := by
  (repeat' apply And.intro) <;> first | decide +kernel | (refine ok_of ?_; decide +kernel)


def entry (kind : Nat) (hdr : Word) : Entry := { kind, payload := Vector.replicate 8 0x20000, hdr, queue := 0, pinned := false, sram := false }
def withInbox (e : List Entry) : State := demoC fun k => k.setInbox 1 { entries := e }
def w117 : State := withInbox [entry 2 7]
def w118 : State := withNet demo [.move 0 0 (some 3) true]
def w119 : State := withNet demo [.move 0 0 none true]
/-- Every clause of ThreadsArrive has a state and operands that meet its hypotheses. -/
theorem test_meets_ThreadsArrive :
    (w117.nextArrival (0 : Coord) = some ((1 : CtxId), 0, entry 2 (7 : Word)) ∧
      (w117.takeEntry 0 1 0).translate { ctx := 1, core := 0, svc := false, pl := 3 } ((w117.takeEntry 0 1 0).ctxField 1 0x10 + 0x3C0) .load = .ok (target 0x3C0)) ∧
    (w118.net[0]? = some (Packet.move 0 (0 : Coord) (some 3) true) ∧ (w118.thread 0).st = 0 ∧ w118.halted (w118.thread 0).ctx = false ∧
      w118.switching (w118.thread 0).ctx (w118.thread 0).core false = false) ∧
    (w119.net[0]? = some (Packet.move 0 (0 : Coord) none true) ∧ w119.mayInstantiate (w119.thread 0).ctx (0 : Coord) = true) := by
  (repeat' apply And.intro) <;> first | decide +kernel | (refine ok_of ?_; decide +kernel)


/-- A message of thread 0 to rank 0. -/
def message (blocking : Bool) : Send := demo.sendOf 5 0 0 (Vector.replicate 8 1) 2 blocking true
def w120 : State := sender 0x700000 0
def w121 : State := sender 0x50000 0
def w122 : State := sender 1 0
def w123 : State := withInbox [entry 0 0x70000]
/-- Every clause of MessagesAreSentAndTaken has a state and operands that meet its hypotheses. -/
theorem test_meets_MessagesAreSentAndTaken :
    (Plain w120 4 ∧ Guard w120 0 ∧ w120.self.steep = false ∧ Word.field (w120.g 2) 0 16 < w120.rankLen w120.self.ctx ∧
      BitVec.getLsbD (w120.rankEntry w120.self.ctx (Word.field (w120.g 2) 0 16)) 63 = true ∧
      BitVec.toNat (24 : BitVec 5) + (Word.field (w120.g 2) 20 3 + 1) ≤ 32 ∧ w120.net.any (standsRefused (message true)) = false ∧ w120.self.ms < 63 ∧
      msgDestBad (w120.g 2) false = false ∧ (false = true → Released w120 (Word.field (w120.g 2) 16 3)) ∧
      BitVec.getLsbD (w120.rankEntry w120.self.ctx (Word.field (w120.g 2) 0 16)) 62 = false ∧ Word.field (w120.g 2) 0 16 ≠ 0xffff ∧
      w120.self.ld < 63 ∧ ((w120.coreAt w120.self.core).inbox w120.self.ctx).nextMessage = none) ∧
    (Plain w121 4 ∧ Guard w121 0 ∧ w121.self.steep = false ∧ Word.field (w121.g 2) 0 16 < w121.rankLen w121.self.ctx ∧
      BitVec.getLsbD (w121.rankEntry w121.self.ctx (Word.field (w121.g 2) 0 16)) 63 = true ∧
      BitVec.toNat (31 : BitVec 5) + (Word.field (w121.g 2) 20 3 + 1) ≤ 32 ∧ w121.net.any (standsRefused (message true)) = false ∧ w121.self.ms < 63 ∧ msgDestBad (w121.g 2) true = false ∧
      (true = true → Released w121 (Word.field (w121.g 2) 16 3)) ∧
      BitVec.getLsbD (w121.rankEntry w121.self.ctx (Word.field (w121.g 2) 0 16)) 62 = false ∧ Word.field (w121.g 2) 0 16 ≠ 0xffff ∧
      w121.self.ld < 63 ∧ ((w121.coreAt w121.self.core).inbox w121.self.ctx).nextMessage = none) ∧
    (Plain w122 4 ∧ Guard w122 0 ∧ w122.self.steep = false ∧ Word.field (w122.g 2) 0 16 < w122.rankLen w122.self.ctx ∧
      BitVec.getLsbD (w122.rankEntry w122.self.ctx (Word.field (w122.g 2) 0 16)) 63 = true ∧
      BitVec.toNat (3 : BitVec 5) + (Word.field (w122.g 2) 20 3 + 1) ≤ 32 ∧ w122.net.any (standsRefused (message true)) = false ∧ w122.self.ms < 63 ∧ msgDestBad (w122.g 2) false = false ∧
      (false = true → Released w122 (Word.field (w122.g 2) 16 3)) ∧
      BitVec.getLsbD (w122.rankEntry w122.self.ctx (Word.field (w122.g 2) 0 16)) 62 = true ∧ Word.field (w122.g 2) 0 16 ≠ 0xffff ∧
      w122.self.ld < 63 ∧ ((w122.coreAt w122.self.core).inbox w122.self.ctx).nextMessage = none) ∧
    (Plain w123 4 ∧ Guard w123 0 ∧ w123.self.steep = false ∧ Word.field (w123.g 2) 0 16 < w123.rankLen w123.self.ctx ∧
      BitVec.getLsbD (w123.rankEntry w123.self.ctx (Word.field (w123.g 2) 0 16)) 63 = true ∧
      BitVec.toNat (3 : BitVec 5) + (Word.field (w123.g 2) 20 3 + 1) ≤ 32 ∧ w123.net.any (standsRefused (message true)) = false ∧ w123.self.ms < 63 ∧ msgDestBad (w123.g 2) false = false ∧
      (false = true → Released w123 (Word.field (w123.g 2) 16 3)) ∧
      BitVec.getLsbD (w123.rankEntry w123.self.ctx (Word.field (w123.g 2) 0 16)) 62 = false ∧ Word.field (w123.g 2) 0 16 ≠ 0xffff ∧
      w123.self.ld < 63 ∧ ((w123.coreAt w123.self.core).inbox w123.self.ctx).nextMessage = some 0 ∧
      ((w123.coreAt w123.self.core).inbox w123.self.ctx).entries[0]? = some (entry 0 (0x70000 : Word)) ∧
      BitVec.getLsbD (entry 0 (0x70000 : Word)).hdr 20 = false ∧
      BitVec.toNat (8 : BitVec 5) + (Word.field (entry 0 (0x70000 : Word)).hdr 16 3 + 1) ≤ 32 ∧
      (BitVec.toNat (3 : BitVec 5) < BitVec.toNat (8 : BitVec 5) ∨ BitVec.toNat (8 : BitVec 5) + (Word.field (entry 0 (0x70000 : Word)).hdr 16 3 + 1) ≤ BitVec.toNat (3 : BitVec 5))) := by
  (repeat' apply And.intro) <;> decide +kernel


def sending (p : Packet) : State := withNet (demoT fun x => { x with ms := 1 }) [p]
def w124 : State := sending (.send (message true))
def w125 : State := { sending (.send (message true)) with ctxs := [(1, { ranks := [(0, 0x8000000000010000)], gone := true })] }
def w126 : State := (sending (.send (message true))).modCore 0 fun k => { k with ctxs := [], inboxes := [(1, { holds := List.replicate 4096 9 })] }
def w127 : State := sending (.sendReply (message true) 0)
def w128 : State := sending (.sendReply (message true) 1)
def w129 : State := sending (.sendReply (message true) 2)
def w130 : State := (sending (.sendReply (message false) 1)).modSelf fun x => { x with hold := some (.send 5 1 (some 2) 4 false) }
def w131 : State := sending (.held (message true))
def w132 : State := demoC fun k => k.setInbox 1 { refused := [3, 4], holds := [3] }
/-- Every clause of SendsAreAnswered has a state and operands that meet its hypotheses. -/
theorem test_meets_SendsAreAnswered :
    (w124.net[0]? = some (Packet.send (message true)) ∧ (List.take 0 w124.net).any (undecided (message true)) = false ∧
      w124.sendPlace (message true) = some ((0 : Coord), (1 : CtxId)) ∧ w124.ctxGone (1 : CtxId) = false ∧
      (0 : Coord) = (message true).dst ∧ (1 : CtxId) = (message true).ctx ∧
      (message true).id ∉ ((w124.coreAt 0).inbox (1 : CtxId)).holds ∧
      ((w124.coreAt 0).inbox (1 : CtxId)).holds.length < w124.freePlaces (0 : Coord) (1 : CtxId) ∧
      (List.take 0 w124.net).any (fun p => standsRefused (message true) p || refusedAt (message true) p) = false ∧
      (∀ e ∈ w124.threads, e.2.park ≠ some Park.inbox)) ∧
    (w125.net[0]? = some (Packet.send (message true)) ∧ (List.take 0 w125.net).any (undecided (message true)) = false ∧
      w125.sendPlace (message true) = some ((0 : Coord), (1 : CtxId)) ∧ w125.ctxGone (1 : CtxId) = true) ∧
    (w126.net[0]? = some (Packet.send (message true)) ∧ (List.take 0 w126.net).any (undecided (message true)) = false ∧
      w126.sendPlace (message true) = some ((0 : Coord), (1 : CtxId)) ∧
      w126.ctxGone (1 : CtxId) = false ∧ w126.freePlaces (0 : Coord) (1 : CtxId) ≤ ((w126.coreAt 0).inbox (1 : CtxId)).holds.length ∧
      (message true).id ∉ ((w126.coreAt 0).inbox (1 : CtxId)).holds ∧ (message true).id ∉ ((w126.coreAt 0).inbox (1 : CtxId)).refused ∧
      ((w126.coreAt 0).inbox (1 : CtxId)).refused.length < 64) ∧
    ((message true).counted = true ∧ Running w127 (message true).thread ∧ w127.net[0]? = some (Packet.sendReply (message true) 0) ∧
      (message true).blocking = true) ∧
    (Running w128 (message true).thread ∧ w128.net[0]? = some (Packet.sendReply (message true) 1)) ∧
    (Running w129 (message true).thread ∧ w129.net[0]? = some (Packet.sendReply (message true) 2) ∧
      (w129.thread (message true).thread).msgGone = none) ∧
    (w130.net[0]? = some (Packet.sendReply (message false) 1) ∧ (message false).blocking = false ∧ (message false).counted = true ∧
      (message false).kind ≠ 2 ∧ (w130.threads.find (message false).thread).isSome = true ∧ (w130.thread (message false).thread).park = none ∧
      (w130.thread (message false).thread).imagePa = none ∧
      (w130.thread (message false).thread).hold = some (Hold.send (message false).id (1 : BitVec 5) (some (2 : BitVec 3)) 4 false) ∧
      (w130.thread (message false).thread).sstep = false ∧ (w130.thread (message false).thread).lc = (0 : Word)) ∧
    (w131.net[0]? = some (Packet.held (message true)) ∧
      ((List.take 0 w131.net).any fun (q : Packet) ↦ undecided (message true) q || standsRefused (message true) q) = false) ∧
    (((w132.coreAt 0).inbox (1 : CtxId)).holds = [3] ∧ ((w132.coreAt 0).inbox (1 : CtxId)).refused = [3, 4] ∧ 4 ∉ []) := by
  (repeat' apply And.intro) <;> decide +kernel


/-! ### Rings -/

/-- A descriptor of ring 0: beats of 16 core cycles, tiles of 16 bytes. -/
def ringDesc : List Byte := leBytes 8 0x10000000 ++ leBytes 8 0x100010 ++ List.replicate 48 0
def ringIf : RingIf := { ctx := 1, ring := 0, pos := 0, size := 6, desc := wordsOf ringDesc, table := [], pour := 0, queue := 0 }
def configuring : State := withMem (demoG [(1, 0x20000), (2, 0x20040)]) 0x20000 ringDesc
/-- Core 0 bound to position 0 of ring 0, which runs or not; a tile word and its address in registers. -/
def onRing (i : RingIf) (r : Ring) : State := { demoG [(1, 0x100000000), (2, own 0x40)] with
  cores := [(0, { ctxs := [1], primary := some 1, slots := [(0, 0)], ring := some i })], rings := [(ringKey 1 0, r)] }
def waitingTiles : RingIf := { ringIf with injL := List.replicate 4 { word := 0x100000000, off := 0, thread := 0 } }
def aSteep : Steep := { slot := 60, thread := 0, ent := 0, area := none, bindL := 0, bindW := 0, leaf := [], water := [] }
def steepIf : RingIf := { ringIf with steeps := [aSteep] }
def aTail : Tail := { thread := 9, off := 16 }
def tailIf : RingIf := { ringIf with tails := [aTail] }
def retireIf : RingIf := { ringIf with retire := [7, 8] }
def w133 : State := onRing ringIf {}
def w134 : State := onRing ringIf { running := true }
def w135 : State := onRing waitingTiles { running := true }
def w136 : State := onRing retireIf {}
def w137 : State := (onRing steepIf { running := true }).modSelf fun x => { x with status := 16, place := .slot 60 }
def w138 : State := onRing tailIf {}
/-- Every clause of RingInstructions has a state and operands that meet its hypotheses. -/
theorem test_meets_RingInstructions :
    (Plain configuring 4 ∧ Guard configuring 0 ∧ configuring.self.onService = none ∧
      configuring.primary configuring.self.ctx configuring.self.core = true ∧ configuring.self.steep = false ∧
      BitVec.toNat (configuring.g 1) % 64 = 0 ∧ BitVec.toNat (configuring.g 2) % 32 = 0 ∧ isCaddy (configuring.g 1) = false ∧
      isCaddy (configuring.g 2) = false ∧ configuring.translate configuring.self.who (configuring.g 1) .load = Except.ok (target 0x20000) ∧
      ((target 0x20000).cls = Cls.unt ∨ (target 0x20000).cls = Cls.trk ∧ (configuring.coreAt configuring.self.core).l1 = []) ∧ Quiet configuring ∧
      (configuring.coreAt configuring.self.core).ring = none ∧ (∀ e ∈ configuring.threads, e.2.park ≠ some Park.ring) ∧
      descBad (wordsOf (configuring.bytes (target 0x20000).pa 64)) (if ringSize (configuring.ringRec configuring.self.ctx (BitVec.toNat (wordsOf (configuring.bytes (target 0x20000).pa 64))[0] % 64)) = 24 then 6 else 2) = false ∧ dNent (wordsOf (configuring.bytes (target 0x20000).pa 64)) = 0 ∧ List.findIdx? (fun (x : Coord) ↦ x == configuring.self.core) (ringCores (configuring.ringRec configuring.self.ctx (BitVec.toNat (wordsOf (configuring.bytes (target 0x20000).pa 64))[0] % 64))) = some 0 ∧ (configuring.ringAt configuring.self.ctx (BitVec.toNat (wordsOf (configuring.bytes (target 0x20000).pa 64))[0] % 64)).running = false) ∧
    (Plain w133 4 ∧ Guard w133 0 ∧ w133.self.onService = none ∧ w133.primary w133.self.ctx w133.self.core = true ∧
      (w133.coreAt w133.self.core).ring = some ringIf ∧ w133.self.steep = false ∧ (w133.ringAt ringIf.ctx ringIf.ring).running = false ∧
      ringIf.pos ∉ (w133.ringAt ringIf.ctx ringIf.ring).started ∧
      ((w133.ringAt ringIf.ctx ringIf.ring).started = [] ∨ ringWide (w133.ringAt ringIf.ctx ringIf.ring).first = ringWide ringIf.desc) ∧
      (w133.ringAt ringIf.ctx ringIf.ring).started.length + 1 < ringIf.size ∧ ringIf.retire = []) ∧
    (Plain w134 4 ∧ Guard w134 0 ∧ w134.self.onService = none ∧ w134.primary w134.self.ctx w134.self.core = true ∧
      (w134.coreAt w134.self.core).ring = some ringIf ∧ putPlace w134 ringIf (w134.g 1) (w134.g 2) = Except.ok 64 ∧
      (w134.ringAt ringIf.ctx ringIf.ring).running = true ∧ (w134.ringAt ringIf.ctx ringIf.ring).stopped = false ∧ w134.self.cp < 63 ∧
      (ringIf.inj !BitVec.getLsbD (w134.g 1) 16).length < 4 ∧ w134.self.steep = false) ∧
    (Plain w135 4 ∧ Guard w135 0 ∧ w135.self.onService = none ∧ w135.primary w135.self.ctx w135.self.core = true ∧
      (w135.coreAt w135.self.core).ring = some waitingTiles ∧ putPlace w135 waitingTiles (w135.g 1) (w135.g 2) = Except.ok 64 ∧
      (w135.ringAt waitingTiles.ctx waitingTiles.ring).running = true ∧ (w135.ringAt waitingTiles.ctx waitingTiles.ring).stopped = false ∧
      w135.self.cp < 63 ∧ 4 ≤ (waitingTiles.inj !BitVec.getLsbD (w135.g 1) 16).length ∧ w135.self.steep = false ∧ waitingTiles.retire = []) ∧
    (Plain w136 4 ∧ Guard w136 0 ∧ w136.self.onService = none ∧ w136.primary w136.self.ctx w136.self.core = true ∧
      (w136.coreAt w136.self.core).ring = some retireIf ∧ w136.self.steep = false ∧ (w136.ringAt retireIf.ctx retireIf.ring).running = false ∧
      retireIf.pos ∉ (w136.ringAt retireIf.ctx retireIf.ring).started ∧
      ((w136.ringAt retireIf.ctx retireIf.ring).started = [] ∨ ringWide (w136.ringAt retireIf.ctx retireIf.ring).first = ringWide retireIf.desc) ∧
      (w136.ringAt retireIf.ctx retireIf.ring).started.length + 1 < retireIf.size ∧ retireIf.retire = [(7 : Word), (8 : Word)]) ∧
    (Plain w137 4 ∧ Guard w137 0 ∧ w137.self.onService = none ∧ w137.primary w137.self.ctx w137.self.core = true ∧
      (w137.coreAt w137.self.core).ring = some steepIf ∧ steepIf.retire = [] ∧ w137.self.steep = true ∧ Idle w137 ∧
      (w137.coreAt w137.self.core).engine.free w137.cur = true ∧ List.find? (fun (x : Steep) ↦ x.thread == w137.cur) steepIf.steeps = some aSteep ∧
      aSteep.area = none ∧ steepIf.held = none ∧ steepIf.owed = false ∧ steepIf.logging = none ∧ steepIf.oldestPair = none ∧ NoConvene (w137.coreAt w137.self.core) ∧
      caddyKey (0 : Coord) 0 = caddyKey w137.self.core (steepIf.doneOff aSteep.ent)) ∧
    (Plain w138 4 ∧ Guard w138 0 ∧ w138.self.onService = none ∧ w138.primary w138.self.ctx w138.self.core = true ∧
      (w138.coreAt w138.self.core).ring = some tailIf ∧ w138.self.steep = false ∧ (w138.ringAt tailIf.ctx tailIf.ring).running = false ∧
      tailIf.pos ∉ (w138.ringAt tailIf.ctx tailIf.ring).started ∧
      ((w138.ringAt tailIf.ctx tailIf.ring).started = [] ∨ ringWide (w138.ringAt tailIf.ctx tailIf.ring).first = ringWide tailIf.desc) ∧
      (w138.ringAt tailIf.ctx tailIf.ring).started.length + 1 < tailIf.size ∧ tailIf.retire = [] ∧ tailIf.tails[0]? = some aTail ∧
      (w138.thread aTail.thread).mx = 0 ∧ NoConvene (w138.coreAt w138.self.core) ∧ caddyKey (0 : Coord) 16 = caddyKey w138.self.core aTail.off) := by
  (repeat' apply And.intro) <;> first | decide +kernel | (refine ok_of ?_; decide +kernel)


/-! ### Queues and pours -/

/-- Queue 0 for context 1, its packets at a base; thread code at 0x400. -/
def queued (base : Word) (f : List Byte) : State :=
  { withMem demo 0x20000 f with
    queues := [(0, { base, cfg := 0x1000000000020, tail := 1 })], ctxs := [(1, { entries := [0x400], ranks := [(0, 0x8000000000010000)] })] }
def packet : List Byte := leBytes 8 0x400 ++ List.replicate 120 0
def packetAt : List (Word × Nat × Target) := ((queued 0x20000 packet).queuePlaces 1 .load 0x20000 128).getD []
def aPour : Pour := { ctx := 1, num := 3, queue := 0, entry := 0x400, count := 2, aff := 0, affarg := 0, cls := false, deadline := 0,
                      args := Vector.replicate 7 5, compl := 0xC0000100, edges := [], edgesReady := true }
def madePour : Pour := { aPour with made := 2 }
def complPlace : Target := ⟨0xC0000100, .unt, 0⟩
def w139 : State := queued 0x9000000000 packet
def w140 : State := queued 0x20000 packet
def w141 : State := { demo with pours := [aPour] }
def w142 : State := { demo with pours := [madePour] }
/-- Every clause of QueuesPoursAndSlots has a state and operands that meet its hypotheses. -/
theorem test_meets_QueuesPoursAndSlots :
    (383 < 384 ∧ demo.awake = true ∧ 1 ≤ BitVec.toNat (1 : BitVec 2)) ∧
    (0 < 384 ∧ (0 : BitVec 2) = (0 : BitVec 2)) ∧
    (w139.awake = true ∧ (w139.queue 0).en = true ∧ (w139.queue 0).head ≠ (w139.queue 0).tail ∧ (w139.sec.firstLight = true → 0 = 0) ∧
      w139.halted (w139.queue 0).ctx = false ∧ (w139.part (w139.partOf (w139.queue 0).ctx)).asleep = false ∧
      w139.queuePlaces (w139.queue 0).ctx .load (BitVec.ofNat 64 (BitVec.toNat (w139.queue 0).base + 128 * ((w139.queue 0).head.toNat % (w139.queue 0).size))) 128 = none) ∧
    (w140.awake = true ∧ (w140.queue 0).en = true ∧ (w140.queue 0).head ≠ (w140.queue 0).tail ∧ (w140.sec.firstLight = true → 0 = 0) ∧
      w140.halted (w140.queue 0).ctx = false ∧ (w140.part (w140.partOf (w140.queue 0).ctx)).asleep = false ∧
      w140.queuePlaces (w140.queue 0).ctx .load (BitVec.ofNat 64 (BitVec.toNat (w140.queue 0).base + 128 * ((w140.queue 0).head.toNat % (w140.queue 0).size))) 128 = some packetAt ∧ (∀ l ∈ packetAt, l.2.2.cls = Cls.trk ∨ l.2.2.cls = Cls.unt) ∧ (Launch.mk (List.flatMap (fun (l : Word × ℕ × Target) ↦ w140.bytes l.2.2.pa l.2.1) packetAt) []).ndep = 0 ∧ (Launch.mk (List.flatMap (fun (l : Word × ℕ × Target) ↦ w140.bytes l.2.2.pa l.2.1) packetAt) []).compl = (0 : Word) ∧ w140.packetStatus (w140.queue 0) (Launch.mk (List.flatMap (fun (l : Word × ℕ × Target) ↦ w140.bytes l.2.2.pa l.2.1) packetAt) []) = 0) ∧
    (w141.awake = true ∧ w141.pours = [aPour] ∧ aPour.queue / 8 = 0 ∧ (aPour.demoted = true ∨ w141.overdue aPour = false) ∧
      w141.canMake aPour = some (0 : Coord)) ∧
    (List.find? (fun (o : Pour) ↦ o.ctx == madePour.ctx && o.num == madePour.num) w142.pours = some madePour ∧ madePour.count ≤ madePour.made ∧
      madePour.live = 0 ∧ (madePour.demoted = true ∨ w142.overdue madePour = false) ∧ madePour.compl ≠ (0 : Word) ∧ w142.viral.on = false ∧ (w142.part (w142.partOf madePour.ctx)).asleep = false ∧
      w142.queuePlace madePour.ctx .store madePour.compl = some complPlace ∧ complPlace.cls = Cls.unt) := by
  (repeat' apply And.intro) <;> decide +kernel


/-! ### Partitions and contexts -/

def stagedPart : Part := { staged := [(0x18, 0x10)] }
def twoParts (b : Part) : State := { demo with parts := [(0, demoPart), (1, b)] }
def w143 : State := twoParts stagedPart
/-- A commit of partition 0 is in progress. -/
def busyPart : State := demo.modPart 0 fun b => { b with commitReq := some none }
def w144 : State := withMem demo 0x8010 [(5 : Byte)]
/-- Every clause of PartitionConfiguration has a state and operands that meet its hypotheses. -/
theorem test_meets_PartitionConfiguration :
    (demo.awake = true ∧ BitVec.toNat (0 : BitVec 2) < 2 ∧ BitVec.toNat (0 : BitVec 2) < 1) ∧
    (busyPart.awake = true ∧ (busyPart.part 0).commitReq.isSome = true) ∧
    (BitVec.toNat (1 : BitVec 2) < 2) ∧
    (2 ≤ BitVec.toNat (2 : BitVec 2) ∧ (demo.part 0).commitReq = none ∧ demo.commitStatus (BitVec.toNat (0 : BitVec 6)) true (List.range 64) = 1 ∧ 1 ≠ 0) ∧
    (w143.awake = true ∧ (w143.part 1).commitReq = none ∧ w143.commitStatus (BitVec.toNat (1 : BitVec 6)) true (List.range 64) = 0 ∧ 0 = 0 ∧ 1 ≤ BitVec.toNat (2 : BitVec 2) ∧
      w143.commitStatus (BitVec.toNat (1 : BitVec 6)) false [BitVec.toNat (63 : BitVec 6)] = 0 ∧
      (w143.part (BitVec.toNat (1 : BitVec 6))).staged.wf = true) ∧
    (w144.awake = true ∧ BitVec.getLsbD ((w144.part (BitVec.toNat (0 : BitVec 6))).field (slotBase (BitVec.toNat (0 : BitVec 6)))) 22 = true ∧
      BitVec.toNat (2 : BitVec 16) < w144.rankLen (BitVec.ofNat 16 (Word.field ((w144.part (BitVec.toNat (0 : BitVec 6))).field (slotBase (BitVec.toNat (0 : BitVec 6)))) 0 16)) ∧ w144.word (BitVec.toNat (w144.ctxField (BitVec.ofNat 16 (Word.field ((w144.part (BitVec.toNat (0 : BitVec 6))).field (slotBase (BitVec.toNat (0 : BitVec 6)))) 0 16)) 80) + 8 * BitVec.toNat (2 : BitVec 16)) ≠ (0 : Word) ∧ Option.map (fun (x : ℕ × ℕ) ↦ x.1) (w144.slotOf (1 : CtxId)) = some (BitVec.toNat (0 : BitVec 6)) ∧ (w144.ctxOf (1 : CtxId)).halt = none) := by
  (repeat' apply And.intro) <;> decide +kernel

def haltedCtx : Halt := { cause := 6, unit := none, kind := 0 }
def w145 : State := { demo with ctxs := [(1, { halt := some haltedCtx })] }
def w146 : State := { demo with sec := { demo.sec with debugState := 1 } }
/-- Every clause of ContextsHaltSwitchAndGo has a state and operands that meet its hypotheses. -/
theorem test_meets_ContextsHaltSwitchAndGo :
    ((w145.ctxOf (1 : CtxId)).halt = some haltedCtx ∧ haltedCtx.complete = false ∧ (w145.quiet fun (x : Thread) ↦ x.ctx == (1 : CtxId)) = true ∧
      (w145.slotOf (1 : CtxId)).isSome = true) ∧
    (Option.map (fun (x : ℕ × ℕ) ↦ x.1) (demo.slotOf (1 : CtxId)) = some (BitVec.toNat (0 : BitVec 6)) ∧ (1 : CtxId) ∈ (demo.coreAt 0).ctxs ∧
      (demo.ctxOf (1 : CtxId)).halt = none ∧ demo.net = [] ∧ demo.mayLeave (1 : CtxId) (0 : Coord) = true ∧ (demo.slotOf (1 : CtxId)).isSome = true) ∧
    ((1 : CtxId) ∉ (demo.coreAt 1).ctxs ∧ (demo.ctxOf (1 : CtxId)).gone = false ∧ demo.coreIn (BitVec.toNat (0 : BitVec 6)) (1 : Coord) = true ∧
      (demo.coreAt 1).powerGated = false ∧ demo.awake = true ∧ (demo.coreAt 1).ctxs.length < 4) ∧
    (Option.map (fun (x : ℕ × ℕ) ↦ x.1) (w146.slotOf (1 : CtxId)) = some (BitVec.toNat (0 : BitVec 6)) ∧ (1 : CtxId) ∉ (w146.coreAt 5).ctxs ∧
      (w146.ctxOf (1 : CtxId)).halt = none ∧ (w146.ctxOf (1 : CtxId)).gone = false ∧ w146.coreIn (BitVec.toNat (0 : BitVec 6)) (5 : Coord) = true ∧
      (w146.coreAt 5).powerGated = false ∧ w146.awake = true ∧ (w146.coreAt 5).ctxs.length < 4 ∧ (w146.slotOf (1 : CtxId)).isSome = true) := by
  (repeat' apply And.intro) <;> decide +kernel


/-! ### Power, links and outside agents -/

def w147 : State := { demo with sec := { demo.sec with firstLight := false, recovery := true, lifecycle := 1 } }
/-- Full service on a device that runs programs, and DBG.FULL in MANUFACTURE. -/
def fullService : State := { demo with sec := { demo.sec with firstLight := false, debugState := 2 } }
def w148 : State := { demo with devReset := true, ctxs := [(1, { gone := true })] }
def w149 : State := { demo with parts := [(0, { demoPart with asleep := true })], cores := [] }
/-- Every clause of PowerStatesAndResets has a state and operands that meet its hypotheses. -/
theorem test_meets_PowerStatesAndResets :
    (demo.awake = true ∧ demo.sec.debugState ≠ 2 ∧ demo.sec.firstLight = true ∧ (demo.coreAt 0).ctxs ≠ [] ∧ demo.coreIn (BitVec.toNat (0 : BitVec 6)) (0 : Coord) = true ∧
      (demo.part (BitVec.toNat (0 : BitVec 6))).asleep = false ∧ demo.sec.recovery = false ∧ demo.devReset = false ∧
      demo.sec.lifecycle = (0 : BitVec 2)) ∧
    (w147.sec.firstLight = false ∧ w147.idleCore (1 : Coord) = true ∧ Memory.wf w147.mem = true ∧
      w147.coreIn (BitVec.toNat (0 : BitVec 6)) (1 : Coord) = true ∧ (w147.coreAt 1).ctxs = [] ∧
      (w147.part (BitVec.toNat (0 : BitVec 6))).asleep = false ∧ w147.sec.recovery = true ∧ w147.devReset = false ∧
      w147.sec.lifecycle ≠ (0 : BitVec 2)) ∧
    (fullService.awake = true ∧ fullService.sec.firstLight = false ∧ fullService.sec.lifecycle = 0 ∧ fullService.sec.debugState = 2) ∧
    (w148.awake = true ∧ w148.sec.firstLight = true ∧ w148.idleCore (1 : Coord) = true ∧
      (∀ k ∈ w148.partCores (BitVec.toNat (1 : BitVec 6)), (w148.coreAt k).powerGated = true) ∧ w148.debugged (BitVec.toNat (1 : BitVec 6)) = false ∧
      w148.sec.recovery = false ∧ w148.devReset = true ∧
      (∀ ctx ∈ w148.contexts, (w148.ctxOf ctx).gone = true ∨ Option.any (fun (x : Halt) ↦ x.complete) (w148.ctxOf ctx).halt = true) ∧
      w148.meshQuiet = true ∧ w148.sec.lifecycle = (0 : BitVec 2)) ∧
    (w149.awake = true ∧ w149.sec.firstLight = true ∧ w149.idleCore (1 : Coord) = true ∧ Memory.wf w149.mem = true ∧
      w149.coreIn (BitVec.toNat (0 : BitVec 6)) (1 : Coord) = true ∧ (w149.coreAt 1).ctxs = [] ∧
      (∀ e ∈ w149.parts, e.2.exists_ = true → e.2.asleep = true) ∧ w149.sec.debugState ≠ (1 : BitVec 2) ∧ w149.sec.recovery = false ∧
      w149.devReset = false ∧ w149.sec.lifecycle = (0 : BitVec 2)) := by
  (repeat' apply And.intro) <;> first | (intro ctx hc; rw [show w148.contexts = [1] by decide +kernel] at hc; rw [List.mem_singleton.1 hc]; decide +kernel) | decide +kernel

/-- After a reset that leaves a link down; and an error counter that is saturated. -/
def stillDown : State := { demo with viral := { down := [(.host, 3), (.pod, 3)] }, errCounts := [(counterKey 0 1, BitVec.allOnes 32)] }
def viralDevice : State := { demo with viral := { on := true, down := [(.host, 3), (.pod, 3)] } }
/-- Every clause of LinkFailuresAndScrubbing has a state and operands that meet its hypotheses. -/
theorem test_meets_LinkFailuresAndScrubbing :
    (demo.viral.on = false ∧ (LinkKind.host, (3 : BitVec 5)) ∉ demo.viral.down ∧ (LinkKind.pod, (3 : BitVec 5)) ∉ demo.viral.down ∧ 1 ≤ 1 ∧ 1 ≤ 10 ∧
      demo.errCounts.get (0 : BitVec 32) (counterKey (unitOf (0 : Coord)) 1) ≠ BitVec.allOnes 32) ∧
    (viralDevice.viral.on = true ∧ (LinkKind.host, (4 : BitVec 5)) ∉ viralDevice.viral.down ∧
      (LinkKind.pod, (4 : BitVec 5)) ∉ viralDevice.viral.down ∧ 10 ≤ 10 ∧
      viralDevice.errCounts.get (0 : BitVec 32) (counterKey (unitOf (0 : Coord)) 10) ≠ BitVec.allOnes 32) ∧
    (stillDown.viral.on = false ∧ (LinkKind.host, (3 : BitVec 5)) ∈ stillDown.viral.down ∧ (LinkKind.pod, (3 : BitVec 5)) ∈ stillDown.viral.down ∧
      stillDown.errCounts.get (0 : BitVec 32) (counterKey (unitOf (0 : Coord)) 1) = BitVec.allOnes 32) ∧
    ((LinkKind.host, (3 : BitVec 5)) ∈ viralDevice.viral.down ∧ (LinkKind.pod, (3 : BitVec 5)) ∈ viralDevice.viral.down) := by
  (repeat' apply And.intro) <;> decide +kernel

/-- Node 2 may read and write the memory of partition 0, and launch on queues 4 to 7. -/
def aclWord : Word := 0x8000000C040E0402
def peered (w : Word) : State := { demo with peerAcl := [(0, w)], hostLines := [9] }
def w150 : State := peered aclWord
def w151 : State := peered 0x80000000000E0402
/-- Node 2 may launch on queue 0, whose ring stands at 0x20000, and read its status. -/
def statusWord : Word := 0x800000000C000002
def ringPeer : State := { queued 0x20000 packet with peerAcl := [(0, statusWord)] }
/-- A viral device that caches a dirty line of a host. -/
def dirtyLine : State := { peered aclWord with viral := { on := true }, hostDirty := [(9, 1)] }
/-- Every clause of OutsideAgents has a state and operands that meet its hypotheses. -/
theorem test_meets_OutsideAgents :
    (demo.awake = true ∧ demo.ownerOf (BitVec.toNat (0x105 : BitVec 52)) = some 0 ∧ demo.boundTo 0 (BitVec.toNat (0 : BitVec 4)) = true ∧
      demo.viral.on = false) ∧
    (demo.hostCfgRead 0 0x10000001000 = some demo.secWord) ∧
    (cfgPlace (BitVec.toNat (0x5000000000 : BitVec 52)) = .reserved ∧ (∀ (p : ℕ), demo.ownerOf (BitVec.toNat (0x5000000000 : BitVec 52)) = some p → demo.boundTo p (BitVec.toNat (1 : BitVec 4)) = false)) ∧
    (ringPeer.awake = true ∧ aclStatus statusWord = true ∧
      (ringPeer.aclFind fun (e : Word) ↦ aclNode e == BitVec.toNat (2 : BitVec 8) && decide (aclLo e ≤ 0) && decide (0 ≤ aclHi e)) = some statusWord ∧
      aclLaunch statusWord = true ∧ 8 < 128 * (ringPeer.queue 0).size ∧
      ringPeer.queuePlace (ringPeer.queue 0).ctx .store ((ringPeer.queue 0).base + BitVec.ofNat 64 (8 / 8 * 8)) = some (target 0x20008)) ∧
    (w150.awake = true ∧
      (w150.aclFind fun (e : Word) ↦ aclNode e == BitVec.toNat (2 : BitVec 8) && aclPart e == BitVec.toNat (0 : BitVec 6)) = some aclWord ∧
      w150.ownerOf (BitVec.toNat (0x105 : BitVec 52)) = some (BitVec.toNat (0 : BitVec 6)) ∧
      (w150.part (BitVec.toNat (0 : BitVec 6))).asleep = false ∧ aclMemW aclWord = true ∧ aclMemR aclWord = true ∧ 7 < 384 ∧
      (w150.aclFind fun (e : Word) ↦ aclNode e == BitVec.toNat (2 : BitVec 8) && decide (aclLo e ≤ 7) && decide (7 ≤ aclHi e)) = some aclWord ∧
      aclLaunch aclWord = true ∧ aclStatus aclWord = false ∧ BitVec.toNat (9 : BitVec 52) ∈ w150.hostLines ∧ w150.viral.on = false) ∧
    (w151.awake = true ∧
      (w151.aclFind fun (e : Word) ↦ aclNode e == BitVec.toNat (2 : BitVec 8) && aclPart e == BitVec.toNat (0 : BitVec 6)) = some (0x80000000000e0402 : Word) ∧ w151.ownerOf (BitVec.toNat (0x105 : BitVec 52)) = some (BitVec.toNat (0 : BitVec 6)) ∧ (w151.part (BitVec.toNat (0 : BitVec 6))).asleep = false ∧ aclMemW (0x80000000000e0402 : Word) = false ∧ 4 < 384 ∧ (w151.aclFind fun (e : Word) ↦ aclNode e == BitVec.toNat (2 : BitVec 8) && decide (aclLo e ≤ 4) && decide (4 ≤ aclHi e)) = some (0x80000000000e0402 : Word) ∧ aclLaunch (0x80000000000e0402 : Word) = false ∧ BitVec.toNat (8 : BitVec 52) ∉ w151.hostLines) ∧
    (9 ∈ dirtyLine.hostLines ∧ dirtyLine.viral.on = true ∧ ∃ e ∈ dirtyLine.hostDirty, e.1 = 9) := by
  (repeat' apply And.intro) <;> decide +kernel


def secured (o : Bool) : State := { demo with sec := { demo.sec with measured := [(1, [1]), (5, [9])], session := some 4, sessionOpen := o, lifecycle := 1 } }
def w152 : State := secured false
def w153 : State := secured true
def w154 : State := { secured true with sec := { (secured true).sec with debugState := 1 } }
/-- Every clause of SecurityEngine has a state and operands that meet its hypotheses. -/
theorem test_meets_SecurityEngine :
    (w152.heard w152.source = true ∧ 5 ∈ [1, 2, 3, 4, 5] ∧ w152.sec.measured.find 5 = some [(9 : Byte)] ∧ w152.sec.session = some (4 : Word) ∧
      w152.sec.sessionOpen = false ∧ demo.heard demo.source = false ∧ (let u : State := { w152 with sources := [some 2] }; u.heard u.source = false)) ∧
    (w153.heard w153.source = true ∧ w153.sec.sessionOpen = true ∧ w153.sec.session = some (4 : Word) ∧ w153.sec.recovery = false ∧
      w153.sec.d3hot = false ∧ w153.sec.lifecycle = (1 : BitVec 2) ∧ w153.sec.debugState = (0 : BitVec 2) ∧
      tokByte [(1 : Byte), (1 : Byte), (0 : Byte)] 1 = 1 ∧ tokByte [(1 : Byte), (1 : Byte), (0 : Byte)] 2 = 0 ∧ (w153.part 0).exists_ = true ∧
      w153.sec.tokens = [] ∧ w153.resetting = false ∧ (w153.modPart 0 fun b => { b with resetReq := some 1 }).resetting = true) ∧
    ((w152.threads.find 0).isSome = true ∧ w152.sec.debugState ≠ 2 ∧ w152.debugged 0 = false ∧ w152.partOfThread 0 = some 0) ∧
    ((w154.threads.find 0).isSome = true ∧ w154.awake = true ∧ w154.partOfThread 0 = some 0 ∧ w154.debugged 0 = true) := by
  (repeat' apply And.intro) <;> decide +kernel


/-! ### The hypotheses that need an argument -/

/-- A wave tile that dies in ten beats, and six cores bound to the positions of ring 0, the first of which holds it. -/
def aTile : Tile := { tag := 3, keep := false, life := 10, age := 0, home := 0, origin := 0, bytes := List.replicate 16 7 }
def positioned (q : Nat) : RingIf := { ringIf with pos := q, curL := if q = 0 then some aTile else none }
def runningRing : State :=
  { demo with
    cores := [(0, 0), (1, 5), (2, 1), (3, 4), (4, 2), (5, 3)].map fun e => (e.1, { ctxs := [1], primary := some 1, ring := some (positioned e.2) })
    rings := [(ringKey 1 0, { running := true })] }
/-- A switch of context 1 out of core 0 is asked for. -/
def preemptedRing : State := runningRing.modPart 0 fun b => { b with switchReq := some 1 }
/-- The clauses of BeatsMoveTiles on a ring that runs and on one that is to be pre-empted. -/
theorem test_meets_BeatsMoveTiles :
    ((runningRing.ringAt 1 0).running = true ∧ (runningRing.ringAt 1 0).stopped = false ∧ runningRing.halted 1 = false ∧
      runningRing.ringPreempted 1 0 = false ∧ (ringCores (runningRing.ringRec 1 0)).Nodup ∧
      (∀ e ∈ runningRing.threads, e.2.park ≠ some .ring)) ∧
    (∀ (q : Nat) (h : q < (ringCores (runningRing.ringRec 1 0)).length),
      runningRing.ifOf 1 0 (ringCores (runningRing.ringRec 1 0))[q] = some (positioned q) ∧ (positioned q).held = none ∧
      (positioned q).owed = false ∧ (positioned q).logging = none ∧ (positioned q).area0 = .free ∧ (positioned q).area1 = .free ∧ (positioned q).steeps = [] ∧ (positioned q).table = [] ∧
      (positioned q).injL = [] ∧ (positioned q).injW = [] ∧
      (∀ t, (positioned q).curL = some t ∨ (positioned q).curW = some t → t.age + 1 < t.life)) ∧
    (∃ q < (ringCores (runningRing.ringRec 1 0)).length, (positioned q).curL.isSome = true ∨ (positioned q).curW.isSome = true) ∧
    ((preemptedRing.ringAt 1 0).running = true ∧ (preemptedRing.ringAt 1 0).stopped = false ∧ preemptedRing.halted 1 = false ∧
      preemptedRing.ringPreempted 1 0 = true ∧ (∀ e ∈ preemptedRing.ringIfs 1 0, e.2.steeps = [])) := by
  refine ⟨by decide, fun q h => ?_, by decide, by decide⟩
  have h6 : q < 6 := h
  refine ⟨?_, rfl, rfl, rfl, rfl, rfl, rfl, rfl, rfl, rfl, ?_⟩
  · interval_cases q <;> rfl
  · rintro t (ht | ht)
    · simp only [positioned] at ht
      split at ht <;> cases ht
      decide
    · cases ht

/-- The reset state with an addition placed where it fetches, and the state and bytes that its fetch yields. -/
def placed : State := State.reset.withFetchWord 32 0x00083183
def fetching (s : State) : State := State.begin { s.tick with turn := false } 0
def fetchOf (s : State) : List Byte × State := match (fetching s).fetch 0 with
  | .ok r => r
  | .error _ => ([], demo)
/-- What a thread's step asks of a state, but for the decoding. -/
abbrev Fetches (s : State) : Prop :=
  s.inputs = [] ∧ s.turn = true ∧ s.tick.nextIssuer = some 0 ∧ (s.thread 0).debugStep = false ∧ NoneDue s 0 ∧ (fetching s).fetch 0 = .ok (fetchOf s) ∧
  (fetchOf s).2.halted (fetchOf s).2.self.ctx = false
theorem fetch_ok {s : State} (h : (match (fetching s).fetch 0 with | .ok _ => true | .error _ => false) = true) :
    (fetching s).fetch 0 = .ok (fetchOf s) := by
  unfold fetchOf; split <;> simp_all
/-- A step that runs a decoded instruction. -/
theorem test_meets_StepRunsTheDecodedInstruction : Fetches placed ∧ decodeBytes (fetchOf placed).1 = some (.add 0 3 3 4) := by
  (repeat' apply And.intro) <;> first | decide +kernel | exact fetch_ok (by decide +kernel) | exact ok_of (by decide +kernel)

def placedBad : State := State.reset.withFetchWord 32 0xFFFA7589
/-- A step on a word that stands for nothing, and one with an event given. -/
theorem test_meets_UndecodedWordsAndGivenEvents :
    (Fetches placedBad ∧ decodeBytes (fetchOf placedBad).1 = none) ∧
    (({ demo with inputs := [.nop, .ret] } : State).inputs = .nop :: [.ret] ∧ encode (.accLineEvict 3) = .none) := by
  (repeat' apply And.intro) <;> first | decide +kernel | exact fetch_ok (by decide +kernel) | exact ok_of (by decide +kernel)

/-- A fetch from memory on a compute core. -/
theorem test_meets_FetchReadsMemory :
    demo.translate (demo.thread 0).who 0x10000 .exec = .ok (target 0x10000) ∧ ((target 0x10000).cls = .trk ∨ (target 0x10000).cls = .unt) ∧
      (target 0x10000).pa % 2 = 0 ∧ demo.badUnits = [] ∧
      (demo.coreAt (demo.thread 0).unit).icache = [] ∧ (demo.coreAt (demo.thread 0).unit).loops = [] := by
  (repeat' apply And.intro) <;> first | decide +kernel | exact fetch_ok (by decide +kernel) | exact ok_of (by decide +kernel)

/-- A state in canonical form that steps. -/
theorem test_meets_MemoryStaysCanonical : Memory.wf placed.mem = true ∧ (nextOf (step placed)).isSome = true := by
  (repeat' apply And.intro) <;> first | decide +kernel | exact fetch_ok (by decide +kernel) | exact ok_of (by decide +kernel)

/-- Instructions and codes of the encoding statements. -/
theorem test_meets_DecodeOfEncode : wellFormed (.cmpi 3 7 0xFFF 5) = true ∧ encode (.cmpi 3 7 0xFFF 5) ≠ .none := by decide
/-- A code that decodes. -/
theorem test_meets_EncodeOfDecode : decode (.half 0x1064) = some (.cAdd 3 4) ∧ wellFormed (.cAdd 3 4) = true ∧ encode (.cAdd 3 4) ≠ .none := by
  decide

/-- Registers that are not hard-wired, bytes at both ends of a write and on both sides of it. -/
theorem test_meets_ReadsAfterWrites :
    (31 : BitVec 5) ≠ 0 ∧ (7 : BitVec 3) ≠ 0 ∧ Memory.wf [(3, (1 : Byte))] = true ∧ (2 ≤ 2 ∧ 2 < 2 + [(0 : Byte), 0, 7].length) ∧
      (2 ≤ 4 ∧ 4 < 2 + [(0 : Byte), 0, 7].length) ∧ (1 < 2 ∨ 2 + [(0 : Byte), 0, 7].length ≤ 1) ∧
      (5 < 2 ∨ 2 + [(0 : Byte), 0, 7].length ≤ 5) := by decide

/-- A finite encoding of binary16, its largest. -/
theorem test_meets_ExactArithmetic :
    fmtF16 ∈ [fmtF64, fmtF32, fmtF16, fmtBF16, fmtE4M3, fmtE5M2, fmtE2M3, fmtE3M2, fmtE2M1] ∧ 0x7BFF < 2 ^ fmtF16.bits ∧
      (numberOf (fmtF16.decode 0x7BFF)).isSome := by
  refine ⟨by decide, by decide, rfl⟩

/-- A number between two values of binary16, and a neighbour. -/
theorem test_meets_RoundingIsNearest :
    fmtF16 ∈ [fmtF64, fmtF32, fmtF16, fmtBF16, fmtE4M3, fmtE5M2, fmtE2M3, fmtE3M2, fmtE2M1] ∧
      numberOf (.fin false 4097 (-12)) = some (4097 / 4096) ∧ (fmtF16.round .rne false (.fin false 4097 (-12))).2 &&& fOF = 0 ∧
      0x3C00 < 2 ^ fmtF16.bits ∧ numberOf (fmtF16.decode 0x3C00) = some 1 := by
  refine ⟨by decide, ?_, by decide, by decide, ?_⟩
  · norm_num [numberOf]
  · have : fmtF16.decode 0x3C00 = .fin false 0x400 (-10) := by decide
    rw [this]; norm_num [numberOf]

/-! ## Further states for clauses of the obligations -/

/-- The pieces of an access, as the device finds them (R205). -/
def unitsOf (s : State) (k : Kind) (va : Word) (n unit : Nat) : List Unit8 := match s.locateUnits k va n unit with
  | .ok l => l
  | .error _ => []
/-- Thread 0 with an address and a value in registers. -/
def addressed (a : Word) : State := demoG [(1, 77), (2, a), (3, 5)]
def crossing : State := addressed (own 0x47)
/-- The last bytes of the DET page belong to the partition too, and the next page is UNT. -/
def acrossPages : State := { addressed 0xBFFFFFFC with ownership := demo.ownership ++ [(1535, 0x180)] |>.insertionSort (·.1 ≤ ·.1) }
def acrossEnd : State := { addressed 0xFFFFFFFC with ownership := demo.ownership ++ [(2047, 0x100)] }
def xlatIn (s : State) (va : Word) : Xlat := match s.xlate s.self.who va .load with
  | .ok y => y
  | .error _ => xlatOf 0 .load
def failIn (s : State) (va : Word) : Fail := match s.xlate s.self.who va .load with
  | .ok _ => unmapped
  | .error f => f

/-- Accesses that touch two doublewords, in the own caddy and in memory; pieces in one page, in two, of one ACC line, and one that is not mapped. -/
theorem test_meets_crossing_accesses :
    (Plain crossing 4 ∧ 8 < (crossing.g 2).toNat % 8 + 2 ∧ OwnCaddyAt crossing (crossing.g 2) 2 (caddyKey 0 0x47) ∧
      OwnCaddyAt crossing (crossing.g 2) 8 (caddyKey 0 0x47) ∧ crossing.self.ld + 2 ≤ 63 ∧ crossing.self.st + 2 ≤ 63) ∧
    (Plain (addressed 0x107) 4 ∧ InMemoryAs (addressed 0x107) 0x107 8 8 .load (unitsOf (addressed 0x107) .load 0x107 8 8) ∧
      InMemoryAs (addressed 0x107) 0x107 8 8 .store (unitsOf (addressed 0x107) .store 0x107 8 8) ∧
      countOf (unitsOf (addressed 0x107) .load 0x107 8 8) = 2) ∧
    (8 - 0x107 % 8 < 8 ∧ isCaddy 0x107 = false ∧ isCaddy 0x108 = false ∧ demo.xlate demo.self.who 0x107 .load = .ok (xlatIn demo 0x107) ∧
      (xlatIn demo 0x107).covers 1 0x108 = true ∧ (xlatIn demo 0x107).cls = .trk) ∧
    (demo.xlate demo.self.who 0x40000107 .load = .ok (xlatIn demo 0x40000107) ∧ (xlatIn demo 0x40000107).covers 1 0x40000108 = true ∧
      (xlatIn demo 0x40000107).cls = .acc ∧ (demo.targetOf (xlatIn demo 0x40000107) 0x40000107).pa / 64 =
        (demo.targetOf (xlatIn demo 0x40000107) 0x40000108).pa / 64 ∧ (xlatIn demo 0x40000107).vbase ≤ 0x40000107) ∧
    (acrossPages.xlate acrossPages.self.who 0xBFFFFFFC .load = .ok (xlatIn acrossPages 0xBFFFFFFC) ∧
      (xlatIn acrossPages 0xBFFFFFFC).covers 1 0xC0000000 = false ∧
      acrossPages.xlate acrossPages.self.who 0xC0000000 .load = .ok (xlatIn acrossPages 0xC0000000) ∧
      (xlatIn acrossPages 0xC0000000).cls = .unt) ∧
    (acrossEnd.xlate acrossEnd.self.who 0xFFFFFFFC .load = .ok (xlatIn acrossEnd 0xFFFFFFFC) ∧
      (xlatIn acrossEnd 0xFFFFFFFC).covers 1 0x100000000 = false ∧
      acrossEnd.xlate acrossEnd.self.who 0x100000000 .load = .error (failIn acrossEnd 0x100000000)) := by
  (repeat' apply And.intro) <;> first | decide +kernel | exact ok_of (by decide +kernel) | exact error_of (by decide +kernel)

/-- Core 1's caddy, as others name it (R49). -/
def farCaddy : Word := BitVec.ofNat 64 (0x1FF * 2 ^ 48 + 2 ^ 18 + 0x40)
def farTarget : Target := ⟨caddyKey 1 0x40, .caddy, 1⟩
def acquiringLoad : PendLoad := { pending with acq := some 3 }
/-- The load of an LD.ACQ is answered, on a core with a line that it does not own. -/
def acquiring : State :=
  ((waiting (.loadReply 0 5 0 [0xFE, 0xFF])).modSelf fun x => { x with loads := [acquiringLoad], hold := some (.acq 5) }).modCore 0 fun k =>
    { k with l1 := [{ line := 9, ctx := 1, owned := false, bytes := [] }] }
/-- Ordered accesses to memory, atomics that leave for memory and for another core's caddy, and the reply of an LD.ACQ. -/
theorem test_meets_ordered_accesses_that_leave :
    (Plain (addressed 0x100) 4 ∧ InMemory (addressed 0x100) 0x100 8 .load (target 256) ∧ InMemory (addressed 0x100) 0x100 8 .store (target 256) ∧
      Released (addressed 0x100) 3 ∧ Guard (addressed 0x100) 0 ∧ (addressed 0x100).ownCaddy (target 256) = false ∧
      (addressed 0x100).locate (addressed 0x100).self.who 0x100 8 .atomic = .ok (target 256)) ∧
    (Plain (addressed farCaddy) 4 ∧ Released (addressed farCaddy) 3 ∧ (addressed farCaddy).ownCaddy farTarget = false ∧
      (addressed farCaddy).locate (addressed farCaddy).self.who farCaddy 4 .atomic = .ok farTarget ∧ farCaddy.toNat % 4 = 0) ∧
    ((acquiring.threads.find 0).isSome = true ∧ (acquiring.thread 0).park = none ∧ (acquiring.thread 0).imagePa = none ∧
      (acquiring.thread 0).hold = some (.acq 5) ∧ (acquiring.thread 0).loads.find? (·.id == 5) = some acquiringLoad ∧ acquiringLoad.left = 1 ∧
      acquiringLoad.dest = .g 3 2 true ∧ acquiringLoad.acq = some 3 ∧ acquiringLoad.held = none ∧
      acquiring.net[0]? = some (.loadReply 0 5 0 [0xFE, 0xFF])) := by
  (repeat' apply And.intro) <;> first | decide +kernel | exact ok_of (by decide +kernel)

/-- A full return store, which a call spills to an address. -/
def fullStore (rsp : Word) : State := demoT fun x => { x with ras := [1, 2, 3, 4, 5, 6, 7, 8], rsp := rsp, rspb := rsp }
/-- A thread that waits for the address that its RET pops. -/
def popping (ra : Word) : State :=
  { demoT (fun x => { x with
      rsp := 0x108, rspb := 0x100, hold := some (.load 5)
      loads := [{ id := 5, dest := .ret, buf := List.replicate 8 0, left := 1, words := 0 }] }) with net := [.loadReply 0 5 0 (leBytes 8 ra.toNat)] }
/-- Calls that spill to memory and to the own caddy, transfers to addresses that no PC holds, and a popped address that is good or not. -/
theorem test_meets_spills_and_pops :
    (InMemory (fullStore 0x40) 0x40 8 .store (target 64) ∧ OwnCaddy (fullStore (own 0x40)) (own 0x40) 8 .store caddyTarget ∧
      (fullStore 0x40).self.sstep = false ∧ (fullStore 0x40).self.st < 63 ∧ GoodPc ((fullStore 0x40).g 2 + 2)) ∧
    (¬ GoodPc (BitVec.ofInt 64 (w28.self.pc.toNat + 2 * (-5 : BitVec 25).toInt)) ∧
      (demoT fun x => { x with ras := [8, 7] }).self.ras = [8] ++ [7] ∧ ¬ GoodPc 7) ∧
    (((popping 0x2000).threads.find 0).isSome = true ∧ ((popping 0x2000).thread 0).hold = some (.load 5) ∧
      ((popping 0x2000).thread 0).park = none ∧ ((popping 0x2000).thread 0).imagePa = none ∧ ((popping 0x2000).thread 0).sstep = false ∧
      (popping 0x2000).net[0]? = some (.loadReply 0 5 0 (leBytes 8 (BitVec.toNat (w := 64) 0x2000))) ∧
      BitVec.ofNat 64 (leNat (leBytes 8 (BitVec.toNat (w := 64) 0x2000))) = (0x2000 : Word)) ∧
    (((popping 0x2001).threads.find 0).isSome = true ∧ ((popping 0x2001).thread 0).hold = some (.load 5) ∧
      ((popping 0x2001).thread 0).park = none ∧ ((popping 0x2001).thread 0).imagePa = none ∧ ((popping 0x2001).thread 0).sstep = false ∧
      (popping 0x2001).net[0]? = some (.loadReply 0 5 0 (leBytes 8 (BitVec.toNat (w := 64) 0x2001))) ∧
      BitVec.ofNat 64 (leNat (leBytes 8 (BitVec.toNat (w := 64) 0x2001))) = (0x2001 : Word)) ∧
    (GoodPc 0x2000 ∧ ¬ GoodPc 0x2001) := by
  (repeat' apply And.intro) <;> first | decide +kernel | exact ok_of (by decide +kernel)

/-- Thread 0 at a level, with a value in g4. -/
def levelled (l v : Word) : State := (demoT fun x => { x with status := l }).modSelf (·.setG 4 v)
/-- Thread 0 runs on a service core as a thread of that core itself. -/
def nativeDrv : State := (levelled 1 0).modSelf fun x => { x with osThread := true, place := .service 3 }
/-- A breakpoint that HYP takes, of a thread or of a steep, and vectors that no PC can hold. -/
def toHyp (status : Word) (place : Place) : State :=
  (demoT fun x => { x with status := status, place := place }).modPart 0 fun p => { p with tdeleg := p.tdeleg.set 0 16, tvec := p.tvec.set 0 0x700 }
def badVector : State := demoT fun x => { x with tvec := x.tvec.set 0 0x501, tdeleg := x.tdeleg.set 0 16 }
def badLast : State := demo.modPart 0 fun p => { p with tvec := p.tvec.set 1 0x501 }
/-- Trap registers and windows by level; a trap to HYP from a compute core; a bad vector below MON and at MON. -/
theorem test_meets_levels_and_vectors :
    (3 ≤ (levelled 3 0).self.pl ∧ ((levelled 3 0).g 4) &&& 0x7FFFFFE00000F000 = 0 ∧ ((levelled 3 0x1000).g 4) &&& 0x7FFFFFE00000F000 ≠ 0 ∧
      2 ^ 48 ≤ ((levelled 3 (1 <<< 48)).g 4).toNat ∧ Plain (levelled 3 0) 4) ∧
    (1 ≤ (levelled 1 0).self.pl ∧ (levelled 1 0).self.onService = none ∧ (levelled 1 0xFFF).g 4 &&& 0x7FFFFFFFF000F000 = 0 ∧
      (levelled 1 0x1000).g 4 &&& 0x7FFFFFFFF000F000 ≠ 0 ∧ (levelled 1 0x3FFFF).g 4 &&& 0xFFFFFFFFE0FC0000 = 0 ∧
      (levelled 1 0x40000).g 4 &&& 0xFFFFFFFFE0FC0000 ≠ 0) ∧
    (nativeDrv.self.onService.isSome = true ∧ nativeDrv.self.osThread = true ∧ 1 ≤ nativeDrv.self.pl) ∧
    (∀ s ∈ [toHyp 1 (.slot 0), toHyp 17 (.slot 60)], (s.thread 0).pl ≠ 3 ∧ ((s.thread 0).frame 3).act = false ∧ (s.thread 0).pl ≤ 2 ∧
      ((s.thread 0).frame 2).act = false ∧ (s.tdelegOf (s.thread 0) 2).getLsbD breakpoint.cause = true ∧
      (s.tdelegOf (s.thread 0) 1).getLsbD breakpoint.cause = false ∧ GoodPc (s.tvecOf (s.thread 0) 2) ∧ (s.thread 0).onService = none) ∧
    ((toHyp 17 (.slot 60)).thread 0).steep = true ∧
    (((badVector.thread 0).frame 0).act = false ∧ (badVector.tdelegOf (badVector.thread 0) 0).getLsbD breakpoint.cause = true ∧
      ¬ GoodPc (badVector.tvecOf (badVector.thread 0) 0)) ∧
    ((∀ k < 3, (badLast.tdelegOf (badLast.thread 0) k).getLsbD breakpoint.cause = false) ∧ ¬ GoodPc (badLast.tvecOf (badLast.thread 0) 3) ∧
      (badLast.ctxOf (badLast.thread 0).ctx).halt = none) := by
  (repeat' apply And.intro) <;> decide +kernel

/-- A translation of the context is in use by an access on its way. -/
def inUse : State := withNet (atLevel 1) [.load acc0]
/-- Ties in binary16: 1 + 2^-11 lies between 0x3C00 and 0x3C01. -/
theorem test_meets_ties_and_waiting_invalidations :
    (inUse.xlatedOut (· == inUse.self.ctx) .ctx 0 = true ∧ Plain inUse 4 ∧ Released inUse 3 ∧ inUse.self.pl = 1) ∧
    ((fmtF16.round .rne false (.fin false 2049 (-11))).1 = 0x3C00 ∧ (fmtF16.round .rna false (.fin false 2049 (-11))).1 = 0x3C01 ∧
      (fmtF16.round .rne false (.fin false 2051 (-11))).1 = 0x3C02 ∧ (fmtF16.round .rna false (.fin true 2051 (-11))).1 = 0xBC02) := by
  (repeat' apply And.intro) <;> decide +kernel

/-- Packed registers at addresses that are not multiples of 16, and blocks of VQNT and VDEQ in memory, of eight bits and of an MX format. -/
theorem test_meets_vector_memory :
    (Plain (eight 2 [(2, own 0x48)]) 4 ∧ OwnCaddyAt (eight 2 [(2, own 0x48)]) (own 0x48) 16 (caddyKey 0 0x48) ∧ (own 0x48).toNat % 16 ≠ 0) ∧
    (InMemoryAs (eight 2 [(2, 0x48)]) 0x48 16 16 .load (unitsOf (eight 2 [(2, 0x48)]) .load 0x48 16 16) ∧
      InMemoryAs (eight 2 [(2, 0x48)]) 0x48 16 16 .store (unitsOf (eight 2 [(2, 0x48)]) .store 0x48 16 16) ∧
      countOf (unitsOf (eight 2 [(2, 0x48)]) .store 0x48 16 16) = 2) ∧
    (InMemoryAs (eight 2 [(2, 0x103), (3, 0x205)]) 0x103 32 8 .store (unitsOf (eight 2 [(2, 0x103), (3, 0x205)]) .store 0x103 32 8) ∧
      InMemoryAs (eight 2 [(2, 0x103), (3, 0x205)]) 0x205 1 8 .store (unitsOf (eight 2 [(2, 0x103), (3, 0x205)]) .store 0x205 1 8) ∧
      InMemoryAs (eight 2 [(2, 0x103), (3, 0x205)]) 0x103 32 8 .load (unitsOf (eight 2 [(2, 0x103), (3, 0x205)]) .load 0x103 32 8) ∧
      InMemoryAs (eight 2 [(2, 0x103), (3, 0x205)]) 0x205 1 8 .load (unitsOf (eight 2 [(2, 0x103), (3, 0x205)]) .load 0x205 1 8) ∧
      blockBytes 12 = 32 ∧ wellFormed (.vdeq 0 0 2 3 0) = true ∧ wellFormed (.vdeq 0 3 2 0 8) = true) := by
  (repeat' apply And.intro) <;> first | decide +kernel | exact ok_of (by decide +kernel)

/-- Tags that VDOT, VQNT, VIMAC, VCVT and the whole-register forms refuse. -/
def tagged (a b d : BitVec 4) : State := demoT fun x => ((x.setV 1 0 a).setV 2 0 b).setV 3 0 d
/-- Tags that those forms do not take. -/
theorem test_meets_refused_tags :
    ((tagged 10 10 9).tag 1 = 10 ∧ (tagged 10 10 9).tag 2 = 10 ∧ (tagged 10 10 9).tag 3 ≠ 8) ∧
    ((tagged 3 3 9).tag 1 = 3 ∧ (tagged 3 3 9).tag 2 = 3 ∧ (tagged 3 3 9).tag 3 ≠ 2) ∧ ((tagged 5 6 9).tag 1 = 5 ∧ (tagged 5 6 9).tag 2 = 6) ∧
    ((tagged 0 0 0).tag 1 = 0 ∧ (tagged 9 9 8).tag 3 ≠ (tagged 9 9 8).tag 1) ∧
    (tagLanes ((tagged 2 0 3).tag 1) < tagLanes 11 ∧ (tagged 2 0 3).tag 3 ≠ 11 ∧ (tagged 2 0 3).tag 3 ≠ 0) ∧
    (((tagged 0 0 0).modSelf fun x => (x.setV 0 0 2).setV 1 0 3).tag 0 = 2 ∧ ((tagged 0 0 0).modSelf fun x => (x.setV 0 0 2).setV 1 0 3).tag (0 + 1) ≠ 2) := by
  (repeat' apply And.intro) <;> decide +kernel

/-- A member that has issued already; commands of two steeps; and a full run of them. -/
def group2b : Convene := { group2 with issued := 1 }
def steepCmd (c : Nat) (slot : Nat) : Cmd := { command with slot := some slot, cycle := c }
def manySteeps (run : Nat) : State := withEngine group3 fun e => { e with steepQ := [steepCmd 7 61, steepCmd 7 60, steepCmd 9 60], run := run }
/-- A member waits at its command, and steeps by age and slot. -/
theorem test_meets_waiting_commands :
    ((inGroup goodWords group2b).convAt (cnvPlace (inGroup goodWords group2b).self.cnv).1 1 (cnvPlace (inGroup goodWords group2b).self.cnv).2.1 =
        some (0, group2b) ∧ group2b.pending.isSome = true ∧ group2b.issued.getLsbD (cnvPlace (inGroup goodWords group2b).self.cnv).2.2 = true) ∧
    (∀ run ∈ [15, 16], (manySteeps run).engineStopped 0 = false ∧ ((manySteeps run).coreAt 0).engine.holder = none ∧
      steepCmd 7 60 ∈ ((manySteeps run).coreAt 0).engine.steepQ ∧ Sound (manySteeps run) ∧
      (∀ m ∈ ((manySteeps run).coreAt 0).engine.steepQ, m ≠ steepCmd 7 60 → 7 < m.cycle ∨ (7 = m.cycle ∧ 60 < m.slot.getD 64))) ∧
    ((manySteeps 16).nextReady 0 ((manySteeps 16).coreAt 0).engine.last = some 0) := by
  (repeat' apply And.intro) <;> decide +kernel

/-- A partial whose successor is parked; one refused while its context is switched out, with room in the retry area; rows of DRAIN in every kind of
format, with and without the clear. -/
def successor : RedLine := { partialLine true 1 with groups := [8] }
def parkedNext : State := { w80 with parks := [successor] }
def refusedOut : State := { w83.modCore 0 (fun k => { k with ctxs := [] }) with
  parts := [(0, { demoPart with active := Tab.set (Tab.set demoPart.active 0x10030 0x70000) 0x10038 128 })] }
def heldOut : State := { ((refusedOut.meetErrors 9 0 0 2 1 5).sliceRead 0 0x40000040 64 1 5).modCore 0
  (fun q => { q with retry := q.retry ++ [{ partialLine true 5 with slot := 0 }] }) with net := [] }
def draining (f : BitVec 5) (clr : Bool) : State :=
  withNet demo [.drainRow ([accLine] ++ if isMxCode f.toNat then [{ accLine with pa := 0x40000080 }] else []) f clr
    [access .trk 0x100 (drainRowBytes f.toNat)] (if isMxCode f.toNat then [access .trk 0x200 1] else [])]
/-- Every clause about parked, refused and drained lines has its state. -/
theorem test_meets_parked_and_drained :
    (successor ∈ parkedNext.parks ∧ (partialLine true 0).key = parkedNext.keyOf (partialLine true 0).pa ∧ successor.pa = (partialLine true 0).pa ∧
      successor.key = (partialLine true 0).key + 1 ∧ successor.words.length = 16 ∧ ∀ q ∈ parkedNext.parks, q ≠ successor → q.pa ≠ 0x40000040) ∧
    (refusedOut.retrySlot 1 = 0 ∧ 0 < refusedOut.retryPlaces 1 ∧ (1 : CtxId) ∉ (refusedOut.coreAt 0).ctxs ∧
      heldOut.retryAt { partialLine true 5 with slot := 0 } = some 0x70000) ∧
    (∀ f ∈ [(2 : BitVec 5), 4, 12, 18], ∀ clr ∈ [false, true], (draining f clr).ready 0 = true ∧ Sound (draining f clr) ∧ (draining f clr).parks = []) ∧
    Sound w86 ∧ Sound w87 ∧ Sound w88 := by
  (repeat' apply And.intro) <;> decide +kernel

/-- A copy with the object at 0x100 bound to it, in a channel; the object's first word. -/
def boundCopy (m : Word) (done : Nat) : Copy := { aCopy m done with word := 0x40000105 }
def bound (m : Word) (done : Nat) (w0 : Word) : State := (copying (boundCopy m done)).putWord (caddyKey 0 0x100) w0
/-- Copies from memory to the caddy and back, one translation serving their whole region. -/
def memCopy (load : Bool) : Copy := { aCopy 0x100003 0 with load := load }
def copyPage (load : Bool) : Xlat := match (copying (memCopy load)).xlate (memCopy load).who 0x100003 (if load then .load else .copy) with
  | .ok y => y
  | .error _ => xlatOf 0 .load
def toNowhere : Copy := { boundCopy 0x9000000000 0 with load := false }
def failHere : Fail := match (bound 0x9000000000 0 0).xlate (boundCopy 0x9000000000 0).who 0x9000000000 .load with
  | .ok _ => unmapped
  | .error f => f
/-- Every clause about memory and bound copies has its state. -/
theorem test_meets_memory_and_bound_copies :
    (∀ l ∈ [true, false], Sound (copying (memCopy l)) ∧ Memory.wf (copying (memCopy l)).mem = true ∧ (copying (memCopy l)).net = [] ∧
      (copying (memCopy l)).primary 1 0 = true ∧ NoConvene ((copying (memCopy l)).coreAt 0) ∧ (memCopy l).buf = [] ∧ (memCopy l).pages = [] ∧
      (copyPage l).cls = .trk ∧ ∀ i < 64, isCaddy ((memCopy l).mem + BitVec.ofNat 64 i) = false ∧ (copyPage l).covers 1 ((memCopy l).mem + BitVec.ofNat 64 i) = true ∧
        isHbm ((copying (memCopy l)).targetOf (copyPage l) ((memCopy l).mem + BitVec.ofNat 64 i)).pa = true) ∧
    (∀ i < 64, (copying (memCopy true)).xlate (memCopy true).who ((memCopy true).mem + BitVec.ofNat 64 i) .load = .ok (copyPage true)) ∧
    (∀ i < 64, (copying (memCopy false)).xlate (memCopy false).who ((memCopy false).mem + BitVec.ofNat 64 i) .copy = .ok (copyPage false)) ∧
    (cwBind (boundCopy 0x2000 0).word = true ∧ NoConvene ((bound 0x9000000000 0 3).coreAt 0) ∧ ((bound 0x9000000000 0 3).bar 1 0 0x100).fault = false ∧
      (∀ e ∈ (bound 0x9000000000 0 3).threads, ∀ ga par, e.2.park ≠ some (.barrier (caddyKey 0 0x100) ga par)) ∧
      (bound 0x9000000000 0 3).xlate (boundCopy 0x9000000000 0).who 0x9000000000 .load = .error failHere ∧ Running (bound 0x9000000000 0 3) 0) ∧
    (((bound 0x2000 64 0x000100000003).bar 1 0 0x100).xfer = 1 ∧ ((bound 0x2000 64 0x000200000003).bar 1 0 0x100).xfer = 2 ∧
      ((bound 0x2000 64 0x000000000003).bar 1 0 0x100).xfer < 1 ∧ ((bound 0x2000 64 0x800000000003).bar 1 0 0x100).xfer = -32768 ∧
      ((bound 0x2000 64 0x2000000000003).bar 1 0 0x100).fault = true ∧ ((bound 0x2000 64 0x000100000003).bar 1 0 0x100).pend = 0 ∧
      (bound 0x2000 64 3).copyHeld (boundCopy 0x2000 64) = false) ∧
    ((((bound 0x2000 0 3).coreAt 0).chan 1).copies.filter (·.thread == 0) = [boundCopy 0x2000 0] ∧ (boundCopy 0x2000 0).ctx = (bound 0x2000 0 3).self.ctx) := by
  (repeat' apply And.intro) <;>
    first | exact no_barrier (by decide +kernel) | decide +kernel | exact error_of (by decide +kernel) |
      (intro i hi; interval_cases i <;> exact ok_of (by decide +kernel))

/-- The two cores are of two clusters. -/
def demoFar : State := { demoG [(1, farCaddy), (2, 1)] with parts := [(0, { demoPart with active := Tab.set demoPart.active 0x10100 0x100 })] }
/-- Arrivals with copies outstanding, with more done than declared, and that are one too many; objects that were never initialised, stand askew, or
belong to another core; a steep that would wait. -/
theorem test_meets_barrier_faults :
    (((barrier 0x0000000500010003 1).bar 1 0 0x100).pend = 1 ∧ ((barrier 0x0000000500010003 1).bar 1 0 0x100).xfer = 5) ∧
    (((barrier 0x0000FFFD00010003 1).bar 1 0 0x100).xfer + 1 < 0 ∧ ((barrier 0x0000FFFD00010003 1).bar 1 0 0x100).fault = false) ∧
    (32767 < ((barrier 0x00007FFF00020003 1).bar 1 0 0x100).xfer + 1) ∧ (((barrier 0 1).bar 1 0 0x100).count = 0) ∧
    (32767 < ((barrier 3 0x8000).g 2).toNat) ∧ ((barrier 3 1).modSelf fun x => { x with status := 16 }).self.steep = true ∧
    (isCaddy ((addressed 0x100).g 2) = false) ∧
    ((demoG [(1, own 0x108)]).caddyPlace demo.self.who (own 0x108) 16 = .ok (0, 0x108) ∧ 0x108 % 16 ≠ 0) ∧
    (demoFar.caddyPlace demo.self.who farCaddy 16 = .ok (1, 0x40) ∧ (1 : Coord) ≠ demo.self.core ∧
      demoFar.clusterOf 1 0 ≠ demoFar.clusterOf 1 1) := by
  (repeat' apply And.intro) <;> first | decide +kernel | exact ok_of (by decide +kernel)

/-- An arrival at a POD barrier of a viral device, and one of a peer's when such an arrival is held; an event signalled by a thread whose context has
left the core. -/
def viralArrive : State := { gbars {} 5 with viral := { on := true } }
def heldArrival : State := { gbars { arrived := 2 } 5 with viral := { on := true, arrivals := [(1, 5)] } }
def signalOut : State := (demoG [(1, 5)]).modCore 0 fun k => { k with ctxs := [] }
/-- The states meet what the clauses about held arrivals and absent contexts ask. -/
theorem test_meets_held_arrivals :
    (viralArrive.viral.on = true ∧ Released viralArrive 4 ∧ viralArrive.gbarCount 1 4 5 ≠ 0) ∧
    (heldArrival.viral.arrivals ≠ [] ∧ heldArrival.gbarCount 1 4 5 ≠ 0) ∧
    (signalOut.self.ctx ∉ (signalOut.coreAt signalOut.self.core).ctxs ∧ (signalOut.slotOf signalOut.self.ctx).isSome = true ∧ signalOut.self.loads = [] ∧
      signalOut.self.st = 0) := by
  (repeat' apply And.intro) <;> decide +kernel

/-- A send found at issue; a thread on its way to a service core with an image; one on its way back while its core's other contexts come and go; a
second gone send, older than the first; a message that its sender released. -/
def found : State := (sender 0 0x20000).modSelf fun x => { x with stalled := true, parkedAt := 5, found := some { since := 5, rank := 0, record := Vector.replicate 8 1 } }
def imaged : State := { (demoT fun x => { x with image := 0x100004000 }).putWord 0x3020 0x45D with net := [.move 0 0 (some 3) true] }
def goneBefore : Pend := { cause := 27, val := 9, since := 0, seq := 7 }
def goneAgain : State := { sending (.sendReply (message true) 2) with threads := (sending (.sendReply (message true) 2)).threads.map fun e => (e.1, { e.2 with msgGone := some goneBefore }) }
def releasedEntry : Entry := { entry 0 0x1370000 with scope := 3 }
/-- The states meet what the clauses about sends and arrivals ask. -/
theorem test_meets_sends_and_arrivals :
    (found.self.foundNow ≠ none ∧ Plain found 4) ∧
    (imaged.imagePlace (imaged.thread 0) = some 0x4000 ∧ (imaged.thread 0).st = 0 ∧ imaged.net[0]? = some (.move 0 0 (some 3) true)) ∧
    (w119.net[0]? = some (.move 0 0 none true) ∧ (w119.thread 0).ctx ∈ (w119.coreAt 0).ctxs ∧ w119.halted 1 = false ∧ w119.switching 1 0 false = false) ∧
    ((goneAgain.thread 0).msgGone = some goneBefore ∧ goneAgain.net[0]? = some (.sendReply (message true) 2) ∧ Running goneAgain 0 ∧
      (message true).seq < goneBefore.seq) ∧
    (releasedEntry.hdr.getLsbD 20 = true ∧ releasedEntry.scope ≠ 0) := by
  (repeat' apply And.intro) <;> decide +kernel

/-- A link that the device lacks; a sleeping partition that a host's access wakes, as a rank table waits to be read; a snoop of a line that a core
owns. -/
def asleepDev : State := { demo.modPart 0 fun b => { b with asleep := true } with
  ctxs := [(1, { ranksOwed := true })], parts := [(0, { demoPart with asleep := true, active := Tab.set demoPart.active 0x18 2 })] }
def snooped : State := { demo with hostLines := [0x4000000000], regions := [{ base := 0x4000000000, lg := 0, core := 0, since := 0 }] }
/-- The states meet what the clauses about links, hosts and snoops ask. -/
theorem test_meets_outside :
    (linkExists .host 4 = false ∧ linkExists .host 3 = true ∧ linkExists .pod 23 = true ∧ linkExists .pod 24 = false) ∧
    (asleepDev.awake = true ∧ asleepDev.ownerOf 0x100 = some 0 ∧ asleepDev.boundTo 0 2 = true ∧ (asleepDev.part 0).asleep = true ∧ asleepDev.viral.on = false) ∧
    (0x4000000000 ∈ snooped.hostLines ∧ snooped.viral.on = false ∧ snooped.lineOwner 0x4000000000 = some 0) ∧
    (∀ e ∈ (demo.part 0).slots, (demo.ctxOf (BitVec.ofNat 16 (Word.field e.2 0 16))).ranksOwed = false) := by
  (repeat' apply And.intro) <;> decide +kernel

/-! ## Words written out from the spec's encodings

Each word is its fields from bit 31, or bit 15, down to bit 0, as the table 32-bit formats (R54), the compact formats (R60) and the entry's
minor code give them. -/

/-- Major 0x01 to 0x06: F-R, F-I and the forms of the integer chapter (R101 to R113). -/
theorem test_decode_integer :
    decode (.word (3#4 ++ 0#6 ++ 5#5 ++ 7#5 ++ 9#5 ++ 0x01#6 ++ 1#1)) = some (.add 3 9 7 5) ∧
    decode (.word (0x803#12 ++ 0#3 ++ 5#5 ++ 7#5 ++ 0x02#6 ++ 1#1)) = some (.addi 7 5 0x803) ∧
    decode (.word (3#12 ++ 0#1 ++ 1#2 ++ 7#5 ++ 9#5 ++ 0x03#6 ++ 1#1)) = some (.movh 9 7 3 1) ∧
    decode (.word (0#4 ++ 3#3 ++ 5#5 ++ 0#3 ++ 7#5 ++ 0#2 ++ 1#3 ++ 0x04#6 ++ 1#1)) = some (.cmp 1 7 5 3) ∧
    decode (.word (3#4 ++ 0#6 ++ 5#5 ++ 7#5 ++ 9#5 ++ 0x05#6 ++ 1#1)) = some (.bfx 3 9 7 5) ∧
    decode (.word (3#4 ++ 0#6 ++ 5#5 ++ 7#5 ++ 9#5 ++ 0x06#6 ++ 1#1)) = some (.mul 3 9 7 5) := by decide

/-- Majors 0x08 to 0x0A: control transfers (R271). -/
theorem test_decode_control :
    decode (.word (3#20 ++ 0#1 ++ 1#1 ++ 7#3 ++ 0x08#6 ++ 1#1)) = some (.brp 7 3 1) ∧
    decode (.word (0x1000003#25 ++ 0x09#6 ++ 1#1)) = some (.jal 0x1000003) ∧
    decode (.word (3#12 ++ 0#3 ++ 5#5 ++ 0#5 ++ 0x0A#6 ++ 1#1)) = some (.jalr 5 3) := by decide

/-- Majors 0x0C to 0x0F: loads, stores, ordered accesses and atomics (R207 to R220). -/
theorem test_decode_memory :
    decode (.word (3#12 ++ 0#3 ++ 5#5 ++ 7#5 ++ 0x0C#6 ++ 1#1)) = some (.ldB 7 5 3) ∧
    decode (.word (3#12 ++ 0#3 ++ 5#5 ++ 7#5 ++ 0x0D#6 ++ 1#1)) = some (.stB 7 5 3) ∧
    decode (.word (0#6 ++ 1#1 ++ 2#2 ++ 5#3 ++ 0#3 ++ 9#5 ++ 11#5 ++ 0x0E#6 ++ 1#1)) = some (.ldAcq 11 9 1 2 5) ∧
    decode (.word (3#4 ++ 1#2 ++ 9#4 ++ 7#5 ++ 9#5 ++ 11#5 ++ 0x0F#6 ++ 1#1)) = some (.amoCas 3 11 9 7 1) := by decide

/-- Majors 0x10 to 0x15: packed vectors (R117 to R136). -/
theorem test_decode_vectors :
    decode (.word (3#8 ++ 5#4 ++ 0#3 ++ 7#5 ++ 0#1 ++ 9#4 ++ 0x10#6 ++ 1#1)) = some (.vld 9 7 3 5) ∧
    decode (.word (3#4 ++ 16#7 ++ 5#4 ++ 0#1 ++ 7#4 ++ 0#1 ++ 9#4 ++ 0x11#6 ++ 1#1)) = some (.vfma 3 9 7 5) ∧
    decode (.word (3#4 ++ 0#12 ++ 5#4 ++ 0#1 ++ 7#4 ++ 0x12#6 ++ 1#1)) = some (.vabs 3 7 5) ∧
    decode (.word (3#4 ++ 6#7 ++ 5#4 ++ 0#1 ++ 7#4 ++ 0#1 ++ 9#4 ++ 0x13#6 ++ 1#1)) = some (.vimac 3 9 7 5) ∧
    decode (.word (3#4 ++ 0#2 ++ 5#4 ++ 0#1 ++ 1#1 ++ 3#3 ++ 0#1 ++ 11#4 ++ 0#1 ++ 13#4 ++ 0x14#6 ++ 1#1)) = some (.vcvt 3 13 11 5 1 3) ∧
    decode (.word (3#4 ++ 1#2 ++ 5#4 ++ 7#5 ++ 0#1 ++ 1#1 ++ 0#3 ++ 11#5 ++ 0x14#6 ++ 1#1)) = some (.vqnt 3 11 1 7 5) ∧
    decode (.word (3#4 ++ 0#2 ++ 5#4 ++ 0#5 ++ 7#5 ++ 0#1 ++ 9#4 ++ 0x15#6 ++ 1#1)) = some (.vsplat 3 9 7 5) := by decide

/-- Majors 0x18 to 0x1E: matrices, accumulation, copies, barriers and groups (R144, R174 to R180, R229, R236, R243, R155). -/
theorem test_decode_engines :
    decode (.word (0#15 ++ 3#5 ++ 5#5 ++ 0x19#6 ++ 1#1)) = some (.accInit 5 3) ∧
    decode (.word (1#1 ++ 13#5 ++ 0#4 ++ 5#5 ++ 6#5 ++ 9#5 ++ 0x19#6 ++ 1#1)) = some (.drain 9 6 5 13) ∧
    decode (.word (32#10 ++ 3#5 ++ 0#1 ++ 1#2 ++ 0#2 ++ 7#5 ++ 0x19#6 ++ 1#1)) = some (.redV 7 1 3) ∧
    decode (.word (3#12 ++ 0#3 ++ 5#5 ++ 0#1 ++ 7#4 ++ 0x1A#6 ++ 1#1)) = some (.tmld 5 3 7) ∧
    decode (.word (0#6 ++ 3#4 ++ 5#5 ++ 7#5 ++ 9#5 ++ 0x1C#6 ++ 1#1)) = some (.cpyTLd 9 7 5 3) ∧
    decode (.word (0#5 ++ 3#4 ++ 5#4 ++ 7#4 ++ 9#4 ++ 11#4 ++ 0x1D#6 ++ 1#1)) = some (.waitc 3 5 7 9 11) ∧
    decode (.word (40#7 ++ 3#3 ++ 0#2 ++ 5#3 ++ 7#5 ++ 9#5 ++ 0x1D#6 ++ 1#1)) = some (.gbarTry 9 7 5 3) ∧
    decode (.word (3#4 ++ 1#3 ++ 5#3 ++ 7#5 ++ 9#5 ++ 11#5 ++ 0x1E#6 ++ 1#1)) = some (.cnvTry 3 11 9 7 5) := by decide

/-- Majors 0x20, 0x21, 0x24 and 0x30: threads, messages, rings and the system (R282, R288, R315, R376, R380). -/
theorem test_decode_system :
    decode (.word (3#4 ++ 1#3 ++ 5#3 ++ 7#5 ++ 9#5 ++ 11#5 ++ 0x20#6 ++ 1#1)) = some (.spawnTry 3 11 9 7 5) ∧
    decode (.word (3#4 ++ 1#3 ++ 5#3 ++ 7#5 ++ 9#5 ++ 11#5 ++ 0x21#6 ++ 1#1)) = some (.msgTry 3 11 9 7 5) ∧
    decode (.word (3#4 ++ 1#3 ++ 5#3 ++ 7#5 ++ 9#5 ++ 11#5 ++ 0x24#6 ++ 1#1)) = some (.ringTry 3 11 9 7 5) ∧
    decode (.word (0#3 ++ 0x123#12 ++ 0#5 ++ 5#5 ++ 0x30#6 ++ 1#1)) = some (.mfsr 5 0x123) ∧
    decode (.word (1#3 ++ 0x123#12 ++ 5#5 ++ 0#5 ++ 0x30#6 ++ 1#1)) = some (.mtsr 5 0x123) ∧
    decode (.word (4#3 ++ 0#12 ++ 9#5 ++ 0#5 ++ 0x30#6 ++ 1#1)) = some (.tlbinvVa 9 0) := by decide

/-- The compact words (R60 to R62). -/
theorem test_decode_compact :
    decode (.half (0#1 ++ 3#5 ++ 5#5 ++ 1#4 ++ 0#1)) = some (.cMov 5 3) ∧
    decode (.half (1#1 ++ 5#5 ++ 7#5 ++ 10#4 ++ 0#1)) = some (.cLd 7 5 1) ∧
    decode (.half (0x403#11 ++ 12#4 ++ 0#1)) = some (.cBr 0x403) ∧
    decode (.half (3#6 ++ 5#5 ++ 9#4 ++ 0#1)) = some (.cShli 5 3) := by decide

/-- Words that stand for nothing: the guard 0b1000 (R56), a reserved bit (R57), a major without a format, a scope above SYS (R27). -/
theorem test_decode_refuses :
    decode (.word (8#4 ++ 0#6 ++ 5#5 ++ 7#5 ++ 9#5 ++ 0x01#6 ++ 1#1)) = none ∧
    decode (.word (0#3 ++ 0x123#12 ++ 1#5 ++ 5#5 ++ 0x30#6 ++ 1#1)) = none ∧
    decode (.word (0#25 ++ 0x3F#6 ++ 1#1)) = none ∧
    decode (.word (0#6 ++ 1#1 ++ 2#2 ++ 6#3 ++ 0#3 ++ 9#5 ++ 11#5 ++ 0x0E#6 ++ 1#1)) = none := by decide

/-- Every check of WellFormed refuses an ill-formed term: the guard; ADDPC's minor code, the conditions, BR p0 negated, LOOP's empty body;
scopes, LD.ACQ.D unsigned, tags, saturation, formats and their register rules, barrier scopes, register windows. -/
theorem test_ill_formed_terms_are_refused :
    ([.add 8 1 2 3, .addpc 1 0 4, .cmp 1 2 3 6, .cmpi 1 2 0 0, .brp 0 4 1, .loop 1 0, .ldAcq 1 2 0 3 6, .ldAcq 1 2 1 3 0, .stRel 1 2 3 6,
      .fenceAr 7, .vld 1 2 3 12, .vcvt 0 1 2 0 0 0, .vcvt 0 1 2 7 1 0, .vqnt 0 1 0 2 9, .vqnt 0 1 0 2 6, .vdeq 0 1 2 3 0, .vdeq 0 2 2 3 6,
      .vsplat 0 1 2 12, .drain 1 2 3 3, .drain 1 3 3 12, .gbarArr 1 2 1, .gbarWait 1 2 5, .msgPop 0 0 1, .msgPop 0 5 6] : List Instr).all
      (fun i => !wellFormed i) = true := by decide

/-! ## Single instructions -/

/-- ADD wraps; a write to g0 is discarded; 0 − 1 is all ones (R101, R35). -/
theorem test_add_wraps :
    after (exec (.add 0 1 2 3) (demoG [(2, -1), (3, 2)])) (fun t => t.g 1 == 1 && t.self.pc == 0x10004) = true ∧
    after (exec (.sub 0 0 2 3) (demoG [(3, 1)])) (fun t => t.g 0 == 0) = true := by decide +kernel
/-- SRA of a negative number by 63, and a rotation by 8 (R101). -/
theorem test_shifts :
    after (exec (.sra 0 1 2 3) (demoG [(2, 0x8000000000000000), (3, 63)])) (fun t => t.g 1 == -1) = true ∧
    after (exec (.rot 0 1 2 3) (demoG [(2, 0x0123456789ABCDEF), (3, 8)])) (fun t => t.g 1 == 0x23456789ABCDEF01) = true := by decide +kernel
/-- A source that is the destination, and MINN by magnitude (R101). -/
theorem test_minn : after (exec (.minn 0 2 2 3) (demoG [(2, -1), (3, 5)])) (fun t => t.g 2 == 5) = true := by decide +kernel
/-- Division by zero and the one overflow (R113). -/
theorem test_div_corners :
    after (exec (.div 0 1 2 3) (demoG [(2, 7)])) (fun t => t.g 1 == -1) = true ∧
    after (exec (.rem 0 1 2 3) (demoG [(2, 0x8000000000000000), (3, -1)])) (fun t => t.g 1 == 0) = true := by decide +kernel
/-- MULH of two negative numbers (R113): the product of −2^63 by itself is 2^126. -/
theorem test_mulh : after (exec (.mulh 0 1 2 2) (demoG [(2, 0x8000000000000000)])) (fun t => t.g 1 == 0x4000000000000000) = true := by decide +kernel
/-- MOVH keeps the 12 low bits and puts the sign-extended immediate above them (R104). -/
theorem test_movh : after (exec (.movh 1 2 0xFFF 0) (demoG [(2, 0x5ABC)])) (fun t => t.g 1 == 0xFFFFFFFFFFFFFABC) = true := by decide +kernel
/-- CMPI's minor 5 is the unsigned comparison: 5 is below −1 read as unsigned (R107). -/
theorem test_cmpi_unsigned : after (exec (.cmpi 3 7 0xFFF 5) (demoG [(7, 5)])) (fun t => t.self.getP 3) = true := by decide +kernel
/-- BFX sign-extends the field 0xB of bits [15:12]; BFI keeps what is around it (R110). -/
theorem test_bit_fields :
    after (exec (.bfx 0 1 2 3) (demoG [(2, 0xB700), (3, 0x040C)])) (fun t => t.g 1 == 0xFFFFFFFFFFFFFFFB) = true ∧
    after (exec (.bfi 0 1 2 3) (demoG [(1, -1), (2, 0), (3, 0x0408)])) (fun t => t.g 1 == 0xFFFFFFFFFFFFF0FF) = true := by decide +kernel
/-- CLZ of 1 is 63 and BREV exchanges bits 0 and 63 (R111). -/
theorem test_counts :
    after (exec (.clz 0 1 2) (demoG [(2, 1)])) (fun t => t.g 1 == 63) = true ∧
    after (exec (.brev 0 1 2) (demoG [(2, 1)])) (fun t => t.g 1 == 0x8000000000000000) = true := by decide +kernel
/-- A branch back by 4 halfwords, and one that is not taken because p0 is true (R271). -/
theorem test_branches :
    after (exec (.brp 0 (-4) 0) demo) (fun t => t.self.pc == 0xFFF8) = true ∧
    after (exec (.brp 1 (-4) 0) demo) (fun t => t.self.pc == 0x10004) = true := by decide +kernel
/-- A call pushes the address after it and a return goes there (R47, R271). -/
theorem test_call_and_return :
    after (exec (.jal 0x80) demo) (fun t => t.self.pc == 0x10100 && t.self.ras == [0x10004]) = true ∧
    after (exec .ret (demoT fun x => { x with ras := [0x20, 0x40] })) (fun t => t.self.pc == 0x40 && t.self.ras == [0x20]) = true := by decide +kernel
/-- LD.B sign-extends the byte 0x80; ST.W stores the low four bytes, the lowest first (R185, R207, R208). -/
theorem test_bytes :
    after (exec (.ldB 1 2 0) ((demoG [(2, own 0x40)]).putBytes (caddyKey 0 0x40) [(0x80 : Byte)])) (fun t => t.g 1 == 0xFFFFFFFFFFFFFF80) = true ∧
    after (exec (.stW 1 2 0) (demoG [(2, own 0x40), (1, 0x1122334455667788)]))
      (fun t => t.bytes (caddyKey 0 0x40) 5 == [0x88, 0x77, 0x66, 0x55, 0]) = true := by decide +kernel
/-- A misaligned LD.ACQ raises MISALIGN: MON's frame is the first that takes it (R212, R373). -/
theorem test_misalign :
    after (exec (.ldAcq 1 2 0 3 0) (demoG [(2, own 0x41)])) (fun t => (t.self.frame 3).cause.toNat % 256 == 7 && t.self.pl == 3) = true := by
  decide +kernel
/-- AMO.MAXN on the own caddy gives the old word and keeps the larger (R219). -/
theorem test_amo :
    after (exec (.amoMaxn 0 1 2 3 0) ((demoG [(2, own 0x40), (3, -1)]).putWord (caddyKey 0 0x40) 9))
      (fun t => t.g 1 == 9 && t.word (caddyKey 0 0x40) == -1) = true := by decide +kernel
/-- The trap of an MFSR of a DRV register at USER is PRIV, at the instruction (R40, R376). -/
theorem test_privilege :
    after (exec (.mfsr 1 0x110) demo) (fun t => (t.self.frame 3).cause.toNat % 256 == 2 && (t.self.frame 3).epc == 0x10000) = true := by decide +kernel
/-- TRAP resumes after itself, BKPT at itself (R377). -/
theorem test_trap_bkpt :
    after (exec (.trap 9) demo) (fun t => (t.self.frame 3).epc == 0x10004 && (t.self.frame 3).val == 9) = true ∧
    after (exec (.bkpt 9) demo) (fun t => (t.self.frame 3).epc == 0x10000) = true := by decide +kernel
/-- binary32: 1.5 + 2.25 is 3.75, and 3 × −0.5 is −1.5, lane by lane (R120). -/
theorem test_vadd_vmul :
    after (exec (.vadd 0 3 1 2) (inVec 2 0x3FC00000 0x40100000 0)) (fun t => lane (t.v 3) 32 0 == 0x40700000) = true ∧
    after (exec (.vmul 0 3 1 2) (inVec 2 0x40400000 0xBF000000 0)) (fun t => lane (t.v 3) 32 0 == 0xBFC00000) = true := by decide +kernel
/-- One division by zero gives infinity and sets DZ; 0/0 gives the default NaN and sets NV (R81, R85, R120). -/
theorem test_vdiv :
    after (exec (.vdiv 0 3 1 2) (inVec 2 0x3F800000 0 0)) (fun t => lane (t.v 3) 32 0 == 0x7F800000 && lane (t.v 3) 32 1 == 0x7FC00000) = true := by
  decide +kernel
/-- A saturating 8-bit sum of 0x7F and 1 is 0x7F, a wrapping one is 0x80 (R128). -/
theorem test_saturation :
    after (exec (.viaddS 0 3 1 2) (inVec 10 0x7F 1 0)) (fun t => lane (t.v 3) 8 0 == 0x7F) = true ∧
    after (exec (.viadd 0 3 1 2) (inVec 10 0x7F 1 0)) (fun t => lane (t.v 3) 8 0 == 0x80) = true := by decide +kernel
/-- binary32 to binary16: 1.0 is 0x3C00, and 65536 overflows to infinity (R131). -/
theorem test_vcvt :
    after (exec (.vcvt 0 3 1 3 0 0) ((inVec 2 0x47800000_3F800000 0 0).modSelf (·.setV 3 0 3))) (fun t => lane (t.v 3) 16 0 == 0x3C00 && lane (t.v 3) 16 1 == 0x7C00) = true := by
  decide +kernel
/-- A wrong tag raises BADTAG with the tag wanted (R91, R115). -/
theorem test_badtag :
    after (exec (.vadd 0 3 1 4) (inVec 3 1 1 0)) (fun t => (t.self.frame 3).cause.toNat % 256 == 16 && (t.self.frame 3).val == 3) = true := by
  decide +kernel
/-- BAR.INIT and the one arrival of a barrier of one (R235, R236). -/
theorem test_barrier :
    after (exec (.barArr 4 1) (barrier 0x00010001 0)) (fun t => t.g 4 == 0 && (t.bar 1 0 0x100).phase && (t.bar 1 0 0x100).pend == 1) = true := by
  decide +kernel
/-- EV.SIG sets a flag that EV.TRY takes (R242). -/
theorem test_events :
    after (exec (.evSig 1) (demoG [(1, 5)])) (fun t => ((t.coreAt 0).flags 1).getLsbD 5) = true ∧
    after (exec (.evTry 1 2) (demoG [(1, 5)])) (fun t => !t.self.getP 2) = true := by decide +kernel
/-- A service core runs a thread of its own at the level that it is loaded with (R25). -/
theorem test_native :
    after (step (State.placeNative { placed with threads := [], cores := [] } 3 2 1 0x10000)) (fun t =>
      (t.thread 0).pc == 0x10004 && (t.thread 0).onService == some 3 && (t.thread 0).pl == 2) = true := by decide +kernel
/-- The device steps from reset, where it has nothing to do but start (R4, R367). -/
theorem test_step_of_reset : (nextOf (step State.reset)).isSome = true := by decide +kernel


/-! ### Witnesses of further clauses -/

/-- A load that a caddy may refuse holds its thread's instruction until it is answered; an acquiring load holds later ones. -/
def heldLoad : PendLoad := { pending with held := some 4 }
def holdingLoad (l : PendLoad) (h : Hold) (p : Packet) : State :=
  { demoT (fun x => { x with loads := [l], ld := 1, pendG := 8, hold := some h }) with net := [p] }
def w160 : State := holdingLoad heldLoad (.load 5) (.loadRefused 0 5 14 0x999)
def w161 : State := holdingLoad heldLoad (.load 5) (.loadReply 0 5 0 [0xFE, 0xFF])
def w162 : State := holdingLoad { pending with acq := some 3 } (.acq 5) (.loadReply 0 5 0 [0xFE, 0xFF])
/-- The clauses of RepliesReachTheThread about loads that hold their instruction, or later ones, have states that meet their hypotheses. -/
theorem test_meets_RepliesReachTheThread_held :
    ((Tab.find w160.threads 0).isSome ∧ (w160.thread 0).park = none ∧ (w160.thread 0).imagePa = none ∧ (w160.thread 0).hold = some (.load 5) ∧
      (w160.thread 0).loads.find? (·.id == 5) = some heldLoad ∧ heldLoad.held = some 4 ∧ w160.net[0]? = some (.loadRefused 0 5 14 0x999)) ∧
    ((w161.thread 0).hold = some (.load 5) ∧ (w161.thread 0).loads.find? (·.id == 5) = some heldLoad ∧
      w161.net[0]? = some (.loadReply 0 5 0 [0xFE, 0xFF]) ∧ heldLoad.left = 1 ∧ heldLoad.dest = .g 3 2 true ∧ (w161.thread 0).sstep = false ∧
      ¬ ((w161.thread 0).pc.setWidth 64 + BitVec.ofNat 64 4 = (w161.thread 0).lend &&& 0xFFFFFFFFFFFE ∧
        Word.field (w161.thread 0).lend 48 2 = (w161.thread 0).pl ∧ (w161.thread 0).lc ≠ 0)) ∧
    ((w162.thread 0).park = none ∧ (w162.thread 0).imagePa = none ∧ (w162.thread 0).hold = some (.acq 5) ∧
      (w162.thread 0).loads.find? (·.id == 5) = some { pending with acq := some 3 } ∧ w162.net[0]? = some (.loadReply 0 5 0 [0xFE, 0xFF])) := by
  (repeat' apply And.intro) <;> decide +kernel

/-- DRV threads whose context is not the primary one of their core, its caddy switched out or not, and one of the service core itself. -/
def secondary (saved : List CtxId) (f : Thread → Thread) : State :=
  (demoC fun k => { k with primary := none, savedCaddy := saved }).modSelf fun x => f { x with status := 1 }
/-- The clauses of SpecialRegisters about windows and reserved bits have states and operands that meet their hypotheses. -/
theorem test_meets_SpecialRegisters_more :
    (let s := secondary [1] id
     Plain s 4 ∧ 7 < 8 ∧ 1 ≤ s.self.pl ∧ s.self.osThread = false ∧ s.primary s.self.ctx s.self.core = false ∧
      s.myCore.savedCaddy.contains s.self.ctx = true ∧ s.regions = [] ∧ Sound s) ∧
    (let s := secondary [] id
     Plain s 4 ∧ s.self.osThread = false ∧ s.primary s.self.ctx s.self.core = false ∧ s.myCore.savedCaddy.contains s.self.ctx = false) ∧
    (let s := secondary [] fun x => { x with osThread := true }
     Plain s 4 ∧ s.self.osThread = true) ∧
    (let s := (demoT fun x => { x with status := 1 }).modSelf (·.setG 4 0x4000000000000)
     s.g 4 &&& 0xFFFFFFFFFFFFFE08 ≠ 0 ∧ 2 ^ 32 ≤ (s.g 4).toNat ∧ 2 ^ 48 ≤ (s.g 4).toNat ∧ 2 ^ 50 ≤ (s.g 4).toNat ∧ 1 ≤ s.self.pl ∧ 2 ^ 5 ≤ (s.g 4).toNat ∧
      s.g 4 &&& 0x7FFFFFFFF000F000 ≠ 0 ∧ s.g 4 &&& 0xFFFFFFFFE0FC0000 ≠ 0 ∧ s.g 4 &&& 0x7FFFFFE00000F000 ≠ 0) ∧
    (4 < ((demoG [(4, 5)]).g 4).toNat % 8) ∧ (4 < ((demoG [(4, 7)]).g 4).toNat % 8) := by
  (repeat' apply And.intro) <;> decide +kernel

/-- Thread 0 at a level, in a place, with a used frame there. -/
def framed (l : BitVec 64) (p : Place) (f : Frame) : State :=
  demoT fun x => { x with status := l, place := p, frames := x.frames.setIfInBounds (l.toNat % 4) f }
/-- A frame whose return is trapped, and one whose PC is odd. -/
def trappedFrame : Frame := { usedFrame with cause := 0x8000000001000004 }
def oddFrame : Frame := { usedFrame with epc := 0x401 }
abbrev Restores (s : State) (f : Frame) : Prop :=
  s.self.frame s.self.pl = f ∧ f.act = true ∧ f.stat.toNat < 2 ^ 5 ∧ Word.field f.stat 0 2 ≤ s.self.pl ∧ f.stat.getLsbD 3 = s.self.conv ∧
    f.stat.getLsbD 4 = s.self.steep
/-- The clauses of TrapReturn about moves, TPEND, SSTEP, an unused frame and a PC that no PC can hold have states that meet their hypotheses. -/
theorem test_meets_TrapReturn_more :
    (let s := framed 2 (.service 3) usedFrame
     Restores s usedFrame ∧ GoodPc usedFrame.epc ∧ usedFrame.cause.getLsbD 24 = false ∧ s.self.sstep = false ∧ s.self.onService.isSome = true ∧
      s.self.osThread = false ∧ Word.field usedFrame.stat 0 2 < 2) ∧
    (let s := framed 3 (.slot 0) { usedFrame with stat := 2 }
     Restores s { usedFrame with stat := 2 } ∧ s.self.onService = none ∧ s.self.place ≠ .moving ∧ Word.field (2 : Word) 0 2 = 2) ∧
    (let s := framed 1 (.slot 0) trappedFrame
     Restores s trappedFrame ∧ trappedFrame.cause.getLsbD 24 = true) ∧
    (let s := framed 5 (.slot 0) usedFrame
     Restores s usedFrame ∧ s.self.sstep = true) ∧
    (let s := (framed 1 (.slot 0) freeFrame).modSelf fun x => { x with tvec := x.tvec.set 1 0x500 }
     s.self.frame s.self.pl = freeFrame ∧ freeFrame.act = false ∧ s.self.pl ≠ 0 ∧ s.self.pl ≠ 3 ∧ (s.self.frame 3).act = false ∧
      GoodPc (s.tvecOf s.self s.self.pl)) ∧
    (let s := (framed 1 (.slot 0) freeFrame).modSelf fun x => { x with tvec := x.tvec.set 1 0x501 }
     s.self.frame s.self.pl = freeFrame ∧ ¬ GoodPc (s.tvecOf s.self s.self.pl)) ∧
    (let s := framed 3 (.slot 0) freeFrame
     s.self.frame s.self.pl = freeFrame ∧ s.self.pl = 3 ∧ (s.ctxOf s.self.ctx).halt = none) ∧
    (let s := framed 1 (.slot 0) oddFrame
     Restores s oddFrame ∧ ¬ GoodPc oddFrame.epc) := by
  (repeat' apply And.intro) <;> decide +kernel

/-- Where a statement asks that no soft error stands, none does in its states. -/
theorem test_meets_sound :
    Sound missing ∧ Sound w63 ∧ Sound w74 ∧ Sound w87 ∧ Sound w88 ∧ Sound w89 ∧ Sound w86 ∧ Sound w93 ∧ Sound w94 ∧ Sound w108 ∧ Sound runningRing ∧
      missing.regions = [] := by
  (repeat' apply And.intro) <;> decide +kernel

/-- The partial that follows a parked one's key; a context with a place in its retry area that is away from the core. -/
def w163 : State := { w80 with parks := [partialLine true 1] }
def w164 : State := { w83 with cores := [] }
/-- The clauses of TheInfusersAccumulate about parked successors and held lines of a context that is away have states that meet their hypotheses. -/
theorem test_meets_TheInfusersAccumulate_more :
    (w163.net[0]? = some (.red (partialLine true 0)) ∧ w163.redWaits 0 (.red (partialLine true 0)) = false ∧ partialLine true 1 ∈ w163.parks ∧
      (partialLine true 0).key = w163.keyOf (partialLine true 0).pa ∧ (partialLine true 1).key = (partialLine true 0).key + 1 ∧
      (partialLine true 1).words.length = 16 ∧ (∀ q ∈ w163.parks, q ≠ partialLine true 1 → q.pa ≠ (partialLine true 0).pa) ∧ Sound w163 ∧
      w163.halted (partialLine true 1).ctx = false) ∧
    (w164.redWaits 0 (.red (partialLine true 5)) = false ∧ w164.retrySlot 1 < w164.retryPlaces 1 ∧ (1 : CtxId) ∉ (w164.coreAt 0).ctxs ∧ Sound w164 ∧
      w164.regions = [] ∧ w164.retryAt (partialLine true 5) = some 0) ∧
    w81.redWaits 0 (.red (partialLine true 1)) = false ∧ w82.redWaits 0 (.red (partialLine false 0)) = false ∧
    w83.redWaits 0 (.red (partialLine true 5)) = false ∧ (1 : CtxId) ∈ (w83.coreAt 0).ctxs := by
  (repeat' apply And.intro) <;> decide +kernel
/-- A device with an image place for its thread and a core save area for its context. -/
def saving (caddy : List CtxId) (prim : Option CtxId) : State :=
  let area := [(0x8, 1), (0x10000, 0x400001), (0x10008, 0x1000), (0x10020, 0x100000), (0x10028, 0x50000)]
  let s := (demoT fun x => { x with image := 0x100004000 }).putWord 0x3020 0x45D
  (s.modPart 0 fun b => { b with active := area }).modCore 0 fun k => { k with primary := prim, savedCaddy := caddy }
/-- The first entry of the roster of core 0. -/
def savedRow : Nat := 0x100000 + 0x40400
/-- The device after a save: the header, the event flags and one roster entry in memory, and the thread stopped. -/
def resuming (caddy : List CtxId) : State :=
  let s := (saving caddy none).modCore 0 fun k => { k with ctxs := [], slots := [] }
  let words := [(0x100000, 1), (0x100010, 1), (0x1000C0, 5), (savedRow, 0x100004000), (savedRow + 8, 3)]
  (words.foldl (fun s e => s.putWord e.1 e.2) s).modThread 0 fun x => { x with place := .saved, imagePa := some 0x4000, rosterPa := some savedRow }
/-- The roster line of the thread. -/
def rowOf : RosterLine := { thread := 0, parked := false, away := false }
abbrev Standing (s : State) : Prop := Sound s ∧ s.regions = [] ∧ Memory.wf s.mem = true ∧ (∀ r ∈ (s.coreAt 0).retry, r.ctx ≠ (1 : CtxId))
/-- The clauses of ContextsHaltSwitchAndGo about what a save holds and what a switch-in brings back have states that meet their hypotheses. -/
theorem test_meets_ContextsHaltSwitchAndGo_saves :
    (let s := saving [] (some 1)
     (s.slotOf 1).map (·.1) = some (0 : BitVec 6).toNat ∧ (1 : CtxId) ∈ (s.coreAt 0).ctxs ∧ (s.ctxOf 1).halt = none ∧ s.net = [] ∧
      s.mayLeave 1 0 = true ∧ Standing s ∧ s.saveArea 1 0 = 0x100000 ∧ s.rosterOf 1 0 = [rowOf] ∧ (s.coreAt 0).convene = Vector.replicate 8 none ∧
      s.primary 1 0 = true ∧ (s.thread 0).place ≠ .saved ∧ s.imagePlace (s.thread 0) = some 0x4000) ∧
    (let s := resuming [1]
     (s.slotOf 1).map (·.1) = some (0 : BitVec 6).toNat ∧ (1 : CtxId) ∉ (s.coreAt 0).ctxs ∧ (s.ctxOf 1).halt = none ∧ (s.ctxOf 1).gone = false ∧
      s.coreIn (0 : BitVec 6).toNat 0 = true ∧ (s.coreAt 0).powerGated = false ∧ s.awake = true ∧ (s.coreAt 0).ctxs.length < 4 ∧ Standing s ∧
      s.saveArea 1 0 = 0x100000 ∧ (s.coreAt 0).primary = none ∧ (1 : CtxId) ∈ (s.coreAt 0).savedCaddy ∧ (s.word 0x100000).getLsbD 0 = true ∧
      (s.coreAt 0).flags 1 = 0 ∧ s.word 0x100010 = 1 ∧ 0x40440 ≤ (s.ctxField 1 0x28).toNat ∧ (s.thread 0).place = .saved ∧ (s.thread 0).ctx = 1 ∧
      (s.thread 0).image = s.word savedRow ∧
      (∀ e ∈ s.threads, e.2.ctx = 1 → e.2.place = .saved → e.2.image = s.word savedRow → e.1 = 0) ∧
      (s.thread 0).imagePa = some 0x4000 ∧ s.badStatus 0 = none) ∧
    (let s := resuming []
     (1 : CtxId) ∉ (s.coreAt 0).ctxs ∧ Standing s ∧ (s.coreAt 0).primary = none ∧ (1 : CtxId) ∉ (s.coreAt 0).savedCaddy) := by
  (repeat' apply And.intro) <;> first | decide +kernel | rfl

/-- A unit with an error that can be corrected, and one with an error that cannot, which a scrub finds. -/
def w165 : State := { stillDown with softUnits := [unitAt 4 0 0x48] }
def w166 : State := { demo with badUnits := [unitAt 4 0 0x48] }
/-- The clauses of LinkFailuresAndScrubbing about errors that stand have states that meet their hypotheses. -/
theorem test_meets_LinkFailuresAndScrubbing_more :
    (unitAt 4 0 0x48 ∉ demo.softUnits ∧ unitAt 4 0 0x48 ∉ demo.badUnits) ∧
    (unitAt 4 0 0x4F ∈ w165.softUnits ∧ unitAt 4 0 0x4F ∉ w165.badUnits ∧
      Tab.get w165.errCounts 0 (counterKey (errUnit 0) 4) ≠ BitVec.allOnes 32 ∧ Tab.get w165.errCounts 0 (counterKey (errUnit 0) 1) = BitVec.allOnes 32) ∧
    (unitAt 4 0 0x48 ∈ w166.badUnits ∧ unitAt 4 0 0x48 ∉ w166.softUnits) := by
  (repeat' apply And.intro) <;> decide +kernel

/-- DBG.PART of partition 0, DBG.FULL in MANUFACTURE, and a stopped thread whose image is in memory. -/
def partDebug : State := { demo with sec := { demo.sec with lifecycle := 1, debugState := 1 } }
def fullDebug : State := { demo with sec := { demo.sec with debugState := 2 } }
def stoppedThread : State := partDebug.modThread 0 fun x => { x with place := .saved, imagePa := some 0x4000 }
def gatedCore : State := partDebug.modCore 1 fun k => { k with powerGated := true }
def debugWho : Who := { ctx := 1, core := hwUnit, svc := true, pl := 2 }
/-- The clauses of SecurityEngine about debug requests and tokens have states that meet their hypotheses. -/
theorem test_meets_SecurityEngine_more :
    ((partDebug.threads.find 0).isSome = true ∧ partDebug.awake = true ∧ partDebug.partOfThread 0 = some 0 ∧ partDebug.debugged 0 = true ∧
      0x210 % 8 = 0 ∧ 0x210 < 1024 ∧ (partDebug.thread 0).imagePa = none ∧ (partDebug.thread 0).park ≠ some .inbox) ∧
    ((stoppedThread.thread 0).imagePa = some 0x4000 ∧ Sound stoppedThread ∧ stoppedThread.partOfThread 0 = some 0 ∧ stoppedThread.debugged 0 = true) ∧
    (partDebug.partOfCore 0 = some 0 ∧ coreExists 0 = true ∧ 0x3FFF8 % 8 = 0 ∧ 0x3FFF8 < 2 ^ 18 ∧ (partDebug.coreAt 0).powerGated = false ∧
      Sound partDebug ∧ NoConvene (partDebug.coreAt 0)) ∧
    (gatedCore.partOfCore 1 = some 0 ∧ gatedCore.debugged 0 = true ∧ gatedCore.awake = true ∧ (gatedCore.coreAt 1).powerGated = true) ∧
    ((partDebug.slotOf 1).map (·.1) = some 0 ∧ isCaddy 0x100 = false ∧ (0x100 : Word).toNat % 8 = 0 ∧
      partDebug.translate debugWho 0x100 .load = .ok (target 0x100) ∧ partDebug.translate debugWho 0x100 .store = .ok (target 0x100)) ∧
    (demo.sec.debugState ≠ 2 ∧ demo.debugged 0 = false ∧ (∀ p, (demo.slotOf 1).map (·.1) = some p → p = 0)) ∧
    (fullDebug.sec.debugState = 2 ∧ fullDebug.sec.recovery = false ∧ isHbm (0x108 : BitVec 52).toNat = true ∧ fullDebug.awake = true ∧
      isHbm (0x10000001000 : BitVec 52).toNat = false ∧ cfgPlace (0x10000001000 : BitVec 52).toNat ≠ .reserved) ∧
    (demo.sec.lifecycle ≠ 1 ∧ demo.awake = true ∧ partDebug.sec.lifecycle = 1) ∧
    (w154.heard w154.source = true ∧ w154.sec.session = some 4 ∧ w154.sec.sessionOpen = true ∧ w154.sec.recovery = false ∧ w154.sec.tokens = [] ∧
      tokByte [1, 0, 0] 1 = 0 ∧ w154.sec.debugState = 1 ∧ w154.sec.dpart.toNat = tokByte [1, 0, 0] 2 ∧ w154.resetting = false) ∧
    (tokByte [1, 2, 0] 1 = 2 ∧ tokByte [1, 3, 0] 1 = 3 ∧ w154.sec.debugState ≠ 2 ∧ w154.sec.lifecycle = 1 ∧ ¬ (w153.sec.debugState = 1)) := by
  (repeat' apply And.intro) <;> decide +kernel

end Sys2Proof.Tests
end

section
/-!
PROOFS. What leaves memory alone: for each operation of the model that changes no byte, its memory after it is its memory before it. These
lemmas continue Laws/Frames.
-/

namespace Sys2Proof.Machine

/-- A step that a condition chooses, and that changes no byte either way. -/
theorem mem_ite {c : Prop} [Decidable c] {s t : State} {m : List Host.Cell} (hs : s.mem = m) (ht : t.mem = m) :
    (if c then s else t).mem = m := by split <;> assumption

/-! ### Waiting and jumping -/

@[simp] theorem State.setFound_mem (s : State) (f : Found) : (s.setFound f).mem = s.mem := rfl
@[simp] theorem State.keepFound_mem (s : State) (f : Found) : (s.keepFound f).mem = s.mem := by
  unfold State.keepFound
  split <;> simp
@[simp] theorem State.jumpFor_mem (s : State) (t : Nat) (target : BitVec 48) : (s.jumpFor t target).mem = s.mem := by
  unfold State.jumpFor
  dsimp only
  repeat' split
  all_goals simp

/-! ### Soft errors -/

@[simp] theorem State.spoil_mem (s : State) (row : Nat) (unit : Coord) (loc : Nat) : (s.spoil row unit loc).mem = s.mem := by
  unfold State.spoil
  dsimp only
  repeat' split
  all_goals simp
@[simp] theorem State.strike_mem (s : State) (x : Strike) : (s.strike x).mem = s.mem := by
  unfold State.strike
  repeat' split
  all_goals simp
@[simp] theorem State.landStrikes_mem (s : State) : (s.landStrikes).mem = s.mem := by simp [State.landStrikes, foldl_mem]

/-! ### Caches, slices and homes -/

@[simp] theorem State.writeBack_mem (s : State) (line : Nat) : (s.writeBack line).mem = s.mem := rfl
@[simp] theorem State.l2Bring_mem (s : State) (home : Coord) (pa : Nat) (ctx : Option CtxId) : (s.l2Bring home pa ctx).mem = s.mem := by
  simp [State.l2Bring, State.slices_mem]
@[simp] theorem State.sliceRead_mem (s : State) (home : Coord) (pa n : Nat) (ctx : CtxId) (kind : Nat) :
    (s.sliceRead home pa n ctx kind).mem = s.mem := by
  simp [State.sliceRead]
@[simp] theorem State.sliceWrite_mem (s : State) (home : Coord) (pa n : Nat) (ctx : CtxId) (kind : Nat) :
    (s.sliceWrite home pa n ctx kind).mem = s.mem := by
  simp [State.sliceWrite]
@[simp] theorem State.l2Gone_mem (s : State) (line : Nat) : (s.l2Gone line).mem = s.mem := rfl
@[simp] theorem State.l2Clean_mem (s : State) (home : Coord) (line : Nat) : (s.l2Clean home line).mem = s.mem := by
  simp [State.l2Clean, State.slices_mem, apply_ite State.mem]
@[simp] theorem State.grantLine_mem (s : State) (line : Nat) (c : Coord) (ctx : Option CtxId) : (s.grantLine line c ctx).mem = s.mem := by
  unfold State.grantLine
  split <;> simp
@[simp] theorem State.l1Put_mem (s : State) (c : Coord) (l : L1Line) : (s.l1Put c l).mem = s.mem := by
  simp [State.l1Put, foldl_mem, apply_ite State.mem]
@[simp] theorem State.dropCopies_mem (s : State) (c : Coord) (line : Nat) : (s.dropCopies c line).mem = s.mem := by
  unfold State.dropCopies
  split <;> simp
@[simp] theorem State.readRecord_mem (s : State) (ctx : CtxId) (pa n : Nat) : (s.readRecord ctx pa n).mem = s.mem := by simp [State.readRecord]
@[simp] theorem State.readLine_mem (s : State) (a : Access) : (s.readLine a).2.mem = s.mem := by
  unfold State.readLine
  repeat' split
  all_goals simp
@[simp] theorem State.newId_mem (s : State) : (s.newId).2.mem = s.mem := rfl
@[simp] theorem State.newGroup_mem (s : State) (ctr : Ctr) (threads : List Nat) (left : Nat) : (s.newGroup ctr threads left).2.mem = s.mem := rfl
@[simp] theorem State.meetCaddy_mem (s : State) (ctx : CtxId) (c : Coord) (off n kind : Nat) : (s.meetCaddy ctx c off n kind).mem = s.mem := by
  unfold State.meetCaddy
  split <;> simp
@[simp] theorem State.refuseCfg_mem (s : State) (p : Nat) : (s.refuseCfg p).mem = s.mem := rfl
@[simp] theorem State.cfgMisuse_mem (s : State) (pa : Nat) : (s.cfgMisuse pa).mem = s.mem := by
  unfold State.cfgMisuse
  split <;> simp
@[simp] theorem State.acquire_mem (s : State) (c : Coord) (scope : Nat) : (s.acquire c scope).mem = s.mem := by
  unfold State.acquire
  split <;> simp
@[simp] theorem State.acquireSelf_mem (s : State) (scope : Nat) : (s.acquireSelf scope).mem = s.mem := by simp [State.acquireSelf]
@[simp] theorem State.readEntries_mem (s : State) (q : Who) (es : List Nat) : (s.readEntries q es).mem = s.mem := by
  simp [State.readEntries, foldl_mem, State.slices_mem, apply_ite State.mem]
@[simp] theorem State.walkTouch_mem (s : State) (q : Who) (va : Word) : (s.walkTouch q va).mem = s.mem := by simp [State.walkTouch]
@[simp] theorem State.walkRange_mem (s : State) (q : Who) (r : Word × Nat) : (s.walkRange q r).mem = s.mem := by simp [State.walkRange]

/-! ### Images of threads -/

@[simp] theorem State.imageWalk_mem (s : State) (x : Thread) : (s.imageWalk x).mem = s.mem := by simp [State.imageWalk]
@[simp] theorem State.readImage_mem (s : State) (x : Thread) (a off n : Nat) : (s.readImage x a off n).mem = s.mem := by simp [State.readImage]
@[simp] theorem State.leaveRegs_mem (s : State) (t : Nat) (x : Thread) (off n : Nat) : (s.leaveRegs t x off n).mem = s.mem := by
  simp [State.leaveRegs]
@[simp] theorem State.loadImage_mem (s : State) (t : Nat) : (s.loadImage t).mem = s.mem := by
  unfold State.loadImage
  dsimp only
  repeat' split
  all_goals simp

/-! ### Issue of accesses -/

@[simp] theorem State.meetOwn_mem (s : State) (us : List Unit8) : (s.meetOwn us).mem = s.mem := by simp [State.meetOwn, foldl_mem]

/-! ### Convene objects -/

@[simp] theorem State.savedCmd_mem (s : State) (c : Coord) (g : Convene) : (s.savedCmd c g).2.mem = s.mem := by
  unfold State.savedCmd
  dsimp only
  repeat' split
  all_goals simp
@[simp] theorem State.meetGroup_mem (s : State) (c : Coord) (ctx : CtxId) (off : Nat) : (s.meetGroup c ctx off).mem = s.mem := by
  unfold State.meetGroup
  split <;> simp

/-! ### Memory instructions -/

@[simp] theorem State.dropLine_mem (s : State) (line : Nat) (c : Coord) : (s.dropLine line c).mem = s.mem := by
  unfold State.dropLine
  split <;> simp

/-! ### Reductions -/

@[simp] theorem State.setKey_mem (s : State) (pa : Nat) (k : BitVec 16) : (s.setKey pa k).mem = s.mem := rfl
@[simp] theorem State.ackRed_mem (s : State) (r : RedLine) : (s.ackRed r).mem = s.mem := rfl
@[simp] theorem State.dropParked_mem (s : State) (pa : Nat) : (s.dropParked pa).mem = s.mem := by
  unfold State.dropParked
  exact foldl_mem State.ackRed_mem _ _
@[simp] theorem State.park_mem (s : State) (r : RedLine) : (s.park r).mem = s.mem := rfl
@[simp] theorem State.readRetry_mem (s : State) (r : RedLine) : (s.readRetry r).mem = s.mem := by
  unfold State.readRetry
  split <;> simp
@[simp] theorem State.loadRetry_mem (s : State) (ctx : CtxId) (c : Coord) : (s.loadRetry ctx c).mem = s.mem := by simp [State.loadRetry, foldl_mem]
@[simp] theorem State.meetRed_mem (s : State) (p : RedLine) : (s.meetRed p).mem = s.mem := by
  unfold State.meetRed
  split <;> simp
@[simp] theorem retryResend_mem (s : State) (c : Coord) (i : Nat) : (retryResend s c i).mem = s.mem := by
  unfold retryResend
  dsimp only
  repeat' split
  all_goals simp
@[simp] theorem accLineEvict_mem (s : State) (line : Nat) : (accLineEvict s line).mem = s.mem := by
  simp [accLineEvict, State.slices_mem, apply_ite State.mem]
@[simp] theorem State.sendAck_mem (s : State) (a : Access) : (s.sendAck a).mem = s.mem := rfl
@[simp] theorem State.homeDetNext_mem (s : State) (a : Access) (place : Placement) : (s.homeDetNext a place).mem = s.mem := rfl

/-! ### Barriers and events -/

@[simp] theorem State.passWait_mem (s : State) (t scope : Nat) : (s.passWait t scope).mem = s.mem := by
  unfold State.passWait
  dsimp only
  repeat' split
  all_goals simp
@[simp] theorem State.failWait_mem (s : State) (t : Nat) (ga : Word) : (s.failWait t ga).mem = s.mem := by
  unfold State.failWait
  dsimp only
  repeat' split
  all_goals simp
@[simp] theorem State.wakeBarriers_mem (s : State) : (s.wakeBarriers).mem = s.mem := by
  unfold State.wakeBarriers
  refine foldl_mem (fun s e => ?_) _ _
  split
  · simp [apply_ite State.mem]
  · rfl
@[simp] theorem State.gbarArrive_mem (s : State) (key count : Nat) (out : Bool) : (s.gbarArrive key count out).mem = s.mem := by
  simp [State.gbarArrive, foldl_mem, apply_ite State.mem]
@[simp] theorem evTryState_mem (s : State) (a : BitVec 5) (p : BitVec 3) : (evTryState s a p).mem = s.mem := by
  unfold evTryState
  dsimp only
  repeat' split
  all_goals simp

/-! ### Copies -/

@[simp] theorem State.dropActive_mem (s : State) (c : Coord) (ch : Nat) : (s.dropActive c ch).mem = s.mem := by simp [State.dropActive]
@[simp] theorem State.hold_mem (s : State) (pa : Nat) (ctx : CtxId) (thread : Nat) (ctr : Ctr) (group : Nat) (data : List Byte) (words : Nat) :
    (s.hold pa ctx thread ctr group data words).mem = s.mem :=
  rfl
@[simp] theorem State.holdCopy_mem (s : State) (cp : Copy) (pa : Nat) (bs : List Byte) : (s.holdCopy cp pa bs).mem = s.mem := by
  unfold State.holdCopy
  repeat' split
  all_goals simp
@[simp] theorem State.copyWalk_mem (s : State) (cp : Copy) (va : Word) : (s.copyWalk cp va).mem = s.mem := by
  unfold State.copyWalk
  split <;> simp

/-! ### System registers -/

@[simp] theorem State.touchWin_mem (s : State) (w : Nat) (access : Bool) : (s.touchWin w access).mem = s.mem := by
  unfold State.touchWin
  split <;> simp
@[simp] theorem State.touchSr_mem (s : State) (r : Sr) : (s.touchSr r).mem = s.mem := by
  unfold State.touchSr
  split <;> simp
@[simp] theorem State.invalidate_mem (s : State) (k : InvKind) (target : Nat) (ga : Word) : (s.invalidate k target ga).mem = s.mem := rfl

/-! ### Partition registers and queues -/

@[simp] theorem State.placesFreed_mem (s : State) (c : Coord) (ctx : CtxId) (n : Nat) : (s.placesFreed c ctx n).mem = s.mem := by
  induction n generalizing s with
  | zero => rfl
  | succ n ih =>
    simp only [State.placesFreed]
    repeat' split
    all_goals simp [ih]

@[simp] theorem State.offerFreed_mem (s before : State) (c : Coord) : (s.offerFreed before c).mem = s.mem := by
  unfold State.offerFreed
  refine foldl_mem (fun s e => ?_) _ _
  dsimp only
  split <;> simp

@[simp] theorem State.settleInboxes_mem (s before : State) (c : Coord) : (s.settleInboxes before c).mem = s.mem := by simp [State.settleInboxes]

@[simp] theorem State.unlist_mem (s : State) (c : Coord) (ctx : CtxId) (id : Nat) : (s.unlist c ctx id).mem = s.mem := by
  unfold State.unlist
  dsimp only
  repeat' split
  all_goals simp
@[simp] theorem State.wakePoppers_mem (s : State) (c : Coord) (ctx : CtxId) : (s.wakePoppers c ctx).mem = s.mem := by
  simp [State.wakePoppers, foldl_mem]
@[simp] theorem State.moveInbox_mem (s : State) (tab : CtxId) (rank : Nat) (src : Coord) (srcCtx : CtxId) (dst : Coord) (dstCtx : CtxId) :
    (s.moveInbox tab rank src srcCtx dst dstCtx).mem = s.mem := by
  unfold State.moveInbox
  dsimp only
  split <;> simp
@[simp] theorem State.loadRank_mem (s : State) (ctx : CtxId) (rank : Nat) : (s.loadRank ctx rank).mem = s.mem := by
  unfold State.loadRank
  dsimp only
  repeat' split
  all_goals simp
@[simp] theorem State.loadRanks_mem (s : State) (ctx : CtxId) : (s.loadRanks ctx).mem = s.mem := by simp [State.loadRanks, foldl_mem]
@[simp] theorem State.readRanks_mem (s : State) (p : Nat) (ctx : CtxId) : (s.readRanks p ctx).mem = s.mem := by
  unfold State.readRanks
  split <;> simp
@[simp] theorem State.wakePart_mem (s : State) (p : Nat) : (s.wakePart p).mem = s.mem := by
  simp [State.wakePart, foldl_mem, apply_ite State.mem]
@[simp] theorem rankcmd_mem (s : State) (p slot rank : Nat) (all : Bool) : (rankcmd s p slot rank all).mem = s.mem := by
  unfold rankcmd
  dsimp only
  repeat' split
  all_goals simp
@[simp] theorem State.slotActivated_mem (s : State) (p c : Nat) (old : Nat → Word) : (s.slotActivated p c old).mem = s.mem := by
  unfold State.slotActivated
  dsimp only
  repeat' split
  all_goals simp
@[simp] theorem State.measureConfig_mem (s : State) : (s.measureConfig).mem = s.mem := rfl
@[simp] theorem State.beginCommit_mem (s : State) (p pl need : Nat) (what : Option Nat) : (s.beginCommit p pl need what).mem = s.mem := by
  unfold State.beginCommit
  split <;> simp
@[simp] theorem State.setLevel_mem (s : State) (l : BitVec 2) : (s.setLevel l).mem = s.mem := by
  unfold State.setLevel
  split <;> simp
@[simp] theorem haltreq_mem (s : State) (p : Nat) (ctx : CtxId) : (haltreq s p ctx).mem = s.mem := by
  unfold haltreq
  split <;> simp
@[simp] theorem refusalsClear_mem (s : State) (p pl : Nat) (x : Word) : (refusalsClear s p pl x).mem = s.mem := by
  unfold refusalsClear
  repeat' split
  all_goals simp
@[simp] theorem State.stage_mem (s : State) (p off : Nat) (x : Word) : (s.stage p off x).mem = s.mem := rfl
@[simp] theorem State.blockWrite_mem (s : State) (p off pl : Nat) (x : Word) : (s.blockWrite p off pl x).mem = s.mem := by
  unfold State.blockWrite
  repeat' first | with_reducible refine mem_ite ?_ ?_ | split
  all_goals simp
@[simp] theorem State.queueWrite_mem (s : State) (q off pl : Nat) (x : Word) : (s.queueWrite q off pl x).mem = s.mem := rfl

/-! ### Memory events -/

@[simp] theorem State.drop_mem (s : State) (k : Nat) : (s.drop k).mem = s.mem := rfl
@[simp] theorem State.arrive_mem (s : State) (k : Nat) (a : Access) : (s.arrive k a).mem = s.mem := by simp [State.arrive]
@[simp] theorem State.reply_mem (s : State) (a : Access) (bs : List Byte) : (s.reply a bs).mem = s.mem := rfl
@[simp] theorem State.refuseLoad_mem (s : State) (a : Access) (cause : Nat) : (s.refuseLoad a cause).mem = s.mem := rfl
@[simp] theorem State.refuseStore_mem (s : State) (a : Access) (cause : Nat) : (s.refuseStore a cause).mem = s.mem := rfl
@[simp] theorem State.outsideLine_mem (s : State) (pa n : Nat) (write : Bool) : (s.outsideLine pa n write).mem = s.mem := by
  unfold State.outsideLine
  split <;> simp
@[simp] theorem State.acquireFor_mem (s : State) (t scope : Nat) : (s.acquireFor t scope).mem = s.mem := by simp [State.acquireFor]
@[simp] theorem State.landRet_mem (s : State) (t : Nat) (ra : Word) : (s.landRet t ra).mem = s.mem := by
  unfold State.landRet
  split
  · simp
  · simp [State.issuedBefore]
@[simp] theorem regionMerge_mem (s : State) (base lg : Nat) : (regionMerge s base lg).mem = s.mem := by
  unfold regionMerge
  repeat' split
  all_goals simp
@[simp] theorem walkBegin_mem (s : State) (t : Nat) (va : Word) (k : BitVec 3) : (walkBegin s t va k).mem = s.mem := by
  unfold walkBegin
  dsimp only
  repeat' split
  all_goals simp
@[simp] theorem State.keepXlat_mem (s : State) (q : Who) (part : Nat) (va : Word) (x : Xlat) : (s.keepXlat q part va x).mem = s.mem := by
  unfold State.keepXlat
  split <;> simp
@[simp] theorem pageWalkComplete_mem (s : State) (t : Nat) (va : Word) : (pageWalkComplete s t va).mem = s.mem := by
  unfold pageWalkComplete
  dsimp only
  repeat' split
  all_goals simp

/-! ### Messages -/

@[simp] theorem State.takeEntry_mem (s : State) (c : Coord) (ctx : CtxId) (n : Nat) : (s.takeEntry c ctx n).mem = s.mem := by simp [State.takeEntry]
@[simp] theorem State.placeEntry_mem (s : State) (c : Coord) (ctx : CtxId) (id : Nat) (e : Entry) : (s.placeEntry c ctx id e).mem = s.mem := by
  unfold State.placeEntry
  dsimp only
  repeat' split
  all_goals simp
@[simp] theorem State.setPacket_mem (s : State) (k : Nat) (p : Packet) : (s.setPacket k p).mem = s.mem := rfl
@[simp] theorem State.append_mem (s : State) (m : Send) (c : Coord) (ctx : CtxId) (behind : Bool) : (s.append m c ctx behind).2.mem = s.mem := by
  unfold State.append
  dsimp only
  repeat' split
  all_goals simp
@[simp] theorem inboxAppend_mem (s : State) (k : Nat) : (inboxAppend s k).mem = s.mem := by
  unfold inboxAppend
  repeat' split
  all_goals simp
@[simp] theorem State.freeThread_mem (s : State) (t : Nat) : (s.freeThread t).mem = s.mem := by simp [State.freeThread]
@[simp] theorem sendRetry_mem (s : State) (k : Nat) : (sendRetry s k).mem = s.mem := by
  unfold sendRetry
  repeat' split
  all_goals simp
@[simp] theorem holdLapse_mem (s : State) (c : Coord) (ctx : CtxId) : (holdLapse s c ctx).mem = s.mem := by
  unfold holdLapse
  dsimp only
  repeat' split
  all_goals simp
@[simp] theorem yieldState_mem (s : State) : (yieldState s).mem = s.mem := by
  unfold yieldState
  dsimp only
  repeat' split
  all_goals simp
@[simp] theorem State.meetEntry_mem (s : State) (n : Nat) : (s.meetEntry n).mem = s.mem := by
  unfold State.meetEntry
  dsimp only
  repeat' split
  all_goals simp
@[simp] theorem State.popEntry_mem (s : State) (d b : BitVec 5) (n : Nat) (e : Entry) : (s.popEntry d b n e).mem = s.mem := by
  unfold State.popEntry
  split <;> simp

/-! ### Pours, queues and slots -/

@[simp] theorem State.queueWalk_mem (s : State) (ctx : CtxId) (va : Word) (n : Nat) : (s.queueWalk ctx va n).mem = s.mem := by
  unfold State.queueWalk
  split <;> simp
@[simp] theorem State.cleanOwned_mem (s : State) (f : Nat → Bool) : (s.cleanOwned f).mem = s.mem := by simp [State.cleanOwned, foldl_mem]
@[simp] theorem State.cleanEdges_mem (s : State) (p : Pour) : (s.cleanEdges p).mem = s.mem := by
  unfold State.cleanEdges
  dsimp only
  repeat' split
  all_goals simp
@[simp] theorem State.settleEdges_mem (s : State) : (s.settleEdges).mem = s.mem := by
  simp [State.settleEdges, foldl_mem, apply_ite State.mem]
@[simp] theorem State.acceptPacket_mem (s : State) (q : Nat) (l : Launch) : (s.acceptPacket q l).mem = s.mem := by simp [State.acceptPacket]
@[simp] theorem State.checkDeadline_mem (s : State) (p : Pour) : (s.checkDeadline p).mem = s.mem := by
  unfold State.checkDeadline
  split <;> simp
@[simp] theorem State.checkDeadlines_mem (s : State) (f : Pour → Bool) : (s.checkDeadlines f).mem = s.mem := by simp [State.checkDeadlines, foldl_mem]
@[simp] theorem State.makeThread_mem (s : State) (p : Pour) (c : Coord) : (s.makeThread p c).mem = s.mem := rfl
@[simp] theorem materialiseThread_mem (s : State) (qc : Nat) : (materialiseThread s qc).mem = s.mem := by
  unfold materialiseThread
  dsimp only
  repeat' split
  all_goals simp
@[simp] theorem State.rotateSlot_mem (s : State) (c : Coord) (n : Nat) : (s.rotateSlot c n).mem = s.mem := by
  unfold State.rotateSlot
  dsimp only
  repeat' split
  all_goals simp
@[simp] theorem rotationBoundary_mem (s : State) (c : Coord) : (rotationBoundary s c).mem = s.mem := by
  unfold rotationBoundary
  simp only [State.fillSlots_mem]
  rw [foldl_mem (by simp)]
  simp
@[simp] theorem pendingTrapDeadline_mem (s : State) (t : Nat) : (pendingTrapDeadline s t).mem = s.mem := by
  unfold pendingTrapDeadline
  dsimp only
  repeat' split
  all_goals simp

/-! ### Rings -/

@[simp] theorem State.setRing_mem (s : State) (ctx : CtxId) (r : Nat) (x : Ring) : (s.setRing ctx r x).mem = s.mem := rfl
@[simp] theorem State.setIf_mem (s : State) (c : Coord) (i : RingIf) : (s.setIf c i).mem = s.mem := rfl
@[simp] theorem State.meetLatch_mem (s : State) (c : Coord) (i : RingIf) (leaf : Bool) : (s.meetLatch c i leaf).mem = s.mem := by
  unfold State.meetLatch
  split <;> simp
@[simp] theorem State.unstop_mem (s : State) (ctx : CtxId) (r : Nat) : (s.unstop ctx r).mem = s.mem := by
  unfold State.unstop
  dsimp only
  repeat' split
  all_goals simp

/-! ### The matrix engine -/

@[simp] theorem State.meetOperands_mem (s : State) (c : Coord) (cmd : Cmd) : (s.meetOperands c cmd).mem = s.mem := by
  simp [State.meetOperands, foldl_mem, apply_ite State.mem]
@[simp] theorem State.readOperands_mem (s : State) (c : Coord) (cmd : Cmd) : (s.readOperands c cmd).mem = s.mem := by
  unfold State.readOperands
  dsimp only
  repeat' split
  all_goals simp
@[simp] theorem State.sendLines_mem (s : State) (c : Coord) (ls : List RedLine) (rest : List Cmd) : (s.sendLines c ls rest).mem = s.mem := rfl
@[simp] theorem State.runCommand_mem (s : State) (c : Coord) (cmd : Cmd) (rest : List Cmd) : (s.runCommand c cmd rest).mem = s.mem := rfl
@[simp] theorem matrixCommandComplete_mem (s : State) (c : Coord) : (matrixCommandComplete s c).mem = s.mem := by
  unfold matrixCommandComplete
  dsimp only
  repeat' split
  all_goals simp
@[simp] theorem matrixLine_mem (s : State) (c : Coord) : (matrixLine s c).mem = s.mem := by
  unfold matrixLine
  dsimp only
  repeat' split
  all_goals simp

/-! ### Halts and switches -/

@[simp] theorem State.clearSlots_mem (s : State) (ctx : CtxId) (c : Coord) : (s.clearSlots ctx c).mem = s.mem := by simp [State.clearSlots]
@[simp] theorem State.saveReads_mem (s : State) (c : Coord) : (s.saveReads c).mem = s.mem := by simp [State.saveReads]
@[simp] theorem State.switchDone_mem (s : State) (p : Nat) : (s.switchDone p).mem = s.mem := rfl
@[simp] theorem State.restart_mem (s : State) (t : Nat) (c : Coord) (row : Option Nat) : (s.restart t c row).mem = s.mem := by
  unfold State.restart
  extract_lets w due bad s1 s2 x f y s3 steep s4 n u v s5
  clear_value bad y steep f
  have h2 : s2.mem = s.mem := by
    simp only [s2, s1]
    split <;> simp
  have h4 : s4.mem = s.mem := by
    simp only [s4, s3]
    split <;> simp [h2]
  have h5 : s5.mem = s.mem := by
    simp only [s5, u, v]
    repeat' split
    all_goals simp [h4]
  split <;> simp [h5]
@[simp] theorem State.forgetOn_mem (s : State) (ctx : CtxId) (c : Coord) : (s.forgetOn ctx c).mem = s.mem := by simp [State.forgetOn]
@[simp] theorem contextTeardown_mem (s : State) (ctx : CtxId) : (contextTeardown s ctx).mem = s.mem := by
  unfold contextTeardown
  repeat' split
  all_goals simp [foldl_mem]

/-! ### Resets, links and power -/

@[simp] theorem State.linkFailed_mem (s : State) (src : Nat) (kind : LinkKind) (port : BitVec 5) (ld : BitVec 4) :
    (s.linkFailed src kind port ld).mem = s.mem := by
  unfold State.linkFailed
  split <;> simp
@[simp] theorem linkUp_mem (s : State) (kind : LinkKind) (port : BitVec 5) : (linkUp s kind port).mem = s.mem := rfl
@[simp] theorem State.answer_mem (s : State) (a : Answer) : (s.answer a).mem = s.mem := rfl
@[simp] theorem State.hostRefused_mem (s : State) (ld : Nat) (write : Bool) : (s.hostRefused ld write).mem = s.mem := rfl
@[simp] theorem podGbarArrival_mem (s : State) (ctx : CtxId) (id : Nat) : (podGbarArrival s ctx id).mem = s.mem := by
  unfold podGbarArrival
  dsimp only
  repeat' split
  all_goals simp
@[simp] theorem State.seedError_mem (s : State) (row : Nat) (unit : Coord) (loc : Nat) (a : ErrKind) : (s.seedError row unit loc a).mem = s.mem := by
  unfold State.seedError
  repeat' split
  all_goals simp
@[simp] theorem scrub_mem (s : State) (row : Nat) (unit : Coord) (loc : Nat) (err : ErrKind) : (scrub s row unit loc err).mem = s.mem := by
  unfold scrub
  split <;> simp
@[simp] theorem State.powerDone_mem (s : State) (p : Nat) : (s.powerDone p).mem = s.mem := rfl
@[simp] theorem State.disown_mem (s : State) (c : Coord) : (s.disown c).mem = s.mem := by simp [State.disown]
@[simp] theorem powerWakeCore_mem (s : State) (p : Nat) (c : Coord) : (powerWakeCore s p c).mem = s.mem := by
  unfold powerWakeCore
  repeat' split
  all_goals simp
@[simp] theorem partitionSleep_mem (s : State) (p : Nat) : (partitionSleep s p).mem = s.mem := by
  unfold partitionSleep
  repeat' split
  all_goals simp
@[simp] theorem partitionWake_mem (s : State) (p : Nat) : (partitionWake s p).mem = s.mem := by
  unfold partitionWake
  split <;> simp
@[simp] theorem d3hotEntry_mem (s : State) : (d3hotEntry s).mem = s.mem := by
  unfold d3hotEntry
  split <;> simp
@[simp] theorem coreClockGate_mem (s : State) (c : Coord) : (coreClockGate s c).mem = s.mem := by
  unfold coreClockGate
  split <;> simp
@[simp] theorem thermalThrottle_mem (s : State) : (thermalThrottle s).mem = s.mem := rfl
@[simp] theorem fullServiceStart_mem (s : State) : (fullServiceStart s).mem = s.mem := by
  unfold fullServiceStart
  split <;> simp
@[simp] theorem vfReset_mem (s : State) (vf : BitVec 9) : (vfReset s vf).mem = s.mem := rfl
@[simp] theorem State.resetDone_mem (s : State) (p : Nat) : (s.resetDone p).mem = s.mem := rfl
@[simp] theorem State.clearSlices_mem (s : State) (cs : List Coord) : (s.clearSlices cs).mem = s.mem := by
  unfold State.clearSlices
  dsimp only
  refine (foldl_mem (by simp) _ _).trans (foldl_mem (fun s l => ?_) _ _)
  split <;> simp
@[simp] theorem State.releaseGbars_mem (s : State) : (s.releaseGbars).mem = s.mem := rfl

/-! ### The secure unit -/

@[simp] theorem State.respond_mem (s : State) (src : Option Byte) (a : Answer) : (s.respond src a).mem = s.mem := by
  unfold State.respond
  split <;> simp
@[simp] theorem getCertificate_mem (s : State) (src : Option Byte) (slot : Nat) : (getCertificate s src slot).mem = s.mem := by simp [getCertificate]
@[simp] theorem challenge_mem (s : State) (src : Option Byte) (slot : Nat) (nonce : Word) : (challenge s src slot nonce).mem = s.mem := by
  simp [challenge]
@[simp] theorem getMeasurements_mem (s : State) (src : Option Byte) (i : Nat) : (getMeasurements s src i).mem = s.mem := by simp [getMeasurements]
@[simp] theorem keyExchange_mem (s : State) (src : Option Byte) (share : Word) : (keyExchange s src share).mem = s.mem := by
  unfold keyExchange
  split <;> simp
@[simp] theorem finishSession_mem (s : State) (src : Option Byte) (mac : Word) : (finishSession s src mac).mem = s.mem := by
  unfold finishSession
  repeat' split
  all_goals simp
@[simp] theorem endSession_mem (s : State) (src : Option Byte) : (endSession s src).mem = s.mem := by
  unfold endSession
  repeat' split
  all_goals simp
@[simp] theorem State.keyPart_mem (s : State) (p : Nat) : (s.keyPart p).mem = s.mem := by
  unfold State.keyPart
  split <;> simp
@[simp] theorem enterDeployed_mem (s : State) : (enterDeployed s).mem = s.mem := by
  simp [enterDeployed, foldl_mem, apply_ite State.mem]
@[simp] theorem State.wakeFor_mem (s : State) (p : Option Nat) : (s.wakeFor p).mem = s.mem := by
  unfold State.wakeFor
  split <;> simp
@[simp] theorem State.debugThread_mem (s : State) (t : Nat) (f : Thread → Thread) : (s.debugThread t f).mem = s.mem := by
  unfold State.debugThread
  split <;> simp
@[simp] theorem State.debugHaltContext_mem (s : State) (ctx : CtxId) : (s.debugHaltContext ctx).mem = s.mem := by
  unfold State.debugHaltContext
  split <;> simp

/-! ### Fetch and issue -/

@[simp] theorem State.walkFor_mem (s : State) (i : Instr) : (s.walkFor i).mem = s.mem := by simp [State.walkFor]
@[simp] theorem State.meetObject_mem (s : State) (i : Instr) : (s.meetObject i).mem = s.mem := by
  unfold State.meetObject
  repeat' split
  all_goals simp
@[simp] theorem State.meetRegs_mem (s : State) (i : Instr) : (s.meetRegs i).mem = s.mem := by
  simp [State.meetRegs, foldl_mem, apply_ite State.mem]
@[simp] theorem State.walkFailed_mem (s : State) (t : Nat) : (s.walkFailed t).mem = s.mem := by
  unfold State.walkFailed
  dsimp only
  repeat' split
  all_goals simp
@[simp] theorem State.markIssued_mem (s : State) (t : Nat) (p : Place) (b : Bool) : (s.markIssued t p b).mem = s.mem := by
  unfold State.markIssued
  split <;> simp

/-! ### Steps of the units -/

@[simp] theorem State.wakeInboxes_mem (s : State) : (s.wakeInboxes).mem = s.mem := by
  simp [State.wakeInboxes, foldl_mem, apply_ite State.mem]
@[simp] theorem State.tick_mem (s : State) : (s.tick).mem = s.mem := by simp [State.tick]

end Sys2Proof.Machine
end

section
/-!
PROOFS. What writes memory: each operation of the model that may change bytes keeps memory in its canonical form. Every byte goes through
`Memory.writeList`, `Memory.clear`, `Memory.copyRange` or a filter, each of which does (log entry 1).
-/

namespace Sys2Proof.Machine

/-! The laws of Laws/Memory, in the form in which `simp` uses them. -/

@[simp] theorem Memory.writeList_wf {m : List Host.Cell} (h : Memory.wf m = true) (a : Nat) (bs : List Byte) :
    Memory.wf (Memory.writeList m a bs) = true := Memory.wf_writeList h a bs
@[simp] theorem Memory.clear_wf {m : List Host.Cell} (h : Memory.wf m = true) (lo hi : Nat) : Memory.wf (Memory.clear m lo hi) = true :=
  Memory.wf_clear h lo hi
@[simp] theorem Memory.copyRange_wf {m : List Host.Cell} (h : Memory.wf m = true) (src dst len : Nat) :
    Memory.wf (Memory.copyRange m src dst len) = true := Memory.wf_copyRange h src dst len
@[simp] theorem Memory.filter_wf {m : List Host.Cell} (h : Memory.wf m = true) (f : Host.Cell → Bool) : Memory.wf (m.filter f) = true :=
  Memory.wf_filter h f

/-- Steps each of which keeps memory canonical do so one after the other. -/
theorem wf_foldl {α : Type} {f : State → α → State} (hf : ∀ (u : State) (a : α), Memory.wf u.mem = true → Memory.wf (f u a).mem = true)
    (l : List α) {s : State} (hs : Memory.wf s.mem = true) : Memory.wf (l.foldl f s).mem = true :=
  foldl_keeps (P := fun u : State => Memory.wf u.mem = true) hf l hs

theorem wf_ite {c : Prop} [Decidable c] {s t : State} (hs : Memory.wf s.mem = true) (ht : Memory.wf t.mem = true) :
    Memory.wf (if c then s else t).mem = true := by split <;> assumption

/-- Where a copy has moved on, memory is canonical. -/
def Moved.Wf : Moved → Prop
  | .on s _ => Memory.wf s.mem = true
  | _ => True

@[simp] theorem Moved.wf_on (s : State) (cp : Copy) : (Moved.on s cp).Wf ↔ Memory.wf s.mem = true := Iff.rfl
@[simp] theorem Moved.wf_wait : Moved.wait.Wf := trivial
@[simp] theorem Moved.wf_fault (code : Nat) (va : Word) : (Moved.fault code va).Wf := trivial

variable {s : State} (hs : Memory.wf s.mem = true)
include hs

/-! ### Waiting and jumping -/

@[simp] theorem State.putWord_wf (a : Nat) (x : Word) : Memory.wf (s.putWord a x).mem = true := by simp [State.putWord, hs]

/-! ### Caches, slices and homes -/

@[simp] theorem State.fetchHost_wf (line : Nat) : Memory.wf (s.fetchHost line).mem = true := by
  unfold State.fetchHost
  split <;> simp [hs]
@[simp] theorem State.putRecordBytes_wf (ctx : CtxId) (pa : Nat) (bs : List Byte) : Memory.wf (s.putRecordBytes ctx pa bs).mem = true := by
  simp [State.putRecordBytes, hs]
@[simp] theorem State.readAt_wf (a : Access) : Memory.wf (s.readAt a).2.mem = true := by
  unfold State.readAt
  repeat' split
  all_goals simp [hs]
@[simp] theorem State.putDet_wf (pa : Nat) (bs : List Byte) (w : Nat) (id : BitVec 32) : Memory.wf (s.putDet pa bs w id).mem = true := by
  simp [State.putDet, hs]
@[simp] theorem State.storeDet_wf (pa : Nat) (bs : List Byte) (id : BitVec 32) (n : Nat) : Memory.wf (s.storeDet pa bs id n).mem = true := by
  induction n generalizing s pa bs with
  | zero => exact hs
  | succ n ih =>
    unfold State.storeDet
    split
    · exact hs
    · apply ih
      repeat' split
      all_goals simp [hs]

@[simp] theorem State.writeLine_wf (a : Access) (bs : List Byte) : Memory.wf (s.writeLine a bs).mem = true := by
  unfold State.writeLine
  repeat' split
  all_goals simp [hs]
@[simp] theorem State.writeAt_wf (a : Access) (bs : List Byte) : Memory.wf (s.writeAt a bs).mem = true := by
  unfold State.writeAt
  dsimp only
  repeat' split
  all_goals simp [hs]
@[simp] theorem State.countDown_wf (t : Nat) (c : Ctr) (n : Nat) : Memory.wf (s.countDown t c n).mem = true := State.wf_countDown hs t c n
@[simp] theorem State.groupAck_wf (id n : Nat) : Memory.wf (s.groupAck id n).mem = true := by
  unfold State.groupAck
  dsimp only
  repeat' split
  all_goals simp +contextual [wf_foldl, hs]
@[simp] theorem State.putCaddy_wf (ctx : CtxId) (c : Coord) (off : Nat) (bs : List Byte) : Memory.wf (s.putCaddy ctx c off bs).mem = true := by
  unfold State.putCaddy
  split <;> simp [hs]
@[simp] theorem State.putObject_wf (ctx : CtxId) (c : Coord) (off : Nat) (ws : List Word) : Memory.wf (s.putObject ctx c off ws).mem = true := by
  simp [State.putObject, hs]
@[simp] theorem State.clearObject_wf (c : Coord) (g : Convene) : Memory.wf (s.clearObject c g).mem = true := by simp [State.clearObject, hs]
@[simp] theorem State.dissolve_wf (c : Coord) (i : Nat) : Memory.wf (s.dissolve c i).mem = true := by
  unfold State.dissolve
  repeat' split
  all_goals simp [hs]
@[simp] theorem State.breakConvene_wf (ctx : CtxId) (c : Coord) (off n : Nat) : Memory.wf (s.breakConvene ctx c off n).mem = true := by
  unfold State.breakConvene
  extract_lets hit k gs brk saved s1 s2 s3
  have h2 : Memory.wf s2.mem = true := wf_foldl (fun u cmd hu => groupAck_wf hu ..) _ hs
  have h3 : Memory.wf s3.mem = true := wf_foldl (fun u i hu => wf_ite (dissolve_wf hu ..) hu) _ h2
  exact wf_ite hs (wf_foldl (fun u g hu => clearObject_wf hu ..) _ h3)

@[simp] theorem State.caddyWrite_wf (ctx : CtxId) (c : Coord) (off : Nat) (bs : List Byte) : Memory.wf (s.caddyWrite ctx c off bs).mem = true := by
  simp [State.caddyWrite, hs]
@[simp] theorem State.clearCaddy_wf (c : Coord) : Memory.wf (s.clearCaddy c).mem = true := by simp [State.clearCaddy, hs]
@[simp] theorem State.pend_wf (t : Nat) (f : Thread → Thread) : Memory.wf (s.pend t f).mem = true := by
  unfold State.pend
  dsimp only
  repeat' split
  all_goals simp [hs]

/-! ### Images of threads -/

@[simp] theorem State.writeImage_wf (x : Thread) (a off : Nat) (bs : List Byte) : Memory.wf (s.writeImage x a off bs).mem = true := by
  simp [State.writeImage, hs]
@[simp] theorem State.saveImage_wf (t : Nat) : Memory.wf (s.saveImage t).mem = true := by
  unfold State.saveImage
  dsimp only
  repeat' split
  all_goals simp [hs]
@[simp] theorem State.sendImage_wf (t : Nat) : Memory.wf (s.sendImage t).mem = true := by
  unfold State.sendImage
  dsimp only
  repeat' split
  all_goals simp [hs]
@[simp] theorem State.evictLine_wf (t i : Nat) : Memory.wf (s.evictLine t i).mem = true := by
  unfold State.evictLine
  dsimp only
  repeat' split
  all_goals simp [hs]
@[simp] theorem State.trimCache_wf (c : Coord) (room n : Nat) : Memory.wf (s.trimCache c room n).mem = true := by
  induction n generalizing s with
  | zero => exact hs
  | succ n ih =>
    unfold State.trimCache
    dsimp only
    repeat' split
    · exact hs
    · exact ih (evictLine_wf hs ..)
    · exact hs

@[simp] theorem registerCacheFill_wf (t line : Nat) : Memory.wf (registerCacheFill s t line).mem = true := by
  unfold registerCacheFill
  dsimp only
  repeat' split
  all_goals simp [hs]
@[simp] theorem registerCacheEvict_wf (t : Nat) : Memory.wf (registerCacheEvict s t).mem = true := by
  unfold registerCacheEvict
  dsimp only
  repeat' split
  all_goals simp [hs]
@[simp] theorem State.buildImage_wf (t : Nat) : Memory.wf (s.buildImage t).mem = true := by
  unfold State.buildImage
  dsimp only
  repeat' split
  all_goals simp [hs]

/-! ### Convene objects -/

@[simp] theorem State.setConv_wf (c : Coord) (i : Nat) (g : Convene) : Memory.wf (s.setConv c i g).mem = true := by simp [State.setConv, hs]
@[simp] theorem State.leaveGroup_wf (t i : Nat) (g : Convene) : Memory.wf (s.leaveGroup t i g).mem = true := by simp [State.leaveGroup, hs]
@[simp] theorem State.moveTo_wf (t : Nat) (c : Coord) : Memory.wf (s.moveTo t c).mem = true := by simp [State.moveTo, hs]
@[simp] theorem State.endLease_wf (c : Coord) : Memory.wf (s.endLease c).mem = true := by
  unfold State.endLease
  dsimp only
  repeat' split
  all_goals simp [hs]
@[simp] theorem State.acceptGroup_wf (c : Coord) (i : Nat) (g : Convene) (cmd : Cmd) : Memory.wf (s.acceptGroup c i g cmd).mem = true := by
  simp [State.acceptGroup, hs]
@[simp] theorem State.grantLease_wf (c : Coord) (e : Engine) (h : Nat) : Memory.wf (s.grantLease c e h).mem = true := by
  unfold State.grantLease
  dsimp only
  repeat' split
  all_goals simp [hs]

/-! ### Memory instructions -/

@[simp] theorem prefState_wf (va : Word) (l2 own : Bool) : Memory.wf (prefState s va l2 own).mem = true := by
  unfold prefState
  dsimp only
  repeat' split
  all_goals simp [hs]

/-! ### Reductions -/

@[simp] theorem State.putLine_wf (pa : Nat) (ws : List (BitVec 32)) : Memory.wf (s.putLine pa ws).mem = true := by simp [State.putLine, hs]
@[simp] theorem State.applyRed_wf (r : RedLine) : Memory.wf (s.applyRed r).mem = true := by simp [State.applyRed, hs]
@[simp] theorem State.applyParked_wf (pa n : Nat) : Memory.wf (s.applyParked pa n).mem = true := by
  induction n generalizing s with
  | zero => exact hs
  | succ n ih =>
    unfold State.applyParked
    dsimp only
    repeat' split
    · exact hs
    · simp [hs]
    · apply ih
      simp [hs]

@[simp] theorem State.putRetry_wf (r : RedLine) : Memory.wf (s.putRetry r).mem = true := by
  unfold State.putRetry
  split <;> simp [hs]
@[simp] theorem State.refuseRed_wf (r : RedLine) : Memory.wf (s.refuseRed r).mem = true := by
  unfold State.refuseRed
  dsimp only
  repeat' split
  all_goals simp [hs]
@[simp] theorem State.saveRetry_wf (ctx : CtxId) (c : Coord) : Memory.wf (s.saveRetry ctx c).mem = true := by
  simp +contextual [State.saveRetry, wf_foldl, hs]
@[simp] theorem State.arriveRed_wf (r : RedLine) : Memory.wf (s.arriveRed r).mem = true := by
  unfold State.arriveRed
  repeat' split
  all_goals simp [hs]
@[simp] theorem infuserArrival_wf (k : Nat) : Memory.wf (infuserArrival s k).mem = true := by
  unfold infuserArrival
  dsimp only
  repeat' split
  all_goals simp [hs]
@[simp] theorem reductionAck_wf (k : Nat) : Memory.wf (reductionAck s k).mem = true := by
  unfold reductionAck
  split <;> simp [hs]
@[simp] theorem State.homeAccInit_wf (a : Access) (value : BitVec 32) (key : BitVec 16) : Memory.wf (s.homeAccInit a value key).mem = true := by
  simp [State.homeAccInit, hs]
@[simp] theorem State.homeDrainRow_wf (k : Nat) (lines : List Access) (f : BitVec 5) (clr : Bool) (elems scale : List Access) :
    Memory.wf (s.homeDrainRow k lines f clr elems scale).mem = true := by
  unfold State.homeDrainRow
  dsimp only
  repeat' split
  all_goals simp +contextual [wf_foldl, hs]

/-! ### Barriers and events -/

@[simp] theorem State.putBar_wf (ctx : CtxId) (c : Coord) (off : Nat) (b : Bar) (init : Bool) : Memory.wf (s.putBar ctx c off b init).mem = true := by
  unfold State.putBar
  dsimp only
  repeat' split
  all_goals simp +contextual [wf_foldl, hs]
@[simp] theorem State.setEvent_wf (ctx : CtxId) (c : Coord) (n : Nat) : Memory.wf (s.setEvent ctx c n).mem = true := by
  unfold State.setEvent
  split <;> simp [hs]
@[simp] theorem evSigState_wf (a : BitVec 5) : Memory.wf (evSigState s a).mem = true := by
  unfold evSigState
  dsimp only
  repeat' split
  all_goals simp [hs]

/-! ### Copies -/

@[simp] theorem State.copyFaulted_wf (cp : Copy) (code : Nat) (va : Word) : Memory.wf (s.copyFaulted cp code va).mem = true := by
  unfold State.copyFaulted
  split <;> simp [hs]
@[simp] theorem State.stopCopy_wf (cp : Copy) : Memory.wf (s.stopCopy cp).mem = true := by
  unfold State.stopCopy
  split <;> simp [hs]
@[simp] theorem cpyStopState_wf (a : BitVec 5) (ch : BitVec 2) : Memory.wf (cpyStopState s a ch).mem = true := by
  unfold cpyStopState
  dsimp only
  repeat' split
  all_goals simp +contextual [wf_foldl, hs]
theorem State.copyFetch_wf (cp : Copy) (i : Nat) : (s.copyFetch cp i).Wf := by
  unfold State.copyFetch
  dsimp only
  repeat' split
  all_goals simp [hs]

theorem State.copyPut_wf (cp : Copy) (n : Nat) : (s.copyPut cp n).Wf := by
  unfold State.copyPut
  dsimp only
  repeat' split
  all_goals simp [hs]
  exact wf_foldl (fun u b hu => by split <;> simp [hu]) _ hs

theorem State.copyFill_wf (cp : Copy) (n a : Nat) : (s.copyFill cp n a).1.Wf ∧ Memory.wf (s.copyFill cp n a).2.2.mem = true := by
  induction a generalizing s cp with
  | zero => exact ⟨hs, hs⟩
  | succ a ih =>
    have hf := copyFetch_wf hs cp (cp.done + cp.buf.length)
    unfold State.copyFill
    split
    · exact ⟨hs, hs⟩
    · split
      next u q hm => exact ih (by simpa [hm] using hf) q
      next m hm => exact ⟨hf, hs⟩

@[simp] theorem State.moveUnits_wf (cp : Copy) (stop a : Nat) : Memory.wf (s.moveUnits cp stop a).1.mem = true := by
  induction a generalizing s cp with
  | zero => exact hs
  | succ a ih =>
    unfold State.moveUnits
    split
    · exact hs
    · have hf := copyFill_wf hs cp (cp.unit cp.done) (cp.unit cp.done)
      dsimp only
      split
      next => exact hs
      next code va part u heq =>
        rw [heq] at hf
        have hp := copyPut_wf hf.2 part part.buf.length
        split
        · exact hf.2
        · split <;> simp_all
      next u q _ _ heq =>
        rw [heq] at hf
        have hp := copyPut_wf hf.1 q (cp.unit cp.done)
        split
        next v r hv => exact ih (by simpa [hv] using hp) ..
        next => exact hs
        next => exact hf.1

@[simp] theorem copyLineTransfer_wf (c : Coord) (ch : Nat) : Memory.wf (copyLineTransfer s c ch).mem = true := by
  unfold copyLineTransfer
  dsimp only
  split
  · exact hs
  · next cp rest _ =>
    have hm := State.moveUnits_wf hs cp (cp.done + min (cp.region - cp.done) (64 - (cp.off + cp.done) % 64))
      (min (cp.region - cp.done) (64 - (cp.off + cp.done) % 64))
    refine wf_ite hs ?_
    split <;> simp [hm]

@[simp] theorem copyComplete_wf (c : Coord) (ch : Nat) : Memory.wf (copyComplete s c ch).mem = true := by
  unfold copyComplete
  repeat' split
  all_goals simp [hs]

/-! ### System registers -/

@[simp] theorem State.setWinWord_wf (w : Nat) (access : Bool) (x : Word) : Memory.wf (s.setWinWord w access x).mem = true := by
  unfold State.setWinWord
  split <;> simp [hs]
@[simp] theorem State.writeSr_wf (r : Sr) (x : Word) : Memory.wf (s.writeSr r x).mem = true := by
  unfold State.writeSr
  repeat' split
  all_goals simp [hs]

/-! ### Partition registers and queues -/

@[simp] theorem State.forgetBytes_wf (lost : Nat → Bool) : Memory.wf (s.forgetBytes lost).mem = true := by simp [State.forgetBytes, hs]
@[simp] theorem State.createPart_wf (p : Nat) (granules : Word) : Memory.wf (s.createPart p granules).mem = true := by
  unfold State.createPart
  dsimp only
  repeat' split
  all_goals simp [hs]
@[simp] theorem State.clearJoined_wf (joined : List Coord) : Memory.wf (s.clearJoined joined).mem = true := by
  simp +contextual [State.clearJoined, wf_foldl, hs]
@[simp] theorem State.commit_wf (p : Nat) (slot : Option Nat) : Memory.wf (s.commit p slot).mem = true := by
  unfold State.commit
  extract_lets slots st old s1 s2
  have h2 : Memory.wf s2.mem = true := wf_ite (by simp [s1, hs]) hs
  exact wf_ite hs (wf_foldl (fun u c hu => by simpa using hu) _ h2)

@[simp] theorem commitStep_wf (p : Nat) : Memory.wf (commitStep s p).mem = true := by
  unfold commitStep
  split <;> simp [hs]
@[simp] theorem commitAt_wf (p pl : Nat) : Memory.wf (commitAt s p pl).mem = true := by
  unfold commitAt
  repeat' split
  all_goals simp [hs]
@[simp] theorem ccommitAt_wf (p c pl : Nat) : Memory.wf (ccommitAt s p c pl).mem = true := by
  unfold ccommitAt
  repeat' split
  all_goals simp [hs]
@[simp] theorem State.ownerWrite_wf (g pl : Nat) (x : Word) : Memory.wf (s.ownerWrite g pl x).mem = true := by
  unfold State.ownerWrite
  dsimp only
  repeat' split
  all_goals simp [hs]
@[simp] theorem State.cfgWrite_wf (pa pl : Nat) (x : Word) : Memory.wf (s.cfgWrite pa pl x).mem = true := by
  unfold State.cfgWrite
  repeat' split
  all_goals simp [hs]
@[simp] theorem configRegisterWrite_wf (pl : Nat) (r : CfgReg) (x : Word) : Memory.wf (configRegisterWrite s pl r x).mem = true := by
  unfold configRegisterWrite
  repeat' split
  all_goals simp [hs]

/-! ### Memory events -/

@[simp] theorem State.homeLoad_wf (a : Access) : Memory.wf (s.homeLoad a).mem = true := by
  unfold State.homeLoad
  dsimp only
  repeat' split
  all_goals simp [hs]
@[simp] theorem State.homeStore_wf (a : Access) (bs : List Byte) : Memory.wf (s.homeStore a bs).mem = true := by
  unfold State.homeStore
  repeat' split
  all_goals simp [hs]
@[simp] theorem State.homeDiscard_wf (a : Access) : Memory.wf (s.homeDiscard a).mem = true := by
  unfold State.homeDiscard
  dsimp only
  split
  · simp [hs]
  · simp [hs]
  · rw [State.sendAck_mem]
    exact wf_foldl (fun u i hu => wf_ite (by simp [hu]) hu) _ (by simp [hs])

@[simp] theorem homeAccess_wf (k : Nat) : Memory.wf (homeAccess s k).mem = true := by
  unfold homeAccess
  repeat' split
  all_goals simp [hs]
@[simp] theorem State.putOutside_wf (a : Nat) (x : Word) : Memory.wf (s.putOutside a x).mem = true := by simp [State.putOutside, hs]
@[simp] theorem State.logDiscard_wf (pa : Nat) (ctx : CtxId) : Memory.wf (s.logDiscard pa ctx).mem = true := by
  unfold State.logDiscard
  extract_lets n v s1 a
  have h1 : Memory.wf s1.mem = true := by simp [s1, hs]
  exact wf_ite (putOutside_wf (putOutside_wf h1 ..) ..) h1

@[simp] theorem State.homeAtomic_wf (a : Access) (op : Amo) (b d : Word) (ret : Bool) : Memory.wf (s.homeAtomic a op b d ret).mem = true := by
  unfold State.homeAtomic
  repeat' split
  all_goals simp [hs]
@[simp] theorem atomicAtHome_wf (k : Nat) : Memory.wf (atomicAtHome s k).mem = true := by
  unfold atomicAtHome
  repeat' split
  all_goals simp [hs]
@[simp] theorem caddyAccessArrival_wf (k : Nat) : Memory.wf (caddyAccessArrival s k).mem = true := by
  unfold caddyAccessArrival
  dsimp only
  repeat' split
  all_goals simp [hs]
@[simp] theorem State.landed_wf (t : Nat) (l : PendLoad) (buf : List Byte) : Memory.wf (s.landed t l buf).mem = true := by
  unfold State.landed
  extract_lets s1 s2 s3 s4
  have h3 : Memory.wf s3.mem = true := countDown_wf (s := s2) hs ..
  have h4 : Memory.wf s4.mem = true := by
    simp only [s4]
    split <;> simp [h3]
  split
  · simp [h4]
  · simp [State.issuedBefore, h4]
  · exact h4

@[simp] theorem State.loadBytes_wf (t id off : Nat) (data : List Byte) : Memory.wf (s.loadBytes t id off data).mem = true := by
  unfold State.loadBytes
  repeat' split
  all_goals simp [hs]
@[simp] theorem State.loadRefusal_wf (t id cause : Nat) (va : Word) : Memory.wf (s.loadRefusal t id cause va).mem = true := by
  unfold State.loadRefusal
  split <;> simp [hs]
@[simp] theorem loadReply_wf (k : Nat) : Memory.wf (loadReply s k).mem = true := by
  unfold loadReply
  split <;> simp [hs]
@[simp] theorem State.acked_wf (t group : Nat) : Memory.wf (s.acked t group).mem = true := by
  unfold State.acked
  extract_lets s1
  have h1 : Memory.wf s1.mem = true := wf_ite (countDown_wf hs ..) (groupAck_wf hs ..)
  clear_value s1
  split
  · refine wf_ite h1 ?_
    split <;> simp +zetaDelta [State.issuedBefore, h1]
  · exact h1

@[simp] theorem storeAck_wf (k : Nat) : Memory.wf (storeAck s k).mem = true := by
  unfold storeAck
  split <;> simp [hs]
@[simp] theorem storeRefusal_wf (k : Nat) : Memory.wf (storeRefusal s k).mem = true := by
  unfold storeRefusal
  split <;> simp [hs]

/-! ### Messages -/

@[simp] theorem State.tryReply_wf (m : Send) (st : Nat) : Memory.wf (s.tryReply m st).mem = true := by
  unfold State.tryReply
  extract_lets s1
  have h1 : Memory.wf s1.mem = true := wf_ite (countDown_wf hs ..) hs
  clear_value s1
  split
  · refine wf_ite h1 (wf_ite ?_ ?_)
    · simp [h1]
    · simpa [State.issuedBefore] using wf_ite (by simp [h1]) h1
  · exact h1

@[simp] theorem sendReply_wf (k : Nat) : Memory.wf (sendReply s k).mem = true := by
  unfold sendReply
  repeat' split
  all_goals simp [hs]

/-! ### Pours, queues and slots -/

@[simp] theorem State.queueRead_wf (ctx : CtxId) (ls : List (Word × Nat × Target)) : Memory.wf (s.queueRead ctx ls).2.mem = true :=
  foldl_keeps (P := fun acc : List Byte × State => Memory.wf acc.2.mem = true) (fun acc l h => by simp [h]) _ hs

@[simp] theorem State.writeRecord_wf (ctx : CtxId) (va w0 w1 : Word) : Memory.wf (s.writeRecord ctx va w0 w1).mem = true := by
  unfold State.writeRecord
  dsimp only
  repeat' split
  all_goals simp [hs]
@[simp] theorem State.rejectPacket_wf (q : Nat) (compl : Word) (status : Nat) : Memory.wf (s.rejectPacket q compl status).mem = true := by
  unfold State.rejectPacket
  split <;> simp [hs]
@[simp] theorem packetRead_wf (q : Nat) : Memory.wf (packetRead s q).mem = true := by
  unfold packetRead
  extract_lets k ctx va s1
  have h1 : Memory.wf s1.mem = true := by simp [s1, hs]
  have hr : ∀ ls, Memory.wf (s1.queueRead ctx ls).2.mem = true := fun ls => State.queueRead_wf h1 ..
  refine wf_ite hs ?_
  split
  · simp [h1]
  · refine wf_ite (by simp [h1]) ?_
    dsimp only
    split
    · exact wf_ite (by simp [hr]) (by simp [hr])
    · simp [hr]

@[simp] theorem pourComplete_wf (ctx : CtxId) (num : BitVec 32) : Memory.wf (pourComplete s ctx num).mem = true := by
  unfold pourComplete
  dsimp only
  repeat' split
  all_goals simp [hs]
theorem State.balanceOnce_wf {t : State} {q : Nat} {ctx : CtxId} (ht : s.balanceOnce q ctx = some t) : Memory.wf t.mem = true := by
  unfold State.balanceOnce at ht
  dsimp only at ht
  repeat' split at ht
  all_goals simp only [reduceCtorEq, Option.some.injEq] at ht
  subst ht
  simp [hs]

@[simp] theorem State.balance_wf (q : Nat) (ctx : CtxId) (n : Nat) : Memory.wf (s.balance q ctx n).mem = true := by
  induction n generalizing s with
  | zero => exact hs
  | succ n ih =>
    unfold State.balance
    split
    next u hu => exact ih (balanceOnce_wf hs hu)
    next => exact hs

@[simp] theorem queueBalance_wf (qc : Nat) : Memory.wf (queueBalance s qc).mem = true :=
  wf_foldl (fun _ _ hu => wf_foldl (fun _ _ hv => State.balance_wf hv ..) _ hu) _ hs

@[simp] theorem State.template_wf (ctx : CtxId) (c : Coord) : Memory.wf (s.template ctx c).2.mem = true := by
  unfold State.template
  dsimp only
  repeat' split
  all_goals simp [hs]
@[simp] theorem instantiateContinuation_wf (c : Coord) : Memory.wf (instantiateContinuation s c).mem = true := by
  unfold instantiateContinuation
  split <;> simp [hs]
@[simp] theorem State.landThread_wf (t : Nat) (c : Coord) (back : Bool) : Memory.wf (s.landThread t c back).mem = true := by
  unfold State.landThread
  dsimp only
  repeat' split
  all_goals simp [hs]
@[simp] theorem fullThreadArrival_wf (k : Nat) : Memory.wf (fullThreadArrival s k).mem = true := by
  unfold fullThreadArrival
  dsimp only
  repeat' split
  all_goals simp [hs]

/-! ### Rings -/

@[simp] theorem State.makeSteep_wf (c : Coord) (i : RingIf) (m : Meeting) (area : Option Nat) : Memory.wf (s.makeSteep c i m area).mem = true := by
  simp [State.makeSteep, hs]
@[simp] theorem State.bump_wf (ctx : CtxId) (c : Coord) (off : Nat) : Memory.wf (s.bump ctx c off).mem = true := by simp [State.bump, hs]
@[simp] theorem State.logEntry_wf (c : Coord) (i : RingIf) (m : Meeting) (n : Nat) : Memory.wf (s.logEntry c i m n).mem = true := by
  unfold State.logEntry
  dsimp only
  repeat' split
  all_goals simp [hs]
@[simp] theorem State.logMiss_wf (c : Coord) (i : RingIf) (m : Meeting) : Memory.wf (s.logMiss c i m).mem = true := by
  unfold State.logMiss
  extract_lets base s1
  split
  · simp [s1, hs]
  · split
    · exact logEntry_wf (logDiscard_wf (by simp [s1, hs]) ..) ..
    · exact logEntry_wf (writeAt_wf (readAt_wf (by simp [s1, hs]) ..) ..) ..

@[simp] theorem State.serveDeferred_wf (ctx : CtxId) (r : Nat) (c : Coord) (n : Nat) : Memory.wf (s.serveDeferred ctx r c n).mem = true := by
  induction n generalizing s with
  | zero => exact hs
  | succ n ih =>
    rw [State.serveDeferred]
    split
    · exact hs
    · refine wf_ite hs ?_
      split
      · exact ih (makeSteep_wf hs ..)
      · exact hs

@[simp] theorem State.evalNow_wf (r : Nat) (c : Coord) (i : RingIf) : Memory.wf (s.evalNow r c i).mem = true := by
  unfold State.evalNow
  dsimp only
  repeat' split
  all_goals simp [hs]
@[simp] theorem State.serveMeeting_wf (ctx : CtxId) (r : Nat) (c : Coord) : Memory.wf (s.serveMeeting ctx r c).mem = true := by
  unfold State.serveMeeting
  repeat' split
  all_goals simp [hs]
@[simp] theorem State.serveRing_wf (ctx : CtxId) (r : Nat) (c : Coord) : Memory.wf (s.serveRing ctx r c).mem = true := by
  unfold State.serveRing
  dsimp only
  repeat' split
  all_goals simp [hs]
@[simp] theorem State.evalMeeting_wf (ctx : CtxId) (r : Nat) (c : Coord) : Memory.wf (s.evalMeeting ctx r c).mem = true := by
  unfold State.evalMeeting
  split <;> simp [hs]
@[simp] theorem State.takeInject_wf (c : Coord) (i : RingIf) (leaf : Bool) (b : Nat) : Memory.wf (s.takeInject c i leaf b).2.2.mem = true := by
  unfold State.takeInject
  dsimp only
  repeat' split
  all_goals simp [hs]
@[simp] theorem State.movePosition_wf (c : Coord) (i : RingIf) (leaf : Bool) (arrives : Option Tile) :
    Memory.wf (s.movePosition c i leaf arrives).mem = true := by
  unfold State.movePosition
  dsimp only
  repeat' split
  all_goals simp [hs]
@[simp] theorem beatBoundary_wf (ctx : CtxId) (r : Nat) : Memory.wf (beatBoundary s ctx r).mem = true := by
  unfold beatBoundary
  extract_lets s1 g cs s2 ifs leaf n s3 older s4
  have h1 : Memory.wf s1.mem = true := by simp [s1, hs]
  have h2 : Memory.wf s2.mem = true := wf_foldl (fun u c hu => State.serveRing_wf hu ..) _ h1
  have h3 : Memory.wf s3.mem = true := wf_foldl (fun u e hu => by simp [hu]) _ h2
  have h4 : Memory.wf s4.mem = true := wf_foldl (fun u e hu => State.movePosition_wf hu ..) _ h3
  refine wf_ite h1 (wf_ite (wf_ite (by simp [h1]) h1) (wf_ite h2 (wf_ite h3 (wf_ite (by simp [h4]) ?_))))
  exact wf_foldl (fun u c hu => State.evalMeeting_wf hu ..) _ (by simp [h4])

@[simp] theorem State.putTile_wf (i : RingIf) (ga : Word) (off : Nat) : Memory.wf (s.putTile i ga off).mem = true := by
  unfold State.putTile
  dsimp only
  repeat' split
  all_goals simp [hs]
@[simp] theorem State.steepDone_wf (ctx : CtxId) (c : Coord) (t off : Nat) : Memory.wf (s.steepDone ctx c t off).mem = true := by
  simp [State.steepDone, hs]
@[simp] theorem State.endSteep_wf (c : Coord) (i : RingIf) (st : Steep) : Memory.wf (s.endSteep c i st).mem = true := by
  unfold State.endSteep
  dsimp only
  repeat' split
  all_goals simp [hs]
@[simp] theorem steepTailDone_wf (c : Coord) (n : Nat) : Memory.wf (steepTailDone s c n).mem = true := by
  unfold steepTailDone
  repeat' split
  all_goals simp [hs]

/-! ### The matrix engine -/

@[simp] theorem State.serveHeld_wf (c : Coord) : Memory.wf (s.serveHeld c).mem = true := by
  unfold State.serveHeld
  repeat' split
  all_goals simp [hs]
@[simp] theorem State.leaseOver_wf (c : Coord) : Memory.wf (s.leaseOver c).mem = true := by simp [State.leaseOver, hs]
@[simp] theorem State.serveLease_wf (c : Coord) (h : Nat) (g : Convene) (cmd : Cmd) : Memory.wf (s.serveLease c h g cmd).mem = true := by
  unfold State.serveLease
  dsimp only
  repeat' split
  all_goals simp [hs]
@[simp] theorem engineArbitration_wf (c : Coord) : Memory.wf (engineArbitration s c).mem = true := by
  unfold engineArbitration
  dsimp only
  repeat' split
  all_goals simp [hs]
@[simp] theorem leaseIdleExpiry_wf (c : Coord) : Memory.wf (leaseIdleExpiry s c).mem = true := by
  unfold leaseIdleExpiry
  repeat' split
  all_goals simp [hs]

/-! ### Halts and switches -/

@[simp] theorem State.recall_wf (t : Nat) (p : Place) : Memory.wf (s.recall t p).mem = true := by
  unfold State.recall
  dsimp only
  repeat' split
  all_goals simp [hs]
@[simp] theorem State.putLine64_wf (a : Nat) (l : RosterLine) : Memory.wf (s.putLine64 a l).mem = true := by simp [State.putLine64, hs]
@[simp] theorem State.putRoster_wf (ctx : CtxId) (c : Coord) (rows : List RosterLine) (caddy : Bool) :
    Memory.wf (s.putRoster ctx c rows caddy).mem = true := by
  unfold State.putRoster
  exact wf_ite hs (wf_foldl (fun u l hu => putLine64_wf hu ..) _ (by simp [hs]))

@[simp] theorem State.saveAll_wf (ts : List Nat) : Memory.wf (s.saveAll ts).mem = true := by
  refine wf_foldl (fun u t hu => ?_) _ hs
  dsimp only
  repeat' split
  all_goals simp [hu]

@[simp] theorem State.putRecord_wf (ctx : CtxId) (off : Nat) (head : Word) (ws : List Word) : Memory.wf (s.putRecord ctx off head ws).mem = true := by
  unfold State.putRecord
  split <;> simp [hs]
@[simp] theorem State.coreRecord_wf (ctx : CtxId) (h : Halt) (c : Coord) (rows : List RosterLine) :
    Memory.wf (s.coreRecord ctx h c rows).mem = true := by
  unfold State.coreRecord
  dsimp only
  repeat' split
  all_goals simp [hs]
@[simp] theorem State.engineRecord_wf (ctx : CtxId) (h : Halt) (c : Coord) : Memory.wf (s.engineRecord ctx h c).mem = true := by
  unfold State.engineRecord
  dsimp only
  repeat' split
  all_goals simp [hs]
@[simp] theorem State.ringRecord_wf (ctx : CtxId) (h : Halt) (c : Coord) : Memory.wf (s.ringRecord ctx h c).mem = true := by
  unfold State.ringRecord
  repeat' split
  all_goals simp [hs]
@[simp] theorem State.infuserRecord_wf (ctx : CtxId) (h : Halt) (c : Coord) : Memory.wf (s.infuserRecord ctx h c).mem = true := by
  unfold State.infuserRecord
  dsimp only
  repeat' split
  all_goals simp [hs]
@[simp] theorem State.haltCopy_wf (cp : Copy) : Memory.wf (s.haltCopy cp).mem = true := by simp [State.haltCopy, hs]
@[simp] theorem State.channelRecord_wf (ctx : CtxId) (h : Halt) (c : Coord) (ch : Nat) : Memory.wf (s.channelRecord ctx h c ch).mem = true := by
  unfold State.channelRecord
  dsimp only
  repeat' split
  all_goals simp +contextual [wf_foldl, hs]
@[simp] theorem State.serviceRecord_wf (ctx : CtxId) (h : Halt) (n : Nat) : Memory.wf (s.serviceRecord ctx h n).mem = true := by
  unfold State.serviceRecord
  dsimp only
  repeat' split
  all_goals simp [hs]
@[simp] theorem State.renewRows_wf (ts : List Nat) : Memory.wf (s.renewRows ts).mem = true := by
  refine wf_foldl (fun u t hu => ?_) _ hs
  split <;> simp [hu]

@[simp] theorem State.stopCore_wf (ctx : CtxId) (h : Halt) (c : Coord) : Memory.wf (s.stopCore ctx h c).mem = true := by
  unfold State.stopCore
  extract_lets k s1 s2 ts rows s3 s4
  have h1 : Memory.wf s1.mem = true := wf_foldl (fun u ch hu => channelRecord_wf hu ..) _ hs
  have h2 : Memory.wf s2.mem = true := infuserRecord_wf (ringRecord_wf (engineRecord_wf h1 ..) ..) ..
  have h4 : Memory.wf s4.mem = true := saveAll_wf (coreRecord_wf h2 ..) ..
  exact wf_ite (renewRows_wf (saveAll_wf h2 ..) ..) (putRoster_wf (by simp [h4]) ..)

@[simp] theorem State.recallForHalt_wf (t : Nat) : Memory.wf (s.recallForHalt t).mem = true := by
  unfold State.recallForHalt
  repeat' split
  all_goals simp [hs]
@[simp] theorem haltComplete_wf (ctx : CtxId) : Memory.wf (haltComplete s ctx).mem = true := by
  unfold haltComplete
  split
  · exact hs
  · extract_lets s1 area u s2 s3 s4 s5 s6
    have h1 : Memory.wf s1.mem = true := wf_foldl (fun u t hu => State.recallForHalt_wf hu ..) _ hs
    have h2 : Memory.wf s2.mem = true := wf_ite (by simp [h1]) h1
    have h3 : Memory.wf s3.mem = true := wf_foldl (fun u n hu => State.serviceRecord_wf hu ..) _ h2
    have h4 : Memory.wf s4.mem = true := wf_foldl (fun u c hu => State.stopCore_wf hu ..) _ h3
    exact wf_ite hs (by simpa [s6, s5] using h4)

@[simp] theorem State.leavePrimary_wf (ctx : CtxId) (c : Coord) : Memory.wf (s.leavePrimary ctx c).mem = true := by
  unfold State.leavePrimary
  extract_lets k groups groups s1 s2 s3 a wins lo s4 s5 s6
  have h2 : Memory.wf s2.mem = true := wf_foldl (fun u g hu => putObject_wf hu ..) _ (by simp [s1, hs])
  have h3 : Memory.wf s3.mem = true := by
    simp only [s3]
    repeat' split
    all_goals simp [h2]
  have h4 : Memory.wf s4.mem = true := by simp [s4, h3]
  have h5 : Memory.wf s5.mem = true := wf_ite (Memory.wf_copyRange h4 ..) h3
  simpa [s6] using clearCaddy_wf h5 c

@[simp] theorem State.flushEngine_wf (c : Coord) (n : Nat) : Memory.wf (s.flushEngine c n).mem = true := by
  induction n generalizing s with
  | zero => exact hs
  | succ n ih =>
    unfold State.flushEngine
    dsimp only
    split
    · exact hs
    · refine wf_ite (ih ?_) (ih ?_)
      · apply groupAck_wf
        simp [apply_ite State.mem, hs]
      · simp [apply_ite State.mem, hs]

@[simp] theorem State.leaveCore_wf (ctx : CtxId) (c : Coord) : Memory.wf (s.leaveCore ctx c).mem = true := by
  unfold State.leaveCore
  extract_lets wasPrimary rows s1 s2 s3 s4 left
  have h2 : Memory.wf s2.mem = true := by simp [s2, s1, hs]
  have h3 : Memory.wf s3.mem = true := wf_ite (leavePrimary_wf (flushEngine_wf h2 ..) ..) h2
  have h4 : Memory.wf s4.mem = true := saveRetry_wf (putRoster_wf h3 ..) ..
  simpa [left] using h4

@[simp] theorem switchOut_wf (p : Nat) (ctx : CtxId) (c : Coord) : Memory.wf (switchOut s p ctx c).mem = true := by
  unfold switchOut
  refine wf_ite (by simp [hs]) (wf_ite hs ?_)
  extract_lets s1
  have h1 : Memory.wf s1.mem = true := wf_foldl (fun u t hu => State.recall_wf hu ..) _ hs
  exact wf_ite (by simp [h1]) h1

@[simp] theorem State.restartRoster_wf (ctx : CtxId) (c : Coord) : Memory.wf (s.restartRoster ctx c).mem = true := by
  unfold State.restartRoster
  extract_lets a s1 n s2 forget s3
  have h2 : Memory.wf s2.mem = true := by
    refine wf_foldl (fun u j hu => ?_) _ (by simp [s1, hs])
    dsimp only
    split <;> simp [hu]
  have h3 : Memory.wf s3.mem = true := by simpa [s3] using h2
  refine wf_ite ?_ ?_
  · rw [State.fillSlots_mem]
    exact wf_foldl (fun u t hu => by simp [hu]) _ hs
  · rw [State.fillSlots_mem]
    exact putRecordBytes_wf h3 ..

@[simp] theorem State.resume_wf (ctx : CtxId) : Memory.wf (s.resume ctx).mem = true := by
  unfold State.resume
  extract_lets before s1 s2 s3
  have h2 : Memory.wf s2.mem = true := wf_foldl (fun u c hu => wf_ite (by simp [hu]) hu) _ hs
  have h3 : Memory.wf s3.mem = true := wf_foldl (fun u c hu => wf_ite (restartRoster_wf hu ..) hu) _ h2
  exact wf_foldl (fun u t hu => by simp [hu]) _ h3

@[simp] theorem State.regainPrimary_wf (ctx : CtxId) (c : Coord) : Memory.wf (s.regainPrimary ctx c).mem = true := by
  unfold State.regainPrimary
  extract_lets s1 a win s2 s3 s4
  refine wf_ite (clearCaddy_wf (s := s1) hs ..) ?_
  have h4 : Memory.wf s4.mem = true := by simp [s4, s3, s2, s1, hs]
  clear_value s4
  split
  · exact h4
  · simp only [State.setRing_mem]
    split <;> simp [h4]

@[simp] theorem State.enterCore_wf (ctx : CtxId) (c : Coord) : Memory.wf (s.enterCore ctx c).mem = true := by
  unfold State.enterCore
  dsimp only
  repeat' split
  all_goals simp [hs]
@[simp] theorem switchIn_wf (p : Nat) (ctx : CtxId) (c : Coord) : Memory.wf (switchIn s p ctx c).mem = true := by
  unfold switchIn
  dsimp only
  repeat' split
  all_goals simp [hs]

/-! ### Resets, links and power -/

@[simp] theorem State.outsideAccess_wf (pa : Nat) (write : Bool) (x : Word) : Memory.wf (s.outsideAccess pa write x).2.mem = true := by
  unfold State.outsideAccess
  split <;> simp [hs]
@[simp] theorem hostCxlMemAccess_wf (ld pa : Nat) (write : Bool) (x : Word) : Memory.wf (hostCxlMemAccess s ld pa write x).mem = true := by
  unfold hostCxlMemAccess
  dsimp only
  repeat' split
  all_goals simp [hs]
@[simp] theorem peerQueueWrite_wf (node q : Nat) (w : PeerWrite) : Memory.wf (peerQueueWrite s node q w).mem = true := by
  unfold peerQueueWrite
  dsimp only
  repeat' split
  all_goals simp [hs]
@[simp] theorem podMemoryAccess_wf (node part pa : Nat) (write : Bool) (x : Word) :
    Memory.wf (podMemoryAccess s node part pa write x).mem = true := by
  unfold podMemoryAccess
  dsimp only
  repeat' split
  all_goals simp [hs]
@[simp] theorem cxlCacheSnoop_wf (line : Nat) (invalidate : Bool) : Memory.wf (cxlCacheSnoop s line invalidate).mem = true := by
  unfold cxlCacheSnoop
  repeat' split
  all_goals simp [hs]
@[simp] theorem powerGateCore_wf (p : Nat) (c : Coord) : Memory.wf (powerGateCore s p c).mem = true := by
  unfold powerGateCore
  dsimp only
  repeat' split
  all_goals simp [hs]
@[simp] theorem State.clearCore_wf (c : Coord) : Memory.wf (s.clearCore c).mem = true := by simp [State.clearCore, hs]
@[simp] theorem partitionReset_wf (p : Nat) : Memory.wf (partitionReset s p).mem = true := by
  unfold partitionReset
  extract_lets ctxs cs gone s1 s2 s3 s4 own s5
  have h1 : Memory.wf s1.mem = true := wf_foldl (fun u c hu => by simp [hu]) _ hs
  have h2 : Memory.wf s2.mem = true := wf_foldl (fun u c hu => by simp [hu]) _ h1
  have h4 : Memory.wf s4.mem = true := wf_foldl (fun u c hu => State.clearCore_wf hu ..) _ (by simp [s3, h2])
  simpa [s5] using h4

@[simp] theorem State.discardHeld_wf (h : HeldWrite) : Memory.wf (s.discardHeld h).mem = true := by
  unfold State.discardHeld
  repeat' split
  all_goals simp [hs]
@[simp] theorem State.resetCore_wf (c : Coord) : Memory.wf (s.resetCore c).mem = true := by
  unfold State.resetCore
  extract_lets s1
  have h1 : Memory.wf s1.mem = true := by
    simp only [s1, State.disown_mem]
    exact wf_foldl (fun u ctx hu => leaveCore_wf hu ..) _ hs
  simp [h1]

@[simp] theorem hbmPreservingReset_wf : Memory.wf (hbmPreservingReset s).mem = true := by
  unfold hbmPreservingReset
  extract_lets s1 s2 s3 s4 s5 s6 s7
  have h1 : Memory.wf s1.mem = true := wf_foldl (fun u c hu => State.resetCore_wf hu ..) _ hs
  have h2 : Memory.wf s2.mem = true := wf_foldl (fun u w hu => State.discardHeld_wf hu ..) _ h1
  have h3 : Memory.wf s3.mem = true := wf_foldl (fun u a hu => State.logDiscard_wf hu ..) _ h2
  have h4 : Memory.wf s4.mem = true := wf_foldl (fun u l hu => State.logDiscard_wf hu ..) _ h3
  have h6 : Memory.wf s6.mem = true :=
    foldl_keeps (P := fun m => Memory.wf m = true) (fun m l hm => Memory.wf_clear hm ..) _ (by simp [s5, h4])
  refine wf_ite (wf_foldl (fun u c hu => wf_ite hu (by simp [hu])) _ hs) (wf_ite hs ?_)
  simpa [s7] using h6

omit hs in
@[simp] theorem coldReset_wf : Memory.wf (coldReset s).mem = true := rfl

/-! ### The secure unit -/

@[simp] theorem State.zeroiseKeys_wf : Memory.wf (s.zeroiseKeys).mem = true := by simp [State.zeroiseKeys, hs]
@[simp] theorem State.resetAll_wf : Memory.wf (s.resetAll).mem = true := by simp +contextual [State.resetAll, wf_foldl, hs]
@[simp] theorem State.enterFull_wf : Memory.wf (s.enterFull).mem = true := by simp [State.enterFull, hs]
@[simp] theorem State.enterRma_wf : Memory.wf (s.enterRma).mem = true := by simp [State.enterRma, hs]
theorem State.tokenEffect_wf {t : State} {target part : Nat} (ht : s.tokenEffect target part = some t) : Memory.wf t.mem = true := by
  unfold State.tokenEffect at ht
  dsimp only at ht
  split at ht <;> split at ht <;> cases ht <;> simp [hs]

@[simp] theorem State.applyToken_wf (target part : Nat) : Memory.wf (s.applyToken target part).mem = true := by
  unfold State.applyToken
  split
  next u hu => simpa using tokenEffect_wf hs hu
  next => simp [hs]

@[simp] theorem tokenDue_wf : Memory.wf (tokenDue s).mem = true := by
  unfold tokenDue
  repeat' split
  all_goals simp [hs]
@[simp] theorem vendorDefinedRequest_wf (src : Option Byte) (inSession : Bool) (tok : List Byte) :
    Memory.wf (vendorDefinedRequest s src inSession tok).mem = true := by
  unfold vendorDefinedRequest
  repeat' split
  all_goals simp [hs]
@[simp] theorem recoveryImageWrite_wf (image : List Byte) : Memory.wf (recoveryImageWrite s image).mem = true := by
  unfold recoveryImageWrite
  split <;> simp [hs]
omit hs in
@[simp] theorem powerLoss_wf (duringUpdate : Bool) : Memory.wf (powerLoss s duringUpdate).mem = true := by
  unfold powerLoss
  split <;> simp
@[simp] theorem State.debugImage_wf (t off : Nat) (w : Option Word) : Memory.wf (s.debugImage t off w).mem = true := by
  unfold State.debugImage
  dsimp only
  repeat' split
  all_goals simp [hs]
@[simp] theorem State.debugCaddy_wf (c : Coord) (off : Nat) (w : Option Word) : Memory.wf (s.debugCaddy c off w).mem = true := by
  unfold State.debugCaddy
  repeat' split
  all_goals simp [hs]
@[simp] theorem State.debugMem_wf (ctx : CtxId) (va : Word) (w : Option Word) : Memory.wf (s.debugMem ctx va w).mem = true := by
  unfold State.debugMem
  repeat' split
  all_goals simp [hs]
@[simp] theorem State.debugPhys_wf (pa : Nat) (w : Option Word) : Memory.wf (s.debugPhys pa w).mem = true := by
  unfold State.debugPhys
  dsimp only
  repeat' split
  all_goals simp [hs]
@[simp] theorem debugRequest_wf (op : DebugOp) : Memory.wf (debugRequest s op).mem = true := by
  unfold debugRequest
  repeat' split
  all_goals simp [hs]

/-! ### Fetch and issue -/

@[simp] theorem State.begin_wf (t : Nat) : Memory.wf (s.begin t).mem = true := by simp [State.begin, hs]

end Sys2Proof.Machine
end

section
/-!
PROOFS. The rules by which a body's parts are put together: a body ends well when the state with which it completes, waits or jumps has
canonical memory.
-/

namespace Sys2Proof.Machine

/-- What a stop leaves is canonical; a trap, a halt and an instruction that does not issue leave nothing of their own. -/
def Stop.Canonical : Stop → Prop
  | .jump t _ | .wait _ t | .held t | .left t | .trapAfter t _ | .deliverPending _ t => t.Canonical
  | .trap .. | .halt _ | .later => True

/-- A part of a body ends well: with a result of which `Q` holds, or with a stop that leaves canonical memory. -/
def Ends {α : Type} (Q : α → Prop) : Except Stop α → Prop
  | .ok a => Q a
  | .error e => e.Canonical

section
variable {α β : Type} {P : α → Prop} {Q : β → Prop}

@[simp] theorem State.canonical_iff (s : State) : s.Canonical ↔ Memory.wf s.mem = true := Iff.rfl
@[simp] theorem Stop.canonical_trap (c : Nat) (v : Word) (f : Nat) : (Stop.trap c v f).Canonical := trivial
@[simp] theorem Stop.canonical_halt (h : Halt) : (Stop.halt h).Canonical := trivial
@[simp] theorem Stop.canonical_later : Stop.later.Canonical := trivial
@[simp] theorem Stop.canonical_jump (t : State) (pc : BitVec 48) : (Stop.jump t pc).Canonical ↔ Memory.wf t.mem = true := Iff.rfl
@[simp] theorem Stop.canonical_wait (p : Option Park) (t : State) : (Stop.wait p t).Canonical ↔ Memory.wf t.mem = true := Iff.rfl
@[simp] theorem Stop.canonical_held (t : State) : (Stop.held t).Canonical ↔ Memory.wf t.mem = true := Iff.rfl
@[simp] theorem Stop.canonical_left (t : State) : (Stop.left t).Canonical ↔ Memory.wf t.mem = true := Iff.rfl
@[simp] theorem Stop.canonical_trapAfter (t : State) (i : Word) : (Stop.trapAfter t i).Canonical ↔ Memory.wf t.mem = true := Iff.rfl
@[simp] theorem Stop.canonical_deliverPending (p : Pend) (t : State) : (Stop.deliverPending p t).Canonical ↔ Memory.wf t.mem = true := Iff.rfl

@[simp] theorem ends_ok (a : α) : Ends P (.ok a) ↔ P a := Iff.rfl
@[simp] theorem ends_pure (a : α) : Ends P (pure a) ↔ P a := Iff.rfl
@[simp] theorem ends_error (e : Stop) : Ends P (.error e) ↔ e.Canonical := Iff.rfl
@[simp] theorem ends_trap (c : Nat) (v : Word) (f : Nat) : Ends P (trap c v f) := trivial
@[simp] theorem ends_lift (x : Except Fail α) : Ends (fun _ => True) (lift x) := by cases x <;> exact trivial

/-- The parts of a body end well one after the other. -/
theorem Ends.bind {x : Except Stop α} {f : α → Except Stop β} (hx : Ends P x) (hf : ∀ a, P a → Ends Q (f a)) : Ends Q (x >>= f) := by
  cases x with
  | ok a => exact hf a hx
  | error e => exact hx

/-- A check, of whose result nothing is needed, and what follows it. -/
theorem Ends.check {x : Except Stop α} {f : α → Except Stop β} (hx : Ends (fun _ => True) x) (hf : ∀ a, Ends Q (f a)) : Ends Q (x >>= f) :=
  Ends.bind hx fun a _ => hf a

/-- A step that a body takes under a condition only, a trap among them, and what follows it. -/
theorem Ends.when {c : Prop} [Decidable c] {x : Except Stop Unit} {f : Unit → Except Stop β} (hx : Ends (fun _ => True) x) (hf : ∀ u, Ends Q (f u)) :
    Ends Q (if c then x >>= f else f ()) := by
  split
  · exact Ends.check hx hf
  · exact hf ()

/-- A condition under which a body traps, and what follows it. -/
theorem Ends.guard {c : Prop} [Decidable c] {cause : Nat} {v : Word} {fl : Nat} {f : α → Except Stop β} {x : Except Stop β} (hx : Ends Q x) :
    Ends Q (if c then trap cause v fl >>= f else x) := by
  split
  · exact trivial
  · exact hx

theorem Ends.ite {c : Prop} [Decidable c] {x y : Except Stop α} (hx : Ends P x) (hy : Ends P y) : Ends P (if c then x else y) := by
  split <;> assumption

/-- A step of which a condition chooses between two forms, and what follows it. -/
theorem Ends.branch {c : Prop} [Decidable c] {x y : Except Stop α} {f : α → Except Stop β} (hx : Ends P x) (hy : Ends P y)
    (hf : ∀ a, P a → Ends Q (f a)) : Ends Q (if c then x >>= f else y >>= f) := by
  split
  · exact Ends.bind hx hf
  · exact Ends.bind hy hf

theorem Ends.map {x : Except Stop α} {f : α → β} (hx : Ends P x) (hf : ∀ a, Q (f a)) : Ends Q (x.map f) := by
  cases x with
  | ok a => exact hf a
  | error e => exact hx

theorem Ends.mapM {γ : Type} {f : γ → Except Stop α} (hf : ∀ c, Ends (fun _ => True) (f c)) (l : List γ) : Ends (fun _ => True) (l.mapM f) := by
  induction l with
  | nil => exact trivial
  | cons c l ih =>
    rw [List.mapM_cons]
    exact Ends.check (hf c) fun _ => Ends.check ih fun _ => trivial

theorem Ends.foldlM {γ : Type} {f : α → γ → Except Stop α} (hf : ∀ a c, P a → Ends P (f a c)) (l : List γ) {a : α} (ha : P a) :
    Ends P (l.foldlM f a) := by
  induction l generalizing a with
  | nil => exact ha
  | cons c l ih =>
    rw [List.foldlM_cons]
    exact Ends.bind (hf a c ha) fun b hb => ih hb

end

end Sys2Proof.Machine
end

section
/-!
PROOFS. Every part of a body, and every body, ends well from a state with canonical memory.
-/

namespace Sys2Proof.Machine

@[simp] theorem accept_ends (ok : Bool) (low : Nat) : Ends (fun _ => True) (accept ok low) := by unfold accept; split <;> trivial

@[simp] theorem badAcc_ends {α : Type} {P : α → Prop} (r : Nat) : Ends P (badAcc r) := trivial

@[simp] theorem badSend_ends {α : Type} {P : α → Prop} (r : Nat) : Ends P (badSend r) := trivial

@[simp] theorem badRing_ends {α : Type} {P : α → Prop} (r : Nat) : Ends P (badRing r) := trivial

variable {s : State} (hs : Memory.wf s.mem = true)
include hs

theorem found_ends {find : Except Stop (Found × State)} (h : Ends (·.2.Canonical) find) : Ends (·.2.Canonical) (found s find) := by
  unfold found
  split
  · exact hs
  · exact h

/-! ### Waiting and jumping -/

omit hs in
@[simp] theorem primaryOnly_ends : Ends (fun _ => True) (primaryOnly s) := by
  unfold primaryOnly
  split <;> simp

/-! ### Caches, slices and homes -/

omit hs in
@[simp] theorem roomFor_ends (c : Ctr) (n : Nat) : Ends (fun _ => True) (roomFor s c n) := by
  unfold roomFor
  split <;> simp

@[simp] theorem deliveryWait_ends (st cp ms done : Bool) (park : Option Park) : Ends (fun _ => True) (deliveryWait s st cp ms done park) := by
  unfold deliveryWait
  split
  · exact hs
  · exact Ends.ite trivial hs

@[simp] theorem releaseWait_ends (scope : Nat) : Ends (fun _ => True) (releaseWait s scope) := by simp [releaseWait, hs]

@[simp] theorem counterWait_ends : Ends (fun _ => True) (counterWait s) := by simp [counterWait, hs]

omit hs in
@[simp] theorem relGate_ends : Ends (fun _ => True) (relGate s) := by
  unfold relGate
  split <;> simp

omit hs in
@[simp] theorem gate_ends (us : List Unit8) : Ends (fun _ => True) (gate s us) := by
  unfold gate
  split <;> simp

/-! ### Issue of accesses -/

@[simp] theorem issueLoads_ends (size : Nat) (ranges : List (Word × Nat × Nat)) (dest : Dest) (acq : Option (BitVec 3)) (counts : Option Nat) :
    Ends State.Canonical (issueLoads s size ranges dest acq counts) := by
  unfold issueLoads
  refine Ends.check (Ends.mapM (fun _ => ends_lift _) _) fun parts => ?_
  refine Ends.check (by simp) fun _ => ?_
  refine Ends.check (by simp) fun _ => ?_
  dsimp only
  split <;> split <;> simp [hs]

@[simp] theorem issueStore_ends (va : Word) (unit : Nat) (data : List Byte) (rel : Bool) : Ends State.Canonical (issueStore s va unit data rel) := by
  unfold issueStore
  refine Ends.check (ends_lift _) fun us => ?_
  refine Ends.check (by simp) fun _ => ?_
  refine Ends.check (by simp) fun _ => ?_
  refine foldl_keeps (P := fun acc : State × List Byte => Memory.wf acc.1.mem = true) (fun acc u h => ?_) us hs
  dsimp only
  split <;> simp [h]

@[simp] theorem issueAtomic_ends (op : Amo) (d a b : BitVec 5) (ord : BitVec 2) : Ends State.Canonical (issueAtomic s op d a b ord) := by
  unfold issueAtomic
  refine Ends.guard (Ends.check (ends_lift _) fun t => Ends.when (releaseWait_ends hs ..) fun _ => Ends.check (roomFor_ends ..) fun _ => ?_)
  refine Ends.ite (Ends.check (gate_ends ..) fun _ => ?_) (Ends.ite (Ends.ite ?_ ?_) (Ends.ite ?_ (Ends.ite ?_ ?_)))
  · dsimp only
    split <;> split <;> simp [hs]
  all_goals simp [hs]

@[simp] theorem State.readUnit_ends (u : Unit8) (fresh : Bool) : Ends (·.2.Canonical) (s.readUnit u fresh) := by
  unfold State.readUnit
  dsimp only
  split
  · exact Ends.ite (by simp [hs]) trivial
  · exact Ends.ite (by simp [hs]) trivial
  · simp [hs]
  · simp [hs]

@[simp] theorem readNow_ends (va : Word) (n unit : Nat) (fresh : Bool) : Ends (·.2.Canonical) (readNow s va n unit fresh) := by
  unfold readNow
  refine Ends.check (ends_lift _) fun us => Ends.ite trivial ?_
  refine Ends.foldlM (P := fun acc : List Byte × State => acc.2.Canonical) (fun acc u h => ?_) us hs
  exact Ends.bind (State.readUnit_ends h ..) fun b hb => hb

/-! ### Tile maps -/

@[simp] theorem tmldBody_ends (a : BitVec 5) (imm : BitVec 12) (tm : BitVec 4) : Ends State.Canonical (tmldBody s a imm tm) := by
  unfold tmldBody
  refine Ends.ite (by simp [hs]) (Ends.guard (Ends.bind (readNow_ends hs ..) fun a h => Ends.ite ?_ trivial))
  simpa using h

@[simp] theorem slotDesc_ends (tm : BitVec 4) : Ends (·.2.Canonical) (slotDesc s tm) := by
  unfold slotDesc
  dsimp only
  split
  · exact Ends.ite hs trivial
  · exact Ends.bind (readNow_ends hs ..) fun a h => Ends.ite (by simpa using h) trivial

/-! ### Convene objects -/

@[simp] theorem liveGroup_ends (c : Coord) (ctx : CtxId) (off : Nat) : Ends (·.1.Canonical) (liveGroup s c ctx off) := by
  unfold liveGroup
  split
  · simp [hs]
  · split
    · simp [hs]
    · split
      · simp [hs]
      · dsimp only
        generalize Option.bind _ _ = was
        cases was with
        | none => dsimp only; split <;> split <;> simp [hs]
        | some m =>
          have h (b : Bool) (g : Convene) : Memory.wf (if b then (s.savedCmd c g).2.groupAck m.group 16 else (s.savedCmd c g).2).mem = true :=
            wf_ite (by simp [hs]) (by simp [hs])
          dsimp only
          split <;> split <;> simp [h, -Option.isNone_iff_eq_none]

@[simp] theorem findGroup_ends (c : Coord) (ctx : CtxId) (off : Nat) : Ends (·.1.Canonical) (findGroup s c ctx off) := by
  unfold findGroup
  exact Ends.ite (by simp [hs]) (liveGroup_ends (by simp [hs]) ..)

@[simp] theorem leaveBody_ends : Ends State.Canonical (leaveBody s) := by
  unfold leaveBody
  refine Ends.bind (findGroup_ends hs ..) fun a h => ?_
  obtain ⟨s, e⟩ := a
  cases e <;> simp_all

@[simp] theorem convPoll_ends (d : BitVec 5) (p : Option (BitVec 3)) (g : Convene) (idx : Nat) : Ends State.Canonical (convPoll s d p g idx) := by
  unfold convPoll
  refine Ends.ite trivial ?_
  split
  · exact hs
  · exact Ends.ite hs hs

@[simp] theorem joinHere_ends (c : Coord) (off n : Nat) (d : BitVec 5) (p : Option (BitVec 3)) : Ends State.Canonical (joinHere s c off n d p) := by
  unfold joinHere
  refine Ends.bind (findGroup_ends hs ..) fun a h => ?_
  obtain ⟨s, e⟩ := a
  refine Ends.check ?_ fun (i, g) => ?_
  · split
    · trivial
    · exact h
    · trivial
  · have h : Memory.wf s.mem = true := h
    refine Ends.ite h (Ends.guard (Ends.ite ?_ (Ends.guard ?_)))
    · split <;> simp [h]
    · exact convPoll_ends (by simp [h]) ..

omit hs in
@[simp] theorem convObject_ends (ga : Word) : Ends (fun _ => True) (convObject s ga) := by
  unfold convObject
  split <;> simp

@[simp] theorem cnvBody_ends (d a b : BitVec 5) (p : Option (BitVec 3)) : Ends State.Canonical (cnvBody s d a b p) := by
  unfold cnvBody
  refine Ends.check (primaryOnly_ends ..) fun _ => Ends.guard (Ends.check (convObject_ends ..) fun (c, off) => ?_)
  refine Ends.guard (Ends.guard (Ends.guard (Ends.ite (Ends.guard ?_) (Ends.ite ?_ (joinHere_ends hs ..)))))
  · refine Ends.bind (findGroup_ends hs ..) fun a h => ?_
    obtain ⟨s, _ | ⟨i, g⟩⟩ := a
    · simpa using h
    · exact convPoll_ends h ..
  · exact Ends.check (counterWait_ends hs ..) fun _ => Ends.guard (by simp [hs])

omit hs in
@[simp] theorem reduceTarget_ends (va : Word) : Ends (fun _ => True) (reduceTarget s va) := by
  unfold reduceTarget
  exact Ends.guard (by simp)

@[simp] theorem issueRelease_ends : Ends (fun _ => True) (issueRelease s) := by
  unfold issueRelease
  split <;> simp [hs]

@[simp] theorem mmaBody_ends (ra rb rc : BitVec 5) (form : BitVec 6) : Ends State.Canonical (mmaBody s ra rb rc form) := by
  unfold mmaBody
  refine Ends.check (primaryOnly_ends ..) fun _ => Ends.guard (Ends.bind (findGroup_ends hs ..) fun a h => ?_)
  obtain ⟨s, _ | ⟨i, g⟩⟩ := a
  · trivial
  have h : Memory.wf s.mem = true := h
  refine Ends.guard (Ends.guard (Ends.ite h (Ends.guard (Ends.check (reduceTarget_ends ..) fun y => ?_))))
  dsimp only
  split
  · refine Ends.guard (Ends.check (issueRelease_ends h ..) fun _ => Ends.check (roomFor_ends ..) fun _ => ?_)
    split <;> simp [h]
  · refine Ends.check (issueRelease_ends h ..) fun _ => Ends.check (roomFor_ends ..) fun _ => ?_
    simp [h]

@[simp] theorem mmaLBody_ends (ra rb rc : BitVec 5) : Ends State.Canonical (mmaLBody s ra rb rc) := by
  unfold mmaLBody
  exact Ends.check (primaryOnly_ends ..) fun _ => Ends.guard (Ends.guard (Ends.check (reduceTarget_ends ..) fun _ =>
      Ends.check (roomFor_ends ..) fun _ => hs))

/-! ### Memory instructions -/

@[simp] theorem loadBody_ends (size : Nat) (t a : BitVec 5) (imm : BitVec 12) (n : Nat) (sg : Bool) :
    Ends State.Canonical (loadBody s size t a imm n sg) := by
  simp [loadBody, hs]

@[simp] theorem storeBody_ends (t a : BitVec 5) (imm : BitVec 12) (n : Nat) : Ends State.Canonical (storeBody s t a imm n) := by simp [storeBody, hs]

@[simp] theorem ldAcqBody_ends (t a : BitVec 5) (zx : BitVec 1) (sz : BitVec 2) (sc : BitVec 3) :
    Ends State.Canonical (ldAcqBody s t a zx sz sc) := by
  unfold ldAcqBody
  exact Ends.guard (by simp [hs])

@[simp] theorem stRelBody_ends (t a : BitVec 5) (sz : BitVec 2) (sc : BitVec 3) : Ends State.Canonical (stRelBody s t a sz sc) := by
  unfold stRelBody
  exact Ends.guard (Ends.check (by simp) fun _ => Ends.check (releaseWait_ends hs ..) fun _ => issueStore_ends hs ..)

@[simp] theorem fenceAcqBody_ends (sc : BitVec 3) : Ends State.Canonical (fenceAcqBody s sc) := by
  unfold fenceAcqBody
  split <;> simp [hs]

@[simp] theorem discardBody_ends (a : BitVec 5) (imm : BitVec 12) : Ends State.Canonical (discardBody s a imm) := by
  unfold discardBody
  exact Ends.guard (Ends.guard (Ends.check (by simp) fun _ => Ends.guard (Ends.check (roomFor_ends ..) fun _ => by simp [hs])))

@[simp] theorem cleanBody_ends (a : BitVec 5) (imm : BitVec 12) (depth : BitVec 1) : Ends State.Canonical (cleanBody s a imm depth) := by
  unfold cleanBody
  exact Ends.guard (Ends.check (by simp) fun _ => Ends.check (roomFor_ends ..) fun _ => hs)

@[simp] theorem invalDBody_ends (a : BitVec 5) (imm : BitVec 12) : Ends State.Canonical (invalDBody s a imm) := by
  unfold invalDBody
  exact Ends.guard (Ends.check (by simp) fun _ => by simp [hs])

@[simp] theorem invalIBody_ends (a : BitVec 5) (imm : BitVec 12) : Ends State.Canonical (invalIBody s a imm) := by
  unfold invalIBody
  exact Ends.guard (Ends.check (by simp) fun _ => hs)

/-! ### Vector instructions -/

omit hs in
@[simp] theorem sameTag_ends (r a : BitVec 4) : Ends (fun _ => True) (sameTag s r a) := by simp [sameTag]

@[simp] theorem putV_ends (d : BitVec 4) (x : BitVec 128) (tag : BitVec 4) (fl : Flags) : Ends State.Canonical (putV s d x tag fl) := by
  simp [putV, hs]

@[simp] theorem fpBin_ends (d a b : BitVec 4) (f : RMode → FVal → FVal → FVal × Flags) : Ends State.Canonical (fpBin s d a b f) := by
  unfold fpBin
  exact Ends.check (accept_ends ..) fun _ => Ends.check (sameTag_ends ..) fun _ => hs

@[simp] theorem fpMinMax_ends (mx : Bool) (d a b : BitVec 4) : Ends State.Canonical (fpMinMax s mx d a b) := by
  unfold fpMinMax
  exact Ends.check (accept_ends ..) fun _ => Ends.check (sameTag_ends ..) fun _ => hs

@[simp] theorem fpFused_ends (negP negC : Bool) (d a b : BitVec 4) : Ends State.Canonical (fpFused s negP negC d a b) := by
  unfold fpFused
  exact Ends.check (accept_ends ..) fun _ => Ends.check (sameTag_ends ..) fun _ => Ends.check (sameTag_ends ..) fun _ => hs

@[simp] theorem vcmpBody_ends (d : BitVec 5) (a b : BitVec 4) (cc : BitVec 3) : Ends State.Canonical (vcmpBody s d a b cc) := by
  unfold vcmpBody
  exact Ends.check (accept_ends ..) fun _ => Ends.check (sameTag_ends ..) fun _ => hs

@[simp] theorem fpUn_ends (d a : BitVec 4) (f : Fmt → Nat → Nat × Flags) : Ends State.Canonical (fpUn s d a f) := by
  unfold fpUn
  exact Ends.check (accept_ends ..) fun _ => hs

@[simp] theorem fpEst_ends (d a : BitVec 4) (f : FVal → FVal × Flags) : Ends State.Canonical (fpEst s d a f) := by simp [fpEst, hs]

@[simp] theorem intBin_ends (d a b : BitVec 4) (useD sat : Bool) (f : Int → Int → Int → Int) : Ends State.Canonical (intBin s d a b useD sat f) := by
  unfold intBin
  exact Ends.check (accept_ends ..) fun _ => Ends.check (sameTag_ends ..) fun _ => Ends.when (sameTag_ends ..) fun _ => hs

@[simp] theorem vShift_ends (d a b : BitVec 4) (f : IFmt → Nat → Nat → Nat) : Ends State.Canonical (vShift s d a b f) := by
  unfold vShift
  exact Ends.check (accept_ends ..) fun _ => Ends.check (sameTag_ends ..) fun _ => hs

@[simp] theorem vcvtBody_ends (d a tag : BitVec 4) (sat : Bool) (k : BitVec 3) : Ends State.Canonical (vcvtBody s d a tag sat k) := by
  unfold vcvtBody
  exact Ends.check (accept_ends ..) fun _ => Ends.when (accept_ends ..) fun _ => hs

@[simp] theorem issueStores_ends (ranges : List (Word × List Byte)) : Ends State.Canonical (issueStores s ranges) := by
  unfold issueStores
  refine Ends.check (Ends.mapM (fun _ => ends_lift _) _) fun locs => ?_
  refine Ends.check (roomFor_ends ..) fun _ => Ends.check (gate_ends ..) fun _ => ?_
  refine wf_foldl (fun u p hu => ?_) _ hs
  have hg (n : Nat) : Memory.wf (if n = 0 then (0, u) else (u.count .st 1).newGroup .st [u.cur] n).2.mem = true := by
    split <;> simp [hu]
  refine foldl_keeps (P := fun acc : State × List Byte => Memory.wf acc.1.mem = true) (fun acc w h => ?_) _ (hg _)
  dsimp only
  split <;> simp [h]

@[simp] theorem vqntBody_ends (d : BitVec 5) (a : BitVec 1) (b : BitVec 5) (f : BitVec 4) : Ends State.Canonical (vqntBody s d a b f) := by
  unfold vqntBody
  refine Ends.check (accept_ends ..) fun _ => Ends.check (Ends.mapM (fun _ => sameTag_ends ..) _) fun _ => ?_
  exact issueStores_ends hs ..

@[simp] theorem vdeqBody_ends (d : BitVec 2) (a b : BitVec 5) (f : BitVec 4) : Ends State.Canonical (vdeqBody s d a b f) := by
  unfold vdeqBody
  dsimp only
  split <;> simp [hs]

@[simp] theorem vdotBody_ends (d a b : BitVec 4) : Ends State.Canonical (vdotBody s d a b) := by
  unfold vdotBody
  exact Ends.check (accept_ends ..) fun _ => Ends.ite (Ends.check (sameTag_ends ..) fun _ => Ends.check (accept_ends ..) fun _ => hs)
      (Ends.ite (Ends.check (accept_ends ..) fun _ => Ends.check (accept_ends ..) fun _ => hs) (Ends.check (accept_ends ..) fun _ =>
      Ends.check (accept_ends ..) fun _ => hs))

@[simp] theorem vselBody_ends (d a : BitVec 4) (b : BitVec 5) : Ends State.Canonical (vselBody s d a b) := by
  unfold vselBody
  exact Ends.check (sameTag_ends ..) fun _ => hs

@[simp] theorem vextBody_ends (d : BitVec 5) (a idx : BitVec 4) : Ends State.Canonical (vextBody s d a idx) := by
  unfold vextBody
  exact Ends.check (accept_ends ..) fun _ => hs

@[simp] theorem vinsBody_ends (d : BitVec 4) (a : BitVec 5) (idx : BitVec 4) : Ends State.Canonical (vinsBody s d a idx) := by
  unfold vinsBody
  exact Ends.check (accept_ends ..) fun _ => putV_ends hs ..

@[simp] theorem horizontal_ends (d a : BitVec 4) (fpOp : Fmt → Nat → Nat → Nat × Flags) (intOp : IFmt → Int → Int → Int) :
    Ends State.Canonical (horizontal s d a fpOp intOp) := by
  unfold horizontal
  exact Ends.check (accept_ends ..) fun _ => hs

/-! ### Reductions -/

omit hs in
@[simp] theorem needClass_ends (va : Word) (k : Kind) (c : Cls) : Ends (fun _ => True) (needClass s va k c) := by
  unfold needClass
  exact Ends.guard (Ends.check (by simp) fun _ => Ends.ite trivial trivial)

@[simp] theorem accInitBody_ends (ra rb : BitVec 5) : Ends State.Canonical (accInitBody s ra rb) := by
  unfold accInitBody
  exact Ends.when (badAcc_ends ..) fun _ => Ends.when (badAcc_ends ..) fun _ => Ends.check (needClass_ends ..) fun _ =>
      Ends.check (roomFor_ends ..) fun _ => hs

@[simp] theorem accSettleBody_ends (ra rb : BitVec 5) : Ends State.Canonical (accSettleBody s ra rb) := by
  unfold accSettleBody
  exact Ends.when (badAcc_ends ..) fun _ => Ends.when (badAcc_ends ..) fun _ =>
      Ends.check (Ends.ite trivial (Ends.check (needClass_ends ..) fun _ => trivial)) fun _ => Ends.when hs fun _ => Ends.when hs fun _ =>
      by simp [hs]

@[simp] theorem redVBody_ends (ra : BitVec 5) (b : BitVec 2) (rc : BitVec 5) : Ends State.Canonical (redVBody s ra b rc) := by
  unfold redVBody
  refine Ends.ite trivial (Ends.ite trivial (Ends.check (needClass_ends ..) fun x => ?_))
  refine Ends.check (Ends.mapM (fun _ => accept_ends ..) _) fun _ => ?_
  refine Ends.check (relGate_ends ..) fun _ => Ends.check (roomFor_ends ..) fun _ => ?_
  simp [hs]

@[simp] theorem detNextBody_ends (ra rb : BitVec 5) : Ends State.Canonical (detNextBody s ra rb) := by
  unfold detNextBody
  exact Ends.when (badAcc_ends ..) fun _ => Ends.when (badAcc_ends ..) fun _ => Ends.check (needClass_ends ..) fun _ =>
      Ends.when (badAcc_ends ..) fun _ => Ends.check (roomFor_ends ..) fun _ => hs

omit hs in
@[simp] theorem drainPlace_ends (va : Word) (n : Nat) : Ends (fun _ => True) (drainPlace s va n) := by
  unfold drainPlace
  refine Ends.guard (Ends.check (by simp) fun _ => ?_)
  split <;> simp

@[simp] theorem drainBody_ends (ra rb rc f : BitVec 5) : Ends State.Canonical (drainBody s ra rb rc f) := by
  unfold drainBody
  refine Ends.ite trivial (Ends.ite trivial (Ends.ite trivial (Ends.check (needClass_ends ..) fun x => ?_)))
  refine Ends.check (Ends.mapM (fun _ => drainPlace_ends ..) _) fun rows => ?_
  refine Ends.check (Ends.mapM (fun _ => ?_) _) fun scales => Ends.check (roomFor_ends ..) fun _ => by simp [hs]
  exact Ends.ite (drainPlace_ends ..) (show Ends (fun _ => True) (pure []) from trivial)

/-! ### Barriers and events -/

omit hs in
@[simp] theorem barPlace_ends (ga : Word) (reason2 scopeCore : Bool) (r : Right) : Ends (fun _ => True) (barPlace s ga reason2 scopeCore r) := by
  unfold barPlace
  exact Ends.guard (Ends.check (by simp) fun _ => Ends.guard (Ends.guard (Ends.guard (Ends.check (gate_ends ..) fun _ => Ends.guard trivial))))

omit hs in
@[simp] theorem barScope_ends (c : Coord) (b : Bar) : Ends (fun _ => True) (barScope s c b) := by
  unfold barScope
  exact Ends.guard (Ends.ite trivial trivial)

@[simp] theorem barInitBody_ends (a b : BitVec 5) (sc : BitVec 1) : Ends State.Canonical (barInitBody s a b sc) := by
  unfold barInitBody
  exact Ends.check (barPlace_ends ..) fun _ => Ends.check (roomFor_ends ..) fun _ => by simp [hs]

@[simp] theorem barArrBody_ends (d a : BitVec 5) (n : Word) : Ends State.Canonical (barArrBody s d a n) := by
  unfold barArrBody
  refine Ends.check (barPlace_ends ..) fun _ => Ends.check (releaseWait_ends hs ..) fun _ => ?_
  dsimp only
  split
  · exact trivial
  · exact Ends.check (barScope_ends ..) fun _ => by simp [hs]

omit hs in
@[simp] theorem notInSteep_ends : Ends (fun _ => True) (notInSteep s) := by
  unfold notInSteep
  split <;> simp

omit hs in
@[simp] theorem barTest_ends (a b : BitVec 5) : Ends (fun _ => True) (barTest s a b) := by
  unfold barTest
  exact Ends.check (barPlace_ends ..) fun _ => Ends.check (barScope_ends ..) fun _ => Ends.ite trivial (Ends.ite trivial trivial)

@[simp] theorem barWaitBody_ends (a b : BitVec 5) : Ends State.Canonical (barWaitBody s a b) := by
  unfold barWaitBody
  refine Ends.check (notInSteep_ends ..) fun _ => Ends.check (barTest_ends ..) fun _ => ?_
  split <;> simp [hs]

@[simp] theorem barTryBody_ends (a b : BitVec 5) (p : BitVec 3) : Ends State.Canonical (barTryBody s a b p) := by
  unfold barTryBody
  refine Ends.check (barTest_ends ..) fun _ => ?_
  split <;> simp [hs]

omit hs in
@[simp] theorem gbarId_ends (a : BitVec 5) (sc : BitVec 3) : Ends (fun _ => True) (gbarId s a sc) := by
  unfold gbarId
  exact Ends.guard (Ends.guard trivial)

@[simp] theorem gbarArrBody_ends (d a : BitVec 5) (sc : BitVec 3) : Ends State.Canonical (gbarArrBody s d a sc) := by
  unfold gbarArrBody
  exact Ends.check (gbarId_ends ..) fun _ => Ends.check (releaseWait_ends hs ..) fun _ => by simp [hs]

omit hs in
@[simp] theorem gbarTest_ends (a b : BitVec 5) (sc : BitVec 3) : Ends (fun _ => True) (gbarTest s a b sc) := by
  unfold gbarTest
  exact Ends.check (gbarId_ends ..) fun _ => Ends.check (relGate_ends ..) fun _ => trivial

@[simp] theorem gbarWaitBody_ends (a b : BitVec 5) (sc : BitVec 3) : Ends State.Canonical (gbarWaitBody s a b sc) := by
  unfold gbarWaitBody
  exact Ends.check (notInSteep_ends ..) fun _ => Ends.check (gbarTest_ends ..) fun _ => Ends.ite (by simp [hs]) hs

@[simp] theorem gbarTryBody_ends (a b : BitVec 5) (p sc : BitVec 3) : Ends State.Canonical (gbarTryBody s a b p sc) := by
  unfold gbarTryBody
  exact Ends.check (gbarTest_ends ..) fun _ => Ends.ite (by simp [hs]) hs

@[simp] theorem evWaitBody_ends (a : BitVec 5) : Ends State.Canonical (evWaitBody s a) := by
  unfold evWaitBody
  exact Ends.check (notInSteep_ends ..) fun _ => Ends.ite hs hs

@[simp] theorem waitcBody_ends (ms mx cp st ld : BitVec 4) : Ends State.Canonical (waitcBody s ms mx cp st ld) := by
  unfold waitcBody
  exact Ends.check (deliveryWait_ends hs ..) fun _ => hs

/-! ### Control transfers -/

@[simp] theorem push_ends (ra : Word) : Ends State.Canonical (push s ra) := by
  unfold push
  refine Ends.ite (Ends.bind (issueStore_ends hs ..) fun u hu => ?_) (by simp [hs])
  simpa using hu

@[simp] theorem jump_ends (target : Word) : Ends State.Canonical (jump s target) := by
  unfold jump
  split <;> simp [hs]

@[simp] theorem branchBody_ends (taken : Bool) (off : Word) : Ends State.Canonical (branchBody s taken off) := by
  unfold branchBody
  split <;> simp [hs]

@[simp] theorem refill_ends (size : Nat) : Ends State.Canonical (refill s size) := by
  unfold refill
  exact Ends.check (by simp) fun _ => Ends.ite (Ends.check (gate_ends ..) fun _ => by simp [hs]) hs

@[simp] theorem retBody_ends (size : Nat) : Ends State.Canonical (retBody s size) := by
  unfold retBody
  dsimp only
  split
  · simp [hs]
  · exact Ends.ite trivial (refill_ends hs ..)

@[simp] theorem loopBody_ends (a : BitVec 5) (imm : BitVec 12) : Ends State.Canonical (loopBody s a imm) := by
  unfold loopBody
  exact Ends.ite trivial (Ends.ite hs hs)

/-! ### Copies -/

omit hs in
@[simp] theorem copyPlace_ends (ga w : Word) (tile emptySlot : Bool) (gc : Word) (isLoad : Bool) :
    Ends (fun _ => True) (copyPlace s ga w tile emptySlot gc isLoad) := by
  unfold copyPlace
  refine Ends.branch (P := fun _ => True) (ends_lift _) ((ends_pure _).2 trivial) fun place _ => ?_
  cases place with
  | none => trivial
  | some p =>
    dsimp only
    repeat' with_reducible refine Ends.guard ?_
    trivial

@[simp] theorem copyRegion_ends (ga w : Word) (c : Coord) (off region : Nat) (reason5 : Bool) :
    Ends State.Canonical (copyRegion s ga w c off region reason5) := by
  unfold copyRegion
  have h : Memory.wf (if cwBind w then s.meetCaddy s.self.ctx c (cwBar w) 16 1 else s).mem = true := wf_ite (by simp [hs]) hs
  refine Ends.guard (Ends.ite (Ends.check (gate_ends ..) fun _ => ?_) (Ends.guard h))
  repeat' with_reducible refine Ends.guard ?_
  exact h

@[simp] theorem placeCopy_ends (cp : Copy) : Ends State.Canonical (placeCopy s cp) := by
  unfold placeCopy
  exact Ends.when hs fun _ => Ends.check (roomFor_ends ..) fun _ => Ends.check (relGate_ends ..) fun _ => hs

@[simp] theorem copyTile_ends (isLoad : Bool) (a b c : BitVec 5) (tm : BitVec 4) (iword : BitVec 32) :
    Ends State.Canonical (copyTile s isLoad a b c tm iword) := by
  unfold copyTile
  refine Ends.check (primaryOnly_ends ..) fun _ => Ends.check (copyPlace_ends ..) fun p => ?_
  refine Ends.bind (slotDesc_ends hs ..) fun a ha => Ends.bind (copyRegion_ends ha ..) fun u hu => ?_
  exact placeCopy_ends hu ..

@[simp] theorem copyLine_ends (isLoad : Bool) (a b c : BitVec 5) (iword : BitVec 32) : Ends State.Canonical (copyLine s isLoad a b c iword) := by
  unfold copyLine
  refine Ends.check (primaryOnly_ends ..) fun _ => Ends.check (copyPlace_ends ..) fun p => ?_
  exact Ends.bind (copyRegion_ends hs ..) fun u hu => placeCopy_ends hu ..

/-! ### System registers -/

@[simp] theorem mfsrBody_ends (word : Word) (d : BitVec 5) (r : BitVec 12) : Ends State.Canonical (mfsrBody s word d r) := by
  unfold mfsrBody
  split
  · exact trivial
  · exact Ends.ite trivial (Ends.ite hs (by simp [hs]))

@[simp] theorem mtsrBody_ends (word : Word) (a : BitVec 5) (r : BitVec 12) : Ends State.Canonical (mtsrBody s word a r) := by
  unfold mtsrBody
  dsimp only
  split
  · exact trivial
  · split
    · exact trivial
    · exact Ends.ite trivial (Ends.ite trivial (Ends.ite hs (by simp [hs])))

omit hs in
@[simp] theorem haltBody_ends (word : Word) (imm : BitVec 12) : Ends State.Canonical (haltBody s word imm) := by
  unfold haltBody
  dsimp only
  split <;> simp

@[simp] theorem tlbinvBody_ends (word : Word) (k : InvKind) (a c : BitVec 5) : Ends State.Canonical (tlbinvBody s word k a c) := by
  unfold tlbinvBody
  exact Ends.guard (Ends.check (releaseWait_ends hs ..) fun _ => Ends.ite hs hs)

/-! ### Messages -/

omit hs in
@[simp] theorem destCheck_ends (w : Word) (thread rel : Bool) : Ends (fun _ => True) (destCheck s w thread rel) := by
  unfold destCheck
  exact Ends.when (badSend_ends ..) fun _ => Ends.ite trivial (Ends.when (badSend_ends ..) fun _ => trivial)

omit hs in
@[simp] theorem noSteep_ends : Ends (fun _ => True) (noSteep s) := by
  unfold noSteep
  split <;> simp

omit hs in
@[simp] theorem noMember_ends : Ends (fun _ => True) (noMember s) := by
  unfold noMember
  split <;> simp

@[simp] theorem State.sendHeld_ends (m : Send) (d : BitVec 5) (p : Option (BitVec 3)) (leaves : Bool) :
    Ends State.Canonical (s.sendHeld m d p leaves) := by
  simp [State.sendHeld, hs]

@[simp] theorem spawnFind_ends (ra rb : BitVec 5) (mem : Bool) : Ends (·.2.Canonical) (spawnFind s ra rb mem) := by
  unfold spawnFind
  refine Ends.check (destCheck_ends ..) fun rank => Ends.ite (Ends.guard ?_) (Ends.guard hs)
  exact Ends.bind (readNow_ends hs ..) fun a ha => Ends.guard ha

@[simp] theorem spawnBody_ends (ra rb : BitVec 5) (mem : Bool) (try_ : Option (BitVec 5 × BitVec 3)) :
    Ends State.Canonical (spawnBody s ra rb mem try_) := by
  unfold spawnBody
  refine Ends.when (noSteep_ends ..) fun _ => Ends.when (noMember_ends ..) fun _ => ?_
  refine Ends.bind (found_ends hs (spawnFind_ends hs ..)) fun a h => ?_
  obtain ⟨f, s⟩ := a
  have h : Memory.wf s.mem = true := h
  refine Ends.check (counterWait_ends (by simp [h]) ..) fun _ => ?_
  cases try_ with
  | none => simp [h]
  | some d => exact Ends.ite (by simp [h]) (State.sendHeld_ends (by simp [h]) ..)

@[simp] theorem migrateStart_ends (ra : BitVec 5) : Ends (fun _ => True) (migrateStart s ra) := by
  unfold migrateStart
  refine Ends.check (noSteep_ends ..) fun _ => Ends.check (noMember_ends ..) fun _ => ?_
  refine Ends.bind (found_ends hs (Ends.map (destCheck_ends ..) fun _ => hs)) fun a h => ?_
  exact Ends.check (counterWait_ends (by simp [hs]) ..) fun _ => trivial

@[simp] theorem migrateBody_ends (ra : BitVec 5) : Ends State.Canonical (migrateBody s ra) := by
  unfold migrateBody
  exact Ends.check (migrateStart_ends hs ..) fun _ => by simp [hs]

@[simp] theorem migrateTryBody_ends (d ra : BitVec 5) : Ends State.Canonical (migrateTryBody s d ra) := by
  unfold migrateTryBody
  exact Ends.check (migrateStart_ends hs ..) fun _ => Ends.ite hs hs

@[simp] theorem suspendFind_ends (ga : Word) : Ends (·.2.Canonical) (suspendFind s ga) := by
  unfold suspendFind
  exact Ends.when (badSend_ends ..) fun _ => Ends.check (by simp) fun _ => Ends.guard hs

@[simp] theorem suspendBody_ends (ra : BitVec 5) : Ends State.Canonical (suspendBody s ra) := by
  unfold suspendBody
  refine Ends.check (noSteep_ends ..) fun _ => Ends.check (noMember_ends ..) fun _ => ?_
  refine Ends.bind (found_ends hs (suspendFind_ends hs ..)) fun a h => ?_
  obtain ⟨f, s⟩ := a
  have h : Memory.wf s.mem = true := h
  refine Ends.check (counterWait_ends (by simp [h]) ..) fun _ => ?_
  simp [h]

@[simp] theorem exitBody_ends : Ends State.Canonical (exitBody s) := by
  unfold exitBody
  refine Ends.check (noSteep_ends ..) fun _ => ?_
  refine Ends.branch (leaveBody_ends hs ..) ((ends_pure _).2 hs) fun s h => ?_
  have h : Memory.wf s.mem = true := h
  exact Ends.check (counterWait_ends h ..) fun _ => by simp [h]

@[simp] theorem msgBody_ends (ra rb : BitVec 5) (rel : Bool) (try_ : Option (BitVec 5 × BitVec 3)) :
    Ends State.Canonical (msgBody s ra rb rel try_) := by
  unfold msgBody
  refine Ends.when (noSteep_ends ..) fun _ => ?_
  refine Ends.bind (found_ends hs (Ends.check (destCheck_ends ..) fun _ => Ends.ite trivial hs)) fun a h => ?_
  refine Ends.when (releaseWait_ends (by simp [hs]) ..) fun _ => ?_
  cases try_ with
  | none => exact Ends.check (roomFor_ends ..) fun _ => by simp [hs]
  | some d =>
    refine Ends.ite (by simp [hs]) (Ends.ite ?_ (Ends.check (roomFor_ends ..) fun _ => ?_))
    · exact (ends_error (P := fun _ : Unit => True) _).2 (by simp [hs])
    · exact State.sendHeld_ends (by simp [hs]) ..

@[simp] theorem popBody_ends (d b : BitVec 5) (poll : Option (BitVec 3)) : Ends State.Canonical (popBody s d b poll) := by
  unfold popBody
  refine Ends.when (noSteep_ends ..) fun _ => Ends.check (roomFor_ends ..) fun _ => ?_
  dsimp only
  split
  · exact hs
  · exact hs
  · refine Ends.when (by simp [hs]) fun _ => ?_
    split <;> simp [hs]

/-! ### Rings -/

@[simp] theorem ringCfgBody_ends (ra rb : BitVec 5) : Ends State.Canonical (ringCfgBody s ra rb) := by
  unfold ringCfgBody
  refine Ends.check (primaryOnly_ends ..) fun _ => Ends.check (noSteep_ends ..) fun _ => Ends.ite trivial ?_
  refine Ends.bind (readNow_ends hs ..) fun a h => ?_
  obtain ⟨db, s⟩ := a
  refine Ends.ite trivial (Ends.bind (P := fun r : List Byte × State => r.2.Canonical)
    (Ends.ite ((ends_pure _).2 h) (readNow_ends h ..)) fun a h => ?_)
  obtain ⟨tb, s⟩ := a
  have h : Memory.wf s.mem = true := h
  dsimp only
  split
  · trivial
  · refine Ends.ite trivial (Ends.ite trivial ?_)
    have hd (l : List Inject) (u : State) (hu : Memory.wf u.mem = true) : Memory.wf (l.foldl (fun s q => s.countDown q.thread .cp 1) u).mem = true :=
      wf_foldl (fun _ _ h => by simp [h]) l hu
    split <;> simp [h, hd, -List.foldl_append]

@[simp] theorem ringGoBody_ends : Ends State.Canonical (ringGoBody s) := by
  unfold ringGoBody
  refine Ends.check (primaryOnly_ends ..) fun _ => Ends.check (noSteep_ends ..) fun _ => ?_
  split
  · trivial
  · refine Ends.ite trivial (Ends.ite (by simp [hs]) ?_)
    exact wf_foldl (fun _ _ h => by simp [h]) _ hs

omit hs in
@[simp] theorem putPlace_ends (i : RingIf) (ga gb : Word) : Ends (fun _ => True) (putPlace s i ga gb) := by
  unfold putPlace
  dsimp only
  split <;> simp

@[simp] theorem ringPutBody_ends (ra rb : BitVec 5) (try_ : Option (BitVec 5 × BitVec 3)) : Ends State.Canonical (ringPutBody s ra rb try_) := by
  unfold ringPutBody
  refine Ends.check (primaryOnly_ends ..) fun _ => Ends.when (noSteep_ends ..) fun _ => ?_
  dsimp only
  split
  · exact badRing_ends ..
  · refine Ends.check (putPlace_ends ..) fun _ => Ends.when (gate_ends ..) fun _ => ?_
    split
    · exact Ends.when hs fun _ => Ends.check (roomFor_ends ..) fun _ => by simp [hs]
    · exact Ends.ite hs (Ends.check (roomFor_ends ..) fun _ => by simp [hs])

@[simp] theorem ringTakeBody_ends (d : BitVec 5) (p : BitVec 3) : Ends State.Canonical (ringTakeBody s d p) := by
  unfold ringTakeBody
  refine Ends.check (primaryOnly_ends ..) fun _ => ?_
  split
  · exact badRing_ends ..
  · split <;> simp [hs]

@[simp] theorem steepDoneBody_ends : Ends State.Canonical (steepDoneBody s) := by
  unfold steepDoneBody
  refine Ends.check (primaryOnly_ends ..) fun _ => Ends.guard (Ends.check (deliveryWait_ends hs ..) fun _ => ?_)
  split
  · exact hs
  · split <;> simp [hs]

/-! ### Integer and predicate instructions -/

@[simp] theorem putG_ends (d : BitVec 5) (r : Word) : Ends State.Canonical (putG s d r) := by simp [putG, hs]

end Sys2Proof.Machine
end

section
/-!
PROOFS. Every step answers a next state, and one whose memory is canonical where it was so before (O7, O8).
-/

namespace Sys2Proof.Machine

/-- An outcome is a next state, and one with canonical memory where the state before it had it. -/
def Answers (s : State) (o : Host.Outcome State Fault Refusal) : Prop :=
  ∃ t, o = .next t ∧ (Memory.wf s.mem = true → Memory.wf t.mem = true)

theorem next_answers {s t : State} (h : Memory.wf s.mem = true → Memory.wf t.mem = true) : Answers s (.next t) := ⟨t, rfl, h⟩

/-- What a body's end comes to: each way to end answers a next state, made of the state that the end carries. -/
theorem finish_answers {n : Nat} {s : State} {b : Body} (hb : Memory.wf s.mem = true → Ends State.Canonical b) : Answers s (finish n s b) := by
  unfold finish
  split <;> refine next_answers fun hs => ?_
  case h_2 | h_5 | h_10 => simp [hs]
  all_goals simpa using hb hs

theorem guarded_answers {g : BitVec 4} {s : State} {b : Body} (hb : Memory.wf s.mem = true → Ends State.Canonical b) :
    Answers s (guarded g s b) := by
  unfold guarded
  split
  · exact finish_answers hb
  · exact next_answers fun hs => by simp [hs]

theorem onCompute_answers {i : Instr} {s : State} {k : Host.Outcome State Fault Refusal} (hk : Answers s k) : Answers s (onCompute i s k) := by
  unfold onCompute
  split
  · exact next_answers fun hs => by simp [hs]
  · exact hk

/-- Every instruction and every event answers a next state, with canonical memory where it was so. -/
theorem exec_answers (i : Instr) (s : State) : Answers s (exec i s) := by
  cases i with
  | addi | andi | ori | xori | shli | shri | srai | movh | movh60 | addpc | cmp | cmpi | pand | por | pxor | pnot | pmov | nop | pref | evTry
  | trap | tret | bkpt | cMov | cAdd | cSub | cAnd | cOr | cXor | cAddi | cLi | cShli | cNop =>
    exact next_answers fun hs => by simp [hs]
  | brp | jmp | ret | loop | ldB | ldH | ldW | ldD | ldBN | ldHN | ldWN | stB | stH | stW | stD | ldAcq | stRel | fenceAcq | discard | clean
  | invalD | invalI | vld | vst | accInit | accSettle | redV | detNext | drain | tmld | waitc | barInit | barArr | barArrx | barWait | barTry
  | gbarArr | gbarWait | gbarTry | evWait | mfsr | mtsr | tlbinvVa | tlbinvCtx | tlbinvIpa | tlbinvPart | halt | cLd | cSt | cBr | cRet | cWaitc =>
    exact finish_answers fun hs => by simp [hs]
  | add | sub | and | or | xor | andn | shl | shr | sra | rot | min | max | minn | maxn | mov | sel | bfx | bfxn | bfi | clz | ctz | popc | brev
  | mul | mulh | mulhn | div | divn | rem | remn | amoAdd | amoAnd | amoOr | amoXor | amoMin | amoMax | amoMinn | amoMaxn | amoSwap | amoCas
  | amoFadd | vadd | vsub | vmul | vdiv | vmin | vmax | vfma | vfms | vfnma | vfnms | vcmp | vabs | vneg | vsqrt | vrcp | vrsq | vexp2 | vlog2
  | viadd | visub | vimul | vimac | viaddS | visubS | vimulS | vimacS | vshl | vshr | vsra | vand | vor | vxor | vcvt | vqnt | vdeq | vdot
  | vsplat | vmov | vsel | vshuf | vext | vins | vhsum | vhmax | spawn | spawnM | spawnTry | spawnMTry | migrate | migrateTry | suspend | exit
  | msgApp | msgAppRel | msgTry | msgTryRel | msgPop | msgPoll =>
    exact guarded_answers fun hs => by simp [hs]
  | mma | mmaL | mmaSp8 | mmaSp16 | mmaSp32 | cpyTLd | cpyTSt | cpyLLd | cpyLSt =>
    exact onCompute_answers (finish_answers fun hs => by simp [hs])
  | cnvJoin | cnvTry | ringCfg | ringPut | ringGo | steepDone | ringTry | ringTake =>
    exact onCompute_answers (guarded_answers fun hs => by simp [hs])
  | configRegisterWrite | packetRead | materialiseThread | pourComplete | queueBalance | rotationBoundary | instantiateContinuation
  | fullThreadArrival | registerCacheFill | inboxAppend | sendReply | sendRetry | holdLapse | pendingTrapDeadline | loadReply | storeAck
  | storeRefusal | homeAccess | atomicAtHome | caddyAccessArrival | regionMerge | pageWalkComplete | copyLineTransfer | copyComplete
  | engineArbitration | leaseIdleExpiry | matrixCommandComplete | infuserArrival | reductionAck | retryResend | accLineEvict | beatBoundary
  | steepTailDone | haltComplete | commit | ccommit | plevel | powerGateCore | powerWakeCore | partitionSleep | partitionWake | switchOut
  | switchIn | haltreq | rankcmd | refusalsClear | contextTeardown | partitionReset | hbmPreservingReset | coldReset | recoveryImageWrite
  | fullServiceStart | vfReset | cxlLinkDown | podLinkDown | hostRequestTimeout | podRequestTimeout | linkRetryExhausted | hostCxlMemAccess
  | peerQueueWrite | podMemoryAccess | thermalThrottle | coreClockGate | d3hotEntry | scrub | debugRequest | getVersion | getCapabilities
  | negotiateAlgorithms | getDigests | getCertificate | challenge | getMeasurements | keyExchange | finish | endSession | vendorDefinedRequest
  | spdmUnsupportedRequest | powerLoss | d3hotExit | enterDeployed | podGbarArrival | cxlCacheSnoop | linkUp =>
    exact next_answers fun hs => by simp [hs]
  | qtailDoorbell => exact next_answers fun hs => wf_ite (by simp [hs]) hs
  | jal | jalr => exact finish_answers fun hs => Ends.guard (Ends.bind (push_ends hs ..) fun _ h => jump_ends h ..)
  | fenceRel => exact finish_answers fun hs => Ends.check (releaseWait_ends hs ..) fun _ => hs
  | fenceAr => exact finish_answers fun hs => Ends.check (releaseWait_ends hs ..) fun _ => fenceAcqBody_ends hs ..
  | evSig => exact finish_answers fun hs => Ends.ite hs (evSigState_wf hs ..)
  | yield => exact guarded_answers fun hs => Ends.check (noSteep_ends ..) fun _ => by simp [hs]
  | cpyWp | cpyStop => exact onCompute_answers (finish_answers fun hs => Ends.check (primaryOnly_ends ..) fun _ => by simp [hs])
  | cnvLeave => exact onCompute_answers (guarded_answers fun hs => Ends.check (primaryOnly_ends ..) fun _ => Ends.guard (leaveBody_ends hs ..))

/-! ## Fetch and issue -/

theorem Answers.trans {s u : State} {o : Host.Outcome State Fault Refusal} (h : Memory.wf s.mem = true → Memory.wf u.mem = true)
    (ho : Answers u o) : Answers s o := by
  obtain ⟨t, rfl, ht⟩ := ho
  exact ⟨t, rfl, ht ∘ h⟩

/-- The state that a fetch which brings bytes leaves has canonical memory. -/
def Fetched : Except Fail (List Byte × State) → Prop
  | .ok p => Memory.wf p.2.mem = true
  | .error _ => True

theorem fetched_ok {p : List Byte × State} (h : Memory.wf p.2.mem = true) : Fetched (.ok p) := h

theorem fetched_error (f : Fail) : Fetched (.error f) := trivial

theorem Fetched.bind {r : Except Fail (List Byte × State)} {f : List Byte × State → Except Fail (List Byte × State)} (hr : Fetched r)
    (hf : ∀ p, Memory.wf p.2.mem = true → Fetched (f p)) : Fetched (r >>= f) := by
  cases r with
  | ok p => exact hf p hr
  | error e => trivial

section
variable {s : State} (hs : Memory.wf s.mem = true)
include hs

theorem textLine_fetched (q : Who) (t : Target) (va : Word) : Fetched (s.textLine q t va) := by
  unfold State.textLine
  dsimp only
  split
  · split
    · exact fetched_ok hs
    · exact fetched_ok (by simp [hs])
  · split
    · exact fetched_ok (by simp [hs])
    · exact fetched_error _
  · exact fetched_ok (by simp [hs])
  · exact fetched_ok (by simp [hs])

theorem readText_fetched (x : Thread) (va : Word) (t : Target) (page : Nat × Nat) : Fetched (s.readText x va t page) := by
  unfold State.readText
  dsimp only
  split
  · exact fetched_ok (by simp [hs])
  · split
    · exact fetched_ok (by simp [hs])
    · exact Fetched.bind (textLine_fetched hs ..) fun p h => fetched_ok (by simp [h])

theorem fetchHalf_fetched (t : Nat) (va : Word) : Fetched (s.fetchHalf t va) := by
  unfold State.fetchHalf
  cases s.xlate (s.thread t).who va .exec with
  | error e => exact fetched_error e
  | ok x =>
    have h : Memory.wf (s.walkTouch (s.thread t).who va).mem = true := by simp [hs]
    exact readText_fetched h ..

theorem fetch_fetched (t : Nat) : Fetched (s.fetch t) := by
  refine Fetched.bind (fetchHalf_fetched hs ..) fun p h => ?_
  dsimp only
  split
  · exact Fetched.bind (fetchHalf_fetched h ..) fun p h => fetched_ok h
  · exact fetched_ok h

end

section
variable {s u : State} {o : Host.Outcome State Fault Refusal} (h : Answers s o)
include h

theorem mendRegs_answers (i : Instr) : Answers s (u.mendRegs i o) := by
  obtain ⟨t, rfl, ht⟩ := h
  unfold State.mendRegs
  dsimp only
  split
  · exact next_answers ht
  · split <;> exact next_answers fun hs => by simp [ht hs]

theorem noteIssue_answers (t : Nat) : Answers s (u.noteIssue t o) := by
  obtain ⟨v, rfl, hv⟩ := h
  unfold State.noteIssue
  dsimp only
  split
  · exact next_answers hv
  · split
    · exact next_answers fun hs => by simp [hv hs]
    · split <;> exact next_answers fun hs => by simp [hv hs]

theorem endDebugStep_answers (single : Bool) (t : Nat) : Answers s (endDebugStep single t o) := by
  obtain ⟨v, rfl, hv⟩ := h
  unfold endDebugStep
  dsimp only
  split
  · split <;> exact next_answers fun hs => by simp [hv hs]
  · exact next_answers hv

end

theorem execute_answers (s : State) (i : Instr) : Answers s (s.execute i) := by
  refine Answers.trans (u := (s.meetRegs i).walkFor i) (fun hs => by simp [hs]) ?_
  unfold State.execute
  dsimp only
  split
  · exact next_answers id
  · exact mendRegs_answers (exec_answers ..) i

theorem runInstr_answers (s : State) : Answers s s.runInstr := by
  unfold State.runInstr
  split
  · exact next_answers fun hs => by simp [hs]
  case h_2 bs t ht =>
    have hw (hs : Memory.wf s.mem = true) : Memory.wf t.mem = true := by
      have h := fetch_fetched hs s.cur
      rwa [ht] at h
    split
    · exact next_answers hw
    · split
      · exact next_answers fun hs => by simp [hw hs]
      · exact (execute_answers ..).trans hw

theorem issue_answers (s : State) (t : Nat) : Answers s (s.issue t) := by
  unfold State.issue
  split
  · exact next_answers fun hs => by simp [hs]
  · exact endDebugStep_answers (noteIssue_answers ((runInstr_answers _).trans fun hs => by simp [hs]) t) _ t

/-! ## The units -/

/-- A move keeps memory canonical. -/
def Move.Keeps (f : Move) : Prop := ∀ s : State, Memory.wf s.mem = true → Memory.wf (f s).mem = true

theorem packetMove_keeps (k : Nat) (p : Packet) : Move.Keeps (packetMove k p) := by
  intro s hs
  cases p with
  | load | store => dsimp only [packetMove]; split <;> simp [hs]
  | _ => simp [packetMove, hs]

theorem netMoves_keep (s : State) : ∀ f ∈ s.netMoves, Move.Keeps f := by
  intro f hf
  simp only [State.netMoves, Packet.walks, List.mem_flatMap, List.mem_cons, List.mem_map] at hf
  obtain ⟨p, -, rfl | ⟨a, -, rfl⟩⟩ := hf
  · exact packetMove_keeps p.2 p.1
  · exact fun s hs => by simp [hs]

theorem threadMoves_keep (t : Nat) (x : Thread) : ∀ f ∈ threadMoves t x, Move.Keeps f := by
  intro f hf s hs
  simp only [threadMoves, List.mem_append, List.mem_map, List.mem_ite_nil_right, List.mem_singleton] at hf
  obtain ((⟨-, rfl⟩ | ⟨a, -, rfl⟩) | ⟨-, rfl⟩) | ⟨-, rfl⟩ := hf <;> simp [hs]

theorem Channel.moves_keep (k : Channel) (c : Coord) (ch : BitVec 2) : ∀ f ∈ k.moves c ch, Move.Keeps f := by
  intro f hf s hs
  unfold Channel.moves at hf
  split at hf
  · simp at hf
  · split at hf
    · obtain rfl := List.mem_singleton.1 hf
      simp [hs]
    · obtain rfl | hf := List.mem_cons.1 hf
      · simp [hs]
      · split at hf
        · split at hf
          · simp at hf
          · obtain rfl := List.mem_singleton.1 hf
            simp [hs]
        · simp at hf

theorem coreMoves_keep (s : State) (c : Coord) (k : Core) : ∀ f ∈ s.coreMoves c k, Move.Keeps f := by
  intro f hf u hu
  simp only [State.coreMoves, List.mem_append, List.mem_map, List.mem_flatMap, List.mem_ite_nil_left, List.mem_ite_nil_right,
    List.mem_cons, List.not_mem_nil, or_false] at hf
  obtain (((((((⟨a, -, hf⟩ | ⟨-, rfl⟩) | ⟨-, rfl | rfl⟩) | ⟨a, -, rfl⟩) | ⟨-, rfl⟩) | ⟨-, rfl⟩) | ⟨a, -, rfl⟩) | ⟨a, -, rfl⟩) | ⟨-, rfl⟩ := hf
  · exact Channel.moves_keep _ _ _ f hf u hu
  all_goals simp [hu]

theorem queueMoves_keep (s : State) : ∀ f ∈ s.queueMoves, Move.Keeps f := by
  intro f hf u hu
  simp only [State.queueMoves, List.mem_append, List.mem_map] at hf
  obtain ((⟨a, -, rfl⟩ | ⟨a, -, rfl⟩) | ⟨a, -, rfl⟩) | ⟨a, -, rfl⟩ := hf <;> simp [hu]

theorem powerMove_keeps (p : BitVec 6) (x : Word) : Move.Keeps (powerMove p x) := by
  intro s hs
  dsimp only [powerMove]
  split
  · simp [hs]
  · split
    · simp [hs]
    · split <;> simp [hs]

theorem switchMove_keeps (p : BitVec 6) (x : Word) : Move.Keeps (switchMove p x) := by
  intro s hs
  dsimp only [switchMove]
  split <;> simp [hs]

theorem rankMove_keeps (p : BitVec 6) (x : Word) : Move.Keeps (rankMove p x) := fun s hs => by simp [rankMove, hs]

theorem resetMove_keeps (p : BitVec 6) (x : Word) : Move.Keeps (resetMove p x) := by
  intro s hs
  unfold resetMove
  split <;> simp [hs]

theorem partMoves_keep (n : Nat) (p : Part) : ∀ f ∈ partMoves n p, Move.Keeps f := by
  intro f hf
  simp only [partMoves, List.mem_append, List.mem_map, List.mem_ite_nil_right, List.mem_singleton] at hf
  obtain (((⟨-, rfl⟩ | ⟨x, -, rfl⟩) | ⟨x, -, rfl⟩) | ⟨x, -, rfl⟩) | ⟨x, -, rfl⟩ := hf
  · exact fun s hs => by simp [hs]
  · exact powerMove_keeps _ x
  · exact switchMove_keeps _ x
  · exact resetMove_keeps _ x
  · exact rankMove_keeps _ x

theorem unitMoves_keep (s : State) : ∀ f ∈ s.unitMoves, Move.Keeps f := by
  intro f hf
  simp only [State.unitMoves, List.mem_append, List.mem_map, List.mem_flatMap, List.mem_ite_nil_left, List.mem_ite_nil_right,
    List.mem_singleton] at hf
  obtain (((((((((hf | ⟨e, -, hf⟩) | ⟨e, -, hf⟩) | ⟨e, -, rfl⟩) | hf) | ⟨e, -, rfl⟩) | ⟨e, -, hf⟩) | ⟨-, rfl⟩) | ⟨-, rfl⟩) | ⟨e, -, rfl⟩) |
    ⟨e, -, rfl⟩ := hf
  · exact netMoves_keep s f hf
  · exact threadMoves_keep _ _ f hf
  · exact coreMoves_keep s _ _ f hf
  · exact fun s hs => by simp [hs]
  · exact queueMoves_keep s f hf
  · exact fun s hs => by simp [hs]
  · exact partMoves_keep _ _ f hf
  all_goals exact fun s hs => by simp [hs]

/-! ## The step -/

theorem unitTurn_answers (s : State) : Answers s s.unitTurn := by
  unfold State.unitTurn
  dsimp only
  split
  case h_1 f hf => exact next_answers fun hs => unitMoves_keep _ f (List.mem_of_getElem? hf) _ (by simp [hs])
  case h_2 => exact next_answers fun hs => by simp [hs]

theorem advance_answers (s : State) : Answers s s.advance := by
  unfold State.advance
  split
  case h_1 i rest _ =>
    dsimp only
    split
    · exact Answers.trans (u := { s with inputs := rest }) id (exec_answers i _)
    · exact next_answers id
  case h_2 =>
    dsimp only
    split
    case h_1 t _ => exact Answers.trans (u := { s with turn := !s.turn }) id (issue_answers _ t)
    case h_2 => exact Answers.trans (u := { s with turn := !s.turn }) id (unitTurn_answers _)

@[simp] theorem State.noteMaps_mem (old s : State) : (State.noteMaps old s).mem = s.mem := by
  unfold State.noteMaps
  split <;> rfl

theorem step_answers (s : State) : Answers s (step s) := by
  obtain ⟨t, ht, h⟩ := (advance_answers s.tick).trans (s := s) fun hs => by simp [hs]
  exact ⟨s.noteMaps t, by simp [step, ht, State.mapped], fun hs => by simp [h hs]⟩

/-- Settles O8: every body's end, every event and every unit's move answers a next state (`step_answers`). -/
theorem everyStepAnswers : Obligations.EveryStepAnswers := by
  unfold Obligations.EveryStepAnswers
  intro s
  obtain ⟨t, ht, -⟩ := step_answers s
  exact ⟨t, ht⟩

/-- Settles O7: each of the model's writers keeps the canonical form, and so each body's end, event and unit's move does (`step_answers`). -/
theorem memoryStaysCanonical : Obligations.MemoryStaysCanonical := by
  unfold Obligations.MemoryStaysCanonical
  intro s t hs h
  obtain ⟨u, hu, hw⟩ := step_answers s
  cases hu.symm.trans h
  exact hw hs

end Sys2Proof.Machine
end

section
/-!
PROOFS. What the fetch of a halfword that no cache holds reads (O6).
-/

namespace Sys2Proof.Machine

/-- No error stands, and the front end `u` holds no text in its instruction cache or its loop buffers. -/
structure Bare (u : Coord) (s : State) : Prop where
  free : s.errorFree = true
  icache : (s.coreAt u).icache = []
  loops : (s.coreAt u).loops = []

section
variable {u : Coord} {s : State} (h : Bare u s)
include h

theorem Bare.meetFor_eq (c : Option CtxId) (r : Nat) (e : Coord) (l n k : Nat) : s.meetFor c r e l n k = s := by
  obtain ⟨hb, hs⟩ := s.errorFree_iff.1 h.free
  unfold State.meetFor
  split
  · exact State.meetErrors_none _ _ _ _ _ _ _ hs hb
  · exact State.noticeErrors_none h.free ..

theorem Bare.slices (t : State) : Bare u (s.slices t) := by
  rw [State.slices_none h.free]
  exact ⟨h.free, h.icache, h.loops⟩

theorem Bare.withRegions (rs : List Region) : Bare u { s with regions := rs } := ⟨h.free, h.icache, h.loops⟩

theorem Bare.modCore {f : Core → Core} (c : Coord) (hi : ∀ k, (f k).icache = k.icache) (hl : ∀ k, (f k).loops = k.loops) :
    Bare u (s.modCore c f) := by
  unfold State.modCore
  by_cases hc : u = c
  · subst hc
    exact ⟨h.free, by simp [hi, h.icache], by simp [hl, h.loops]⟩
  · exact ⟨h.free, by simp [State.coreAt_setCore_ne _ _ hc, h.icache], by simp [State.coreAt_setCore_ne _ _ hc, h.loops]⟩

theorem Bare.writeHome (c : Coord) (l : L1Line) : Bare u (s.writeHome c l) := by
  unfold State.writeHome
  rw [State.noticeErrors_none h.free]
  split
  · exact h
  · exact h.slices _

theorem Bare.writeBackLines (c : Coord) (f : L1Line → Bool) : Bare u (s.writeBackLines c f) := by
  unfold State.writeBackLines
  dsimp only
  split
  · exact h
  · exact Bare.modCore (foldl_keeps (P := Bare u) (fun _ _ h => Bare.writeHome h ..) _ h) c (fun _ => rfl) fun _ => rfl

theorem Bare.loseLines (c : Coord) (r : Region) : Bare u (s.loseLines c r) := by
  unfold State.loseLines
  exact Bare.modCore (h.writeBackLines ..) c (fun _ => rfl) fun _ => rfl

theorem Bare.requestLine (line : Nat) (b : Option Coord) (take : Bool) (c : Option CtxId) : Bare u (s.requestLine line b take c) := by
  unfold State.requestLine
  simp only [h.meetFor_eq, ite_self]
  split
  · exact h
  · split
    · exact h
    · split
      · exact Bare.loseLines (h.withRegions _) ..
      · exact h.withRegions _

theorem Bare.walkTouch (q : Who) (va : Word) : Bare u (s.walkTouch q va) := by
  unfold State.walkTouch State.readEntries
  dsimp only
  split
  · exact h.slices _
  · exact Bare.slices (foldl_keeps (P := Bare u) (fun _ _ h => Bare.requestLine h ..) _ h) _

/-- A halfword of HBM text that no cache of the front end holds is cut from the line at its home. -/
theorem Bare.readText {x : Thread} (hu : x.unit = u) (va : Word) {t : Target} (ht : t.cls = .trk ∨ t.cls = .unt) (page : Nat × Nat) :
    ∃ s', s.readText x va t page = .ok (((s.bytes (64 * (t.pa / 64)) 64).drop (t.pa % 64)).take 2, s') ∧ s'.mem = s.mem ∧
      s'.threads = s.threads := by
  have hl : s.textLine x.who t va = .ok (s.bytes (64 * (t.pa / 64)) 64,
      (s.requestLine (t.pa / 64) (some x.who.unit) false (some x.who.ctx)).sliceRead t.home (64 * (t.pa / 64)) 64 x.who.ctx 1) := by
    unfold State.textLine
    rcases ht with ht | ht <;> rw [ht]
  unfold State.readText
  simp only [hu, h.icache, h.loops, List.find?_nil, hl]
  refine ⟨_, rfl, ?_, ?_⟩ <;> simp [State.sliceRead]

end

@[simp] theorem State.walkTouch_threads (s : State) (q : Who) (va : Word) : (s.walkTouch q va).threads = s.threads := by
  unfold State.walkTouch State.readEntries
  refine (State.slices_threads (foldl_threads (fun _ _ => State.sliceLook_threads ..) _ _)).trans ?_
  split
  · rfl
  · exact foldl_threads (by simp) _ _

theorem Memory.drop_readList (m : List Host.Cell) (a n k : Nat) : (Memory.readList m a (k + n)).drop k = Memory.readList m (a + k) n := by
  induction k generalizing a with
  | zero => simp
  | succ k ih => rw [Nat.add_right_comm k 1 n, Memory.readList, List.drop_succ_cons, ih, Nat.add_right_comm a 1 k, Nat.add_assoc]

/-- The halfword at an even place of a line is its two bytes. -/
theorem State.bytes_halfword (s : State) {pa : Nat} (h : pa % 2 = 0) :
    ((s.bytes (64 * (pa / 64)) 64).drop (pa % 64)).take 2 = [s.byte pa, s.byte (pa + 1)] := by
  obtain ⟨n, hn⟩ : ∃ n, 64 = pa % 64 + (n + 2) := ⟨62 - pa % 64, by omega⟩
  have hd := Memory.drop_readList s.mem (64 * (pa / 64)) (n + 2) (pa % 64)
  rw [← hn, Nat.div_add_mod] at hd
  rw [State.bytes, hd]
  rfl

/-- Settles O6: no cache of the front end holds the halfword, nor does the walk bring it there (`Bare`), so it is cut from its line in memory. -/
theorem fetchReadsMemory : Obligations.FetchReadsMemory := by
  unfold Obligations.FetchReadsMemory
  intro s t va g hg hc ha ⟨hsoft, hbad⟩ hi hl
  obtain ⟨x, hx, rfl⟩ : ∃ x, s.xlate (s.thread t).who va .exec = .ok x ∧ s.targetOf x va = g := by
    unfold State.translate at hg
    cases hx : s.xlate (s.thread t).who va .exec with
    | error e => simp [hx] at hg
    | ok x => exact ⟨x, rfl, by simpa [hx] using hg⟩
  have h : Bare (s.thread t).unit s := ⟨s.errorFree_iff.2 ⟨hbad, hsoft⟩, hi, hl⟩
  obtain ⟨s', hr, hm, hth⟩ := (h.walkTouch (s.thread t).who va).readText rfl va hc (x.vbase, x.size)
  have hb : (s.walkTouch (s.thread t).who va).bytes = s.bytes := by
    funext a n
    simp [State.bytes]
  refine ⟨s', ?_, by simp [hm], hth.trans (State.walkTouch_threads ..)⟩
  rw [hb, s.bytes_halfword ha] at hr
  unfold State.fetchHalf
  rw [hx]
  exact hr

end Sys2Proof.Machine
end

section
/-!
PROOFS. Registers, tags, flags and memory read what was written (O10).
-/

namespace Sys2Proof.Machine

@[simp] theorem Thread.getG_zero (x : Thread) : x.getG 0 = 0 := rfl
@[simp] theorem Thread.setG_zero (x : Thread) (v : Word) : x.setG 0 v = x := rfl
@[simp] theorem Thread.getP_zero (x : Thread) : x.getP 0 = true := rfl
@[simp] theorem Thread.setP_zero (x : Thread) (c : Bool) : x.setP 0 c = x := rfl

/-- A general register reads what was written to it, and keeps it while others are written (R35). -/
theorem Thread.getG_setG (x : Thread) {d : BitVec 5} (v : Word) (r : BitVec 5) (hd : d ≠ 0) :
    (x.setG d v).getG r = if r = d then v else x.getG r := by
  rw [Thread.setG, if_neg hd]
  by_cases hr : r = d
  · subst hr
    rw [Thread.getG, if_neg hd, if_pos rfl]
    simp
  · have hn : d.toNat ≠ r.toNat := fun h => hr (BitVec.eq_of_toNat_eq h.symm)
    simp [Thread.getG, hr, hn]

/-- A predicate reads what was written to it, and keeps it while others are written (R35). -/
theorem Thread.getP_setP (x : Thread) {d : BitVec 3} (c : Bool) (r : BitVec 3) (hd : d ≠ 0) :
    (x.setP d c).getP r = if r = d then c else x.getP r := by
  have hlt : r.toNat < 8 := r.isLt
  rw [Thread.setP, if_neg hd]
  by_cases hr : r = d
  · subst hr
    have h0 : decide (r = 0) = false := by simpa using hd
    rw [Thread.getP, h0]
    cases c <;> simp [hlt]
  · have hn : d.toNat ≠ r.toNat := fun h => hr (BitVec.eq_of_toNat_eq h.symm)
    cases c <;> simp [Thread.getP, hr, hlt, hn, -BitVec.getLsbD_eq_getElem, BitVec.getLsbD_twoPow]

/-- The sticky flags stand in bits 8 to 4 of sr.fcsr (R42, R86). -/
theorem Thread.addFlags_fcsr_getLsbD (x : Thread) (f : Flags) (k : Nat) :
    (x.addFlags f).fcsr.getLsbD k = (x.fcsr.getLsbD k || (decide (4 ≤ k ∧ k < 9) && f.getLsbD (k - 4))) := by
  have hf : (f.setWidth 64 <<< 4).getLsbD k = (decide (4 ≤ k ∧ k < 9) && f.getLsbD (k - 4)) := by
    by_cases hk : k < 9
    · have : k < 64 := by omega
      have : k - 4 < 64 := by omega
      by_cases h4 : 4 ≤ k
      · have : ¬ k < 4 := by omega
        simp [*]
      · have : k < 4 := by omega
        simp [*]
    · simp only [BitVec.getLsbD_shiftLeft, BitVec.getLsbD_setWidth, BitVec.getLsbD_of_ge f (k - 4) (by omega), Bool.and_false]
  rw [← hf]
  exact BitVec.getLsbD_or

/-- A byte outside a written range reads as before (R185). -/
theorem Memory.read_writeList_out {m : List Host.Cell} (h : Memory.wf m = true) {a : Nat} {bs : List Byte} {i : Nat}
    (hi : i < a ∨ a + bs.length ≤ i) : Memory.read (Memory.writeList m a bs) i = Memory.read m i := by
  induction bs generalizing m a with
  | nil => rfl
  | cons b bs ih =>
    simp only [List.length_cons] at hi
    rw [Memory.writeList, ih (Memory.wf_write h a b) (by omega), Memory.read_write_ne h b (by omega)]

/-- The bytes of a written range read as written (R185). -/
theorem Memory.read_writeList_in {m : List Host.Cell} (h : Memory.wf m = true) {a : Nat} {bs : List Byte} {i : Nat} (h1 : a ≤ i)
    (h2 : i < a + bs.length) : Memory.read (Memory.writeList m a bs) i = bs.getD (i - a) 0 := by
  induction bs generalizing m a with
  | nil => simp only [List.length_nil] at h2; omega
  | cons b bs ih =>
    simp only [List.length_cons] at h2
    rcases h1.eq_or_lt with rfl | h1
    · rw [Memory.writeList, Memory.read_writeList_out (Memory.wf_write h a b) (by omega), Memory.read_write_self h]
      simp
    · obtain ⟨j, rfl⟩ : ∃ j, i = a + 1 + j := ⟨i - (a + 1), by omega⟩
      rw [Memory.writeList, ih (Memory.wf_write h a b) (by omega) (by omega), Nat.add_assoc, Nat.add_sub_cancel_left,
        Nat.add_comm 1 j, List.getD_cons_succ, ← Nat.add_assoc, Nat.add_right_comm, Nat.add_sub_cancel_left]

/-- Settles O10: the three kinds of cell each read back what was written, and every other cell of the kind as before. -/
theorem readsAfterWrites : Obligations.ReadsAfterWrites := by
  unfold Obligations.ReadsAfterWrites
  refine ⟨fun x v c => ⟨rfl, rfl, rfl, rfl, fun d r hd => x.getG_setG v r hd, fun d r hd => x.getP_setP c r hd⟩,
    fun x w t f => ⟨fun d r => ?_, x.addFlags_fcsr_getLsbD f, rfl⟩,
    fun m a bs h => ⟨Memory.wf_writeList h a bs, fun i h1 h2 => Memory.read_writeList_in h h1 h2, fun i hi => Memory.read_writeList_out h hi⟩⟩
  have hr : r = d ↔ d.toNat = r.toNat := ⟨fun h => h ▸ rfl, fun h => BitVec.eq_of_toNat_eq h.symm⟩
  simp [Thread.setV, Vector.getElem_set, hr]

end Sys2Proof.Machine
end

section
/-!
PROOFS. Taking an exception (O27): the level that takes it, what entering the level changes, and the halt where none can.
-/

namespace Sys2Proof.Machine

open Claims

/-! ### Fields of words -/

theorem Word.toNat_setField (x : Word) (lo n v : Nat) (h : lo + n ≤ 64) : (Word.setField x lo n v).toNat =
    x.toNat % 2 ^ lo + 2 ^ lo * (v % 2 ^ n + 2 ^ n * (x.toNat / 2 ^ (lo + n))) := by
  have hx : x.toNat = x.toNat % 2 ^ lo + 2 ^ lo * (Word.field x lo n + 2 ^ n * (x.toNat / 2 ^ (lo + n))) := by
    have h1 := Nat.mod_add_div x.toNat (2 ^ lo)
    have h2 := Nat.mod_add_div (x.toNat / 2 ^ lo) (2 ^ n)
    rw [Nat.div_div_eq_div_mul, ← Nat.pow_add] at h2
    rw [Word.field, h2, h1]
  set low := x.toNat % 2 ^ lo
  set high := x.toNat / 2 ^ (lo + n) with hh
  have hs : x.toNat - Word.field x lo n * 2 ^ lo + v % 2 ^ n * 2 ^ lo = low + 2 ^ lo * (v % 2 ^ n + 2 ^ n * high) := by
    rw [mul_add, ← add_assoc] at hx ⊢
    rw [Nat.mul_comm (Word.field x lo n)]
    nth_rw 1 [hx]
    rw [Nat.mul_comm (v % 2 ^ n)]
    omega
  have hb : low + 2 ^ lo * (v % 2 ^ n + 2 ^ n * high) < 2 ^ 64 := by
    have hl : low < 2 ^ lo := Nat.mod_lt _ (by positivity)
    have hv : v % 2 ^ n < 2 ^ n := Nat.mod_lt _ (by positivity)
    have hx64 : high < 2 ^ (64 - (lo + n)) := by
      rw [hh, Nat.div_lt_iff_lt_mul (by positivity), ← Nat.pow_add, Nat.sub_add_cancel h]
      exact x.isLt
    calc low + 2 ^ lo * (v % 2 ^ n + 2 ^ n * high) < 2 ^ lo * (v % 2 ^ n + 2 ^ n * high + 1) := by rw [Nat.mul_succ]; omega
      _ ≤ 2 ^ lo * (2 ^ n * (high + 1)) := Nat.mul_le_mul_left _ (by rw [Nat.mul_succ]; omega)
      _ ≤ 2 ^ lo * (2 ^ n * 2 ^ (64 - (lo + n))) := Nat.mul_le_mul_left _ (Nat.mul_le_mul_left _ hx64)
      _ = 2 ^ 64 := by rw [← Nat.pow_add, ← Nat.pow_add]; congr 1; omega
  rw [Word.setField, BitVec.toNat_ofNat, hs, Nat.mod_eq_of_lt hb]

/-- A bit above or below a replaced field stays. -/
theorem Word.getLsbD_setField_out (x : Word) (lo n v k : Nat) (h : lo + n ≤ 64) (hk : k < lo ∨ lo + n ≤ k) :
    (Word.setField x lo n v).getLsbD k = x.getLsbD k := by
  have hl : x.toNat % 2 ^ lo < 2 ^ lo := Nat.mod_lt _ (by positivity)
  have hv : v % 2 ^ n < 2 ^ n := Nat.mod_lt _ (by positivity)
  rw [BitVec.getLsbD, Word.toNat_setField x lo n v h, Nat.add_comm, Nat.testBit_two_pow_mul_add _ hl]
  rcases hk with hk | hk
  · rw [if_pos hk, Nat.testBit_mod_two_pow]
    simp [hk, BitVec.getLsbD]
  · rw [if_neg (by omega), Nat.add_comm, Nat.testBit_two_pow_mul_add _ hv, if_neg (by omega), Nat.testBit_div_two_pow]
    congr 1
    omega

/-- An address that no PC can hold (R44). -/
theorem badPc_iff (x : Word) : badPc x = true ↔ ¬ GoodPc x := by
  have hx : x.toNat < 2 ^ 64 := x.isLt
  have hf : Word.field x 48 16 = x.toNat / 2 ^ 48 := Nat.mod_eq_of_lt (by omega)
  have h0 : x.getLsbD 0 = decide (x.toNat % 2 = 1) := Nat.testBit_zero x.toNat
  simp only [badPc, hf, h0, GoodPc, Bool.or_eq_true, bne_iff_ne, decide_eq_true_eq]
  omega

@[simp] theorem badPc_good {x : Word} (h : GoodPc x) : badPc x = false := by
  rw [← Bool.not_eq_true, badPc_iff]
  exact not_not_intro h

@[simp] theorem badPc_bad {x : Word} (h : ¬ GoodPc x) : badPc x = true := (badPc_iff x).2 h

/-! ### Places and slots -/

theorem foldl_net {α : Type} {f : State → α → State} (hf : ∀ s a, (f s a).net = s.net) (l : List α) (s : State) :
    (l.foldl f s).net = s.net :=
  foldl_keeps (P := fun u => u.net = s.net) (fun b a h => (hf b a).trans h) l rfl

@[simp] theorem State.takeSlot_net (s : State) (c : Coord) (n t : Nat) : (s.takeSlot c n t).net = s.net := rfl

@[simp] theorem State.fillSlots_net (s : State) (c : Coord) : (s.fillSlots c).net = s.net := by
  unfold State.fillSlots
  split
  · rfl
  · refine foldl_net (fun s n => ?_) _ _
    dsimp only
    repeat' split
    all_goals simp

@[simp] theorem State.unplace_net (s : State) (t : Nat) : (s.unplace t).net = s.net := by
  unfold State.unplace
  dsimp only
  split <;> simp

/-! ### The level that takes an exception (R373) -/

/-- Level `k` takes the cause `c` of a thread: its frame is free and it is delegated there, or it is MON. -/
def State.Takes (s : State) (x : Thread) (c k : Nat) : Prop := ((x.frame k).act = false ∧ (s.tdelegOf x k).getLsbD c = true) ∨ k = 3

theorem State.levelFor_eq_find (s : State) (x : Thread) (c lo : Nat) : s.levelFor x c lo =
    ((List.range 4).find? fun l => lo ≤ l && ((!(x.frame l).act && (s.tdelegOf x l).getLsbD c) || l == 3)).getD 3 := rfl

theorem State.takes_iff (s : State) (x : Thread) (c lo k : Nat) :
    (lo ≤ k && ((!(x.frame k).act && (s.tdelegOf x k).getLsbD c) || k == 3)) = true ↔ lo ≤ k ∧ s.Takes x c k := by
  simp [State.Takes]

/-- The lowest level that takes the cause is chosen. -/
theorem State.levelFor_of_lowest {s : State} {x : Thread} {c lo l : Nat} (h3 : l ≤ 3) (hlo : lo ≤ l) (hl : s.Takes x c l)
    (hlow : ∀ k < l, lo ≤ k → ¬ s.Takes x c k) : s.levelFor x c lo = l := by
  rw [State.levelFor_eq_find, List.find?_range_eq_some.2, Option.getD_some]
  refine ⟨(s.takes_iff ..).2 ⟨hlo, hl⟩, List.mem_range.2 (by omega), fun k hk => ?_⟩
  rw [Bool.not_eq_true', ← Bool.not_eq_true, s.takes_iff]
  exact fun h => hlow k hk h.1 h.2

/-- Where no level below MON takes the cause, MON does. -/
theorem State.levelFor_of_none {s : State} {x : Thread} {c lo : Nat} (h : ∀ k < 3, lo ≤ k → ¬ s.Takes x c k) : s.levelFor x c lo = 3 := by
  by_cases hlo : lo ≤ 3
  · exact State.levelFor_of_lowest le_rfl hlo (.inr rfl) h
  · rw [State.levelFor_eq_find, List.find?_eq_none.2, Option.getD_none]
    intro k hk
    have := List.mem_range.1 hk
    have : ¬ lo ≤ k := by omega
    simp [this]

theorem State.levelFor_le (s : State) (x : Thread) (c lo : Nat) : s.levelFor x c lo ≤ 3 := by
  rw [State.levelFor_eq_find]
  cases h : (List.range 4).find? _ with
  | none => exact le_rfl
  | some l =>
    have := List.mem_range.1 (List.mem_of_find?_eq_some h)
    exact Nat.le_of_lt_succ this

theorem State.le_levelFor {s : State} {x : Thread} {c lo : Nat} (hlo : lo ≤ 3) : lo ≤ s.levelFor x c lo := by
  rw [State.levelFor_eq_find]
  cases h : (List.range 4).find? _ with
  | none => exact hlo
  | some l =>
    have := List.find?_some h
    simp only [Bool.and_eq_true, decide_eq_true_eq] at this
    exact this.1

/-! ### Delivery -/

/-- A trap at MON, or while MON's frame is in use, halts the context (R373). -/
theorem State.deliverAt_refused {s : State} {t : Nat} {e : Exc} (h : (s.thread t).pl = 3 ∨ ((s.thread t).frame 3).act = true) (n : Nat) :
    s.deliverAt t e (n + 1) = s.haltCtx (s.thread t).ctx (fatalHalt (s.thread t) e) := by
  have ha : ((s.thread t).frames[3]).act = ((s.thread t).frame 3).act := rfl
  simp only [State.deliverAt, ha]
  rw [if_pos]
  simpa using h

/-- A thread in which level `l` has been entered for an exception (R373). -/
def Thread.entered (x : Thread) (e : Exc) (l : Nat) (vec : Word) : Thread :=
  { x.setFrame l { cause := causeWord e.cause e.async e.step x.pl e.orig e.tpend, epc := e.epc, val := e.val, stat := x.status } with
    status := Word.setField (Word.setField x.status 0 2 l) 2 1 0
    pc := vec.setWidth 48
    park := none, stalled := false, deferred := false, hold := none, woken := false }

/-- What is delivered one level up where a vector is no address (R373). -/
def Exc.badVector (e : Exc) (vec : Word) (l : Nat) : Exc :=
  { cause := cBADPC, val := vec, epc := e.epc, async := e.async, orig := e.cause, floor := l + 1, undo := e.undo }

section
variable {s : State} {t : Nat} {e : Exc} {l : Nat} (hpl : (s.thread t).pl ≠ 3) (hact : ((s.thread t).frame 3).act = false)
  (hl : s.levelFor (s.thread t) e.cause (max (s.thread t).pl e.floor) = l)
include hpl hact hl

theorem State.deliverAt_good (hv : GoodPc (s.tvecOf (s.thread t) l)) (n : Nat) : s.deliverAt t e (n + 1) =
    let u := s.setThread t ((s.thread t).entered e l (s.tvecOf (s.thread t) l))
    if l = 2 ∧ (s.thread t).onService = none then u.toService t e.undo else u := by
  have ha : ((s.thread t).frames[3]).act = false := hact
  simp only [State.deliverAt, hpl, ha, hl, badPc_good hv]
  simp [Thread.entered]

theorem State.deliverAt_bad (hv : ¬ GoodPc (s.tvecOf (s.thread t) l)) (n : Nat) : s.deliverAt t e (n + 1) =
    if l = 3 then s.haltCtx (s.thread t).ctx (fatalHalt (s.thread t) e) else s.deliverAt t (e.badVector (s.tvecOf (s.thread t) l) l) n := by
  have ha : ((s.thread t).frames[3]).act = false := hact
  simp only [State.deliverAt, hpl, ha, hl, badPc_bad hv, hact]
  simp [Exc.badVector]

end

/-- The levels above the first bound the attempts: what is left of the count after they are used up does not matter (R373). -/
theorem State.deliverAt_succ (s : State) (t : Nat) (e : Exc) (n : Nat) (hlo : max (s.thread t).pl e.floor ≤ 3)
    (hn : 4 ≤ n + max (s.thread t).pl e.floor) : s.deliverAt t e (n + 1) = s.deliverAt t e n := by
  induction n generalizing e with
  | zero => omega
  | succ n ih =>
    by_cases hh : (s.thread t).pl = 3 ∨ ((s.thread t).frame 3).act = true
    · rw [State.deliverAt_refused hh, State.deliverAt_refused hh]
    · rw [not_or, Bool.not_eq_true] at hh
      obtain ⟨hpl, hact⟩ := hh
      have hle := State.le_levelFor (s := s) (x := s.thread t) (c := e.cause) hlo
      have hl3 := s.levelFor_le (s.thread t) e.cause (max (s.thread t).pl e.floor)
      generalize hl : s.levelFor (s.thread t) e.cause (max (s.thread t).pl e.floor) = l at hle hl3
      by_cases hv : GoodPc (s.tvecOf (s.thread t) l)
      · rw [State.deliverAt_good hpl hact hl hv, State.deliverAt_good hpl hact hl hv]
      · rw [State.deliverAt_bad hpl hact hl hv, State.deliverAt_bad hpl hact hl hv]
        by_cases h3 : l = 3
        · rw [if_pos h3, if_pos h3]
        · rw [if_neg h3, if_neg h3]
          have hfloor : (e.badVector (s.tvecOf (s.thread t) l) l).floor = l + 1 := rfl
          exact ih _ (by omega) (by omega)

/-- The halt of a trap that no level takes, of a context that is not halting yet (R381). -/
theorem State.haltCtx_running {s : State} {c : CtxId} (h : (s.ctxOf c).halt = none) (r : Halt) :
    s.haltCtx c r = s.modCtx c fun x => { x with halt := some r } := by
  simp [State.haltCtx, State.modCtx, h]

/-- A thread that is not a steep, or is one, sets out for a service core (R374). -/
theorem State.toService_net (s : State) (t : Nat) (u : Undo) :
    (s.toService t u).net = s.net ++ [.move t (s.thread t).core (some (t % 8)) false] := by
  unfold State.toService
  by_cases h : (s.thread t).steep <;> simp [h]

theorem State.toService_thread (s : State) (t : Nat) (u : Undo) :
    (s.toService t u).thread t = { s.thread t with place := .moving, park := none, undo := u } :=
  State.thread_setThread ..

theorem State.toService_steep {s : State} {t : Nat} (h : (s.thread t).steep = true) (u : Undo) :
    s.toService t u = { s.setThread t { s.thread t with place := .moving, park := none, undo := u } with
      net := s.net ++ [.move t (s.thread t).core (some (t % 8)) false] } := by
  simp [State.toService, h]

theorem Thread.entered_steep (x : Thread) (e : Exc) (l : Nat) (vec : Word) : (x.entered e l vec).steep = x.steep := by
  simp only [Thread.entered, Thread.steep]
  rw [Word.getLsbD_setField_out _ _ _ _ _ (by decide) (by decide), Word.getLsbD_setField_out _ _ _ _ _ (by decide) (by decide)]

/-- Settles O27: `levelFor` is the lowest level that takes the cause (`levelFor_of_lowest`), and the attempts that a delivery counts never run out
before MON (`deliverAt_succ`). -/
theorem trapEntry : Obligations.TrapEntry := by
  unfold Obligations.TrapEntry
  constructor
  · intro s t e l x takes entered hpl hact h3 hpl_le hfloor hl hlow
    have hlvl : s.levelFor x e.cause (max x.pl e.floor) = l :=
      State.levelFor_of_lowest h3 (by omega) hl fun k hk hlo => hlow k hk (by omega) (by omega)
    refine ⟨fun hv => ?_, fun hv hl3 => ?_⟩
    · have hd : s.deliver t e = _ := State.deliverAt_good hpl hact hlvl hv 3
      refine ⟨fun h2 => ?_, fun h2 hsvc => ?_⟩
      · rw [hd]
        simp only
        rw [if_neg fun h => ?_]
        · rfl
        · simpa [x, h.2] using h2 h.1
      · rw [if_pos ⟨h2, hsvc⟩] at hd
        refine ⟨⟨t % 8, Nat.mod_lt _ (by decide), ?_⟩, ?_, ?_, fun hst => ?_⟩
        · rw [hd, State.toService_net]; simp [Thread.entered, x]
        · rw [hd, State.toService_thread, State.thread_setThread]; rfl
        · rw [hd]; simp
        · have := State.toService_steep (s := s.setThread t (x.entered e l (s.tvecOf x l))) (t := t)
            (by rw [State.thread_setThread, Thread.entered_steep]; exact hst) e.undo
          rw [hd, this]
          simp [State.setThread, State.thread]
    · have hd : s.deliver t e = _ := State.deliverAt_bad hpl hact hlvl hv 3
      rw [if_neg (by omega)] at hd
      rw [hd]
      have hfl : (e.badVector (s.tvecOf x l) l).floor = l + 1 := rfl
      have hpx : (s.thread t).pl ≤ l := hpl_le
      exact (s.deliverAt_succ t (e.badVector (s.tvecOf x l) l) 3 (by omega) (by omega)).symm
  · intro s t e x noLevel hno hhalt
    have hd : s.deliver t e = s.haltCtx x.ctx (fatalHalt x e) := by
      by_cases hh : x.pl = 3 ∨ (x.frame 3).act = true
      · exact State.deliverAt_refused hh 3
      · obtain ⟨hlow, hv⟩ := (hno.resolve_left fun h => hh (.inl h)).resolve_left fun h => hh (.inr h)
        rw [not_or, Bool.not_eq_true] at hh
        have hlvl : s.levelFor x e.cause (max x.pl e.floor) = 3 := State.levelFor_of_none fun k hk hlo => by
          rcases hlow k hk (by omega) (by omega) with h | h <;> simp [State.Takes, h, Nat.ne_of_lt hk]
        exact (State.deliverAt_bad hh.1 hh.2 hlvl hv 3).trans (if_pos rfl)
    rw [hd, State.haltCtx_running hhalt]
    cases hsvc : x.onService <;> simp [fatalHalt, Thread.haltUnit, hsvc]

end Sys2Proof.Machine
end

section
/-!
PROOFS. Where the pieces of an access lie: an access of one piece, its total length, and an access of two pieces (R205, R118).
-/

namespace Sys2Proof.Machine

open Claims

@[simp] theorem ok_bind {ε α β : Type} (a : α) (f : α → Except ε β) : (Except.ok a >>= f) = f a := rfl
@[simp] theorem error_bind {ε α β : Type} (e : ε) (f : α → Except ε β) : (Except.error e >>= f) = .error e := rfl
@[simp] theorem pure_ok {ε α : Type} (a : α) : (pure a : Except ε α) = .ok a := rfl
@[simp] theorem lift_ok {α : Type} (a : α) : lift (.ok a) = .ok a := rfl
@[simp] theorem lift_error {α : Type} (f : Fail) : lift (.error f : Except Fail α) = trap f.cause f.val f.floor := rfl

theorem bind_eq_ok {ε α β : Type} {x : Except ε α} {f : α → Except ε β} {b : β} : (x >>= f) = .ok b ↔ ∃ a, x = .ok a ∧ f a = .ok b := by
  cases x <;> simp

/-! ### Pieces -/

theorem pieces_zero (va : Word) (unit fuel : Nat) : pieces va unit fuel 0 = [] := by
  cases fuel <;> rfl

/-- An access that lies in one aligned unit is one piece. -/
theorem pieces_one {va : Word} {unit n : Nat} (h0 : 0 < n) (h : va.toNat % unit + n ≤ unit) : pieces va unit n n = [(va, n)] := by
  obtain ⟨m, rfl⟩ : ∃ m, n = m + 1 := ⟨n - 1, by omega⟩
  have hk : min (m + 1) (unit - va.toNat % unit) = m + 1 := by omega
  rw [pieces]
  · simp only [hk, Nat.sub_self, pieces_zero]
  · simp

/-- The bytes of the pieces are those of the access. -/
theorem pieces_total (va : Word) {unit : Nat} (hu : 0 < unit) {fuel n : Nat} (h : n ≤ fuel) :
    ((pieces va unit fuel n).map (·.2)).sum = n := by
  induction fuel generalizing va n with
  | zero => obtain rfl : n = 0 := by omega
            rfl
  | succ fuel ih =>
    rcases Nat.eq_zero_or_pos n with rfl | hn
    · rfl
    · have hm : va.toNat % unit < unit := Nat.mod_lt _ hu
      obtain ⟨m, rfl⟩ : ∃ m, n = m + 1 := ⟨n - 1, by omega⟩
      rw [pieces]
      · simp only [List.map_cons, List.sum_cons]
        rw [ih _ (by omega)]
        omega
      · simp

/-- An access that reaches into the next aligned unit, and not beyond it, is two pieces. -/
theorem pieces_two {va : Word} {unit n m : Nat} (hm : m = unit - va.toNat % unit) (h1 : m < n)
    (h2 : (va + BitVec.ofNat 64 m).toNat % unit + (n - m) ≤ unit) (h0 : 0 < m) :
    pieces va unit n n = [(va, m), (va + BitVec.ofNat 64 m, n - m)] := by
  obtain ⟨f, rfl⟩ : ∃ f, n = f + 2 := ⟨n - 2, by omega⟩
  rw [pieces]
  · have hk : min (f + 2) (unit - va.toNat % unit) = m := by omega
    simp only [hk]
    obtain ⟨j, hj⟩ : ∃ j, f + 2 - m = j + 1 := ⟨f + 1 - m, by omega⟩
    rw [hj, pieces]
    · have hk' : min (j + 1) (unit - (va + BitVec.ofNat 64 m).toNat % unit) = j + 1 := by omega
      simp only [hk', Nat.sub_self, pieces_zero]
    · simp
  · simp

/-! ### Units -/

theorem gather_total (ls : List (Word × Nat × Target)) : ((gather ls).map (·.n)).sum = (ls.map (·.2.1)).sum := by
  induction ls with
  | nil => rfl
  | cons p ps ih =>
    obtain ⟨va, n, t⟩ := p
    simp only [gather, List.map_cons, List.sum_cons, ← ih]
    cases hg : gather ps with
    | nil => simp
    | cons u us =>
      dsimp only
      split <;> simp [Nat.add_assoc]

theorem State.locateAll_lengths {s : State} {q : Who} {k : Kind} {last : Option Xlat} {ps : List (Word × Nat)} {ls : List (Word × Nat × Target)}
    (h : s.locateAll q k last ps = .ok ls) : ls.map (·.2.1) = ps.map (·.2) := by
  induction ps generalizing last ls with
  | nil => cases h; rfl
  | cons p ps ih =>
    obtain ⟨va, n⟩ := p
    simp only [State.locateAll] at h
    split at h <;> obtain ⟨x, -, h⟩ := bind_eq_ok.1 h <;> obtain ⟨r, hr, h⟩ := bind_eq_ok.1 h <;> cases h <;> simp [ih hr]

/-- The units of an access hold its bytes together. -/
theorem State.locateUnits_total {s : State} {k : Kind} {va : Word} {n unit : Nat} {us : List Unit8} (hu : 0 < unit)
    (h : s.locateUnits k va n unit = .ok us) : (us.map (·.n)).sum = n := by
  obtain ⟨ls, hl, h⟩ := bind_eq_ok.1 h
  cases h
  obtain ⟨-, -, hl⟩ := bind_eq_ok.1 hl
  rw [gather_total, State.locateAll_lengths hl, pieces_total va hu le_rfl]

/-- An access of one piece is one unit, at its place. -/
theorem State.locateUnits_one {s : State} {k : Kind} {va : Word} {n unit : Nat} {g : Target} (h0 : 0 < n) (h : va.toNat % unit + n ≤ unit)
    (hg : s.locate s.self.who va n k = .ok g) : s.locateUnits k va n unit = .ok [{ va, n, t := g, words := 1 }] := by
  unfold State.locateUnits State.locateRange State.wholeCaddy
  rw [pieces_one h0 h]
  unfold State.locate State.translate at hg
  by_cases hc : isCaddy va = true
  · rw [if_pos hc] at hg
    obtain ⟨p, hp, hg⟩ := bind_eq_ok.1 hg
    cases hg
    simp [State.locateAll, hc, hp, gather]
  · rw [if_neg hc] at hg
    obtain ⟨x, hx, hg⟩ := bind_eq_ok.1 hg
    cases hg
    simp [State.locateAll, State.xlateNext, hc, hx, gather]

/-- Two pieces outside the caddies: the second in the page of the first, or translated anew (R205). -/
theorem State.locateUnits_two {s : State} {k : Kind} {va vb : Word} {n unit m : Nat} {x : Xlat} (hm : m = unit - va.toNat % unit)
    (hvb : vb = va + BitVec.ofNat 64 m) (h1 : m < n) (h2 : vb.toNat % unit + (n - m) ≤ unit) (h0 : 0 < m) (hca : isCaddy va = false)
    (hcb : isCaddy vb = false) (hx : s.xlate s.self.who va k = .ok x) : s.locateUnits k va n unit =
    (s.xlateNext s.self.who k (some x) vb).map fun y => gather [(va, m, s.targetOf x va), (vb, n - m, s.targetOf y vb)] := by
  subst hvb
  unfold State.locateUnits State.locateRange State.wholeCaddy
  rw [pieces_two hm h1 h2 h0]
  simp only [State.locateAll, hca, hcb, hx, State.xlateNext, ok_bind, Bool.false_eq_true, if_false]
  split
  · rfl
  · cases s.xlate s.self.who (va + BitVec.ofNat 64 m) k <;> rfl

theorem gather_apart {va vb : Word} {n m : Nat} {a b : Target} (h : together a b = false) :
    gather [(va, n, a), (vb, m, b)] = [{ va, n, t := a, words := 1 }, { va := vb, n := m, t := b, words := 1 }] := by
  simp [gather, h]

theorem gather_joined {va vb : Word} {n m : Nat} {a b : Target} (h : together a b = true) (hpa : a.pa + n = b.pa) :
    gather [(va, n, a), (vb, m, b)] = [{ va, n := n + m, t := a, words := 2 }] := by
  simp [gather, h, hpa]

/-- Two places are accessed together only in one caddy, one ACC line, the configuration space or a peer's memory. -/
theorem together_apart {a b : Target} (h : b.cls = .trk ∨ b.cls = .unt ∨ b.cls = .det ∨ b.cls = .host) : together a b = false := by
  unfold together
  by_cases hab : a.cls = b.cls
  · rcases h with h | h | h | h <;> simp [hab, h]
  · simp [hab]

/-! ### The own caddy -/

theorem keyOff_caddyKey (c : Coord) {off : Nat} (h : off < 2 ^ 18) : keyOff (caddyKey c off) = off := by
  unfold keyOff caddyKey
  omega

theorem field_18_lt (va : Word) : Word.field va 0 18 < 2 ^ 18 := Nat.mod_lt _ (by decide)

/-- What a caddy address that is in order names, and when it is (R49, R333). -/
theorem State.caddyPlace_ok_iff {s : State} {q : Who} {va : Word} {n : Nat} {c : Coord} {off : Nat} : s.caddyPlace q va n = .ok (c, off) ↔
    off = Word.field va 0 18 ∧ off + n ≤ 2 ^ 18 ∧
    ((space va = 0x1FF ∧ Word.field va 27 21 = 0 ∧ s.coreIn (s.partOf q.ctx) c = true ∧ c = BitVec.ofNat 9 (Word.field va 18 9)) ∨
     (space va ≠ 0x1FF ∧ Word.field va 18 30 = 0 ∧ q.svc = false ∧ s.primary q.ctx q.core = true ∧ c = q.core)) := by
  unfold State.caddyPlace
  by_cases hs : space va = 0x1FF
  · simp only [hs, beq_self_eq_true, if_true]
    constructor
    · intro h
      split at h
      · cases h
      · next hb => cases h; simp at hb; simp [hb]
    · rintro ⟨rfl, hn, ⟨-, h27, hin, rfl⟩ | ⟨h, -⟩⟩
      · rw [if_neg]
        simpa [h27, hin] using hn
      · exact absurd rfl h
  · simp only [beq_iff_eq, hs, if_false]
    constructor
    · intro h
      split at h
      · cases h
      · next hb =>
        split at h
        · cases h
        · next hp => cases h; simp at hb hp; simp [hs, hb, hp]
    · rintro ⟨rfl, hn, ⟨h, -⟩ | ⟨-, h18, hsvc, hp, rfl⟩⟩
      · exact absurd h (by simp)
      · rw [if_neg, if_neg]
        · simp [hsvc, hp]
        · simpa [h18] using hn

/-- Bits 63 to 18 of an address do not change while an offset is added that stays within the caddy. -/
theorem Word.field_add_low {va : Word} {m lo : Nat} (h : Word.field va 0 18 + m < 2 ^ 18) (hlo : 18 ≤ lo) (n : Nat) :
    Word.field (va + BitVec.ofNat 64 m) lo n = Word.field va lo n := by
  have hva : va.toNat < 2 ^ 64 := va.isLt
  have h0 : Word.field va 0 18 = va.toNat % 2 ^ 18 := by simp [Word.field]
  have hadd : (va + BitVec.ofNat 64 m).toNat = va.toNat + m := by
    simp only [BitVec.toNat_add, BitVec.toNat_ofNat]
    omega
  have hdiv : (va.toNat + m) / 2 ^ 18 = va.toNat / 2 ^ 18 := by omega
  obtain ⟨j, rfl⟩ := Nat.exists_eq_add_of_le hlo
  rw [Word.field, Word.field, hadd, Nat.pow_add, ← Nat.div_div_eq_div_mul, ← Nat.div_div_eq_div_mul, hdiv]

theorem Word.field_low_add {va : Word} {m : Nat} (h : Word.field va 0 18 + m < 2 ^ 18) :
    Word.field (va + BitVec.ofNat 64 m) 0 18 = Word.field va 0 18 + m := by
  have h0 (x : Word) : Word.field x 0 18 = x.toNat % 2 ^ 18 := by simp [Word.field]
  have hva : va.toNat < 2 ^ 64 := va.isLt
  rw [h0] at h
  rw [h0, h0, BitVec.toNat_add, BitVec.toNat_ofNat]
  omega

/-- The first bytes of a range in a caddy, and the rest of it, lie where the range does (R49). -/
theorem State.caddyPlace_parts {s : State} {q : Who} {va : Word} {n m : Nat} {c : Coord} {off : Nat} (h : s.caddyPlace q va n = .ok (c, off))
    (hm : m < n) : s.caddyPlace q va m = .ok (c, off) ∧ s.caddyPlace q (va + BitVec.ofNat 64 m) (n - m) = .ok (c, off + m) := by
  obtain ⟨rfl, hn, hc⟩ := State.caddyPlace_ok_iff.1 h
  have hlow : Word.field va 0 18 + m < 2 ^ 18 := by omega
  refine ⟨State.caddyPlace_ok_iff.2 ⟨rfl, by omega, hc⟩, State.caddyPlace_ok_iff.2 ⟨(Word.field_low_add hlow).symm, by omega, ?_⟩⟩
  simpa only [space, Word.field_add_low hlow, le_refl, Nat.reduceLeDiff] using hc

theorem isCaddy_add_low {va : Word} {m : Nat} (h : Word.field va 0 18 + m < 2 ^ 18) : isCaddy (va + BitVec.ofNat 64 m) = isCaddy va := by
  simp only [isCaddy, space, Word.field_add_low h, Nat.reduceLeDiff]

/-- A range of a caddy is accessed as one, though it touches two aligned doublewords, and is counted twice (R50, R205). -/
theorem State.locateUnits_caddy_two {s : State} {k : Kind} {va : Word} {n : Nat} {c : Coord} {off : Nat} (hc : isCaddy va = true)
    (h : s.caddyPlace s.self.who va n = .ok (c, off)) (hn : n ≤ 8) (h8 : 8 < va.toNat % 8 + n) :
    s.locateUnits k va n 8 = .ok [{ va, n, t := { pa := caddyKey c off, cls := .caddy, home := c }, words := 2 }] := by
  obtain ⟨m, hm⟩ : ∃ m, m = 8 - va.toNat % 8 := ⟨_, rfl⟩
  have hmn : m < n := by omega
  obtain ⟨h1, h2⟩ := State.caddyPlace_parts h hmn
  obtain ⟨rfl, hoff, -⟩ := State.caddyPlace_ok_iff.1 h
  have hlow : Word.field va 0 18 + m < 2 ^ 18 := by omega
  have hb8 : (va + BitVec.ofNat 64 m).toNat % 8 + (n - m) ≤ 8 := by
    have : (va + BitVec.ofNat 64 m).toNat % 8 = 0 := by
      simp only [BitVec.toNat_add, BitVec.toNat_ofNat]
      omega
    omega
  have hkey : caddyKey c (Word.field va 0 18) + m = caddyKey c (Word.field va 0 18 + m) := by
    unfold caddyKey
    omega
  unfold State.locateUnits State.locateRange State.wholeCaddy
  rw [pieces_two hm hmn hb8 (by omega)]
  simp only [State.locateAll, hc, isCaddy_add_low hlow, h, h1, h2, ok_bind, pure_ok, if_true]
  rw [gather_joined (by simp [together]) hkey, Nat.add_sub_cancel' hmn.le]

/-! ### Order, errors and live objects at the own caddy -/

theorem Packet.plain_mem_accesses {p : Packet} {a : Access} (h : p.plain = some a) : a ∈ p.accesses := by
  cases p <;> simp_all [Packet.plain, Packet.accesses]

/-- What nothing of the thread's on its way holds back goes ahead (R188, R191). -/
theorem gate_quiet {s : State} (h : Quiet s) (us : List Unit8) : gate s us = .ok () := by
  unfold gate
  rw [if_neg]
  simp only [List.any_eq_true, not_exists, not_and]
  intro u _ p hp
  obtain ⟨hacc, hrel⟩ := h p hp
  unfold State.holdsBack
  have h1 : ∀ a ∈ p.accesses, (a.thread == s.cur) = false := fun a ha => by simpa using hacc a ha
  have h2 : (p.releases == some s.cur) = false := by simpa using hrel
  have h3 : p.accesses.any (fun a => a.thread == s.cur && (a.rel || sameWord a (s.accessTo u))) = false := by
    rw [List.any_eq_false]
    intro a ha
    simp [h1 a ha]
  cases hpl : p.plain with
  | none => simp_all [Packet.accesses, State.accessTo, State.accessOf, Packet.plain]
  | some a =>
    have := h1 a (Packet.plain_mem_accesses hpl)
    simp_all [Packet.accesses, State.accessTo, State.accessOf, Packet.plain]

/-- Where no error stands a thread's reads of its own caddy meet none. -/
theorem State.meetOwn_sound {s : State} (h : Sound s) (us : List Unit8) : s.meetOwn us = s :=
  foldl_keeps (P := fun u => u = s) (fun b u hb => by rw [hb, s.meetErrors_none _ _ _ _ _ _ h.1 h.2]) _ rfl

theorem errorFree_of_sound {s : State} (h : Sound s) : s.errorFree = true := s.errorFree_iff.2 ⟨h.2, h.1⟩

/-- A write to a caddy that is in place and holds no live object replaces its bytes and does no more (R50, R153). -/
theorem State.caddyWrite_plain {s : State} (hs : Sound s) {c : Coord} (hc : NoConvene (s.coreAt c)) (ctx : CtxId) (off : Nat) (bs : List Byte) :
    s.caddyWrite ctx c off bs = s.putBytes (caddyKey c off) bs := by
  obtain ⟨h1, h2, h3⟩ := hc
  have hmend : (s.putBytes (caddyKey c off) bs).mend 4 c off bs.length = s.putBytes (caddyKey c off) bs :=
    State.mendWhere_none (s := s.putBytes (caddyKey c off) bs) (errorFree_of_sound (s := s) hs) _
  have hcore : (s.putBytes (caddyKey c off) bs).coreAt c = s.coreAt c := rfl
  unfold State.caddyWrite State.putCaddy
  rw [h1, if_neg (by simp), hmend]
  simp [State.breakConvene, hcore, h2, h3]

/-! ### The value of a load -/

theorem leNat_lt (bs : List Byte) : leNat bs < 2 ^ (8 * bs.length) := by
  induction bs with
  | nil => simp [leNat]
  | cons b bs ih =>
    have hb : b.toNat < 2 ^ 8 := b.isLt
    rw [leNat, List.length_cons, Nat.mul_succ, Nat.pow_add]
    omega

/-- The number that a load makes of its bytes is their sign extension (R207). -/
theorem signExtend_ofNat {n x : Nat} (h1 : 1 ≤ n) (h8 : n ≤ 8) (hx : x < 2 ^ (8 * n)) :
    (BitVec.ofNat (8 * n) x).signExtend 64 = BitVec.ofNat 64 (if 2 ^ (8 * n - 1) ≤ x then x + 2 ^ 64 - 2 ^ (8 * n) else x) := by
  have hp : 2 ^ (8 * n) = 2 * 2 ^ (8 * n - 1) := by rw [← Nat.pow_succ']; congr 1; omega
  have h64 : 2 ^ (8 * n) ≤ 2 ^ 64 := Nat.pow_le_pow_right (by decide) (by omega)
  have hi : (BitVec.ofNat (8 * n) x).toInt = if 2 ^ (8 * n - 1) ≤ x then (x : Int) - 2 ^ (8 * n) else x := by
    rw [BitVec.toInt_eq_toNat_cond, BitVec.toNat_ofNat, Nat.mod_eq_of_lt hx]
    by_cases h : 2 ^ (8 * n - 1) ≤ x
    · rw [if_pos h, if_neg (by omega)]
      push_cast
      rfl
    · rw [if_neg h, if_pos (by omega)]
  rw [BitVec.signExtend, hi, ← BitVec.ofInt_natCast]
  split
  · apply BitVec.eq_of_toNat_eq
    rw [BitVec.toNat_ofInt, BitVec.toNat_ofInt, Nat.cast_sub (by omega), Nat.cast_add]
    congr 1
    rw [show (x : Int) + (2 ^ 64 : Nat) - (2 ^ (8 * n) : Nat) = (x - 2 ^ (8 * n)) + (2 ^ 64 : Nat) by push_cast; ring, Int.add_emod_right]
  · rfl

/-- A load's bytes reach a general register extended as the load asked (R207). -/
theorem landLoad_g (x : Thread) (d : BitVec 5) {n : Nat} (sg : Bool) (buf : List Byte) (h1 : 1 ≤ n) (h8 : n ≤ 8) :
    landLoad x (.g d n sg) buf = x.setG d (extended (buf.take n) n sg) := by
  have hlen : 8 * (buf.take n).length ≤ 8 * n := by
    have := List.length_take_le n buf
    omega
  have hx : leNat (buf.take n) < 2 ^ (8 * n) := (leNat_lt _).trans_le (Nat.pow_le_pow_right (by decide) hlen)
  unfold landLoad extended
  cases sg
  · have h64 : 2 ^ (8 * n) ≤ 2 ^ 64 := Nat.pow_le_pow_right (by decide) (by omega)
    simp only [Bool.false_and, Bool.false_eq_true, if_false]
    congr 1
    apply BitVec.eq_of_toNat_eq
    rw [BitVec.toNat_setWidth, BitVec.toNat_ofNat, BitVec.toNat_ofNat, Nat.mod_eq_of_lt hx]
  · simp only [Bool.true_and, decide_eq_true_eq, if_true, signExtend_ofNat h1 h8 hx]

@[simp] theorem Memory.length_readList (m : List Host.Cell) (a n : Nat) : (Memory.readList m a n).length = n := by
  induction n generalizing a with
  | zero => rfl
  | succ n ih => simp [Memory.readList, ih]

@[simp] theorem State.length_bytes (s : State) (a n : Nat) : (s.bytes a n).length = n := Memory.length_readList ..

@[simp] theorem length_leBytes (n x : Nat) : (leBytes n x).length = n := by
  induction n generalizing x with
  | zero => rfl
  | succ n ih => simp [leBytes, ih]

/-! ### The endings of an instruction, in the words of the obligations -/

/-- A body that changes none of what the loop check reads completes in sequence (R273, R377). -/
theorem finish_past {s s' : State} {size : Nat} (h : Plain s size) (hpc : s'.self.pc = s.self.pc) (hend : s'.self.lend = s.self.lend)
    (hlc : s'.self.lc = s.self.lc) (hst : s'.self.status = s.self.status) (hnow : s'.fresh = s.fresh) :
    finish size s (.ok s') = .next (past s size s') := by
  obtain ⟨hstep, hloop⟩ := h
  have hpl : s'.self.pl = s.self.pl := by rw [Thread.pl, hst, Thread.pl]
  rw [finish, hstep, State.complete_off, hpc, hnow]
  · rfl
  · rwa [hpc, hend, hpl, hlc]

/-- A transfer of control without a single step moves the PC and records the issue (R271, R377). -/
theorem State.jumpFor_off {s : State} {t : Nat} (h : (s.thread t).sstep = false) (pc : BitVec 48) :
    s.jumpFor t pc = s.modThread t (issuedAt s.fresh pc) := by
  have hs : ((s.modThread t fun x => Thread.issued { x with pc := pc } s.fresh).thread t).sstep = false := by
    rw [State.thread_modThread]
    exact h
  unfold State.jumpFor
  dsimp only
  rw [hs]
  rfl

/-- Control passes to a target (R271). -/
theorem finish_jump {s s' : State} {size : Nat} {pc : BitVec 48} (hstep : s'.self.sstep = false) (hnow : s'.fresh = s.fresh) :
    finish size s (.error (.jump s' pc)) = .next (s'.modSelf (issuedAt s.fresh pc)) := by
  rw [finish, State.jumpTo, State.jumpFor_off hstep, hnow]
  rfl

theorem finish_trap (s : State) (size c : Nat) (v : Word) : finish size s (trap c v) = traps s c v := by
  simp only [finish, trap, traps, State.raise]
  cases h : s.self.hold <;> simp

/-! ### Issue at the own caddy -/

theorem roomFor_ok {s : State} {c : Ctr} {n : Nat} (h : s.self.ctr c + n ≤ 63) : roomFor s c n = .ok () := if_pos h

theorem putBuf_whole (bs : List Byte) : putBuf (List.replicate bs.length 0) 0 bs = bs := by
  simp [putBuf]

/-- A load of one unit of the own caddy has its bytes at once (R50, R205). -/
theorem issueLoads_own {s : State} {va : Word} {n unit : Nat} {u : Unit8} (hu : s.locateUnits .load va n unit = .ok [u])
    (hown : s.ownCaddy u.t = true) (hn : u.n = n) (hq : Quiet s) (hs : Sound s) (hroom : s.self.ld + u.words ≤ 63) (size : Nat) (dest : Dest) :
    issueLoads s size [(va, n, unit)] dest none = .ok (s.modSelf (landLoad · dest (s.bytes u.t.pa n))) := by
  have hc : countOf [u] = u.words := Nat.zero_add _
  have hbuf : putBuf (List.replicate u.n 0#8) 0 (s.bytes u.t.pa u.n) = s.bytes u.t.pa u.n := by
    have := putBuf_whole (s.bytes u.t.pa u.n)
    rwa [State.length_bytes] at this
  subst hn
  simp only [issueLoads, List.mapM_cons, List.mapM_nil, hu, lift_ok, ok_bind, pure_ok, List.flatten_cons, List.flatten_nil, List.append_nil,
    Option.getD_none, hc, roomFor_ok (c := .ld) hroom, gate_quiet hq, State.meetOwn_sound hs]
  simp [withOffsets, hown, State.ownBytes, hbuf]

/-- A store of one unit to the own caddy is performed at once (R50, R208). -/
theorem issueStore_own {s : State} {va : Word} {data : List Byte} {unit off : Nat} {u : Unit8}
    (hu : s.locateUnits .store va data.length unit = .ok [u]) (hown : s.ownCaddy u.t = true) (hn : u.n = data.length)
    (hkey : u.t.pa = caddyKey s.self.core off) (hoff : off < 2 ^ 18) (hc : NoConvene (s.coreAt s.self.core)) (hq : Quiet s) (hs : Sound s)
    (hroom : s.self.st + u.words ≤ 63) : issueStore s va unit data = .ok (s.putBytes u.t.pa data) := by
  have hw : countOf [u] = u.words := Nat.zero_add _
  have ho : keyOff u.t.pa = off := by rw [hkey, keyOff_caddyKey _ hoff]
  simp only [issueStore, hu, lift_ok, ok_bind, hw, roomFor_ok (c := .st) hroom, gate_quiet hq, List.foldl_cons, List.foldl_nil, hown, if_true,
    ho, State.caddyWrite_plain hs hc, hn, List.take_length, ← hkey, pure_ok]

/-! ### Issue to memory -/

/-- Units that leave the core, and whose permission no other core or peer decides. -/
def Remote (us : List Unit8) : Prop := ∀ u ∈ us, u.t.cls ≠ .caddy ∧ u.t.cls ≠ .pod

theorem State.ownCaddy_of_cls {s : State} {g : Target} (h : g.cls ≠ .caddy) : s.ownCaddy g = false := by
  simp [State.ownCaddy, h]

theorem remoteJudged_of_cls {g : Target} (h : g.cls ≠ .caddy ∧ g.cls ≠ .pod) : remoteJudged g = false := by
  simp [remoteJudged, h]

theorem mem_withOffsets {off : Nat} {us : List Unit8} {l : Nat × Unit8} (h : l ∈ withOffsets off us) : l.2 ∈ us := by
  induction us generalizing off with
  | nil => cases h
  | cons u us ih =>
    rcases List.mem_cons.1 h with rfl | h
    · exact List.mem_cons_self
    · exact List.mem_cons_of_mem _ (ih h)

@[simp] theorem length_withOffsets (off : Nat) (us : List Unit8) : (withOffsets off us).length = us.length := by
  induction us generalizing off with
  | nil => rfl
  | cons u us ih => simp [withOffsets, ih]

theorem foldl_withOffsets (off n : Nat) (us : List Unit8) :
    (withOffsets off us).foldl (fun n l => n + l.2.n) n = n + (us.map (·.n)).sum := by
  induction us generalizing off n with
  | nil => rfl
  | cons u us ih => simp [withOffsets, ih, Nat.add_assoc]

theorem foldl_words (n : Nat) (us : List Unit8) : us.foldl (fun n u => n + u.words) n = n + countOf us := by
  unfold countOf
  induction us generalizing n with
  | nil => rfl
  | cons u us ih => rw [List.foldl_cons, List.foldl_cons, ih, ih (0 + u.words)]; omega

theorem countOf_cons (u : Unit8) (us : List Unit8) : countOf (u :: us) = u.words + countOf us := by
  rw [countOf, List.foldl_cons, foldl_words, Nat.zero_add]

theorem State.count_room {s : State} {c : Ctr} {n : Nat} (h : s.self.ctr c + n ≤ 63) : s.count c n = s.modSelf fun x => x.setCtr c (x.ctr c + n) := by
  have h' : (s.thread s.cur).ctr c + n ≤ 63 := h
  simp [State.count, State.modSelf, State.modThread, Nat.min_eq_right h']

/-- A load of memory sets out: it is counted, its register is pending, and a request leaves for each of its units (R38, R205). -/
theorem issueLoads_away {s : State} {va : Word} {n unit : Nat} {us : List Unit8} (h0 : 0 < n) (hunit : 0 < unit)
    (hu : s.locateUnits .load va n unit = .ok us) (hr : Remote us) (hroom : s.self.ld + countOf us ≤ 63) (size : Nat) (dest : Dest) :
    issueLoads s size [(va, n, unit)] dest none = .ok { s.modSelf (fun x => { x.mark dest with
        ld := x.ld + countOf us
        loads := x.loads ++ [{ id := s.nextId, dest, buf := List.replicate n 0, left := us.length, words := countOf us }]
        hold := none }) with
      nextId := s.nextId + 1, net := s.net ++ loadsFor s us } := by
  have htotal := State.locateUnits_total hunit hu
  have hown : ∀ u ∈ us, s.ownCaddy u.t = false := fun u h => State.ownCaddy_of_cls (hr u h).1
  have hlocs : ∀ l ∈ withOffsets 0 us, s.ownCaddy l.2.t = false := fun l h => hown _ (mem_withOffsets h)
  have hfilter : us.filter (fun u => s.ownCaddy u.t) = [] := List.filter_eq_nil_iff.2 fun u h => by simp [hown u h]
  have haway : (withOffsets 0 us).filter (fun l => !s.ownCaddy l.2.t) = withOffsets 0 us :=
    List.filter_eq_self.2 fun l h => by simp [hlocs l h]
  have hne : (withOffsets 0 us).isEmpty = false := by
    cases us with
    | nil => simp at htotal; omega
    | cons u us => rfl
  have hfull : (withOffsets 0 us).any (fun l => remoteJudged l.2.t) = false :=
    List.any_eq_false.2 fun l h => by simp [remoteJudged_of_cls (hr _ (mem_withOffsets h))]
  have hbuf : s.ownBytes (withOffsets 0 us) (List.replicate n 0) = List.replicate n 0 :=
    List.foldlRecOn (motive := fun b => b = List.replicate n 0) _ _ rfl fun b hb l h => by rw [hb, hlocs l h]; rfl
  have hgate : gate s [] = .ok () := rfl
  have hown' : s.meetOwn us = s := by rw [State.meetOwn, hfilter]; rfl
  simp only [issueLoads, List.mapM_cons, List.mapM_nil, hu, lift_ok, ok_bind, pure_ok, List.flatten_cons, List.flatten_nil, List.append_nil,
    Option.getD_none, roomFor_ok (c := .ld) hroom, haway, hne, hfull, hfilter, hgate, hown', foldl_withOffsets, htotal, Nat.zero_add, hbuf,
    Option.isSome_none, Bool.false_and, Bool.or_false, Bool.false_eq_true, if_false, length_withOffsets, State.newId]
  rw [State.count_room (s := { s with nextId := s.nextId + 1 }) (c := .ld) hroom]
  rw [State.modSelf_modSelf]
  rfl

/-- One unit of a store leaves the core, or is performed at once in the own caddy. -/
def storeUnit (x : Thread) (rel : Bool) (acc : State × List Byte) (u : Unit8) : State × List Byte :=
  let (s, bs) := acc
  (if s.ownCaddy u.t then s.caddyWrite x.ctx x.core (keyOff u.t.pa) (bs.take u.n)
   else (s.count .st u.words) |> fun s => { s with net := s.net ++ [.store { s.accessTo u with rel } (bs.take u.n)] }, bs.drop u.n)

theorem issueStore_eq (s : State) (va : Word) (unit : Nat) (data : List Byte) (rel : Bool) : issueStore s va unit data rel = (do
    let us ← lift (s.locateUnits .store va data.length unit)
    roomFor s .st (countOf us)
    gate s (us.filter fun u => s.ownCaddy u.t)
    pure (us.foldl (storeUnit s.self rel) (s, data)).1) := rfl

/-- The state after a thread's stores of `n` words to memory, whose packets are `ps`. -/
def State.stored (s : State) (n : Nat) (ps : List Packet) : State := { s.modSelf (fun x => { x with st := x.st + n }) with net := s.net ++ ps }

theorem State.stored_stored (s : State) (n m : Nat) (ps qs : List Packet) : (s.stored n ps).stored m qs = s.stored (n + m) (ps ++ qs) := by
  simp [State.stored, State.modSelf, State.modThread, State.setThread, State.thread, Nat.add_assoc]

theorem State.stored_self (s : State) (n : Nat) (ps : List Packet) : (s.stored n ps).self = { s.self with st := s.self.st + n } := by
  simp [State.stored, State.modSelf, State.modThread, State.setThread, State.thread, State.self]

theorem State.accessTo_stored (s : State) (n : Nat) (ps : List Packet) (u : Unit8) : (s.stored n ps).accessTo u = s.accessTo u := by
  simp only [State.accessTo, State.accessOf, State.stored_self]
  rfl

theorem storeUnit_away {s : State} {bs : List Byte} {u : Unit8} (x : Thread) (hu : u.t.cls ≠ .caddy) (hroom : s.self.st + u.words ≤ 63) :
    storeUnit x false (s, bs) u = (s.stored u.words [.store (s.accessTo u) (bs.take u.n)], bs.drop u.n) := by
  have hc : s.count .st u.words = s.stored u.words [] := by
    rw [State.count_room (c := .st) hroom]
    simp [State.stored]
    rfl
  simp only [storeUnit, State.ownCaddy_of_cls hu, Bool.false_eq_true, if_false, hc, State.accessTo_stored]
  simp only [State.stored, List.append_nil]
  rfl

theorem foldl_storeUnit {s : State} {u : Unit8} {us : List Unit8} (x : Thread) (hr : Remote (u :: us)) (hroom : s.self.st + countOf (u :: us) ≤ 63)
    (bs : List Byte) (off : Nat) : ((u :: us).foldl (storeUnit x false) (s, bs.drop off)).1 =
      s.stored (countOf (u :: us)) ((withOffsets off (u :: us)).map fun l => .store (s.accessTo l.2) ((bs.drop l.1).take l.2.n)) := by
  induction us generalizing s u off with
  | nil =>
    have hc : countOf [u] = u.words := Nat.zero_add _
    rw [List.foldl_cons, storeUnit_away x (hr u List.mem_cons_self).1 (by omega), hc]
    rfl
  | cons v us ih =>
    rw [countOf_cons] at hroom
    rw [List.foldl_cons, storeUnit_away x (hr u List.mem_cons_self).1 (by omega), List.drop_drop,
      ih (fun v hv => hr v (List.mem_cons_of_mem _ hv)) (by rw [State.stored_self]; dsimp only; omega), State.stored_stored, countOf_cons u]
    simp only [State.accessTo_stored, withOffsets, List.map_cons, List.singleton_append]

/-- A store of memory sets out: it is counted, and a request with its bytes leaves for each of its units (R205, R208). -/
theorem issueStore_away {s : State} {va : Word} {unit : Nat} {data : List Byte} {us : List Unit8} (h0 : 0 < data.length) (hunit : 0 < unit)
    (hu : s.locateUnits .store va data.length unit = .ok us) (hr : Remote us) (hroom : s.self.st + countOf us ≤ 63) :
    issueStore s va unit data = .ok (s.stored (countOf us) (storesFor s us data)) := by
  have htotal := State.locateUnits_total hunit hu
  have hfilter : us.filter (fun u => s.ownCaddy u.t) = [] :=
    List.filter_eq_nil_iff.2 fun u h => by simp [State.ownCaddy_of_cls (hr u h).1]
  have hgate : gate s [] = .ok () := rfl
  have hfold : (us.foldl (storeUnit s.self false) (s, data)).1 = s.stored (countOf us) (storesFor s us data) := by
    cases us with
    | nil => simp at htotal; omega
    | cons u us => exact foldl_storeUnit s.self hr hroom data 0
  simp only [issueStore_eq, hu, lift_ok, ok_bind, roomFor_ok (c := .st) hroom, hfilter, hgate, pure_ok, hfold]

end Sys2Proof.Machine
end

section
/-!
PROOFS. Loads and stores in the own caddy (O17).
-/

namespace Sys2Proof.Machine

open Claims

/-- The unit of an access of one piece to the own caddy: its offset is below the caddy's size, so that its key gives it back. -/
theorem OwnCaddy.key {s : State} {va : Word} {n : Nat} {k : Kind} {g : Target} (h : OwnCaddy s va n k g) :
    ∃ off < 2 ^ 18, g.pa = caddyKey s.self.core off := by
  obtain ⟨hc, -, hg, hown, -⟩ := h
  unfold State.locate at hg
  rw [if_pos hc] at hg
  obtain ⟨⟨c, off⟩, hp, hg⟩ := bind_eq_ok.1 hg
  cases hg
  obtain ⟨rfl, hoff, -⟩ := State.caddyPlace_ok_iff.1 hp
  obtain rfl : c = s.self.core := by
    simp only [State.ownCaddy, Bool.and_eq_true, beq_iff_eq] at hown
    exact hown.1.1.2
  exact ⟨_, field_18_lt va, rfl⟩

/-- A load of one unit of the own caddy writes the bytes, extended as the form says (R207). -/
theorem finish_load_own {s : State} {size : Nat} {va : Word} {n : Nat} {u : Unit8} (hp : Plain s size) (h1 : 1 ≤ n) (h8 : n ≤ 8)
    (hu : s.locateUnits .load va n 8 = .ok [u]) (hown : s.ownCaddy u.t = true) (hn : u.n = n) (hq : Quiet s) (hs : Sound s)
    (hroom : s.self.ld + u.words ≤ 63) (d : BitVec 5) (sg : Bool) :
    finish size s (issueLoads s size [(va, n, 8)] (.g d n sg) none) = writesG s size d (extended (s.bytes u.t.pa n) n sg) := by
  have htake : (s.bytes u.t.pa n).take n = s.bytes u.t.pa n := List.take_of_length_le (by simp)
  rw [issueLoads_own hu hown hn hq hs hroom]
  simp only [landLoad_g _ _ _ _ h1 h8, htake]
  exact finish_setG s size hp d _

/-- A store of one piece to the own caddy is performed at once (R50, R208). -/
theorem issueStore_one_own {s : State} {va : Word} {data : List Byte} {g : Target} (h0 : 0 < data.length) (h : OwnCaddy s va data.length .store g)
    (hroom : s.self.st < 63) : issueStore s va 8 data = .ok (s.putBytes g.pa data) := by
  obtain ⟨off, hoff, hkey⟩ := OwnCaddy.key h
  obtain ⟨-, hn, hg, hown, hc, hq, hs⟩ := h
  exact issueStore_own (State.locateUnits_one h0 hn hg) hown rfl hkey hoff hc hq hs hroom

section
variable {s : State} {size n : Nat} {t a : BitVec 5} {imm : BitVec 12}

/-- A plain load of one piece (R205, R207). -/
theorem loadBody_own {g : Target} (hp : Plain s size) (h1 : 1 ≤ n) (h8 : n ≤ 8) (h : OwnCaddy s (ea s a imm) n .load g) (hroom : s.self.ld < 63)
    (sg : Bool) : finish size s (loadBody s size t a imm n sg) = writesG s size t (extended (s.bytes g.pa n) n sg) := by
  obtain ⟨-, hn, hg, hown, -, hq, hs⟩ := h
  exact finish_load_own hp h1 h8 (State.locateUnits_one h1 hn hg) hown rfl hq hs hroom t sg

/-- A plain store of one piece (R205, R208). -/
theorem storeBody_own {g : Target} (hp : Plain s size) (h1 : 1 ≤ n) (h : OwnCaddy s (ea s a imm) n .store g) (hroom : s.self.st < 63) :
    finish size s (storeBody s t a imm n) = .next (past s size (s.putBytes g.pa (leBytes n (s.g t).toNat))) := by
  have hlen := length_leBytes n (s.g t).toNat
  rw [storeBody, issueStore_one_own (by omega) (by rwa [hlen]) hroom]
  exact finish_past hp rfl rfl rfl rfl rfl

/-- The unit of a range of the own caddy that touches two aligned doublewords (R50). -/
theorem OwnCaddyAt.units {va : Word} {key : Nat} (h : OwnCaddyAt s va n key) (h8 : n ≤ 8) (h2 : 8 < va.toNat % 8 + n) (k : Kind) :
    s.locateUnits k va n 8 = .ok [{ va, n, t := { pa := key, cls := .caddy, home := s.self.core }, words := 2 }] ∧
      s.ownCaddy { pa := key, cls := .caddy, home := s.self.core } = true := by
  obtain ⟨hc, hplace, hkey, hsvc, hprim, -⟩ := h
  refine ⟨?_, by simp [State.ownCaddy, hsvc, hprim]⟩
  rw [State.locateUnits_caddy_two hc hplace h8 h2, ← hkey]

theorem loadBody_own_two {key : Nat} (hp : Plain s size) (h1 : 1 ≤ n) (h8 : n ≤ 8) (h2 : 8 < (ea s a imm).toNat % 8 + n)
    (h : OwnCaddyAt s (ea s a imm) n key) (hroom : s.self.ld + 2 ≤ 63) (sg : Bool) :
    finish size s (loadBody s size t a imm n sg) = writesG s size t (extended (s.bytes key n) n sg) := by
  obtain ⟨hu, hown⟩ := OwnCaddyAt.units h h8 h2 .load
  obtain ⟨-, -, -, -, -, -, hq, hs⟩ := h
  exact finish_load_own hp h1 h8 hu hown rfl hq hs hroom t sg

theorem storeBody_own_two {key : Nat} (hp : Plain s size) (h8 : n ≤ 8) (h2 : 8 < (ea s a imm).toNat % 8 + n)
    (h : OwnCaddyAt s (ea s a imm) n key) (hroom : s.self.st + 2 ≤ 63) :
    finish size s (storeBody s t a imm n) = .next (past s size (s.putBytes key (leBytes n (s.g t).toNat))) := by
  obtain ⟨hu, hown⟩ := OwnCaddyAt.units h h8 h2 .store
  obtain ⟨-, -, hkey, -, -, hc, hq, hs⟩ := h
  rw [← length_leBytes n (s.g t).toNat] at hu
  rw [storeBody, issueStore_own hu hown rfl hkey (Nat.mod_lt _ (by decide)) hc hq hs hroom]
  exact finish_past hp rfl rfl rfl rfl rfl

end

theorem sext12_offset (sc : BitVec 1) : sext12 (8 * sc.setWidth 12) = BitVec.ofNat 64 (8 * sc.toNat) := by
  revert sc
  decide

/-- Settles O17: an access that touches one doubleword is one unit (`locateUnits_one`), and so is one to a caddy that touches two
(`locateUnits_caddy_two`); a unit of the own caddy is read or written at once (`issueLoads_own`, `issueStore_own`). -/
theorem ownCaddyLoadsAndStores : Obligations.OwnCaddyLoadsAndStores := by
  unfold Obligations.OwnCaddyLoadsAndStores
  refine ⟨fun s t a imm => ?_, fun s t a imm => ?_, fun s t a imm key => ?_, fun s t a sc g => ?_⟩
  · simp only [List.forall_mem_cons, List.not_mem_nil, false_imp_iff, implies_true, and_true]
    refine ⟨?_, ?_, ?_, ?_, ?_, ?_, ?_⟩ <;> exact fun g hp h hroom => loadBody_own hp (by decide) (by decide) h hroom _
  · simp only [List.forall_mem_cons, List.not_mem_nil, false_imp_iff, implies_true, and_true]
    refine ⟨?_, ?_, ?_, ?_⟩ <;> exact fun g hp h hroom => storeBody_own hp (by decide) h hroom
  · intro va hp
    simp only [List.forall_mem_cons, List.not_mem_nil, false_imp_iff, implies_true, and_true]
    refine ⟨⟨?_, ?_, ?_, ?_, ?_⟩, ?_, ?_, ?_⟩
    iterate 5 exact fun h2 h hroom => loadBody_own_two hp (by decide) (by decide) h2 h hroom _
    iterate 3 exact fun h2 h hroom => storeBody_own_two hp (by decide) h2 h hroom
  · intro va hp
    have hva : va = ea s a (8 * sc.setWidth 12) := by rw [ea, sext12_offset]
    rw [hva]
    exact ⟨fun h hroom => loadBody_own hp (by decide) (by decide) h hroom _, fun h hroom => storeBody_own hp (by decide) h hroom⟩

end Sys2Proof.Machine
end

section
/-!
PROOFS. Loads and stores to memory set out (O18).
-/

namespace Sys2Proof.Machine

open Claims

/-- A load of a general register sets out (R38, R205). -/
theorem finish_load_away {s : State} {size : Nat} {va : Word} {n : Nat} {us : List Unit8} (hp : Plain s size) (h1 : 1 ≤ n)
    (hu : s.locateUnits .load va n 8 = .ok us) (hr : Remote us) (hroom : s.self.ld + countOf us ≤ 63) (d : BitVec 5) (sg : Bool) :
    finish size s (issueLoads s size [(va, n, 8)] (.g d n sg) none) = .next (past s size { s.modSelf (fun x => { x with
        ld := x.ld + countOf us
        pendG := x.pendG ||| (if d = 0 then 0 else BitVec.twoPow 32 d.toNat)
        loads := x.loads ++ [{ id := s.nextId, dest := .g d n sg, buf := List.replicate n 0, left := us.length, words := countOf us }]
        hold := none }) with
      nextId := s.nextId + 1, net := s.net ++ loadsFor s us }) := by
  have hm (x : Thread) : x.pendV ||| Dest.marksV (.g d n sg) = x.pendV := by simp [Dest.marksV]
  rw [issueLoads_away h1 (by decide) hu hr hroom]
  simp only [Thread.mark, hm, Dest.marksG]
  refine finish_past hp ?_ ?_ ?_ ?_ rfl <;> simp [State.self, State.modSelf, State.modThread, State.setThread, State.thread]

/-- A store sets out (R208). -/
theorem finish_store_away {s : State} {size : Nat} {va : Word} {data : List Byte} {us : List Unit8} (hp : Plain s size) (h1 : 0 < data.length)
    (hu : s.locateUnits .store va data.length 8 = .ok us) (hr : Remote us) (hroom : s.self.st + countOf us ≤ 63) :
    finish size s (issueStore s va 8 data) = .next (past s size (s.stored (countOf us) (storesFor s us data))) := by
  rw [issueStore_away h1 (by decide) hu hr hroom]
  refine finish_past hp ?_ ?_ ?_ ?_ rfl <;> rw [State.stored_self]

/-- An access to memory that touches one doubleword is one unit, which leaves the core. -/
theorem InMemory.unit {s : State} {va : Word} {n : Nat} {k : Kind} {g : Target} (h : InMemory s va n k g) (h1 : 1 ≤ n) :
    s.locateUnits k va n 8 = .ok [{ va, n, t := g, words := 1 }] ∧ Remote [{ va, n, t := g, words := 1 }] := by
  obtain ⟨hn, hg, hcaddy, hpod⟩ := h
  refine ⟨State.locateUnits_one h1 hn hg, fun u hu => ?_⟩
  obtain rfl := List.mem_singleton.1 hu
  exact ⟨hcaddy, hpod⟩

/-- A store of eight bytes or less to memory that touches one doubleword sets out (R208). -/
theorem issueStore_one_away {s : State} {va : Word} {data : List Byte} {g : Target} (h0 : 0 < data.length) (h : InMemory s va data.length .store g)
    (hroom : s.self.st < 63) : issueStore s va 8 data = .ok (s.stored 1 [.store (s.accessOf va data.length g) data]) := by
  obtain ⟨hu, hr⟩ := InMemory.unit h h0
  have hpk : storesFor s [{ va, n := data.length, t := g, words := 1 }] data = [.store (s.accessOf va data.length g) data] := by
    simp [storesFor, withOffsets, State.accessTo]
    rfl
  rw [issueStore_away h0 (by decide) hu hr hroom, hpk]
  rfl

section
variable {s : State} {n : Nat} {t a : BitVec 5} {imm : BitVec 12}

theorem loadBody_away {g : Target} (hp : Plain s 4) (h1 : 1 ≤ n) (h : InMemory s (ea s a imm) n .load g) (hroom : s.self.ld < 63) (sg : Bool) :
    finish 4 s (loadBody s 4 t a imm n sg) = .next (past s 4 { s.modSelf (fun x => { x with
        ld := x.ld + 1
        pendG := x.pendG ||| (if t = 0 then 0 else BitVec.twoPow 32 t.toNat)
        loads := x.loads ++ [{ id := s.nextId, dest := .g t n sg, buf := List.replicate n 0, left := 1, words := 1 }]
        hold := none }) with
      nextId := s.nextId + 1, net := s.net ++ [.load { s.accessOf (ea s a imm) n g with id := s.nextId }] }) := by
  obtain ⟨hu, hr⟩ := InMemory.unit h h1
  exact finish_load_away hp h1 hu hr hroom t sg

theorem storeBody_away {g : Target} (hp : Plain s 4) (h1 : 1 ≤ n) (h : InMemory s (ea s a imm) n .store g) (hroom : s.self.st < 63) :
    finish 4 s (storeBody s t a imm n) = .next (past s 4 (s.stored 1
      [.store (s.accessOf (ea s a imm) n g) (leBytes n (s.g t).toNat)])) := by
  have hlen := length_leBytes n (s.g t).toNat
  rw [storeBody, issueStore_one_away (by omega) (by rwa [hlen]) hroom, hlen]
  refine finish_past hp ?_ ?_ ?_ ?_ rfl <;> rw [State.stored_self]

theorem storeBody_aways {us : List Unit8} (hp : Plain s 4) (h1 : 1 ≤ n) (h : InMemoryAs s (ea s a imm) n 8 .store us)
    (hroom : s.self.st + countOf us ≤ 63) :
    finish 4 s (storeBody s t a imm n) = .next (past s 4 (s.stored (countOf us) (storesFor s us (leBytes n (s.g t).toNat)))) := by
  obtain ⟨hu, hr⟩ := h
  rw [← length_leBytes n (s.g t).toNat] at hu
  exact finish_store_away hp (by simpa using Nat.lt_of_lt_of_le Nat.zero_lt_one h1) hu hr hroom

end

/-- Settles O18: an access whose units lie in memory sets out (`issueLoads_away`, `issueStore_away`), and its units are its pieces, joined where they
are accessed together (`locateUnits_two`). -/
theorem loadsAndStoresSetOut : Obligations.LoadsAndStoresSetOut := by
  unfold Obligations.LoadsAndStoresSetOut
  refine ⟨fun s t a imm => ?_, fun s t a imm => ?_, fun s t a imm us => ?_, fun s va n unit k x y hunit => ?_⟩
  · simp only [List.forall_mem_cons, List.not_mem_nil, false_imp_iff, implies_true, and_true]
    refine ⟨?_, ?_, ?_, ?_, ?_, ?_, ?_⟩ <;> exact fun g hp h hroom => loadBody_away hp (by decide) h hroom _
  · simp only [List.forall_mem_cons, List.not_mem_nil, false_imp_iff, implies_true, and_true]
    refine ⟨?_, ?_, ?_, ?_⟩ <;> exact fun g hp h hroom => storeBody_away hp (by decide) h hroom
  · intro va hp
    simp only [List.forall_mem_cons, List.not_mem_nil, false_imp_iff, implies_true, and_true]
    refine ⟨⟨?_, ?_, ?_, ?_, ?_⟩, ?_, ?_, ?_⟩
    iterate 5 exact fun h hroom => finish_load_away hp (by decide) h.1 h.2 hroom t _
    iterate 3 exact fun h hroom => storeBody_aways hp (by decide) h hroom
  · intro m vb first second hmn hn hca hcb hx
    have hva : va.toNat % unit < unit := Nat.mod_lt _ (by omega)
    have hva2 : va.toNat < 2 ^ 64 := va.isLt
    have hvb : vb.toNat % unit + (n - m) ≤ unit := by
      have h0 : vb.toNat % unit = 0 := by
        simp only [vb, m, BitVec.toNat_add, BitVec.toNat_ofNat]
        rcases hunit with rfl | rfl <;> omega
      omega
    have htwo := State.locateUnits_two (m := m) (vb := vb) rfl rfl hmn hvb (by omega) hca hcb hx
    have hsame (h : x.covers s.self.ctx vb = true) : s.xlateNext s.self.who k (some x) vb = .ok x := if_pos h
    have hanew (h : x.covers s.self.ctx vb = false) : s.xlateNext s.self.who k (some x) vb = s.xlate s.self.who vb k :=
      if_neg (by rw [Bool.not_eq_true]; exact h)
    refine ⟨fun hcov hcls => ?_, fun hcov hacc hcls hbase hlin => ?_, fun hcov hy hcls => ?_, fun f hcov hf => ?_⟩
    · rw [htwo, hsame hcov, Except.map, gather_apart (together_apart hcls)]
    · have htog : together (s.targetOf x va) (s.targetOf x vb) = true := by
        rcases hcls with h | h
        · obtain ⟨hline, hhome⟩ := hacc h
          simp [together, show (s.targetOf x vb).cls = .acc from h, show (s.targetOf x va).cls = .acc from h, hline, hhome]
        · simp [together, show (s.targetOf x vb).cls = .config from h, show (s.targetOf x va).cls = .config from h]
      have hpa : (s.targetOf x va).pa + m = (s.targetOf x vb).pa := by
        simp only [State.targetOf, hlin]
        omega
      rw [htwo, hsame hcov, Except.map, gather_joined htog hpa, Nat.add_sub_cancel' hmn.le]
    · have hcls' : (s.targetOf y vb).cls = .trk ∨ (s.targetOf y vb).cls = .unt ∨ (s.targetOf y vb).cls = .det ∨ (s.targetOf y vb).cls = .host :=
        hcls.imp_right .inl
      rw [htwo, hanew hcov, hy, Except.map, gather_apart (together_apart hcls')]
    · rw [htwo, hanew hcov, hf, Except.map]

end Sys2Proof.Machine
end

section
/-!
PROOFS. What the reply or the refusal of a load changes: its thread alone (R38, R39, R48).
-/

namespace Sys2Proof.Machine

open Claims

/-! ### Changes of one thread -/

/-- From `s` to `u` thread `t` has become `y`, and no other thread, no memory and no packet has changed. -/
structure Changes (s u : State) (t : Nat) (y : Thread) : Prop where
  found : Tab.find u.threads t = some y
  others : othersKeep s u t
  mem : u.mem = s.mem
  net : u.net = s.net

section
variable {s u : State} {t : Nat} {y : Thread}

theorem Changes.thread (h : Changes s u t y) : u.thread t = y := by
  rw [State.thread, Tab.get, h.found]
  rfl

/-- A thread set: what `u` changes of the rest stays as it was. -/
theorem Changes.setThread (h : Changes s u t y) (z : Thread) : Changes s (u.setThread t z) t z where
  found := Tab.find_set_self ..
  others v hv := (u.thread_setThread_ne z hv).trans (h.others v hv)
  mem := h.mem
  net := h.net

theorem Changes.modThread (h : Changes s u t y) (f : Thread → Thread) : Changes s (u.modThread t f) t (f y) := by
  rw [State.modThread, h.thread]
  exact h.setThread (f y)

theorem Changes.of_modThread (s : State) (t : Nat) (f : Thread → Thread) : Changes s (s.modThread t f) t (f (s.thread t)) where
  found := Tab.find_set_self ..
  others _ hv := s.thread_setThread_ne _ hv
  mem := rfl
  net := rfl

/-- An acquire changes its core alone (R192). -/
theorem Changes.acquireFor (h : Changes s u t y) (v scope : Nat) : Changes s (u.acquireFor v scope) t y := by
  unfold State.acquireFor State.acquire
  split
  · exact h
  · exact { found := h.found, others := h.others, mem := h.mem, net := h.net }

/-- Marks of errors that a write ends are no thread's and no memory's (R397). -/
theorem Changes.mendMarks (h : Changes s u t y) (g : BitVec 32) (v : BitVec 16) : Changes s (u.mendMarks t g v) t y where
  found := h.found
  others := h.others
  mem := h.mem
  net := h.net

/-- A counter of a thread that is not stopped and does not wait on its counters falls, and nothing else changes (R48). -/
theorem State.countDown_running {s : State} {t : Nat} {x : Thread} (hf : Tab.find s.threads t = some x) (him : x.imagePa = none)
    (hpark : x.park ≠ some .counters) (c : Ctr) (n : Nat) : s.countDown t c n = s.modThread t fun x => x.setCtr c (x.ctr c - n) := by
  have hx : s.thread t = x := by rw [State.thread, Tab.get, hf]; rfl
  unfold State.countDown
  simp only [hf, hx, him, Option.isNone_some, Bool.false_eq_true, if_false, State.thread_modThread, Thread.setCtr_park, if_neg hpark]

theorem Changes.countDown (h : Changes s u t y) (him : y.imagePa = none) (hpark : y.park ≠ some .counters) (c : Ctr) (n : Nat) :
    Changes s (u.countDown t c n) t (y.setCtr c (y.ctr c - n)) := by
  rw [State.countDown_running h.found him hpark]
  exact h.modThread _

/-- Completion in sequence of a thread's instruction, without a single step and without the end of a loop (R266, R273, R377). -/
theorem State.completeFor_off {s : State} {t size : Nat} (h : ¬ ((s.thread t).pc.setWidth 64 + BitVec.ofNat 64 size =
    (s.thread t).lend &&& 0xFFFFFFFFFFFE ∧ Word.field (s.thread t).lend 48 2 = (s.thread t).pl ∧ (s.thread t).lc ≠ 0)) :
    s.completeFor t size false = s.modThread t fun x => issuedAt s.fresh (x.pc + BitVec.ofNat 48 size) x := by
  have hl := loopCheck_off (s.thread t) _ h
  simp only [State.completeFor, hl, State.modThread, pc_add]
  rfl

theorem Changes.issuedBefore (h : Changes s u t y) (w : State) :
    Changes s (w.issuedBefore t u) t { y with issuedNow := (w.thread t).issuedNow } :=
  h.modThread fun x => { x with issuedNow := (w.thread t).issuedNow }

end

/-! ### The thread of a completed load -/

theorem Thread.unhold_eq (x : Thread) (id : Nat) :
    x.unhold id = { x with hold := if x.hold = some (.load id) ∨ x.hold = some (.acq id) then none else x.hold } := by
  unfold Thread.unhold
  by_cases h : x.hold = some (.load id) ∨ x.hold = some (.acq id) <;> simp [h]

/-- A thread for which a load is under way no longer: its marks are gone, and the thread does not wait for it (R38, R39). -/
def Thread.settled (x : Thread) (l : PendLoad) : Thread := { (x.unmark l.dest).unhold l.id with loads := x.loads.filter (·.id != l.id) }

section
variable (x : Thread) (l : PendLoad)

theorem Thread.settled_eq : x.settled l = { x with
    pendG := x.pendG &&& ~~~ l.dest.marksG, pendV := x.pendV &&& ~~~ l.dest.marksV
    hold := if x.hold = some (.load l.id) ∨ x.hold = some (.acq l.id) then none else x.hold
    loads := x.loads.filter (·.id != l.id) } := by
  rw [Thread.settled, Thread.unhold_eq]
  rfl

@[simp] theorem Thread.settled_g : (x.settled l).g = x.g := by rw [Thread.settled_eq]
@[simp] theorem Thread.settled_v : (x.settled l).v = x.v := by rw [Thread.settled_eq]
@[simp] theorem Thread.settled_p : (x.settled l).p = x.p := by rw [Thread.settled_eq]
@[simp] theorem Thread.settled_pc : (x.settled l).pc = x.pc := by rw [Thread.settled_eq]
@[simp] theorem Thread.settled_ras : (x.settled l).ras = x.ras := by rw [Thread.settled_eq]
@[simp] theorem Thread.settled_rsp : (x.settled l).rsp = x.rsp := by rw [Thread.settled_eq]
@[simp] theorem Thread.settled_status : (x.settled l).status = x.status := by rw [Thread.settled_eq]
@[simp] theorem Thread.settled_lc : (x.settled l).lc = x.lc := by rw [Thread.settled_eq]
@[simp] theorem Thread.settled_lend : (x.settled l).lend = x.lend := by rw [Thread.settled_eq]
@[simp] theorem Thread.settled_ld : (x.settled l).ld = x.ld := by rw [Thread.settled_eq]
@[simp] theorem Thread.settled_imagePa : (x.settled l).imagePa = x.imagePa := by rw [Thread.settled_eq]
@[simp] theorem Thread.settled_park : (x.settled l).park = x.park := by rw [Thread.settled_eq]
@[simp] theorem Thread.settled_core : (x.settled l).core = x.core := by rw [Thread.settled_eq]
@[simp] theorem Thread.settled_place : (x.settled l).place = x.place := by rw [Thread.settled_eq]
@[simp] theorem Thread.settled_pendG : (x.settled l).pendG = x.pendG &&& ~~~ l.dest.marksG := by rw [Thread.settled_eq]

theorem Thread.settled_hold (h : x.hold = none ∨ x.hold = some (.load l.id) ∨ x.hold = some (.acq l.id)) : (x.settled l).hold = none := by
  rw [Thread.settled_eq]
  rcases h with h | h | h <;> simp [h]

end

/-- A thread at the reply of its load: the register written, the marks gone, the load no longer under way (R38, R207). -/
def Thread.landing (x : Thread) (l : PendLoad) (buf : List Byte) : Thread :=
  { (landLoad (x.unmark l.dest) l.dest buf).unhold l.id with loads := x.loads.filter (·.id != l.id) }

theorem Thread.landing_ret (x : Thread) {l : PendLoad} (buf : List Byte) (h : l.dest = .ret) : x.landing l buf = x.settled l := by
  rw [Thread.landing, Thread.settled, h]
  rfl

theorem Thread.landing_g (x : Thread) {l : PendLoad} (buf : List Byte) {d : BitVec 5} {n : Nat} {sg : Bool} (h : l.dest = .g d n sg) (h1 : 1 ≤ n)
    (h8 : n ≤ 8) : x.landing l buf = (x.settled l).setG d (extended (buf.take n) n sg) := by
  rw [Thread.landing, Thread.settled, h, landLoad_g _ _ _ _ h1 h8, Thread.unhold_eq, Thread.unhold_eq, Thread.setG_hold]
  unfold Thread.setG
  split <;> rfl

/-- A thread whose load is complete: LD has fallen (R48). -/
def Thread.landed (x : Thread) (l : PendLoad) (buf : List Byte) : Thread :=
  { x.landing l buf with ld := (x.landing l buf).ld - l.words }

/-- The state of a completed load before its acquire and before a thread that waited for it goes on (R38, R48). -/
def State.landing (s : State) (t : Nat) (l : PendLoad) (buf : List Byte) : State :=
  ((s.modThread t (·.landing l buf)).mendMarks t l.dest.marksG l.dest.marksV).countDown t .ld l.words

section
variable {s : State} {t : Nat} {l : PendLoad} {buf : List Byte}

theorem State.landing_cores (him : ((s.thread t).landing l buf).imagePa = none) (hpark : ((s.thread t).landing l buf).park = none) :
    (s.landing t l buf).cores = s.cores := by
  have hch := (Changes.of_modThread s t (·.landing l buf)).mendMarks l.dest.marksG l.dest.marksV
  rw [State.landing, State.countDown_running hch.found him (by rw [hpark]; simp)]
  rfl

theorem State.landed_ret (hdest : l.dest = .ret) (hacq : l.acq = none) :
    s.landed t l buf = (s.landing t l buf).landRet t (BitVec.ofNat 64 (leNat buf)) := by
  simp only [State.landed, hdest, hacq, State.landing, Thread.landing]

/-- A completed load with its acquire, before a thread that waited for it goes on (R192). -/
def State.acquired (s : State) (t : Nat) (l : PendLoad) (buf : List Byte) : State :=
  match l.acq with
  | some sc => (s.landing t l buf).acquireFor t sc.toNat
  | none => s.landing t l buf

theorem State.landed_g {d : BitVec 5} {n : Nat} {sg : Bool} (hdest : l.dest = .g d n sg) (hheld : l.held = none) :
    s.landed t l buf = s.acquired t l buf := by
  simp only [State.landed, hdest, hheld, State.acquired, State.landing, Thread.landing] <;> rfl

/-- The reply of a load at which the thread waits: the instruction completes once the load is there (R39). -/
theorem State.landed_held {size : Nat} {d : BitVec 5} {n : Nat} {sg : Bool} (hdest : l.dest = .g d n sg) (hheld : l.held = some size) :
    s.landed t l buf = (s.acquired t l buf).issuedBefore t
      ((s.acquired t l buf).completeFor t size ((s.acquired t l buf).thread t).sstep) := by
  simp only [State.landed, hdest, hheld, State.acquired, State.landing, Thread.landing] <;> rfl

/-- The reply of a load changes its thread, and nothing else (R38, R48). -/
theorem State.landing_changes (him : (s.thread t).imagePa = none) (hpark : (s.thread t).park = none)
    (hkeep : ((s.thread t).landing l buf).imagePa = (s.thread t).imagePa ∧ ((s.thread t).landing l buf).park = (s.thread t).park) :
    Changes s (s.landing t l buf) t ((s.thread t).landed l buf) := by
  obtain ⟨h1, h2⟩ := hkeep
  exact ((Changes.of_modThread s t (·.landing l buf)).mendMarks _ _).countDown (h1.trans him) (by rw [h2, hpark]; simp) .ld l.words

/-- An acquire that comes with the reply changes neither the thread nor what the reply leaves (R192). -/
theorem State.acquired_changes {y : Thread} (h : Changes s (s.landing t l buf) t y) : Changes s (s.acquired t l buf) t y := by
  unfold State.acquired
  split
  · exact h.acquireFor ..
  · exact h

/-- The last bytes of a load complete it. -/
theorem State.loadBytes_last {id off : Nat} {data : List Byte} (hl : (s.thread t).loads.find? (·.id == id) = some l) (hleft : l.left = 1) :
    s.loadBytes t id off data = s.landed t l (putBuf l.buf off data) := by
  unfold State.loadBytes
  rw [hl]
  simp only [hleft, le_refl, if_true]

end

/-- A refill with an address that a PC can hold: the thread goes there, sr.rsp having fallen (R47). -/
def Thread.refilled (x : Thread) (now : Nat) (ra : Word) : Thread := { issuedAt now (ra.setWidth 48) { x with rsp := x.rsp - 8 } with issuedNow := x.issuedNow }

theorem Changes.landRet_good {s u : State} {t : Nat} {y : Thread} {ra : Word} (h : Changes s u t y) (hpc : GoodPc ra) (hstep : y.sstep = false) :
    Changes s (u.landRet t ra) t (y.refilled u.fresh ra) := by
  have hpop := h.modThread fun x => { x with rsp := x.rsp - 8 }
  have hjump := (hpop.modThread (issuedAt u.fresh (ra.setWidth 48))).issuedBefore u
  rw [h.thread] at hjump
  rw [State.landRet, badPc_good hpc, if_neg Bool.false_ne_true, State.jumpFor_off (by rw [hpop.thread]; exact hstep)]
  exact hjump

theorem State.landRet_bad {s : State} {t : Nat} {ra : Word} (hpc : ¬ GoodPc ra) :
    s.landRet t ra = s.deliver t { cause := 3, val := ra, epc := (s.thread t).pc.setWidth 64 } := by
  rw [State.landRet, badPc_bad hpc, if_pos rfl]
  rfl

theorem exec_loadReply {s : State} {k t id off : Nat} {data : List Byte} (h : s.net[k]? = some (.loadReply t id off data)) :
    exec (.loadReply k) s = .next ((s.drop k).loadBytes t id off data) := by
  have : loadReply s k = (s.drop k).loadBytes t id off data := by rw [loadReply, h]
  exact congrArg _ this

theorem exec_loadRefused {s : State} {k t id cause : Nat} {va : Word} (h : s.net[k]? = some (.loadRefused t id cause va)) :
    exec (.loadReply k) s = .next ((s.drop k).loadRefusal t id cause va) := by
  have : loadReply s k = (s.drop k).loadRefusal t id cause va := by rw [loadReply, h]
  exact congrArg _ this

end Sys2Proof.Machine
end

section
/-!
PROOFS. Branches, calls and returns (O24).
-/

namespace Sys2Proof.Machine

open Claims

/-! ### Targets -/

theorem State.pcWord_eq (s : State) : s.pcWord = BitVec.ofInt 64 s.self.pc.toNat := by
  apply BitVec.eq_of_toNat_eq
  simp [State.pcWord]

/-- The target of a relative branch, whose offset counts halfwords (R271). -/
theorem State.branch_target {w : Nat} (s : State) (off : BitVec w) :
    s.pcWord + 2 * off.signExtend 64 = BitVec.ofInt 64 (s.self.pc.toNat + 2 * off.toInt) := by
  rw [BitVec.ofInt_add, BitVec.ofInt_mul, s.pcWord_eq]
  rfl

theorem State.back_eq (s : State) : s.pcWord + 4 = BitVec.ofNat 64 (s.self.pc.toNat + 4) := by
  rw [BitVec.ofNat_add, s.pcWord_eq, BitVec.ofInt_natCast]
  rfl

/-! ### Transfers -/

theorem jump_good (s : State) {target : Word} (h : GoodPc target) : jump s target = .error (.jump s (target.setWidth 48)) := by
  rw [jump, badPc_good h, if_neg Bool.false_ne_true]

theorem jump_bad (s : State) {target : Word} (h : ¬ GoodPc target) : jump s target = trap 3 target := by
  rw [jump, badPc_bad h, if_pos rfl]
  rfl

section
variable {s : State} {size : Nat} {target : Word}

theorem finish_jump_self (h : GoodPc target) {f : Thread → Thread} (hstep : (f s.self).sstep = false) :
    finish size s (jump (s.modSelf f) target) = goesTo s (target.setWidth 48) f := by
  rw [jump_good _ h]
  exact finish_jump (by rw [State.self_modSelf, hstep]) rfl

theorem finish_jump_here (h : GoodPc target) (hstep : s.self.sstep = false) : finish size s (jump s target) = goesTo s (target.setWidth 48) id := by
  rw [jump_good _ h, finish_jump hstep rfl, goesTo, State.modSelf_modSelf]
  rfl

theorem finish_jump_bad (h : ¬ GoodPc target) (s' : State) : finish size s (jump s' target) = traps s 3 target := by
  rw [jump_bad _ h, finish_trap]

end

/-- An instruction that changes nothing goes on. -/
theorem finish_nothing {s : State} {size : Nat} (hp : Plain s size) : finish size s (.ok s) = onlySelf s size id := by
  rw [finish_past hp rfl rfl rfl rfl rfl, onlySelf, past, past, State.modSelf_modSelf]
  rfl

theorem State.thread_modSelf_ne (s : State) (f : Thread → Thread) {v : Nat} (h : v ≠ s.cur) : (s.modSelf f).thread v = s.thread v :=
  State.thread_setThread_ne s _ h

/-! ### Calls -/

/-- A call: the target is checked, the address after the call pushed, and control passes (R271). -/
def callBody (s : State) (target : Word) : Body := do
  if badPc target then trap cBADPC target
  let s' ← push s (s.pcWord + 4)
  jump s' target

theorem exec_jal (s : State) (off : BitVec 25) :
    exec (.jal off) s = finish 4 s (callBody s (BitVec.ofInt 64 (s.self.pc.toNat + 2 * off.toInt))) := by
  rw [← s.branch_target]
  rfl

theorem exec_jalr (s : State) (a : BitVec 5) (imm : BitVec 12) :
    exec (.jalr a imm) s = finish 4 s (callBody s (s.g a + BitVec.ofInt 64 imm.toInt)) := rfl

section
variable {s : State} {target : Word}

theorem finish_call_bad (h : ¬ GoodPc target) : finish 4 s (callBody s target) = traps s 3 target := by
  rw [callBody, badPc_bad h]
  exact finish_trap s 4 3 target

theorem callBody_good (h : GoodPc target) : callBody s target = (push s (BitVec.ofNat 64 (s.self.pc.toNat + 4)) >>= fun s' => jump s' target) := by
  rw [callBody, badPc_good h, s.back_eq]
  rfl

/-- A call with room in the store pushes the address after it (R47). -/
theorem finish_call (h : GoodPc target) (hstep : s.self.sstep = false) (hlen : s.self.ras.length < 8) : finish 4 s (callBody s target) =
    goesTo s (target.setWidth 48) fun x => { x with ras := x.ras ++ [BitVec.ofNat 64 (s.self.pc.toNat + 4)] } := by
  rw [callBody_good h, push, if_neg (by omega), ok_bind]
  exact finish_jump_self h hstep

/-- A full store after it has spilled its oldest address: the others and the new one, with sr.rsp past the one spilled (R47). -/
def Thread.spilled (x : Thread) (rs : List Word) (ra : Word) : Thread := { x with rsp := x.rsp + 8, ras := rs ++ [ra] }

/-- A call with a full store spills its oldest address first, by a store of eight bytes at sr.rsp (R47). -/
theorem finish_call_spill {oldest : Word} {rs : List Word} {w : State} (h : GoodPc target) (hras : s.self.ras = oldest :: rs) (hlen : rs.length = 7)
    (hw : issueStore s s.self.rsp 8 (leBytes 8 oldest.toNat) = .ok w) (hrsp : w.self.rsp = s.self.rsp) (hstep : w.self.sstep = false)
    (hnow : w.fresh = s.fresh) : finish 4 s (callBody s target) =
    .next ((w.modSelf (·.spilled rs (BitVec.ofNat 64 (s.self.pc.toNat + 4)))).modSelf (issuedAt s.fresh (target.setWidth 48))) := by
  have hspill : push s (BitVec.ofNat 64 (s.self.pc.toNat + 4)) = .ok (w.modSelf (·.spilled rs (BitVec.ofNat 64 (s.self.pc.toNat + 4)))) := by
    have hrsp' : (w.thread w.cur).rsp = s.self.rsp := hrsp
    simp only [push, hras, List.length_cons, hlen, le_refl, if_true, List.headD_cons, hw, ok_bind, pure_ok, List.drop_succ_cons, List.drop_zero,
      Nat.reduceAdd, Thread.spilled, State.modSelf, State.modThread, hrsp']
  rw [callBody_good h, hspill, ok_bind, jump_good _ h]
  exact finish_jump (by rw [State.self_modSelf]; exact hstep) hnow

end

theorem State.stored_modSelf (s : State) (n : Nat) (ps : List Packet) (f : Thread → Thread) :
    (s.stored n ps).modSelf f = { s.modSelf (fun x => f { x with st := x.st + n }) with net := s.net ++ ps } := by
  simp [State.stored, State.modSelf, State.modThread, State.setThread, State.thread]

/-! ### Returns -/

section
variable {s : State} {size : Nat}

theorem retBody_pop {rs : List Word} {ra : Word} (h : s.self.ras = rs ++ [ra]) :
    retBody s size = jump (s.modSelf fun x => { x with ras := rs }) ra := by
  simp [retBody, h]

theorem retBody_empty (h : s.self.ras = []) : retBody s size = if s.self.rsp.toNat ≤ s.self.rspb.toNat then trap cRAS s.self.rsp else refill s size := by
  simp [retBody, h]

end

/-- The refill of a RET from the own caddy: the address is at hand (R47). -/
theorem refill_own {s : State} {g : Target} (h : OwnCaddy s (s.self.rsp - 8) 8 .load g) (size : Nat) : refill s size =
    jump (s.modSelf fun x => { x with rsp := x.rsp - 8 }) (BitVec.ofNat 64 (leNat (s.bytes g.pa 8))) := by
  obtain ⟨-, hn, hg, hown, -, hq, hs⟩ := h
  simp only [refill, State.locateUnits_one (by decide) hn hg, lift_ok, ok_bind, List.all_cons, List.all_nil, hown, Bool.and_true, if_true,
    gate_quiet hq, State.meetOwn_sound hs, List.flatMap_cons, List.flatMap_nil, List.append_nil]

/-- A thread that waits at its RET for the refill numbered `id` (R47). -/
def Thread.refilling (x : Thread) (id size : Nat) : Thread := { x with
  loads := x.loads ++ [{ id, dest := .ret, buf := List.replicate 8 0, left := 1, words := 0, held := some size }]
  hold := some (.load id) }

/-- The state while a RET waits for its refill from memory (R47). -/
def State.refilling (s : State) (size : Nat) (g : Target) : State :=
  { s.modSelf (·.refilling s.nextId size) with
    nextId := s.nextId + 1, net := s.net ++ [.load { s.accessOf (s.self.rsp - 8) 8 g with id := s.nextId }] }

theorem State.self_refilling (s : State) (size : Nat) (g : Target) : (s.refilling size g).self = s.self.refilling s.nextId size :=
  State.self_modSelf s (·.refilling s.nextId size)

/-- The refill of a RET from memory sets out, and the thread waits at its RET (R47). -/
theorem refill_away {s : State} {g : Target} (h : InMemory s (s.self.rsp - 8) 8 .load g) (size : Nat) :
    refill s size = .error (.held (s.refilling size g)) := by
  obtain ⟨hn, hg, hcaddy, -⟩ := h
  simp only [refill, State.locateUnits_one (by decide) hn hg, lift_ok, ok_bind, List.all_cons, List.all_nil, State.ownCaddy_of_cls hcaddy,
    Bool.and_true, Bool.false_eq_true, if_false]
  rfl

/-- RET and C.RET, which differ in their size only (R61). -/
theorem exec_ret_of_mem {s : State} {i : Instr} (h : i ∈ [Instr.ret, .cRet]) : ∃ size, exec i s = finish size s (retBody s size) := by
  simp only [List.mem_cons, List.not_mem_nil, or_false] at h
  rcases h with rfl | rfl
  · exact ⟨4, rfl⟩
  · exact ⟨2, rfl⟩

/-- Settles O24: the target decides (`finish_jump_here`, `finish_jump_bad`), a call pushes or spills (`finish_call`, `finish_call_spill`), a return pops
(`retBody_pop`) or refills (`refill_own`, `refill_away`). -/
theorem controlTransfers : Obligations.ControlTransfers := by
  unfold Obligations.ControlTransfers
  refine ⟨?_, ?_, ?_, ?_, ?_, ?_⟩
  · intro s p neg off o11 a imm dest taken reg
    have hbrp (h : taken = true) : exec (.brp p off neg) s = finish 4 s (jump s (dest off.toInt)) := by
      have hb : branchBody s taken (off.signExtend 64) = jump s (dest off.toInt) := by rw [branchBody, if_pos h, s.branch_target]
      exact congrArg (finish 4 s) hb
    have hcbr : exec (.cBr o11) s = finish 2 s (jump s (dest o11.toInt)) := by
      have hb : branchBody s true (o11.signExtend 64) = jump s (dest o11.toInt) := by rw [branchBody, if_pos rfl, s.branch_target]
      exact congrArg (finish 2 s) hb
    refine ⟨fun hstep => ⟨fun ht h => ?_, fun h => ?_, fun h => finish_jump_here h hstep⟩, fun ht hp => ?_, fun ht h => ?_, fun h => finish_jump_bad h s⟩
    · rw [hbrp ht, finish_jump_here h hstep]
    · rw [hcbr, finish_jump_here h hstep]
    · have hb : branchBody s taken (off.signExtend 64) = .ok s := by rw [branchBody, ht, if_neg Bool.false_ne_true]
      exact (congrArg (finish 4 s) hb).trans (finish_nothing hp)
    · rw [hbrp ht, finish_jump_bad h]
  · intro s off a imm dest reg back
    rw [exec_jal, exec_jalr]
    refine ⟨fun hstep hlen => ⟨fun h => finish_call h hstep hlen, fun h => finish_call h hstep hlen⟩, finish_call_bad, finish_call_bad,
      fun rs ra hras h => ?_, fun rs ra hstep hras h => ?_, fun hras hle => ?_⟩
    · constructor <;> exact (congrArg (finish _ s) (retBody_pop hras)).trans (finish_jump_bad h _)
    · constructor <;> exact (congrArg (finish _ s) (retBody_pop hras)).trans (finish_jump_self h hstep)
    · constructor <;> exact (congrArg (finish _ s) ((retBody_empty hras).trans (if_pos hle))).trans (finish_trap ..)
  · intro s off a imm oldest rs g dest reg pushed spills hstep hras hlen hst
    rw [exec_jal, exec_jalr]
    refine ⟨fun hmem => ?_, fun hown => ?_⟩
    · have hw := issueStore_one_away (data := leBytes 8 oldest.toNat) (by simp) (by rwa [length_leBytes]) hst
      rw [length_leBytes] at hw
      have hrsp : (s.stored 1 [.store (s.accessOf s.self.rsp 8 g) (leBytes 8 oldest.toNat)]).self.rsp = s.self.rsp := by rw [State.stored_self]
      have hcall {pc : Word} (h : GoodPc pc) := finish_call_spill h hras hlen hw hrsp (by rw [State.stored_self]; exact hstep) rfl
      simp only [State.stored_modSelf] at hcall
      exact ⟨hcall, hcall⟩
    · have hw := issueStore_one_own (data := leBytes 8 oldest.toNat) (by simp) (by rwa [length_leBytes]) hst
      exact ⟨fun h => finish_call_spill h hras hlen hw rfl hstep rfl, fun h => finish_call_spill h hras hlen hw rfl hstep rfl⟩
  · intro s g va ra hras hlt hown i hi
    obtain ⟨size, hex⟩ := exec_ret_of_mem hi
    rw [hex, retBody_empty hras, if_neg (by omega), refill_own hown]
    exact ⟨fun hstep h => finish_jump_self h hstep, fun h => finish_jump_bad h _⟩
  · intro s g va hras hlt hmem i hi
    obtain ⟨size, hex⟩ := exec_ret_of_mem hi
    refine ⟨(s.refilling size g).modSelf (·.issued s.fresh), by rw [hex, retBody_empty hras, if_neg (by omega), refill_away hmem]; rfl, ?_⟩
    dsimp only
    rw [State.self_modSelf, State.self_refilling]
    exact ⟨rfl, rfl, hras, rfl, rfl, rfl, rfl, fun v hv =>
      (State.thread_modSelf_ne (s.refilling size g) (·.issued s.fresh) hv).trans (State.thread_modSelf_ne s (·.refilling s.nextId size) hv)⟩
  · intro s k t id data l _ hpark him hhold hl hleft hdest hwords hacq hbuf hdata hstep hnet ra
    have hid : l.id = id := by simpa using List.find?_some hl
    have hbytes : putBuf l.buf 0 data = data := by simp [putBuf, hbuf, hdata]
    have hland (x : Thread) := x.landing_ret data hdest
    have hch : Changes (s.drop k) ((s.drop k).landing t l data) t ((s.thread t).landed l data) :=
      State.landing_changes (s := s.drop k) him hpark (by rw [hland, Thread.settled_imagePa, Thread.settled_park]; exact ⟨rfl, rfl⟩)
    have hex : exec (.loadReply k) s = .next (((s.drop k).landing t l data).landRet t ra) := by
      rw [exec_loadReply hnet, State.loadBytes_last (s := s.drop k) hl hleft, hbytes, State.landed_ret hdest hacq]
    have hy : (s.thread t).landed l data = (s.thread t).settled l := by
      rw [Thread.landed, hland, hwords]
      rfl
    rw [hy] at hch
    refine ⟨fun hra => ⟨_, hex, ?_⟩, fun hra => ⟨_, by rw [hex, State.landRet_bad hra, hch.thread, Thread.settled_pc], ?_⟩⟩
    · have hu := hch.landRet_good hra (by rw [Thread.sstep, Thread.settled_status]; exact hstep)
      simp only [hu.thread]
      exact ⟨rfl, congrArg (· - 8) ((s.thread t).settled_rsp l), Thread.settled_hold _ _ (by simp [hhold, hid]), (s.thread t).settled_ras l,
        (s.thread t).settled_g l, hu.mem, hu.net, hu.others⟩
    · rw [hch.thread]
      exact ⟨(s.thread t).settled_rsp l, (s.thread t).settled_pc l, hch.mem, hch.others⟩

end Sys2Proof.Machine
end

section
/-!
PROOFS. Replies, acknowledgements, refusals and due traps reach their thread (O22).
-/

namespace Sys2Proof.Machine

open Claims

/-! ### The reply of a load of a general register -/

section
variable {l : PendLoad} {d : BitVec 5} {n : Nat} {sg : Bool} (hdest : l.dest = .g d n sg) (h1 : 1 ≤ n) (h8 : n ≤ 8)
include hdest h1 h8

/-- A thread whose load of a general register is complete: the register holds the bytes, extended, and LD has fallen (R48, R207). -/
theorem Thread.landed_g (x : Thread) (buf : List Byte) :
    x.landed l buf = { (x.settled l).setG d (extended (buf.take n) n sg) with ld := x.ld - l.words } := by
  rw [Thread.landed, x.landing_g buf hdest h1 h8, Thread.setG_ld, Thread.settled_ld]

theorem Thread.landed_getG (x : Thread) (buf : List Byte) (r : BitVec 5) :
    (x.landed l buf).getG r = if d ≠ 0 ∧ r = d then extended (buf.take n) n sg else x.getG r := by
  have hr (y : Word) : (x.landed l buf).getG r = ((x.settled l).setG d (extended (buf.take n) n sg)).getG r := by
    rw [Thread.landed_g hdest h1 h8]
    rfl
  have hx : (x.settled l).getG r = x.getG r := by simp [Thread.getG]
  rw [hr 0]
  by_cases hd : d = 0
  · rw [hd, Thread.setG_zero, hx, if_neg (by simp)]
  · rw [Thread.getG_setG _ _ _ hd, hx]
    simp only [ne_eq, hd, not_false_eq_true, true_and]

theorem Thread.landed_getG_self (x : Thread) (buf : List Byte) :
    (x.landed l buf).getG d = if d = 0 then 0 else extended (buf.take n) n sg := by
  rw [Thread.landed_getG hdest h1 h8]
  by_cases hd : d = 0
  · rw [if_neg (by simp [hd]), if_pos hd, hd, Thread.getG_zero]
  · rw [if_pos ⟨hd, rfl⟩, if_neg hd]

theorem Thread.landed_getG_ne (x : Thread) (buf : List Byte) {r : BitVec 5} (hr : r ≠ d) : (x.landed l buf).getG r = x.getG r := by
  rw [Thread.landed_getG hdest h1 h8, if_neg fun h => hr h.2]

/-- The register of a completed load is no longer pending (R38). -/
theorem Thread.landed_pendG (x : Thread) (buf : List Byte) (hd : d ≠ 0) : (x.landed l buf).pendG.getLsbD d.toNat = false := by
  have hlt : d.toNat < 32 := d.isLt
  rw [Thread.landed_g hdest h1 h8]
  simp only [Thread.setG_pendG, Thread.settled_pendG, hdest, Dest.marksG, if_neg hd]
  simp [hlt]

/-- What the reply leaves as it was. -/
theorem Thread.landed_keeps (x : Thread) (buf : List Byte) :
    (x.landed l buf).pc = x.pc ∧ (x.landed l buf).p = x.p ∧ (x.landed l buf).v = x.v ∧ (x.landed l buf).ld = x.ld - l.words := by
  rw [Thread.landed_g hdest h1 h8]
  simp

theorem Thread.landed_hold (x : Thread) (buf : List Byte) (h : x.hold = none ∨ x.hold = some (.load l.id) ∨ x.hold = some (.acq l.id)) :
    (x.landed l buf).hold = none := by
  rw [Thread.landed_g hdest h1 h8]
  exact (Thread.setG_hold ..).trans (x.settled_hold l h)

theorem State.landing_changes_g {s : State} {t : Nat} (buf : List Byte) (him : (s.thread t).imagePa = none)
    (hpark : (s.thread t).park = none) : Changes s (s.landing t l buf) t ((s.thread t).landed l buf) :=
  State.landing_changes him hpark (by rw [Thread.landing_g _ _ hdest h1 h8]; simp)

end

/-- An acquire at CLUS or wider drops the lines that the core does not own (R192). -/
theorem State.acquire_l1 (s : State) (c : Coord) (sc : BitVec 3) :
    ((s.acquire c sc.toNat).coreAt c).l1 = if sc = 0 then (s.coreAt c).l1 else (s.coreAt c).l1.filter (·.owned) := by
  by_cases h : sc = 0
  · rw [if_pos h, State.acquire, if_pos (by simp [h])]
  · have h0 : sc.toNat ≠ 0 := fun h' => h (BitVec.eq_of_toNat_eq h')
    rw [if_neg h, State.acquire, if_neg h0, State.modCore, State.coreAt_setCore]

/-! ### Refusals of loads (R39) -/

/-- A load that is refused is under way no longer, and its register keeps its value (R39). -/
def State.refusedLoad (s : State) (t : Nat) (l : PendLoad) : State := (s.modThread t (·.settled l)).countDown t .ld l.words

section
variable {s : State} {t : Nat} {l : PendLoad}

theorem State.loadRefusal_eq {id : Nat} (hl : (s.thread t).loads.find? (·.id == id) = some l) (cause : Nat) (va : Word) :
    s.loadRefusal t id cause va =
      (s.refusedLoad t l).deliver t { cause, val := va, epc := ((s.refusedLoad t l).thread t).pc.setWidth 64 } := by
  obtain rfl : l.id = id := by simpa using List.find?_some hl
  rw [State.loadRefusal, hl]
  rfl

theorem State.refusedLoad_changes (him : (s.thread t).imagePa = none) (hpark : (s.thread t).park = none) :
    Changes s (s.refusedLoad t l) t { (s.thread t).settled l with ld := (s.thread t).ld - l.words } := by
  have h := (Changes.of_modThread s t (·.settled l)).countDown ((Thread.settled_imagePa _ l).trans him) (by simp [hpark]) .ld l.words
  have hld : ((s.thread t).settled l).ctr .ld = (s.thread t).ld := (s.thread t).settled_ld l
  rwa [hld] at h

end

/-! ### Acknowledgements and refusals of stores (R48, R209) -/

section
variable {s : State} {k t : Nat}

/-- An acknowledgement that comes for no group lowers ST of a thread that waits for nothing (R48). -/
theorem State.acked_running {x : Thread} (hf : Tab.find s.threads t = some x) (hpark : x.park = none) (hhold : x.hold = none)
    (him : x.imagePa = none) : s.acked t 0 = s.modThread t fun x => { x with st := x.st - 1 } := by
  have hx : s.thread t = x := by rw [State.thread, Tab.get, hf]; rfl
  have hcount : s.countDown t .st 1 = s.modThread t fun x => { x with st := x.st - 1 } :=
    State.countDown_running hf him (by rw [hpark]; simp) .st 1
  have hh : ((s.modThread t fun x => { x with st := x.st - 1 }).thread t).hold = none := by
    rw [State.thread_modThread, hx]
    exact hhold
  rw [State.acked, if_pos rfl, hcount]
  simp only [hh]

/-- A trap becomes pending at a thread that is not stopped (R209). -/
theorem State.pend_running (hf : (Tab.find s.threads t).isSome) (f : Thread → Thread) (hroster : (f (s.thread t)).rosterPa = none) :
    s.pend t f = s.modThread t f := by
  have hsome : (Tab.find s.threads t).isNone = false := by rw [← Option.not_isSome, hf]; rfl
  simp only [State.pend, hsome, Bool.false_eq_true, if_false, State.thread_modThread, hroster]

theorem exec_storeAck {g : Nat} (h : s.net[k]? = some (.ack t g)) : exec (.storeAck k) s = .next ((s.drop k).acked t g) := by
  have : storeAck s k = (s.drop k).acked t g := by rw [storeAck, h]
  exact congrArg _ this

theorem exec_storeRefusal {g cause seq : Nat} {va : Word} (h : s.net[k]? = some (.storeRefused t g cause va seq)) :
    exec (.storeRefusal k) s = .next (((s.drop k).pend t (·.addRefusal cause va seq g s.cycle)).acked t g) := by
  have : storeRefusal s k = ((s.drop k).pend t (·.addRefusal cause va seq g s.cycle)).acked t g := by rw [storeRefusal, h]
  exact congrArg _ this

end

/-! ### Due traps (R210, R386) -/

/-- A pending refusal that is due is the first of the pending traps (R386). -/
theorem Thread.duePending_refusal {x : Thread} {p : Pend} {now : Nat} (h : x.refusal = some p) (hdue : p.due = true ∨ p.since + 4096 ≤ now) :
    x.duePending now = some (p, { x with refusal := none }) := by
  have hripe : p.ripe now = true := by simpa [Pend.ripe] using hdue
  simp [Thread.duePending, Thread.firstPending, h, hripe]

theorem State.wakeThread_awake {s : State} {t : Nat} (h : (s.thread t).park = none) : s.wakeThread t = s := by
  simp only [State.wakeThread, h]

/-- What the counters and the soft errors of a step leave alone: the threads, the events from outside, and who comes next. -/
def SameTurn (s u : State) : Prop := u.threads = s.threads ∧ u.inputs = s.inputs ∧ u.turn = s.turn ∧ u.group = s.group

theorem SameTurn.trans {s u w : State} (h : SameTurn s u) (h' : SameTurn u w) : SameTurn s w := by
  obtain ⟨h1, h2, h3, h4⟩ := h
  obtain ⟨k1, k2, k3, k4⟩ := h'
  exact ⟨k1.trans h1, k2.trans h2, k3.trans h3, k4.trans h4⟩

theorem SameTurn.thread {s u : State} (h : SameTurn s u) (t : Nat) : u.thread t = s.thread t := by
  rw [State.thread, State.thread, h.1]

theorem State.correctable_sameTurn (s : State) (row : Nat) (unit : Coord) (loc : Nat) : SameTurn s (s.correctable row unit loc) := by
  unfold State.correctable
  dsimp only
  split <;> exact ⟨rfl, rfl, rfl, rfl⟩

theorem State.markBad_sameTurn (s : State) (row : Nat) (unit : Coord) (loc : Nat) : SameTurn s (s.markBad row unit loc) := by
  unfold State.markBad
  split <;> exact ⟨rfl, rfl, rfl, rfl⟩

theorem State.spoil_sameTurn (s : State) (row : Nat) (unit : Coord) (loc : Nat) : SameTurn s (s.spoil row unit loc) := by
  unfold State.spoil
  dsimp only
  split
  · exact ⟨rfl, rfl, rfl, rfl⟩
  · split <;> exact ⟨rfl, rfl, rfl, rfl⟩

theorem State.strike_sameTurn (s : State) (x : Strike) : SameTurn s (s.strike x) := by
  unfold State.strike
  split
  · exact ⟨rfl, rfl, rfl, rfl⟩
  split
  · exact (s.spoil_sameTurn ..).trans (State.correctable_sameTurn ..)
  split
  · exact s.correctable_sameTurn ..
  split
  · exact s.markBad_sameTurn ..
  split <;> exact ⟨rfl, rfl, rfl, rfl⟩

theorem State.tick_sameTurn (s : State) : SameTurn s s.tick := by
  have hfold (l : List Strike) (u : State) (h : SameTurn s u) : SameTurn s (l.foldl State.strike u) :=
    foldl_keeps (P := SameTurn s) (fun b x h => h.trans (b.strike_sameTurn x)) l h
  exact hfold _ _ ⟨rfl, rfl, rfl, rfl⟩

/-- A thread whose turn comes takes its due trap before it issues anything (R210; log entry 39). -/
theorem State.issue_due {s : State} {t : Nat} {p : Pend} {y : Thread} (hst : (s.thread t).stalled = false) (hh : (s.thread t).hold = none)
    (hdue : (s.thread t).duePending s.cycle = some (p, y)) :
    s.issue t = .next (State.raiseAsync (State.setThread { s with cur := t, group := s.group.filter (· != t) } t y) t p) := by
  simp [State.issue, hst, hh, hdue]

/-- Settles O22: a reply changes its thread alone (`State.landing_changes_g`), which goes on if it waited (`State.landed_held`); an acknowledgement or a
refusal lowers ST (`State.acked_running`); a due trap is taken at the boundary (`Thread.duePending_refusal`) and at the thread's turn
(`State.issue_due`). -/
theorem repliesReachTheThread : Obligations.RepliesReachTheThread := by
  unfold Obligations.RepliesReachTheThread
  refine ⟨?_, ?_, ?_, ?_, ?_⟩
  · intro s k t id off data l d n sg ⟨_, hpark, _, him, _⟩ hl hleft hdest hacq hheld hnet h1 h8
    have hch := State.landing_changes_g (s := s.drop k) hdest h1 h8 (putBuf l.buf off data) him hpark
    have hex : exec (.loadReply k) s = .next ((s.drop k).landing t l (putBuf l.buf off data)) := by
      rw [exec_loadReply hnet, State.loadBytes_last (s := s.drop k) hl hleft, State.landed_g hdest hheld, State.acquired, hacq]
    obtain ⟨hpc, hp, hv, hld⟩ := Thread.landed_keeps hdest h1 h8 (s.thread t) (putBuf l.buf off data)
    refine ⟨_, hex, ?_⟩
    simp only [hch.thread]
    exact ⟨Thread.landed_getG_self hdest h1 h8 .., fun r hr => Thread.landed_getG_ne hdest h1 h8 _ _ hr, hld,
      Thread.landed_pendG hdest h1 h8 _ _, hpc, hp, hv, hch.mem, hch.net, hch.others⟩
  · intro s k t id off cause size va data l d n sg x hsome hpark him hhold hl hheld
    have hid : l.id = id := by simpa using List.find?_some hl
    refine ⟨fun hnet => ?_, fun hnet hleft hdest h1 h8 hstep hloop => ?_⟩
    · have hch := State.refusedLoad_changes (s := s.drop k) (l := l) him hpark
      refine ⟨(s.drop k).refusedLoad t l, ?_, ?_⟩
      · rw [exec_loadRefused hnet, State.loadRefusal_eq (s := s.drop k) hl, hch.thread]
        exact congrArg (fun pc : BitVec 48 => Host.Outcome.next (State.deliver _ t { cause, val := va, epc := pc.setWidth 64 })) (x.settled_pc l)
      · rw [hch.thread]
        exact ⟨x.settled_g l, x.settled_v l, x.settled_pc l, x.settled_hold l (by simp [hhold, hid]), rfl, hch.mem, hch.net, hch.others⟩
    · let buf := putBuf l.buf off data
      let w := (s.drop k).acquired t l buf
      have hch : Changes (s.drop k) w t (x.landed l buf) :=
        State.acquired_changes (State.landing_changes_g (s := s.drop k) hdest h1 h8 buf him hpark)
      have hstep' : (x.landed l buf).sstep = false := by rw [Thread.landed_g hdest h1 h8]; simpa [Thread.sstep] using hstep
      have hex : exec (.loadReply k) s = .next (w.issuedBefore t (w.completeFor t size false)) := by
        rw [exec_loadReply hnet, State.loadBytes_last (s := s.drop k) hl hleft, State.landed_held hdest hheld]
        exact congrArg (fun b => Host.Outcome.next (w.issuedBefore t (w.completeFor t size b))) (by rw [hch.thread, hstep'])
      have hgo : w.completeFor t size false = w.modThread t fun x => issuedAt w.fresh (x.pc + BitVec.ofNat 48 size) x := by
        refine State.completeFor_off ?_
        rw [hch.thread, Thread.landed_g hdest h1 h8]
        simpa [Thread.pl] using hloop
      rw [hgo] at hex
      have hu := (hch.modThread fun x => issuedAt w.fresh (x.pc + BitVec.ofNat 48 size) x).issuedBefore w
      obtain ⟨hpc, hp, hv, hld⟩ := Thread.landed_keeps hdest h1 h8 x buf
      refine ⟨_, hex, ?_⟩
      simp only [hu.thread]
      exact ⟨Thread.landed_getG_self hdest h1 h8 x buf, fun r hr => Thread.landed_getG_ne hdest h1 h8 x buf hr,
        Thread.landed_hold hdest h1 h8 x buf (by simp [hhold, hid]), congrArg (· + BitVec.ofNat 48 size) hpc, hld,
        Thread.landed_pendG hdest h1 h8 x buf, hp, hv, hu.mem, hu.net, hu.others⟩
  · intro s k t id off data l d n sg sc hsome hpark him hhold hl hleft hdest hacq hheld h1 h8 hnet
    have hid : l.id = id := by simpa using List.find?_some hl
    let x := s.thread t
    let buf := putBuf l.buf off data
    have hch : Changes (s.drop k) ((s.drop k).landing t l buf) t (x.landed l buf) :=
      State.landing_changes_g (s := s.drop k) hdest h1 h8 buf him hpark
    have hex : exec (.loadReply k) s = .next (((s.drop k).landing t l buf).acquireFor t sc.toNat) := by
      rw [exec_loadReply hnet, State.loadBytes_last (s := s.drop k) hl hleft, State.landed_g hdest hheld, State.acquired, hacq]
    have hcores : ((s.drop k).landing t l buf).cores = s.cores := State.landing_cores (s := s.drop k)
      (by rw [Thread.landing_g _ _ hdest h1 h8, Thread.setG_imagePa, Thread.settled_imagePa]; exact him)
      (by rw [Thread.landing_g _ _ hdest h1 h8, Thread.setG_park, Thread.settled_park]; exact hpark)
    have hu := hch.acquireFor t sc.toNat
    obtain ⟨hpc, -, -, hld⟩ := Thread.landed_keeps hdest h1 h8 x buf
    have hunit : (x.landed l buf).unit = x.unit := by
      rw [Thread.landed_g hdest h1 h8]
      simp [Thread.unit, Thread.onService]
    refine ⟨_, hex, ?_⟩
    simp only [hu.thread]
    refine ⟨Thread.landed_getG_self hdest h1 h8 x buf, Thread.landed_hold hdest h1 h8 x buf (by simp [hhold, hid, x]), hld, hpc, ?_, hu.mem, hu.net,
      hu.others⟩
    rw [State.acquireFor, hch.thread, hunit, State.acquire_l1]
    have hc : ((s.drop k).landing t l buf).coreAt x.unit = s.coreAt x.unit := by rw [State.coreAt, hcores, State.coreAt]
    rw [hc]
  · intro s k t cause va ⟨hsome, hpark, hhold, him, hroster⟩
    obtain ⟨x, hf⟩ := Option.isSome_iff_exists.1 hsome
    have hx : s.thread t = x := by rw [State.thread, Tab.get, hf]; rfl
    refine ⟨fun hnet => ?_, fun seq hnet href => ?_, fun p href hdue hb hhalt hsw hdebug => ?_⟩
    · refine ⟨_, exec_storeAck hnet, ?_⟩
      rw [State.acked_running (s := s.drop k) hf (hx ▸ hpark) (hx ▸ hhold) (hx ▸ him)]
      rfl
    · let w := (s.drop k).modThread t (·.addRefusal cause va seq 0 s.cycle)
      have hpend : (s.drop k).pend t (·.addRefusal cause va seq 0 s.cycle) = w := State.pend_running (s := s.drop k) hsome _ hroster
      have hch : Changes (s.drop k) w t ((s.thread t).addRefusal cause va seq 0 s.cycle) := Changes.of_modThread ..
      have hack := hch.modThread fun x => { x with st := x.st - 1 }
      have hex := exec_storeRefusal hnet
      rw [hpend, State.acked_running hch.found hpark hhold him] at hex
      refine ⟨_, hex, ?_⟩
      simp only [hack.thread]
      exact ⟨by rw [Thread.addRefusal, href], rfl, rfl, rfl, hack.mem, hack.net, hack.others⟩
    · have hy := Thread.duePending_refusal href hdue
      have hd : pendingTrapDeadline s t = ((s.modThread t fun x => { x with refusal := none }).wakeThread t).raiseAsync t p := by
        simp [pendingTrapDeadline, hf, hb, hdebug, hhalt, hsw, hy, State.modThread]
      rw [State.wakeThread_awake (by rw [State.thread_modThread]; exact hpark)] at hd
      exact congrArg _ hd
  · intro s t p y hin hturn hnext hst hh hdue u
    have hk := s.tick_sameTurn
    have hthread := hk.thread t
    obtain ⟨_, hin', hturn', hgroup⟩ := hk
    have hadv : s.tick.advance = ({ s.tick with turn := false } : State).issue t := by
      simp [State.advance, hin', hin, hturn', hturn, hnext]
    rw [step, hadv, State.issue_due (s := { s.tick with turn := false }) (hthread ▸ hst) (hthread ▸ hh) (hthread ▸ hdue)]
    show s.mapped (.next (State.raiseAsync (State.setThread { s.tick with turn := false, cur := t, group := s.tick.group.filter (· != t) } t y) t p)) = _
    rw [hgroup]

end Sys2Proof.Machine
end

section
/-!
PROOFS. Accesses at their homes (O23): the clause on a partition's traffic fails where a table is out of order.

`Tab.set` puts an entry before the first that has a greater key. In a table of partitions that is not in order the written partition so comes before
others, and where two partitions' slots name one context (which `State.slotOf` decides by the first) the write moves the context, and with it its
packets, from one partition to the other. The statement does not ask for tables in order, as `Tab.wf` says.
-/

namespace Sys2Proof.Machine

open Claims

/-- A partition whose slot 0 is enabled and names context 0 (R341). -/
def slotForContextZero : Part := { active := [(slotBase 0, BitVec.twoPow 64 22)] }

/-- A store of a thread of context 1, which no slot names, to the configuration block of partition 3 (R354). -/
def blockThreeStore : Packet := .store
  { thread := 7, ctx := 1, core := 0, svc := false, pl := 0, va := 0, pa := 0x10010000000 + 0x100000 * 3, n := 8, cls := .config, home := 0 }
  (List.replicate 8 0)

/-- The reply of a load of a thread of context 0. -/
def contextZeroReply : Packet := .loadReply 0 0 0 []

/-- Partitions 5 and 3, in this order, both with a slot for context 0; the store and the reply are on their way. -/
def unorderedPartitions : State :=
  { threads := [(7, { ctx := 1 })], parts := [(5, slotForContextZero), (3, slotForContextZero)], net := [blockThreeStore, contextZeroReply] }

/-- Before the store the reply is one of partition 5. -/
theorem traffic_before_blockThreeStore : unorderedPartitions.traffic 5 = [contextZeroReply] := by decide

/-- The refused store counts at partition 3, which then comes first and has context 0: the reply is no longer one of partition 5. -/
theorem traffic_after_blockThreeStore : (homeAccess unorderedPartitions 0).traffic 5 = [] := by decide

/-- The store serves no context of partition 5. -/
theorem blockThreeStore_not_of_five : unorderedPartitions.packetOf 5 blockThreeStore = false := by decide

/-- Refutes O23: what is done for a store of no partition moves a packet out of partition 5's traffic, in a state whose table of partitions is out of
order (`unorderedPartitions`). -/
theorem not_accessesAtTheirHomes : ¬ Obligations.AccessesAtTheirHomes := by
  unfold Obligations.AccessesAtTheirHomes
  rintro ⟨-, -, htraffic⟩
  obtain ⟨u, hu, hkeeps⟩ :=
    htraffic unorderedPartitions 0 5 blockThreeStore rfl rfl blockThreeStore_not_of_five (.homeAccess 0) (by simp)
  obtain rfl : homeAccess unorderedPartitions 0 = u := Host.Outcome.next.inj hu
  rw [traffic_before_blockThreeStore, traffic_after_blockThreeStore] at hkeeps
  exact absurd hkeeps (by simp)

end Sys2Proof.Machine
end

section
/-!
PROOFS. Special registers (O26): the masks of their fields, what MFSR and MTSR do with each register, and what they refuse.
-/

namespace Sys2Proof.Machine

open Claims

/-! ### Masks -/

/-- A value sets no bit of a mask. -/
theorem Word.and_eq_zero {v mask : Word} (h : ∀ i < 64, mask.getLsbD i = true → v.getLsbD i = false) : v &&& mask = 0 := by
  apply BitVec.eq_of_getLsbD_eq
  intro i hi
  rw [BitVec.getLsbD_and]
  cases hm : mask.getLsbD i
  · simp
  · simp [h i hi hm]

theorem Word.getLsbD_of_lt {v : Word} {n i : Nat} (hv : v.toNat < 2 ^ n) (hi : n ≤ i) : v.getLsbD i = false :=
  Nat.testBit_lt_two_pow (hv.trans_le (Nat.pow_le_pow_right (by decide) hi))

/-- A value below 2^n sets no bit of a mask of bits from `n` on. -/
theorem Word.and_high {v mask : Word} {n : Nat} (hv : v.toNat < 2 ^ n) (hm : ∀ i < 64, mask.getLsbD i = true → n ≤ i) : v &&& mask = 0 :=
  Word.and_eq_zero fun i hi h => Word.getLsbD_of_lt hv (hm i hi h)

/-- A value from 2^n on sets a bit of a mask of all bits from `n` on. -/
theorem Word.and_high_ne {v mask : Word} {n : Nat} (hv : 2 ^ n ≤ v.toNat) (hm : ∀ i < 64, n ≤ i → mask.getLsbD i = true) : v &&& mask ≠ 0 := by
  intro h
  apply absurd hv (Nat.not_le.2 (Nat.lt_pow_two_of_testBit _ fun i hi => ?_))
  rcases Nat.lt_or_ge i 64 with h64 | h64
  · have hb : (v &&& mask).getLsbD i = false := by rw [h]; exact BitVec.getLsbD_zero
    rwa [BitVec.getLsbD_and, hm i h64 hi, Bool.and_true] at hb
  · exact BitVec.getLsbD_of_ge v i h64

/-- A value below 2^n without the bits that a mask leaves out, which are those below `k`. -/
theorem Word.and_mask {v mask : Word} {k n : Nat} (hv : v.toNat < 2 ^ n) (hm : ∀ i < 64, i < n → mask.getLsbD i = decide (k ≤ i)) :
    v &&& mask = BitVec.ofNat 64 (v.toNat / 2 ^ k * 2 ^ k) := by
  apply BitVec.eq_of_getLsbD_eq
  intro i hi
  rw [BitVec.getLsbD_and, BitVec.getLsbD_ofNat, Nat.testBit_mul_two_pow, Nat.testBit_div_two_pow]
  rcases Nat.lt_or_ge i n with hn | hn
  · rw [hm i hi hn]
    rcases Nat.lt_or_ge i k with hk | hk
    · simp [Nat.not_le.2 hk]
    · simp [hk, hi, BitVec.getLsbD, Nat.sub_add_cancel hk]
  · rw [Word.getLsbD_of_lt hv hn]
    rcases Nat.lt_or_ge i k with hk | hk
    · simp [Nat.not_le.2 hk]
    · have hb : v.toNat.testBit i = false := Word.getLsbD_of_lt hv hn
      simp [hk, Nat.sub_add_cancel hk, hb]

/-! ### What the instructions do with a register -/

section
variable {s : State} {d a : BitVec 5} {r : BitVec 12} {sr : Sr}

/-- MFSR reads a register that the thread's level may read. -/
theorem exec_mfsr (hr : srOf r = some sr) (hl : sr.readLevel ≤ s.self.pl) (hf : flagsOwed s.self = false ∨ sr ≠ .fcsr) :
    exec (.mfsr d r) s = finish 4 s (.ok ((s.touchSr sr).setG d (s.readSr sr))) := by
  have hb : mfsrBody s (encode (.mfsr d r)).bits d r = .ok ((s.touchSr sr).setG d (s.readSr sr)) := by
    simp only [mfsrBody, hr, if_neg (Nat.not_lt.2 hl)]
    rcases hf with hf | hf <;> simp [hf]
  exact congrArg (finish 4 s) hb

theorem mfsr_none (hr : srOf r = none) : exec (.mfsr d r) s = traps s 1 (encode (.mfsr d r)).bits := by
  have hb : mfsrBody s (encode (.mfsr d r)).bits d r = trap 1 (encode (.mfsr d r)).bits := by rw [mfsrBody, hr]; rfl
  exact (congrArg (finish 4 s) hb).trans (finish_trap ..)

theorem mfsr_priv (hr : srOf r = some sr) (hl : s.self.pl < sr.readLevel) : exec (.mfsr d r) s = traps s 2 (encode (.mfsr d r)).bits := by
  have hb : mfsrBody s (encode (.mfsr d r)).bits d r = trap 2 (encode (.mfsr d r)).bits := by
    simp only [mfsrBody, hr, if_pos hl]
    rfl
  exact (congrArg (finish 4 s) hb).trans (finish_trap ..)

/-- MTSR writes a register that the thread's level may write. -/
theorem exec_mtsr {l : Nat} (hr : srOf r = some sr) (hw : sr.writeLevel = some l) (hl : l ≤ s.self.pl) (hres : s.g a &&& sr.reserved = 0)
    (hf : sr ≠ .fcsr ∨ flagsOwed s.self = false ∧ Word.field (s.g a) 0 3 ≤ 4) :
    exec (.mtsr a r) s = finish 4 s (.ok (s.writeSr sr (s.g a))) := by
  have hb : mtsrBody s (encode (.mtsr a r)).bits a r = .ok (s.writeSr sr (s.g a)) := by
    simp only [mtsrBody, hr, hw, if_neg (Nat.not_lt.2 hl), hres]
    rcases hf with hf | ⟨hf, hm⟩
    · simp [hf]
    · simp [hf, Nat.not_lt.2 hm]
  exact congrArg (finish 4 s) hb

theorem mtsr_none (hr : srOf r = none) : exec (.mtsr a r) s = traps s 1 (encode (.mtsr a r)).bits := by
  have hb : mtsrBody s (encode (.mtsr a r)).bits a r = trap 1 (encode (.mtsr a r)).bits := by rw [mtsrBody, hr]; rfl
  exact (congrArg (finish 4 s) hb).trans (finish_trap ..)

/-- A register that no level may write (R40). -/
theorem mtsr_readOnly (hr : srOf r = some sr) (hw : sr.writeLevel = none) : exec (.mtsr a r) s = traps s 1 (encode (.mtsr a r)).bits := by
  have hb : mtsrBody s (encode (.mtsr a r)).bits a r = trap 1 (encode (.mtsr a r)).bits := by
    simp only [mtsrBody, hr, hw]
    rfl
  exact (congrArg (finish 4 s) hb).trans (finish_trap ..)

theorem mtsr_priv {l : Nat} (hr : srOf r = some sr) (hw : sr.writeLevel = some l) (hl : s.self.pl < l) :
    exec (.mtsr a r) s = traps s 2 (encode (.mtsr a r)).bits := by
  have hb : mtsrBody s (encode (.mtsr a r)).bits a r = trap 2 (encode (.mtsr a r)).bits := by
    simp only [mtsrBody, hr, hw, if_pos hl]
    rfl
  exact (congrArg (finish 4 s) hb).trans (finish_trap ..)

/-- A value that sets a reserved bit, or a rounding mode from 5 to 7 (R42, R376). -/
theorem mtsr_reserved {l : Nat} (hr : srOf r = some sr) (hw : sr.writeLevel = some l) (hl : l ≤ s.self.pl)
    (hres : s.g a &&& sr.reserved ≠ 0 ∨ sr = .fcsr ∧ 4 < Word.field (s.g a) 0 3) :
    exec (.mtsr a r) s = traps s 1 (encode (.mtsr a r)).bits := by
  have hb : mtsrBody s (encode (.mtsr a r)).bits a r = trap 1 (encode (.mtsr a r)).bits := by
    simp only [mtsrBody, hr, hw, if_neg (Nat.not_lt.2 hl)]
    rw [if_pos]
    · rfl
    · rcases hres with h | ⟨rfl, h⟩
      · exact Bool.or_eq_true_iff.2 (Or.inl (decide_eq_true h))
      · simp [h]
  exact (congrArg (finish 4 s) hb).trans (finish_trap ..)

/-- MFSR of a register that stands in the state, and not in memory. -/
theorem mfsr_reads (hp : Plain s 4) (hr : srOf r = some sr) (hl : sr.readLevel ≤ s.self.pl) (ht : s.touchSr sr = s)
    (hf : flagsOwed s.self = false ∨ sr ≠ .fcsr) : exec (.mfsr d r) s = writesG s 4 d (s.readSr sr) := by
  rw [exec_mfsr hr hl hf, ht]
  exact finish_setG s 4 hp d _

/-- MTSR of a register of the thread that neither the loop check nor the level reads. -/
theorem mtsr_writes {l : Nat} {f : Thread → Thread} (hp : Plain s 4) (hr : srOf r = some sr) (hw : sr.writeLevel = some l) (hl : l ≤ s.self.pl)
    (hres : s.g a &&& sr.reserved = 0) (hf : sr ≠ .fcsr ∨ flagsOwed s.self = false ∧ Word.field (s.g a) 0 3 ≤ 4)
    (hwr : s.writeSr sr (s.g a) = s.modSelf f) (h1 : (f s.self).pc = s.self.pc) (h2 : (f s.self).lend = s.self.lend)
    (h3 : (f s.self).lc = s.self.lc) (h4 : (f s.self).pl = s.self.pl) : exec (.mtsr a r) s = onlySelf s 4 f := by
  rw [exec_mtsr hr hw hl hres hf, hwr]
  exact finish_self s 4 hp f h1 h2 h3 h4

/-- An instruction that writes what the loop check reads, in a thread whose loop does not end there (R273). -/
theorem finish_self_loop {f : Thread → Thread} (hstep : s.self.sstep = false) (hpc : (f s.self).pc = s.self.pc)
    (hloop : s.self.pc.setWidth 64 + BitVec.ofNat 64 4 ≠ (f s.self).lend &&& 0xFFFFFFFFFFFE) : finish 4 s (.ok (s.modSelf f)) = onlySelf s 4 f := by
  rw [finish, hstep, State.complete_off _ _ (by rw [State.self_modSelf, hpc]; exact fun h => hloop h.1), State.self_modSelf, hpc]
  rfl

end

/-! ### Values -/

theorem Thread.pl_eq (x : Thread) : x.pl = x.status.toNat % 4 := by simp [Thread.pl, Word.field]

/-- SSTEP of a status word is not its level (R41). -/
theorem pl_setField_sstep (x : Thread) (v : Nat) : Thread.pl { x with status := Word.setField x.status 2 1 v } = x.pl := by
  rw [Thread.pl_eq, Thread.pl_eq, Word.toNat_setField _ _ _ _ (by decide)]
  omega

theorem setIfInBounds_zero (xs : Vector Word 2) (v : Word) : xs.setIfInBounds 0 v = xs.set 0 v := by
  apply Vector.ext
  intro i hi
  rw [Vector.getElem_setIfInBounds, Vector.getElem_set]

/-- The end of a loop as MTSR writes it: the address below bit 48, and the level (R272). -/
theorem lend_address (e pl : Nat) (he : e < 2 ^ 48) (h2 : e % 2 = 0) :
    (BitVec.ofNat 64 (e + pl * 2 ^ 48) &&& 0xFFFFFFFFFFFE : Word) = BitVec.ofNat 64 e := by
  apply BitVec.eq_of_getLsbD_eq
  intro i hi
  rw [BitVec.getLsbD_and, BitVec.getLsbD_ofNat, BitVec.getLsbD_ofNat, Nat.add_comm, Nat.mul_comm, Nat.testBit_two_pow_mul_add _ he]
  have hm : (0xFFFFFFFFFFFE : Word).getLsbD i = (decide (1 ≤ i) && decide (i < 48)) := by
    revert i
    decide
  rw [hm]
  rcases Nat.lt_or_ge i 48 with h48 | h48
  · rcases Nat.eq_zero_or_pos i with rfl | h0
    · simp [Nat.testBit_zero, h2]
    · simp [h48, Nat.one_le_iff_ne_zero.2 (by omega : i ≠ 0)]
  · have hb : e.testBit i = false := Nat.testBit_lt_two_pow (he.trans_le (Nat.pow_le_pow_right (by decide) h48))
    simp [Nat.not_lt.2 h48, hb]

/-! ### Windows (R50; log entry 83) -/

section
variable {s : State} {d a : BitVec 5} {r : BitVec 12} {w : Nat} {access : Bool}

theorem mfsr_win (hr : srOf r = some (.win w access)) (hl : 1 ≤ s.self.pl) :
    exec (.mfsr d r) s = finish 4 s (.ok ((s.touchWin w access).setG d (s.winWord w access))) := by
  rw [exec_mfsr hr hl (Or.inr (by simp))]
  simp only [State.touchSr, State.readSr]

theorem mtsr_win (hr : srOf r = some (.win w access)) (hl : 1 ≤ s.self.pl) (hres : s.g a &&& winReserved access = 0) :
    exec (.mtsr a r) s = finish 4 s (.ok (s.setWinWord w access (s.g a))) := by
  rw [exec_mtsr hr rfl hl hres (Or.inl (by simp))]
  simp only [State.writeSr]

/-- The word of a window of the core, of its primary context. -/
def Core.winWord (k : Core) (w : Nat) (access : Bool) : Word := (if access then k.winAccess[w]? else k.winRange[w]?).getD 0

/-- The word of a window of the core replaced. -/
def Core.setWinWord (k : Core) (w : Nat) (access : Bool) (x : Word) : Core :=
  if access then { k with winAccess := k.winAccess.setIfInBounds w x } else { k with winRange := k.winRange.setIfInBounds w x }

theorem mfsr_win_live (hp : Plain s 4) (hplace : s.winPlace = .live) (hr : srOf r = some (.win w access)) (hl : 1 ≤ s.self.pl) :
    exec (.mfsr d r) s = writesG s 4 d (s.myCore.winWord w access) := by
  rw [mfsr_win hr hl]
  simp only [State.touchWin, State.winWord, hplace]
  exact finish_setG s 4 hp d _

theorem mtsr_win_live (hp : Plain s 4) (hplace : s.winPlace = .live) (hr : srOf r = some (.win w access)) (hl : 1 ≤ s.self.pl)
    (hres : s.g a &&& winReserved access = 0) :
    exec (.mtsr a r) s = .next (past s 4 (s.modMyCore (·.setWinWord w access (s.g a)))) := by
  rw [mtsr_win hr hl hres]
  simp only [State.setWinWord, hplace]
  exact finish_past hp rfl rfl rfl rfl rfl

/-- The address of the word of a window in the core save area (R388). -/
def winSaved (base w : Nat) (access : Bool) : Nat := base + 16 * w + (if access then 8 else 0)

/-- A window that is saved is read in its record, which comes into its home slice (R22, R388). -/
theorem mfsr_win_saved {base : Nat} (hp : Plain s 4) (hplace : s.winPlace = .saved base) (hr : srOf r = some (.win w access)) (hl : 1 ≤ s.self.pl)
    (hreg : s.regions = []) (hs : Sound s) {pa : Nat} (hpa : winSaved base w access = pa) : ∃ l2, exec (.mfsr d r) s =
      writesG { s with l2 := l2 } 4 d (s.word pa &&& ~~~ winReserved access) := by
  subst hpa
  obtain ⟨l2, hl2⟩ := State.unitRead_none (errorFree_of_sound hs) hreg (s.partOf s.self.ctx) .hall none (winSaved base w access) 8
  have htouch : s.touchWin w access = { s with l2 := l2 } := by
    rw [← hl2]
    simp only [State.touchWin, hplace]
    rfl
  have hword : s.winWord w access = s.word (winSaved base w access) &&& ~~~ winReserved access := by
    simp only [State.winWord, hplace]
    rfl
  refine ⟨l2, ?_⟩
  rw [mfsr_win hr hl, htouch, hword]
  exact finish_past (s' := State.setG { s with l2 := l2 } d _) hp (by rw [State.self_setG, Thread.setG_pc]; rfl)
    (by rw [State.self_setG, Thread.setG_lend]; rfl) (by rw [State.self_setG, Thread.setG_lc]; rfl) (by rw [State.self_setG, Thread.setG_status]; rfl) rfl

/-- A window that is saved is written in its record (R388). -/
theorem mtsr_win_saved {base : Nat} (hp : Plain s 4) (hplace : s.winPlace = .saved base) (hr : srOf r = some (.win w access)) (hl : 1 ≤ s.self.pl)
    (hreg : s.regions = []) (hs : Sound s) {pa : Nat} (hpa : winSaved base w access = pa) (hres : s.g a &&& winReserved access = 0) : ∃ l2, exec (.mtsr a r) s =
      .next (past s 4 (State.putBytes { s with l2 := l2 } pa (leBytes 8 (s.g a).toNat))) := by
  subst hpa
  obtain ⟨l2, hl2⟩ :=
    State.unitWrite_none (errorFree_of_sound hs) hreg (s.partOf s.self.ctx) .hall none (winSaved base w access) (leBytes 8 (s.g a).toNat)
  have hset : s.setWinWord w access (s.g a) = State.putBytes { s with l2 := l2 } (winSaved base w access) (leBytes 8 (s.g a).toNat) := by
    simp only [State.setWinWord, hplace]
    exact hl2
  refine ⟨l2, ?_⟩
  rw [mtsr_win hr hl hres, hset]
  exact finish_past hp rfl rfl rfl rfl rfl

theorem mfsr_win_nowhere (hp : Plain s 4) (hplace : s.winPlace = .nowhere) (hr : srOf r = some (.win w access)) (hl : 1 ≤ s.self.pl) :
    exec (.mfsr d r) s = writesG s 4 d 0 := by
  rw [mfsr_win hr hl]
  simp only [State.touchWin, State.winWord, hplace]
  exact finish_setG s 4 hp d 0

theorem mtsr_win_nowhere (hp : Plain s 4) (hplace : s.winPlace = .nowhere) (hr : srOf r = some (.win w access)) (hl : 1 ≤ s.self.pl)
    (hres : s.g a &&& winReserved access = 0) : exec (.mtsr a r) s = onlySelf s 4 id := by
  rw [mtsr_win hr hl hres]
  simp only [State.setWinWord, hplace]
  exact finish_nothing hp

end

/-! ### Numbers (R40) -/

theorem srOf_trap : ∀ l < 4, ∀ i < 6, srOf (BitVec.ofNat 12 (0x100 + 16 * l + i)) = some (.trap l i) := by decide

theorem srOf_win : ∀ w < 16, srOf (BitVec.ofNat 12 (0x200 + w)) = some (.win (w / 2) (w % 2 == 1)) := by decide

theorem srOf_range : ∀ w < 8, srOf (BitVec.ofNat 12 (0x200 + 2 * w)) = some (.win w false) := by decide

theorem srOf_access : ∀ w < 8, srOf (BitVec.ofNat 12 (0x201 + 2 * w)) = some (.win w true) := by decide

theorem readOnly_registers : ∀ r ∈ ([0, 1, 2, 3, 4, 5, 6, 9, 32, 33, 34, 35, 36] : List (BitVec 12)),
    ∃ sr, srOf r = some sr ∧ sr.writeLevel = none := by
  simp only [List.forall_mem_cons]
  exact ⟨⟨_, rfl, rfl⟩, ⟨_, rfl, rfl⟩, ⟨_, rfl, rfl⟩, ⟨_, rfl, rfl⟩, ⟨_, rfl, rfl⟩, ⟨_, rfl, rfl⟩, ⟨_, rfl, rfl⟩, ⟨_, rfl, rfl⟩, ⟨_, rfl, rfl⟩,
    ⟨_, rfl, rfl⟩, ⟨_, rfl, rfl⟩, ⟨_, rfl, rfl⟩, ⟨_, rfl, rfl⟩, List.forall_mem_nil _⟩

/-- Settles O26: a number names a register (`srOf`), which the level reads or writes (`mfsr_reads`, `mtsr_writes`) or does not (`mfsr_priv`,
`mtsr_priv`, `mtsr_readOnly`, `mtsr_reserved`). -/
theorem specialRegisters : Obligations.SpecialRegisters := by
  unfold Obligations.SpecialRegisters
  refine ⟨?_, ?_, ?_, ?_, ?_, ?_⟩
  · intro s d hp hf x
    have read {r : BitVec 12} (sr : Sr) (hr : srOf r = some sr) (hl : sr.readLevel = 0) (ht : s.touchSr sr = s) :
        exec (.mfsr d r) s = writesG s 4 d (s.readSr sr) := mfsr_reads hp hr (by omega) ht (Or.inl hf)
    have hpl : exec (.mfsr d 6) s = writesG s 4 d (BitVec.ofNat 64 (x.status.toNat % 4)) := by
      rw [read .pl rfl rfl rfl, ← Thread.pl_eq]
      rfl
    simp only [List.forall_mem_cons]
    exact ⟨read .tid rfl rfl rfl, read .pour rfl rfl rfl, read .core rfl rfl rfl, read .rank rfl rfl rfl, read .ctx rfl rfl rfl,
      read .part rfl rfl rfl, hpl, read .status rfl rfl rfl, read .fcsr rfl rfl rfl, read .time rfl rfl rfl, read .detid rfl rfl rfl,
      read .rsp rfl rfl rfl, read .rspb rfl rfl rfl, read .lc rfl rfl rfl, read .lbeg rfl rfl rfl, read .lend rfl rfl rfl,
      read (.ctr .ld) rfl rfl rfl, read (.ctr .st) rfl rfl rfl, read (.ctr .cp) rfl rfl rfl, read (.ctr .mx) rfl rfl rfl,
      read (.ctr .ms) rfl rfl rfl, read (.trap 0 0) rfl rfl rfl, read (.trap 0 1) rfl rfl rfl, read (.trap 0 2) rfl rfl rfl,
      read (.trap 0 3) rfl rfl rfl, read (.trap 0 4) rfl rfl rfl, read (.trap 0 5) rfl rfl rfl, List.forall_mem_nil _⟩
  · intro s a hp hf v
    have write {r : BitVec 12} (sr : Sr) (f : Thread → Thread) (hr : srOf r = some sr) (hw : sr.writeLevel = some 0)
        (hres : v &&& sr.reserved = 0) (hne : sr ≠ .fcsr) (hwr : s.writeSr sr v = s.modSelf f) (h1 : (f s.self).pc = s.self.pc)
        (h2 : (f s.self).lend = s.self.lend) (h3 : (f s.self).lc = s.self.lc) (h4 : (f s.self).pl = s.self.pl) :
        exec (.mtsr a r) s = onlySelf s 4 f := mtsr_writes hp hr hw (by omega) hres (Or.inl hne) hwr h1 h2 h3 h4
    have low3 : v &&& ~~~ 7 = BitVec.ofNat 64 (v.toNat / 8 * 8) := Word.and_mask (k := 3) v.isLt (by decide)
    have low1 : v &&& ~~~ 1 = BitVec.ofNat 64 (v.toNat / 2 * 2) := Word.and_mask (k := 1) v.isLt (by decide)
    refine ⟨fun h9 h3 hm => ?_, fun h => ?_, ?_, ?_, fun h => ?_, fun h => ?_, fun h hend => ?_, fun hl h => ?_, fun h => ?_, ?_, ?_⟩
    · refine mtsr_writes (l := 0) hp (sr := .fcsr) rfl rfl (Nat.zero_le _) (Word.and_eq_zero fun i hi hb => ?_) (Or.inr ⟨hf, ?_⟩) rfl rfl rfl rfl rfl
      · have hbits : ∀ i < 64, (Sr.fcsr.reserved).getLsbD i = true → i = 3 ∨ 9 ≤ i := by decide
        rcases hbits i hi hb with rfl | h
        · exact h3
        · exact Word.getLsbD_of_lt h9 h
      · simpa [Word.field] using hm
    · exact write .detid _ rfl rfl (Word.and_high h (by decide)) (by decide) rfl rfl rfl rfl rfl
    · exact write .rsp _ rfl rfl (BitVec.and_zero) (by decide) (by rw [State.writeSr, low3]) rfl rfl rfl rfl
    · exact write .rspb _ rfl rfl (BitVec.and_zero) (by decide) (by rw [State.writeSr, low3]) rfl rfl rfl rfl
    · rw [exec_mtsr (sr := .lc) rfl rfl (Nat.zero_le _) BitVec.and_zero (Or.inl (by decide))]
      exact finish_self_loop hp.1 rfl h
    · exact write .lbeg _ rfl rfl (Word.and_high h (by decide)) (by decide) (by rw [State.writeSr, low1]) rfl rfl rfl rfl
    · have hm : v &&& 0xFFFFFFFFFFFE = BitVec.ofNat 64 (v.toNat / 2 * 2) := Word.and_mask (k := 1) h (by decide)
      have ht : (v &&& 0xFFFFFFFFFFFE : Word).toNat = v.toNat / 2 * 2 := by
        rw [hm, BitVec.toNat_ofNat]
        omega
      have hwr : s.writeSr .lend v = s.modSelf fun x => { x with lend := BitVec.ofNat 64 (v.toNat / 2 * 2 + x.pl * 2 ^ 48) } := by
        simp only [State.writeSr, ht, State.modSelf, State.modThread, State.self]
      have hres : v &&& Sr.lend.reserved = 0 := Word.and_high (n := 50) (by omega) (by decide)
      rw [exec_mtsr (sr := .lend) rfl rfl (Nat.zero_le _) hres (Or.inl (by decide)), hwr]
      refine finish_self_loop hp.1 rfl fun he => ?_
      rw [lend_address _ _ (by omega) (by omega)] at he
      have := congrArg BitVec.toNat he
      simp at this
      omega
    · exact mtsr_writes hp (sr := .status) rfl rfl hl (Word.and_high h (by decide)) (Or.inl (by decide)) rfl rfl rfl rfl (pl_setField_sstep _ _)
    · exact write (.trap 0 1) _ rfl rfl (Word.and_high h (by decide)) (by decide) rfl rfl rfl rfl rfl
    · exact write (.trap 0 2) _ rfl rfl BitVec.and_zero (by decide) rfl rfl rfl rfl rfl
    · exact write (.trap 0 4) _ rfl rfl BitVec.and_zero (by decide) (by simp only [State.writeSr, setIfInBounds_zero]; rfl) rfl rfl rfl rfl
  · intro s d a l hp hl hpl x f v reg part
    have hsr {i : Nat} (hi : i < 6) : srOf (reg i) = some (.trap l i) := srOf_trap l hl i hi
    have read {i : Nat} (hi : i < 6) : exec (.mfsr d (reg i)) s = writesG s 4 d (s.readSr (.trap l i)) :=
      mfsr_reads hp (hsr hi) hpl rfl (Or.inr (by simp))
    have write {i : Nat} (hi : i < 6) (f : Thread → Thread) (hres : v &&& Sr.reserved (.trap l i) = 0) (hwr : s.writeSr (.trap l i) v = s.modSelf f)
        (h1 : (f s.self).pc = s.self.pc) (h2 : (f s.self).lend = s.self.lend) (h3 : (f s.self).lc = s.self.lc) (h4 : (f s.self).pl = s.self.pl) :
        exec (.mtsr a (reg i)) s = onlySelf s 4 f := mtsr_writes hp (hsr hi) rfl hpl hres (Or.inl (by simp)) hwr h1 h2 h3 h4
    have writePart {i : Nat} (hi : i < 6) (g : Part → Part) (hres : v &&& Sr.reserved (.trap l i) = 0)
        (hwr : s.writeSr (.trap l i) v = s.modPart (s.partOf x.ctx) g) : exec (.mtsr a (reg i)) s = part g := by
      rw [exec_mtsr (hsr hi) rfl hpl hres (Or.inl (by simp)), hwr]
      exact finish_past hp rfl rfl rfl rfl rfl
    refine ⟨?_, fun h => ?_, fun h => ?_, fun h => ?_, fun h => ?_, ?_, ?_, fun h => ⟨?_, ?_⟩, fun h => ⟨?_, ?_⟩⟩
    · simp only [List.forall_mem_cons]
      exact ⟨read (by decide), read (by decide), read (by decide), read (by decide), read (by decide), read (by decide), List.forall_mem_nil _⟩
    · exact write (by decide) _ h rfl rfl rfl rfl rfl
    · exact mtsr_reserved (hsr (by decide)) rfl hpl (Or.inl h)
    · exact write (by decide) _ (Word.and_high (mask := 0xFFFF000000000000) h (by decide)) rfl rfl rfl rfl rfl
    · exact mtsr_reserved (hsr (by decide)) rfl hpl (Or.inl (Word.and_high_ne (mask := 0xFFFF000000000000) h (by decide)))
    · exact write (by decide) _ BitVec.and_zero rfl rfl rfl rfl rfl
    · exact write (by decide) _ BitVec.and_zero rfl rfl rfl rfl rfl
    · exact write (by decide) _ BitVec.and_zero (if_pos h) rfl rfl rfl rfl
    · exact write (by decide) _ BitVec.and_zero (if_pos h) rfl rfl rfl rfl
    · exact writePart (by decide) _ BitVec.and_zero (if_neg (Nat.not_lt.2 h))
    · exact writePart (by decide) _ BitVec.and_zero (if_neg (Nat.not_lt.2 h))
  · intro s d a w hp hw hpl v rg ac
    have hrg : srOf rg = some (.win w false) := srOf_range w hw
    have hac : srOf ac = some (.win w true) := srOf_access w hw
    refine ⟨fun hos hprim => ?_, fun h => mtsr_reserved hrg rfl hpl (Or.inl h), fun h => mtsr_reserved hac rfl hpl (Or.inl h),
      fun hos hprim hsaved hreg hs => ?_, fun hnone => ?_⟩
    · have hplace : s.winPlace = .live := by simp [State.winPlace, hos, hprim]
      exact ⟨mfsr_win_live hp hplace hrg hpl, mfsr_win_live hp hplace hac hpl, mtsr_win_live hp hplace hrg hpl, mtsr_win_live hp hplace hac hpl⟩
    · have hplace : s.winPlace = .saved (s.saveArea s.self.ctx s.self.core + 0x40) := by
        rw [State.winPlace, hos, if_neg Bool.false_ne_true, hprim, if_neg Bool.false_ne_true, if_pos hsaved]
      intro at_
      have hat0 : winSaved (s.saveArea s.self.ctx s.self.core + 0x40) w false = at_ 0 := rfl
      have hat8 : winSaved (s.saveArea s.self.ctx s.self.core + 0x40) w true = at_ 8 := rfl
      exact ⟨mfsr_win_saved hp hplace hrg hpl hreg hs hat0, mfsr_win_saved hp hplace hac hpl hreg hs hat8,
        mtsr_win_saved hp hplace hrg hpl hreg hs hat0, mtsr_win_saved hp hplace hac hpl hreg hs hat8⟩
    · have hplace : s.winPlace = .nowhere := by
        rcases hnone with hos | ⟨hprim, hsaved⟩
        · simp [State.winPlace, hos]
        · simp only [State.winPlace, hprim, hsaved, Bool.false_eq_true, if_false, ite_self]
      exact ⟨mfsr_win_nowhere hp hplace hrg hpl, mfsr_win_nowhere hp hplace hac hpl, mtsr_win_nowhere hp hplace hrg hpl,
        mtsr_win_nowhere hp hplace hac hpl⟩
  · intro s a v wr
    refine ⟨fun h => ?_, fun h => ?_, fun h => ?_, fun h => ?_, fun hl h => ?_⟩
    · refine mtsr_reserved (sr := .fcsr) rfl rfl (Nat.zero_le _) (h.imp_right fun h => ⟨rfl, ?_⟩)
      simpa [Word.field] using h
    · exact mtsr_reserved (sr := .detid) rfl rfl (Nat.zero_le _) (Or.inl (Word.and_high_ne h (by decide)))
    · exact mtsr_reserved (sr := .lbeg) rfl rfl (Nat.zero_le _) (Or.inl (Word.and_high_ne h (by decide)))
    · exact mtsr_reserved (sr := .lend) rfl rfl (Nat.zero_le _) (Or.inl (Word.and_high_ne h (by decide)))
    · exact mtsr_reserved (sr := .status) rfl rfl hl (Or.inl (Word.and_high_ne h (by decide)))
  · intro s d a r rd wr
    have priv {l i : Nat} (hl : l < 4) (hi : i < 6) (hr : r = BitVec.ofNat 12 (0x100 + 16 * l + i)) (hpl : s.self.pl < l) :
        exec (.mfsr d r) s = traps s 2 rd ∧ exec (.mtsr a r) s = traps s 2 wr := by
      have hsr : srOf r = some (.trap l i) := hr ▸ srOf_trap l hl i hi
      exact ⟨mfsr_priv hsr hpl, mtsr_priv hsr rfl hpl⟩
    refine ⟨fun h => ⟨mfsr_none h, mtsr_none h⟩, fun i hi hr hpl => priv (l := 1) (by decide) hi hr hpl,
      fun i hi hr hpl => priv (l := 2) (by decide) hi hr hpl, fun i hi hr hpl => priv (l := 3) (by decide) hi hr hpl, fun w hw hr hpl => ?_, fun h => ?_⟩
    · have hsr : srOf r = some (.win (w / 2) (w % 2 == 1)) := hr ▸ srOf_win w hw
      exact ⟨mfsr_priv hsr hpl, mtsr_priv hsr rfl hpl⟩
    · obtain ⟨sr, hsr, hw⟩ := readOnly_registers r h
      exact mtsr_readOnly hsr hw

end Sys2Proof.Machine
end

section
/-!
PROOFS. Translations come and go (O30): merged regions, completed walks, filled lines of an image, and TLBINV.
-/

namespace Sys2Proof.Machine

open Claims

/-! ### Merges (R190) -/

theorem regionMerge_quiet {s : State} {r q : Region} (hr : s.regions.find? (fun x => x.base == r.base && x.lg == r.lg) = some r)
    (hq : s.regions.find? (fun x => x.base == r.base + 2 ^ r.lg && x.lg == r.lg) = some q) (hcore : r.core = q.core) (hlg : r.lg < 10)
    (hbase : r.base % 2 ^ (r.lg + 1) = 0) (h1 : r.since + 65536 ≤ s.cycle) (h2 : q.since + 65536 ≤ s.cycle) :
    regionMerge s r.base r.lg = { s with
      regions := (s.regions.filter fun x => x != r && x != q) ++ [{ r with lg := r.lg + 1, since := max r.since q.since }] } := by
  rw [regionMerge, hr, hq]
  simp only [hcore, hlg, hbase, h1, h2, decide_true, Bool.and_self, if_true]

/-! ### Walks (R345 to R347) -/

theorem mem_put_full (h : Share) (now : Nat) (x : Xlat) : x ∈ (h.put now x none).full := by
  simp [Share.put]

section
variable {s : State} {q : Who} {part : Nat} {va : Word} {x : Xlat}

/-- A translation that is kept is in the TLB of its core or service core (R345). -/
theorem State.keepXlat_tlb : x ∈ ((s.keepXlat q part va x).coreAt q.unit).tlb := by
  unfold State.keepXlat State.modCore
  rw [State.coreAt_setCore]
  simp

/-- A translation of stage 1 alone is in the share of the shared TLB at its slice (R345). -/
theorem State.keepXlat_share (hs2 : x.s2en = false) {c : Coord} (hc : s.tlbSliceOf q part va = some c) :
    x ∈ (Tab.get (s.keepXlat q part va x).stlb {} c.toNat).full := by
  have hentry : s.s2EntryOf part x = none := by simp [State.s2EntryOf, hs2]
  have hshare : (s.keepXlat q part va x).stlb = Tab.set s.stlb c.toNat ((Tab.get s.stlb {} c.toNat).put s.fresh x none) := by
    simp only [State.keepXlat, hc, hentry, State.modCore_stlb]
  rw [hshare, Tab.get_set_self]
  exact mem_put_full ..

@[simp] theorem State.keepXlat_threads : (s.keepXlat q part va x).threads = s.threads := by
  unfold State.keepXlat
  dsimp only
  split <;> rfl

theorem State.keepXlat_walks : (s.keepXlat q part va x).walks = s.walks := by
  unfold State.keepXlat
  dsimp only
  split <;> rfl

end

section
variable {s : State} {t : Nat} {va : Word}

theorem pageWalkComplete_none (h : s.walks.find? (fun w => w.thread == t && w.va == va) = none) : pageWalkComplete s t va = s := by
  rw [pageWalkComplete, h]

/-- The state of a walk after the entries have been read (R347). -/
def State.walked (s : State) (t : Nat) (va : Word) (w : Walk) : State :=
  State.walkTouch { s with walks := s.walks.erase w } (s.thread t).who va

variable {w : Walk} (h : s.walks.find? (fun w => w.thread == t && w.va == va) = some w) (hctx : w.ctx = (s.thread t).ctx)
  (hgone : (s.ctxOf w.ctx).gone = false)
include h hctx hgone

theorem pageWalkComplete_error {f : Fail} (hf : (s.walked t va w).walk (s.thread t).who va (kindOf w.kind) = .error f) :
    pageWalkComplete s t va = s.walked t va w := by
  have hkeep : ((s.thread t).ctx != w.ctx || (State.ctxOf { s with walks := s.walks.erase w } w.ctx).gone) = false := by
    rw [hctx, bne_self_eq_false, Bool.false_or, ← hctx]
    exact hgone
  simp only [pageWalkComplete, h]
  rw [hkeep, if_neg Bool.false_ne_true]
  unfold State.walked at hf
  rw [hf]
  rfl

theorem pageWalkComplete_ok {e : Xlat} (he : (s.walked t va w).walk (s.thread t).who va (kindOf w.kind) = .ok e) :
    pageWalkComplete s t va = State.keepXlat { s.walked t va w with walks := (s.walked t va w).walks.filter fun y => !e.covers y.ctx y.va }
      (s.thread t).who w.part va e := by
  have hkeep : ((s.thread t).ctx != w.ctx || (State.ctxOf { s with walks := s.walks.erase w } w.ctx).gone) = false := by
    rw [hctx, bne_self_eq_false, Bool.false_or, ← hctx]
    exact hgone
  simp only [pageWalkComplete, h]
  rw [hkeep, if_neg Bool.false_ne_true]
  unfold State.walked at he
  rw [he]
  rfl

end

/-! ### Fills (R32) -/

theorem State.readEntries_none {s : State} (hr : s.regions = []) (hs : Sound s) (q : Who) (es : List Nat) :
    ∃ l2, s.readEntries q es = { s with l2 := l2 } := by
  have h0 : s.regions.isEmpty = true := by rw [hr]; rfl
  unfold State.readEntries
  simp only [h0, if_true]
  exact ⟨_, State.slices_none (errorFree_of_sound hs) _⟩

/-- Where no error stands and no line is owned, a read of an image changes what the slices hold (R22, R32). -/
theorem State.readImage_none {s : State} (hr : s.regions = []) (hs : Sound s) (x : Thread) (a off n : Nat) :
    ∃ l2, s.readImage x a off n = { s with l2 := l2 } := by
  obtain ⟨l, hl⟩ := State.readEntries_none hr hs (imageWho x) (s.walkEntries (imageWho x) x.image)
  have hwalk : s.imageWalk x = { s with l2 := l } := hl
  obtain ⟨l', hl'⟩ := State.unitRead_none (s := { s with l2 := l }) (errorFree_of_sound (s := s) hs) hr (s.partOf x.ctx) (s.imagePlacement x)
    (some x.ctx) (a + off) n
  exact ⟨l', by rw [State.readImage, hwalk, hl']⟩

section
variable {s : State} {t : Nat} {line : BitVec 4}

/-- A line that is filled is missing no more (R32). -/
theorem registerCacheFill_present (hsome : (Tab.find s.threads t).isSome) :
    ((registerCacheFill s t line.toNat).thread t).fetchMiss.getLsbD line.toNat = false := by
  have hline : line.toNat < 16 := line.isLt
  unfold registerCacheFill
  by_cases hm : (s.thread t).fetchMiss.getLsbD line.toNat = true
  · rw [if_neg (by simp [hm, Option.isSome_iff_ne_none.1 hsome]), State.thread_setThread]
    simp [hline]
  · rw [if_pos (by simp [hm])]
    simpa using hm

/-- A core with room for one more line of an image gives up none (R19). -/
theorem State.trimCache_room {c : Coord} (h : (s.cachedLines c).length < 2048) : s.trimCache c (cacheLines - 1) 1 = s := by
  rw [State.trimCache, if_pos (show _ ≤ cacheLines - 1 from Nat.le_sub_one_of_lt h)]

/-- A line that the image in memory holds as it was written there changes no register (R32, R33). -/
theorem registerCacheFill_unchanged (hsome : (Tab.find s.threads t).isSome) {a : Nat} (ha : s.imagePlace (s.thread t) = some a)
    (hroom : (s.cachedLines (s.thread t).core).length < 2048) (hmiss : (s.thread t).fetchMiss.getLsbD line.toNat = true)
    (hsame : s.bytes (a + 64 * line.toNat) 64 = Tab.get (s.thread t).evicted (s.bytes (a + 64 * line.toNat) 64) line.toNat)
    (hr : s.regions = []) (hs : Sound s) : ∃ l2, registerCacheFill s t line.toNat = State.setThread { s with l2 := l2 } t { s.thread t with
      fetchMiss := (s.thread t).fetchMiss &&& ~~~ BitVec.twoPow 16 line.toNat, evicted := Tab.erase (s.thread t).evicted line.toNat } := by
  obtain ⟨l2, hl2⟩ := State.readImage_none hr hs (s.thread t) a (64 * line.toNat) 64
  have htrim : (if (s.thread t).warm then s.trimCache (s.thread t).core (cacheLines - 1) 1 else s) = s := by
    rw [State.trimCache_room hroom, ite_self]
  have hmend (row : Nat) (unit : Coord) (loc n : Nat) : State.mend { s with l2 := l2 } row unit loc n = { s with l2 := l2 } :=
    State.mendWhere_none (s := { s with l2 := l2 }) (errorFree_of_sound (s := s) hs) _
  have htake : (s.thread t).takeLine line.toNat (Tab.get (s.thread t).evicted (s.bytes (a + 64 * line.toNat) 64) line.toNat)
      (s.bytes (a + 64 * line.toNat) 64) = s.thread t := by
    rw [← hsame, Thread.takeLine]
    simp
  refine ⟨l2, ?_⟩
  unfold registerCacheFill
  rw [if_neg (by simp [hmiss, Option.isSome_iff_ne_none.1 hsome])]
  simp only [htrim, ha, hl2, hmend, htake]

end

/-! ### TLBINV: what goes and what stays (R380) -/

theorem Tab.find_mapVals {α : Type} (f : Nat → α → α) (t : Tab α) (i : Nat) : Tab.find (Tab.mapVals f t) i = (Tab.find t i).map (f i) := by
  induction t with
  | nil => rfl
  | cons e t ih =>
    by_cases h : i = e.1
    · subst h
      simp [Tab.mapVals, Tab.find]
    · have h1 : Tab.find (Tab.mapVals f (e :: t)) i = Tab.find (Tab.mapVals f t) i := by simp [Tab.mapVals, Tab.find, h]
      have h2 : Tab.find (e :: t) i = Tab.find t i := by simp [Tab.find, h]
      rw [h1, h2, ih]

/-- From `s` to `u` every TLB has lost the translations of which `P` holds, and kept the others (R380). -/
def Invalidated (s u : State) (P : Xlat → Prop) : Prop :=
  (∀ e ∈ u.stlb, ∀ y ∈ e.2.full, ¬ P y) ∧ (∀ k, ∀ y ∈ (u.coreAt k).tlb, ¬ P y) ∧
  (∀ e ∈ s.stlb, ∀ y ∈ e.2.full, ¬ P y → ∃ f ∈ u.stlb, f.1 = e.1 ∧ y ∈ f.2.full) ∧
  (∀ k, ∀ y ∈ (s.coreAt k).tlb, ¬ P y → y ∈ (u.coreAt k).tlb)

section
variable (s : State) (k : InvKind) (target : Nat) (ga : Word)

theorem State.invalidate_tlb (c : Coord) :
    ((s.invalidate k target ga).coreAt c).tlb = (s.coreAt c).tlb.filter fun x => !invHits s k target ga x := by
  rw [State.coreAt, State.coreAt, State.invalidate, Tab.get, Tab.get, Tab.find_mapVals]
  cases Tab.find s.cores c.toNat <;> rfl

theorem State.invalidate_invalidated {P : Xlat → Prop} (hP : ∀ y, invHits s k target ga y = true ↔ P y) :
    Invalidated s (s.invalidate k target ga) P := by
  have hkeep {ys : List Xlat} (y : Xlat) : y ∈ ys.filter (fun x => !invHits s k target ga x) ↔ y ∈ ys ∧ ¬ P y := by
    rw [List.mem_filter, Bool.not_eq_true', ← Bool.not_eq_true, hP]
  refine ⟨fun e he y hy => ?_, fun c y hy => ?_, fun e he y hy hp => ?_, fun c y hy hp => ?_⟩
  · obtain ⟨f, -, rfl⟩ := List.mem_map.1 he
    exact ((hkeep y).1 hy).2
  · rw [State.invalidate_tlb] at hy
    exact ((hkeep y).1 hy).2
  · exact ⟨_, List.mem_map.2 ⟨e, he, rfl⟩, rfl, (hkeep y).2 ⟨hy, hp⟩⟩
  · rw [State.invalidate_tlb]
    exact (hkeep y).2 ⟨hy, hp⟩

/-- The accesses that have been translated are none of the TLBs'. -/
theorem State.xlatedOut_invalidate (f : CtxId → Bool) (k' : InvKind) (ga' : Word) :
    (s.invalidate k target ga).xlatedOut f k' ga' = s.xlatedOut f k' ga' := by
  simp only [State.xlatedOut, State.invalidate, Tab.mapVals, List.any_map]
  rfl

/-- Where no access has been translated and not performed, none has for any target (R380). -/
theorem State.xlatedOut_none {s : State} (h : s.xlatedOut (fun _ => true) .ctx 0 = false) (f : CtxId → Bool) (k : InvKind) (ga : Word) :
    s.xlatedOut f k ga = false := by
  rw [← Bool.not_eq_true] at h ⊢
  refine fun h' => h ?_
  unfold State.xlatedOut at h' ⊢
  simp only [Bool.or_eq_true, List.any_eq_true, Bool.and_eq_true] at h' ⊢
  rcases h' with (⟨e, he, hq⟩ | ⟨r, hr, -⟩) | ⟨p, hp, hm⟩
  · refine Or.inl (Or.inl ⟨e, he, ?_⟩)
    rcases hq with (⟨m, hm, -⟩ | ⟨m, hm, -⟩) | ⟨r, hr, -⟩
    · exact Or.inl (Or.inl ⟨m, hm, trivial, rfl⟩)
    · exact Or.inl (Or.inr ⟨m, hm, trivial, rfl⟩)
    · exact Or.inr ⟨r, hr, trivial⟩
  · exact Or.inl (Or.inr ⟨r, hr, trivial⟩)
  · refine Or.inr ⟨p, hp, ?_⟩
    cases p
    case drainRow =>
      obtain ⟨a, ha, -⟩ := List.any_eq_true.1 hm
      exact List.any_eq_true.2 ⟨a, ha, rfl⟩
    all_goals simp_all

end

/-! ### TLBINV: the instruction (R375, R380) -/

/-- A release with nothing to wait for (R191, R210). -/
theorem releaseWait_released {s : State} {scope : Nat} (h : Released s scope) : releaseWait s scope = .ok () := by
  obtain ⟨hl, hst, href, hhost⟩ := h
  have hdone : (s.self.loads.isEmpty && s.self.st == 0 && !(scope == 5 && s.hostWritesOut s.self.ctx)) = true := by
    by_cases h5 : scope = 5
    · simp [hl, hst, hhost h5]
    · simp [hl, hst, h5]
  have hfirst : s.self.firstPending true false false = none := by
    unfold Thread.firstPending
    rw [href]
    cases s.self.copyFault <;> cases s.self.msgGone <;> rfl
  unfold releaseWait deliveryWait
  rw [hdone, hfirst]
  simp

/-- TLBINV is below its level: its kind, or its target, belongs to HYP (R375). -/
def invPriv (x : Thread) (k : InvKind) (c : BitVec 5) : Bool := x.pl < 1 || (x.pl < 2 && (k == .ipa || k == .part || c != 0))

theorem invPriv_hyp {x : Thread} (h : 2 ≤ x.pl) (k : InvKind) (c : BitVec 5) : invPriv x k c = false := by
  have h1 : ¬ x.pl < 1 := by omega
  simp [invPriv, h1, Nat.not_lt.2 h]

/-- What TLBINV names: a partition of the stage-2 kinds, a context of the others; below HYP its own (R380). -/
def State.invTarget (s : State) (k : InvKind) (c : BitVec 5) : Nat :=
  if s.self.pl < 2 then (if k == .ipa || k == .part then s.partOf s.self.ctx else s.self.ctx.toNat)
  else if k == .ipa || k == .part then Word.field (s.g c) 0 6 else Word.field (s.g c) 0 16

/-- The contexts of a target (R380). -/
def State.invConcerns (s : State) (k : InvKind) (c : BitVec 5) (ctx : CtxId) : Bool :=
  if k == .ipa || k == .part then s.partOf ctx == s.invTarget k c else ctx.toNat == s.invTarget k c

/-- The state after the translations of a TLBINV have gone. -/
def State.invalidated (s : State) (k : InvKind) (a c : BitVec 5) : State := s.invalidate k (s.invTarget k c) (s.g a)

section
variable {s : State} {word : Word} {k : InvKind} {a c : BitVec 5}

theorem tlbinvBody_priv (h : invPriv s.self k c = true) : finish 4 s (tlbinvBody s word k a c) = traps s 2 word := by
  have hb : tlbinvBody s word k a c = trap 2 word := by
    unfold invPriv at h
    simp only [tlbinvBody, h, if_true]
    rfl
  rw [hb, finish_trap]

theorem tlbinvBody_released (h : invPriv s.self k c = false) (hr : Released s 3) : tlbinvBody s word k a c =
    if s.xlatedOut (s.invConcerns k c) k (s.g a) then .error (.wait none (s.invalidated k a c)) else .ok (s.invalidated k a c) := by
  have hx := s.xlatedOut_invalidate k (s.invTarget k c) (s.g a) (s.invConcerns k c) k (s.g a)
  rw [← hx]
  unfold invPriv at h
  simp only [tlbinvBody, h, releaseWait_released hr]
  rfl

/-- With nothing translated on its way, TLBINV completes once the translations have gone. -/
theorem finish_tlbinv (hp : Plain s 4) (h : invPriv s.self k c = false) (hr : Released s 3) (hx : s.xlatedOut (fun _ => true) .ctx 0 = false) :
    finish 4 s (tlbinvBody s word k a c) = .next (past s 4 (s.invalidated k a c)) := by
  rw [tlbinvBody_released h hr, State.xlatedOut_none hx, if_neg Bool.false_ne_true]
  exact finish_past hp rfl rfl rfl rfl rfl

/-- While an access of the target is on its way the translations go, and the thread waits. -/
theorem finish_tlbinv_waits (h : invPriv s.self k c = false) (hr : Released s 3) (hx : s.xlatedOut (s.invConcerns k c) k (s.g a) = true) :
    ∃ f : Thread → Thread, finish 4 s (tlbinvBody s word k a c) = .next ((s.invalidated k a c).modSelf f) ∧
      ∀ x, (f x).pc = x.pc ∧ (f x).g = x.g ∧ (f x).stalled = true := by
  rw [tlbinvBody_released h hr, if_pos hx]
  exact ⟨_, rfl, fun x => ⟨rfl, rfl, rfl⟩⟩

/-- What a TLBINV that has completed leaves. -/
theorem past_invalidated {P : Xlat → Prop} (hP : ∀ y, invHits s k (s.invTarget k c) (s.g a) y = true ↔ P y) :
    let u := past s 4 (s.invalidated k a c)
    (u.mem = s.mem ∧ u.self.pc = s.self.pc + 4 ∧ u.self.g = s.self.g) ∧ Invalidated s u P := by
  have hself : (past s 4 (s.invalidated k a c)).self = issuedAt s.fresh (s.self.pc + 4) s.self := State.self_modSelf ..
  refine ⟨⟨rfl, ?_, ?_⟩, s.invalidate_invalidated k _ _ hP⟩ <;> rw [hself] <;> rfl

/-- The stage-2 translations that a TLBINV leaves (R380). -/
theorem State.invalidated_two {e : Nat × Share} (he : e ∈ (past s 4 (s.invalidated k a c)).stlb) {y : S2Entry} (hy : y ∈ e.2.two) :
    ¬ (y.part = s.invTarget k c ∧ (k = .part ∨ k = .ipa ∧ y.ipa ≤ (s.g a).toNat ∧ (s.g a).toNat < y.ipa + y.out.size)) := by
  obtain ⟨f, -, rfl⟩ := List.mem_map.1 he
  have hk := (List.mem_filter.1 hy).2
  rintro ⟨hpart, hkind⟩
  rcases hkind with rfl | ⟨rfl, h1, h2⟩
  · simp [hpart] at hk
  · simp [hpart, h1, h2] at hk

end

/-- Settles O30: merges (`regionMerge_quiet`), walks (`pageWalkComplete_ok`, `pageWalkComplete_error`), fills (`registerCacheFill_unchanged`), and TLBINV,
which filters every TLB by its target (`State.invalidate_invalidated`). -/
theorem translationsComeAndGo : Obligations.TranslationsComeAndGo := by
  unfold Obligations.TranslationsComeAndGo
  refine ⟨⟨?_, ?_, ?_⟩, ?_⟩
  · intro s r q hr hq hcore hlg hbase h1 h2
    exact congrArg _ (regionMerge_quiet hr hq hcore hlg hbase h1 h2)
  · intro s t va kind who
    refine ⟨fun h => congrArg _ (pageWalkComplete_none h), ?_⟩
    intro w h hctx hgone v
    refine ⟨fun e he => ?_, fun f hf => congrArg _ (pageWalkComplete_error h hctx hgone hf)⟩
    refine ⟨_, congrArg Host.Outcome.next (pageWalkComplete_ok h hctx hgone he), State.keepXlat_tlb, fun c hs2 hc => State.keepXlat_share hs2 hc, fun y hy => ?_, ?_, ?_⟩
    · rw [State.keepXlat_walks] at hy
      simpa using (List.mem_filter.1 hy).2
    · rw [State.keepXlat_mem]
      exact State.walkTouch_mem ..
    · rw [State.keepXlat_threads]
      exact State.walkTouch_threads ..
  · intro s t line hsome x
    refine ⟨⟨_, rfl, registerCacheFill_present hsome⟩, fun a ha hroom hmiss hsame hr hs => ?_⟩
    obtain ⟨l2, hl2⟩ := registerCacheFill_unchanged hsome ha hroom hmiss hsame hr hs
    exact ⟨l2, congrArg _ hl2⟩
  · intro s a c done none_ ga
    refine ⟨fun hp hr hpl hx => ?_, fun hp hr hx => ⟨fun hpl hc => ?_, fun hpl => ?_⟩, fun hpl => ?_, fun hpl => ?_⟩
    · have hpriv : invPriv s.self .ctx 0 = false := by simp [invPriv, hpl]
      have htarget : s.invTarget .ctx 0 = s.self.ctx.toNat := by simp [State.invTarget, hpl]
      have hconcerns : s.invConcerns .ctx 0 = (· == s.self.ctx) := by
        funext x
        show (x.toNat == s.invTarget .ctx 0) = (x == s.self.ctx)
        rw [htarget, Bool.eq_iff_iff, beq_iff_eq, beq_iff_eq, BitVec.toNat_inj]
      obtain ⟨f, hex, hf⟩ := finish_tlbinv_waits (word := (encode (.tlbinvCtx a 0)).bits) (a := a) hpriv hr (by rw [hconcerns]; exact hx)
      obtain ⟨hpc, hg, hst⟩ := hf s.self
      have hself : ((s.invalidated .ctx a 0).modSelf f).self = f s.self := State.self_modSelf ..
      refine ⟨_, hex, rfl, by rw [hself, hpc], by rw [hself, hg], by rw [hself, hst], s.invalidate_invalidated .ctx _ _ fun y => ?_⟩
      show (y.ctx.toNat == s.invTarget .ctx 0) = true ↔ y.ctx = s.self.ctx
      rw [htarget, beq_iff_eq, BitVec.toNat_inj]
    · intro target
      have hpriv (k : InvKind) (hk : k = .va ∨ k = .ctx) : invPriv s.self k c = false := by
        rcases Nat.eq_or_lt_of_le hpl with h1 | h2
        · rcases hk with rfl | rfl <;> simp [invPriv, ← h1, hc h1.symm]
        · exact invPriv_hyp h2 k c
      have htarget (k : InvKind) (hk : k = .va ∨ k = .ctx) : s.invTarget k c = target := by
        rcases Nat.eq_or_lt_of_le hpl with h1 | h2
        · rcases hk with rfl | rfl <;> simp [State.invTarget, target, ← h1]
        · have h1 : ¬ s.self.pl = 1 := by omega
          rcases hk with rfl | rfl <;> simp [State.invTarget, target, h1, Nat.not_lt.2 h2]
      refine ⟨⟨_, finish_tlbinv hp (hpriv _ (Or.inl rfl)) hr hx, past_invalidated fun y => ?_⟩,
        ⟨_, finish_tlbinv hp (hpriv _ (Or.inr rfl)) hr hx, past_invalidated fun y => ?_⟩⟩
      · simp [invHits, htarget, ga, and_assoc]
      · simp [invHits, htarget]
    · intro part
      have hpriv (k : InvKind) : invPriv s.self k c = false := invPriv_hyp hpl k c
      have htarget (k : InvKind) (hk : k = .ipa ∨ k = .part) : s.invTarget k c = part := by
        rcases hk with rfl | rfl <;> exact (if_neg (Nat.not_lt.2 hpl)).trans (if_pos rfl)
      have hipa := past_invalidated (s := s) (k := .ipa) (a := a) (c := c) (P := fun y => s.partOf y.ctx = part ∧ ∃ g ∈ y.via, g.1 ≤ ga ∧ ga < g.1 + g.2)
        fun y => by simp [invHits, htarget, ga]
      have hpart := past_invalidated (s := s) (k := .part) (a := a) (c := c) (P := fun y => s.partOf y.ctx = part) fun y => by simp [invHits, htarget]
      refine ⟨⟨_, finish_tlbinv hp (hpriv _) hr hx, hipa.1, hipa.2, fun e he y hy h1 h2 => ?_⟩,
        ⟨_, finish_tlbinv hp (hpriv _) hr hx, hpart.1, hpart.2, fun e he y hy h1 => ?_⟩⟩
      · exact State.invalidated_two he hy ⟨h1.trans (htarget _ (Or.inl rfl)).symm, Or.inr ⟨rfl, h2⟩⟩
      · exact State.invalidated_two he hy ⟨h1.trans (htarget _ (Or.inr rfl)).symm, Or.inl rfl⟩
    · have hpriv (k : InvKind) : invPriv s.self k c = true := by
        rcases hpl with h | ⟨h, hc⟩
        · simp [invPriv, h]
        · rw [invPriv, h, bne_iff_ne.2 hc, Bool.or_true]
          rfl
      exact ⟨tlbinvBody_priv (hpriv _), tlbinvBody_priv (hpriv _)⟩
    · have hpriv (k : InvKind) (hk : k = .ipa ∨ k = .part) : invPriv s.self k c = true := by
        rcases hk with rfl | rfl <;> simp [invPriv, hpl]
      exact ⟨tlbinvBody_priv (hpriv _ (Or.inl rfl)), tlbinvBody_priv (hpriv _ (Or.inr rfl))⟩

end Sys2Proof.Machine
end

section
/-!
PROOFS. What the memory system leaves alone: the threads, the packets on their way, the threads of the service cores, and the number of the next
thread. One lemma for each operation that the hardware makes on its own account.
-/

namespace Sys2Proof.Machine

open Claims

/-- From `s` to `u` no thread, no packet, no list of a service core and not the number of the next thread has changed. -/
def SameThreads (s u : State) : Prop := u.threads = s.threads ∧ u.net = s.net ∧ u.svcs = s.svcs ∧ u.nextThread = s.nextThread

namespace SameThreads

theorem refl (s : State) : SameThreads s s := ⟨rfl, rfl, rfl, rfl⟩

theorem trans {s u w : State} (h : SameThreads s u) (h' : SameThreads u w) : SameThreads s w := by
  obtain ⟨h1, h2, h3, h4⟩ := h
  obtain ⟨k1, k2, k3, k4⟩ := h'
  exact ⟨k1.trans h1, k2.trans h2, k3.trans h3, k4.trans h4⟩

theorem branch {s a b : State} {p : Prop} [Decidable p] (ha : SameThreads s a) (hb : SameThreads s b) : SameThreads s (if p then a else b) := by
  split
  · exact ha
  · exact hb

section
variable {s u : State} (h : SameThreads s u)
include h

theorem thread (t : Nat) : u.thread t = s.thread t := by rw [State.thread, State.thread, h.1]

theorem foldl {α : Type} {f : State → α → State} (hf : ∀ u a, SameThreads s u → SameThreads s (f u a)) (l : List α) : SameThreads s (l.foldl f u) :=
  foldl_keeps (P := SameThreads s) hf l h

/-! ### Soft errors -/

theorem correctable (row : Nat) (unit : Coord) (addr : Nat) : SameThreads s (u.correctable row unit addr) := by
  unfold State.correctable
  dsimp only
  split <;> exact h

theorem markBad (row : Nat) (unit : Coord) (loc : Nat) : SameThreads s (u.markBad row unit loc) := by
  unfold State.markBad
  split <;> exact h

theorem uncorrectable (row : Nat) (unit : Coord) (loc : Nat) (c : CtxId) (kind : Nat) : SameThreads s (u.uncorrectable row unit loc c kind) := by
  unfold State.uncorrectable
  dsimp only
  split
  · refine foldl ?_ (fun _ _ h => ?_) _
    · exact h.markBad ..
    · exact h
  · exact h.markBad ..

theorem softError (c : Prop) [Decidable c] (x : Nat × Nat × Nat) (row : Nat) (unit : Coord) (addr : Nat) :
    SameThreads s (if c then State.correctable { u with softUnits := u.softUnits.erase x } row unit addr else u) :=
  branch (correctable (u := { u with softUnits := u.softUnits.erase x }) h ..) h

theorem meetUnit (unit : Coord) (c : CtxId) (kind : Nat) (x : Nat × Nat × Nat) : SameThreads s (u.meetUnit unit c kind x) := by
  have hsoft := h.softError (u.softUnits.contains x = true) x x.1 unit (x.2.2 * unitBytes x.1)
  have hbad := branch (p := (if u.softUnits.contains x = true then State.correctable { u with softUnits := u.softUnits.erase x } x.1 unit
    (x.2.2 * unitBytes x.1) else u).badUnits.contains x = true) (hsoft.uncorrectable x.1 unit (x.2.2 * unitBytes x.1) c kind) hsoft
  exact branch (p := x.1 = 9) hbad hbad

theorem meetErrors (row : Nat) (unit : Coord) (loc n : Nat) (c : CtxId) (kind : Nat) : SameThreads s (u.meetErrors row unit loc n c kind) :=
  h.foldl (fun _ _ h => h.meetUnit ..) _

theorem noticeErrors (row : Nat) (unit : Coord) (loc n : Nat) : SameThreads s (u.noticeErrors row unit loc n) := by
  refine h.foldl (fun u x h => ?_) _
  have hsoft := h.softError (u.softUnits.contains x = true) x row unit (x.2.2 * unitBytes row)
  exact branch hsoft hsoft

theorem meetFor (c : Option CtxId) (row : Nat) (unit : Coord) (loc n kind : Nat) : SameThreads s (u.meetFor c row unit loc n kind) := by
  unfold State.meetFor
  split
  · exact h.meetErrors ..
  · exact h.noticeErrors ..

/-! ### Slices (R22) -/

theorem slices {w : State} (h' : SameThreads s w) : SameThreads s (u.slices w) := by
  unfold State.slices
  split
  · exact h
  · exact h'

theorem l2Take (home : Coord) (l : L2Line) : SameThreads s (u.l2Take home l) := by
  unfold State.l2Take
  dsimp only
  split
  · exact h
  · exact h
  · split
    · exact h.noticeErrors ..
    · exact h

theorem l2Fill (home : Coord) (pa : Nat) (c : Option CtxId) (write : Bool) (kind : Nat) : SameThreads s (u.l2Fill home pa c write kind) := by
  have hmeet : SameThreads s (if write then u else u.meetFor c 1 (hbmUnit pa) (64 * (pa / 64)) 64 kind) := by
    split
    · exact h
    · exact h.meetFor ..
  unfold State.l2Fill
  dsimp only
  split
  · split <;> exact h
  · split
    · split
      · exact hmeet
      · exact hmeet.l2Take ..
    · exact h.l2Take ..

theorem sliceLook (home : Coord) (pa n : Nat) (c : Option CtxId) (kind : Nat) : SameThreads s (u.sliceLook home pa n c kind) :=
  h.slices (((h.meetFor ..).l2Fill ..).meetFor ..)

theorem slicePut (home : Coord) (pa n : Nat) (c : Option CtxId) (kind : Nat) : SameThreads s (u.slicePut home pa n c kind) :=
  h.slices ((h.meetFor ..).l2Fill home pa c true kind)

/-! ### Lines that cores own (R189, R190) -/

theorem writeHome (c : Coord) (l : L1Line) : SameThreads s (u.writeHome c l) := by
  unfold State.writeHome
  dsimp only
  split
  · exact h
  · have hnotice := h.noticeErrors 5 c (64 * l.line) 64
    have hfill := (hnotice.noticeErrors 3 l.home (64 * l.line) 64).l2Fill l.home (64 * l.line) none true 1
    refine slices hnotice ?_
    simpa [SameThreads, State.mendWhere] using hfill

theorem writeBackLines (c : Coord) (f : L1Line → Bool) : SameThreads s (u.writeBackLines c f) := by
  unfold State.writeBackLines
  dsimp only
  split
  · exact h
  · exact h.foldl (fun _ _ h => h.writeHome ..) _

theorem loseLines (c : Coord) (r : Region) : SameThreads s (u.loseLines c r) := h.writeBackLines c fun l => r.covers l.line

theorem requestLine (line : Nat) (b : Option Coord) (take : Bool) (c : Option CtxId) : SameThreads s (u.requestLine line b take c) := by
  unfold State.requestLine
  split
  · exact h
  next r _ =>
    refine branch h ?_
    have hmeet := branch (p := ((u.coreAt r.core).l1.any fun l => l.owned && l.line == line) = true) (h.meetFor c 5 r.core (64 * line) 64 1) h
    generalize (if ((u.coreAt r.core).l1.any fun l => l.owned && l.line == line) = true then u.meetFor c 5 r.core (64 * line) 64 1 else u) = w at hmeet ⊢
    refine branch (loseLines ?_ _ _) ?_ <;> exact hmeet.trans ⟨rfl, rfl, rfl, rfl⟩

theorem recallLines (c : Option CtxId) (pa n : Nat) : SameThreads s (u.recallLines c pa n) := by
  unfold State.recallLines
  split
  · exact h
  · exact h.foldl (fun _ _ h => h.requestLine ..) _

theorem unitPut (p : Nat) (pl : Placement) (c : Option CtxId) (pa n : Nat) : SameThreads s (u.unitPut p pl c pa n) :=
  (h.recallLines ..).slices ((h.recallLines ..).foldl (fun _ _ h => h.slicePut ..) _)

theorem unitWrite (p : Nat) (pl : Placement) (c : Option CtxId) (pa : Nat) (bs : List Byte) : SameThreads s (u.unitWrite p pl c pa bs) :=
  h.unitPut ..

theorem dropCopies (c : Coord) (line : Nat) : SameThreads s (u.dropCopies c line) := by
  unfold State.dropCopies
  split <;> exact h

theorem l1Put (c : Coord) (l : L1Line) : SameThreads s (u.l1Put c l) := by
  unfold State.l1Put
  dsimp only
  split
  · exact h
  · exact h.foldl (fun _ _ h => h.writeHome ..) _

theorem fetchHost (line : Nat) : SameThreads s (u.fetchHost line) := by
  unfold State.fetchHost
  exact branch h (by simpa [SameThreads] using h)

theorem readLine (a : Access) : SameThreads s (u.readLine a).2 := by
  unfold State.readLine
  dsimp only
  split
  · exact (h.requestLine ..).sliceLook ..
  · split
    · exact h
    · split
      · exact h.meetErrors ..
      · exact ((h.requestLine ..).l1Put ..).sliceLook ..

theorem readAt (a : Access) : SameThreads s (u.readAt a).2 := by
  unfold State.readAt
  dsimp only
  split
  · exact h.readLine a
  · exact ((h.requestLine ..).dropCopies ..).sliceLook ..
  · split
    · exact h
    · exact (h.fetchHost _).readLine a
  · split <;> exact h
  · exact h.sliceLook ..
  · exact h.sliceLook ..
  · exact h

/-! ### Walks and images (R32, R347) -/

theorem readEntries (q : Who) (es : List Nat) : SameThreads s (u.readEntries q es) := by
  have hreq : SameThreads s (if u.regions.isEmpty then u else es.foldl (fun s ea => s.requestLine (ea / 64) none true (some q.ctx)) u) := by
    split
    · exact h
    · exact h.foldl (fun _ _ h => h.requestLine ..) _
  exact hreq.slices (hreq.foldl (fun _ _ h => h.sliceLook ..) _)

theorem walkTouch (q : Who) (va : Word) : SameThreads s (u.walkTouch q va) := h.readEntries ..

theorem writeImage (x : Thread) (a off : Nat) (bs : List Byte) : SameThreads s (u.writeImage x a off bs) := (h.walkTouch ..).unitWrite ..

theorem leaveRegs (t : Nat) (x : Thread) (off n : Nat) : SameThreads s (u.leaveRegs t x off n) := h.noticeErrors ..

/-! ### Inboxes (R280) -/

theorem placesFreed (c : Coord) (ctx : CtxId) (n : Nat) : SameThreads s (u.placesFreed c ctx n) := by
  induction n generalizing u with
  | zero => exact h
  | succ n ih =>
    simp only [State.placesFreed]
    split
    · split
      · exact ih (u := State.modCore _ _ _) h
      · exact h
    · exact h

theorem takeEntry (c : Coord) (ctx : CtxId) (n : Nat) : SameThreads s (u.takeEntry c ctx n) := by
  refine foldl ?_ (fun _ _ h => ?_) _
  · exact h.trans ⟨rfl, rfl, rfl, rfl⟩
  dsimp only
  split
  · exact h
  · exact h.placesFreed ..

theorem template (ctx : CtxId) (c : Coord) : SameThreads s (u.template ctx c).2 := by
  unfold State.template
  dsimp only
  split
  · exact (h.walkTouch ..).readAt _
  · exact h.walkTouch ..

end

end SameThreads

end Sys2Proof.Machine
end

section
/-!
PROOFS. Continuations are instantiated and moving threads arrive (O49).
-/

namespace Sys2Proof.Machine

open Claims

/-! ### Arrivals are acquires (R200) -/

theorem State.acquire_pkg (s : State) (c : Coord) : s.acquire c 3 = s.modCore c fun k => { k with l1 := k.l1.filter (·.owned) } :=
  if_neg (by decide)

theorem State.acquire_owned (s : State) (c : Coord) : ∀ l ∈ ((s.acquire c 3).coreAt c).l1, l.owned = true := by
  rw [State.acquire_pkg, State.modCore, State.coreAt_setCore]
  exact fun l hl => (List.mem_filter.1 hl).2

theorem State.takeSlot_l1 (s : State) (c : Coord) (n t : Nat) : ((s.takeSlot c n t).coreAt c).l1 = (s.coreAt c).l1 := by
  unfold State.takeSlot State.modCore
  simp [State.coreAt, State.setCore]

theorem State.fillSlots_l1 (s : State) (c : Coord) : ((s.fillSlots c).coreAt c).l1 = (s.coreAt c).l1 := by
  unfold State.fillSlots
  split
  · rfl
  · refine foldl_keeps (P := fun u : State => (u.coreAt c).l1 = (s.coreAt c).l1) (fun u n hu => ?_) _ rfl
    dsimp only
    split
    · exact hu
    · split
      · exact (u.takeSlot_l1 ..).trans hu
      · exact hu

/-! ### A thread that joins its core (R263, R265) -/

/-- `y` is the thread `x` on its core: in the run list or in a general slot, with whatever lines in the register cache. -/
def Settled (x y : Thread) : Prop :=
  ∃ p j i f e, y = { x with place := p, joinedAt := j, issuedNow := i, fetchMiss := f, evicted := e } ∧
    (p = .waiting ∨ ∃ k < 60, p = .slot k) ∧ (x.issuedNow = false → i = false)

theorem Settled.slot {x y : Thread} (h : Settled x y) {n : Nat} (hn : n < 60) : Settled x { y with place := .slot n, issuedNow := false } := by
  obtain ⟨p, j, i, f, e, rfl, -, -⟩ := h
  exact ⟨.slot n, j, false, f, e, rfl, Or.inr ⟨n, hn, rfl⟩, fun _ => rfl⟩

theorem Settled.lines {x y : Thread} (h : Settled x y) (f : BitVec 16) (e : Tab (List Byte)) : Settled x { y with fetchMiss := f, evicted := e } := by
  obtain ⟨p, j, i, -, -, rfl, hp, hi⟩ := h
  exact ⟨p, j, i, f, e, rfl, hp, hi⟩

/-- In `u` thread `t` is `x`, on its core, and of `s` the packets on their way and the number of the next thread are as they were. -/
structure Joined (s u : State) (t : Nat) (x : Thread) : Prop where
  settled : Settled x (u.thread t)
  net : u.net = s.net
  next : u.nextThread = s.nextThread

section
variable {s u : State} {t : Nat} {x : Thread}

theorem Joined.same {w : State} (h : Joined s u t x) (hw : SameThreads u w) : Joined s w t x where
  settled := by
    rw [hw.thread t]
    exact h.settled
  net := hw.2.1.trans h.net
  next := hw.2.2.2.trans h.next

theorem Joined.joinList (s : State) (t : Nat) : Joined s (s.joinList t) t (s.thread t) where
  settled := ⟨.waiting, s.fresh, (s.thread t).issuedNow, _, _, State.thread_setThread .., Or.inl rfl, id⟩
  net := rfl
  next := rfl

/-- A thread set: of thread `t`, as a thread that is settled too. -/
theorem Joined.setThread (h : Joined s u t x) (v : Nat) {y : Thread} (hy : v = t → Settled x y) : Joined s (u.setThread v y) t x where
  settled := by
    by_cases hv : v = t
    · subst hv
      rw [State.thread_setThread]
      exact hy rfl
    · rw [State.thread_setThread_ne _ _ (Ne.symm hv)]
      exact h.settled
  net := h.net
  next := h.next

/-- A line of a thread's image leaves the register cache (R32). -/
theorem Joined.evictLine (h : Joined s u t x) (v i : Nat) : Joined s (u.evictLine v i) t x := by
  have hleave := (SameThreads.refl u).leaveRegs v (u.thread v) (64 * i) 64
  have hset {w : State} (hw : SameThreads u w) (f : BitVec 16) (e : Tab (List Byte)) :
      Joined s (w.setThread v { u.thread v with fetchMiss := f, evicted := e }) t x :=
    (h.same hw).setThread v fun hv => by
      subst hv
      exact h.settled.lines f e
  unfold State.evictLine
  dsimp only
  split
  · exact hset hleave ..
  · exact hset (hleave.writeImage ..) ..

theorem Joined.trimCache (h : Joined s u t x) (c : Coord) (room n : Nat) : Joined s (u.trimCache c room n) t x := by
  induction n generalizing u with
  | zero => exact h
  | succ n ih =>
    rw [State.trimCache]
    split
    · exact h
    · split
      · exact ih (h.evictLine ..)
      · exact h

theorem Joined.acquire (h : Joined s u t x) (c : Coord) : Joined s (u.acquire c 3) t x := by
  rw [State.acquire_pkg]
  exact ⟨h.settled, h.net, h.next⟩

theorem Joined.takeSlot (h : Joined s u t x) (c : Coord) {n : Nat} (hn : n < 60) (v : Nat) : Joined s (u.takeSlot c n v) t x :=
  setThread (u := u.modCore c _) ⟨h.settled, h.net, h.next⟩ v fun hv => by
    subst hv
    exact h.settled.slot hn

theorem Joined.fillSlots (h : Joined s u t x) (c : Coord) : Joined s (u.fillSlots c) t x := by
  unfold State.fillSlots
  split
  · exact h
  · refine List.foldlRecOn (motive := fun w => Joined s w t x) _ _ h fun w hw n hn => ?_
    dsimp only
    split
    · exact hw
    · split
      · exact hw.takeSlot c (List.mem_range.1 hn) _
      · exact hw

theorem Joined.mend (h : Joined s u t x) (row : Nat) (unit : Coord) (loc n : Nat) : Joined s (u.mend row unit loc n) t x :=
  ⟨h.settled, h.net, h.next⟩

theorem Joined.buildImage (h : Joined s u t x) : Joined s (u.buildImage t) t x := by
  unfold State.buildImage
  dsimp only
  split
  · have hw := (SameThreads.refl u).writeImage (u.thread t)
    exact ((h.same (hw ..)).mend ..).trimCache ..
  · exact (h.mend ..).trimCache ..

end

/-! ### The image of a thread on its way (R32, R156) -/

section
variable {s : State} {t : Nat}

theorem State.sendImage_none (h : s.imagePlace (s.thread t) = none) : s.sendImage t = s := by
  rw [State.sendImage]
  simp only [h]

/-- A thread whose lines and descriptors are to be fetched where it arrives (R32, R37). -/
def Thread.sent (x : Thread) : Thread :=
  { x with fetchMiss := BitVec.allOnes 16, evicted := imageLines x.imageBytes, tmDesc := Vector.replicate 16 none }

theorem State.sendImage_some {a : Nat} (h : s.imagePlace (s.thread t) = some a) : s.sendImage t =
    ((s.leaveRegs t (s.thread t) 0 1024).writeImage (s.thread t) a 0 (s.thread t).imageBytes).setThread t (s.thread t).sent := by
  rw [State.sendImage]
  simp only [h]
  rfl

/-- The image of a thread is written back: its bytes reach memory, and no other thread changes. -/
theorem State.sendImage_written {a : Nat} (h : s.imagePlace (s.thread t) = some a) :
    (s.sendImage t).thread t = (s.thread t).sent ∧ othersKeep s (s.sendImage t) t ∧ (s.sendImage t).net = s.net ∧ (s.sendImage t).svcs = s.svcs ∧
      (s.sendImage t).mem = Memory.writeList s.mem a (s.thread t).imageBytes := by
  have hleave := (SameThreads.refl s).leaveRegs t (s.thread t) 0 1024
  have hsame := hleave.writeImage (s.thread t) a 0 (s.thread t).imageBytes
  have hmem : ((s.leaveRegs t (s.thread t) 0 1024).writeImage (s.thread t) a 0 (s.thread t).imageBytes).mem =
      Memory.writeList s.mem a (s.thread t).imageBytes := by
    simp [State.writeImage, State.imageWalk, State.putBytes]
  rw [State.sendImage_some h]
  generalize (s.leaveRegs t (s.thread t) 0 1024).writeImage (s.thread t) a 0 (s.thread t).imageBytes = w at hsame hmem
  refine ⟨State.thread_setThread .., fun v hv => ?_, hsame.2.1, hsame.2.2.1, hmem⟩
  rw [State.thread_setThread_ne _ _ hv, hsame.thread v]

/-- What writing back a thread's image may change of it: which lines and descriptors are to be fetched again. -/
theorem State.sendImage_thread (s : State) (t : Nat) :
    ∃ miss kept desc, (s.sendImage t).thread t = { s.thread t with fetchMiss := miss, evicted := kept, tmDesc := desc } ∧
      ((s.imagePlace (s.thread t)).isSome → miss = BitVec.allOnes 16 ∧ desc = Vector.replicate 16 none) := by
  cases h : s.imagePlace (s.thread t) with
  | none =>
    rw [State.sendImage_none h]
    exact ⟨_, _, _, rfl, fun h => nomatch h⟩
  | some a => exact ⟨_, _, _, (State.sendImage_written h).1, fun _ => ⟨rfl, rfl⟩⟩

theorem State.sendImage_others (s : State) (t : Nat) : othersKeep s (s.sendImage t) t ∧ (s.sendImage t).net = s.net ∧ (s.sendImage t).svcs = s.svcs := by
  cases h : s.imagePlace (s.thread t) with
  | none =>
    rw [State.sendImage_none h]
    exact ⟨fun _ _ => rfl, rfl, rfl⟩
  | some a =>
    obtain ⟨-, hothers, hnet, hsvcs, -⟩ := State.sendImage_written h
    exact ⟨hothers, hnet, hsvcs⟩

end

/-! ### The template of a context (R34) -/

theorem Memory.take_readList (m : List Host.Cell) (a : Nat) {k n : Nat} (h : k ≤ n) : (Memory.readList m a n).take k = Memory.readList m a k := by
  induction k generalizing a n with
  | zero => rfl
  | succ k ih =>
    obtain ⟨n, rfl⟩ : ∃ j, n = j + 1 := ⟨n - 1, by omega⟩
    rw [Memory.readList, List.take_succ_cons, ih _ (by omega), Memory.readList]

/-- A doubleword of bytes read together is the doubleword there. -/
theorem imgWord_bytes (s : State) (pa : Nat) {n off : Nat} (h : off + 8 ≤ n) : imgWord (s.bytes pa n) off = s.word (pa + off) := by
  obtain ⟨m, rfl⟩ : ∃ m, n = off + m := ⟨n - off, by omega⟩
  rw [imgWord, State.bytes, Memory.drop_readList, Memory.take_readList _ _ (by omega)]
  rfl

/-- A read past the L1s of a line of HBM takes the bytes of memory (R187). -/
theorem State.readAt_bypass (s : State) {a : Access} (hc : a.cls = .trk ∨ a.cls = .unt) (hb : a.bypass = true) : (s.readAt a).1 = s.bytes a.pa a.n := by
  unfold State.readAt State.readLine
  rcases hc with hc | hc <;> simp [hc, hb]

theorem State.template_words {s : State} {ctx : CtxId} {c : Coord} {g : Target}
    (hg : s.translate { ctx, core := c, svc := false, pl := 3 } (s.ctxField ctx 0x10 + 0x3C0) .load = .ok g) (hc : g.cls = .trk ∨ g.cls = .unt) :
    (s.template ctx c).1 = [s.word g.pa, s.word (g.pa + 8), s.word (g.pa + 16), s.word (g.pa + 24)] := by
  change (s.template ctx c).1 = (List.range 4).map fun i => s.word (g.pa + 8 * i)
  unfold State.template
  simp only [hg]
  rw [State.readAt_bypass _ hc rfl]
  refine List.map_congr_left fun i hi => ?_
  have hi4 : i < 4 := List.mem_range.1 hi
  have hm (w : State) (hw : w.mem = s.mem) : imgWord (w.bytes g.pa 32) (8 * i) = s.word (g.pa + 8 * i) := by
    rw [State.bytes, hw]
    exact imgWord_bytes s g.pa (by omega)
  exact hm _ (State.walkTouch_mem ..)

/-! ### Instantiation (R34) -/

/-- A thread that begins: its place is in no slot and no list yet. -/
theorem newThread_eq (e : Entry) (ctx : CtxId) (c : Coord) (image : Word) (tv : List Word) : newThread e ctx c image tv =
    { g := Vector.ofFn fun i => if h : 1 ≤ i.val ∧ i.val < 8 then e.payload[i.val]'h.2 else 0
      pc := e.payload[0].setWidth 48, tid := e.hdr.setWidth 32, pour := BitVec.ofNat 32 (Word.field e.hdr 32 32), ctx, core := c
      queue := e.queue, pinned := e.pinned, tvec := #v[tv.getD 0 0, tv.getD 2 0], tdeleg := #v[tv.getD 1 0, tv.getD 3 0], image } := by
  have hg : (fun i : Fin 32 => if 1 ≤ i.val && i.val ≤ 7 then e.payload[i.val]?.getD 0 else 0) =
      fun i => if h : 1 ≤ i.val ∧ i.val < 8 then e.payload[i.val]'h.2 else 0 := by
    funext i
    by_cases h : 1 ≤ i.val ∧ i.val < 8
    · have h7 : i.val ≤ 7 := by omega
      simp [h, h7]
    · have h7 : ¬ (1 ≤ i.val ∧ i.val ≤ 7) := by omega
      simp [h, h7]
  rw [newThread, hg]

section
variable {s : State} {c : Coord} {ctx : CtxId} {n : Nat} {e : Entry}

/-- The state in which a continuation is instantiated: its entry is taken, and the template read. -/
def State.beforeThread (s : State) (c : Coord) (ctx : CtxId) (n : Nat) : State := ((s.takeEntry c ctx n).template ctx c).2

theorem State.beforeThread_same : SameThreads s (s.beforeThread c ctx n) := ((SameThreads.refl s).takeEntry ..).template ..

/-- An instantiated continuation is a new thread on its core (R34, R263). -/
theorem instantiateContinuation_joined (h : s.nextArrival c = some (ctx, n, e)) : ∃ image u, instantiateContinuation s c = u ∧
    Settled (newThread e ctx c image ((s.takeEntry c ctx n).template ctx c).1) (u.thread s.nextThread) ∧ u.nextThread = s.nextThread + 1 ∧
      ∀ l ∈ (u.coreAt c).l1, l.owned = true := by
  obtain ⟨-, -, -, hnext⟩ := State.beforeThread_same (s := s) (c := c) (ctx := ctx) (n := n)
  let image : Word := BitVec.ofNat 64 (1024 * (Config.imageBase ctx.toNat + s.nextThread))
  let x := newThread e ctx c image ((s.takeEntry c ctx n).template ctx c).1
  let v : State := { s.beforeThread c ctx n with nextThread := s.nextThread + 1 }
  have hex : instantiateContinuation s c = ((((v.setThread s.nextThread x).joinList s.nextThread).buildImage s.nextThread).acquire c 3).fillSlots c := by
    rw [instantiateContinuation, h]
    show ((((State.setThread { s.beforeThread c ctx n with nextThread := (s.beforeThread c ctx n).nextThread + 1 } (s.beforeThread c ctx n).nextThread
      (newThread e ctx c (BitVec.ofNat 64 (1024 * (Config.imageBase ctx.toNat + (s.beforeThread c ctx n).nextThread)))
        ((s.takeEntry c ctx n).template ctx c).1)).joinList (s.beforeThread c ctx n).nextThread).buildImage
      (s.beforeThread c ctx n).nextThread).acquire c 3).fillSlots c = _
    rw [hnext]
  have hj := ((((Joined.joinList (v.setThread s.nextThread x) s.nextThread).buildImage).acquire c).fillSlots c)
  rw [State.thread_setThread] at hj
  refine ⟨image, _, hex, hj.settled, hj.next, ?_⟩
  rw [State.fillSlots_l1]
  exact State.acquire_owned _ _

end

/-! ### Moving threads (R156, R374) -/

section
variable {s : State} {t : Nat} {c : Coord}

/-- A thread that lands on a compute core stands in its run list or in a slot (R156). -/
theorem State.landThread_joined (s : State) (t : Nat) (c : Coord) (back : Bool) : ∃ x, x = (if back then s.sendImage t else s).thread t ∧
    (∃ p j i f e, (s.landThread t c back).thread t = { x with core := c, place := p, joinedAt := j, issuedNow := i, fetchMiss := f, evicted := e } ∧
      (p = .waiting ∨ ∃ k, p = .slot k)) ∧
    (s.landThread t c back).net = (if back then s.sendImage t else s).net ∧ ∀ l ∈ ((s.landThread t c back).coreAt c).l1, l.owned = true := by
  refine ⟨_, rfl, ?_⟩
  unfold State.landThread
  generalize (if back then s.sendImage t else s) = w
  dsimp only
  split
  · next e _ =>
    refine ⟨⟨.slot e.1, (w.thread t).joinedAt, (w.thread t).issuedNow, (w.thread t).fetchMiss, (w.thread t).evicted, ?_, Or.inr ⟨_, rfl⟩⟩, ?_,
      State.acquire_owned _ _⟩
    · rw [State.acquire_pkg]
      show (State.modThread (w.modThread t fun x => { x with core := c }) t fun x => { x with place := .slot e.1 }).thread t = _
      rw [State.thread_modThread, State.thread_modThread]
    · rw [State.acquire_pkg]
      rfl
  · have hj := ((((Joined.joinList (w.modThread t fun x => { x with core := c }) t).trimCache c cacheLines 16).acquire c).fillSlots c)
    rw [State.thread_modThread] at hj
    obtain ⟨p, j, i, f, e, hx, hp, -⟩ := hj.settled
    refine ⟨⟨p, j, i, f, e, hx, hp.imp_right fun ⟨k, _, hk⟩ => ⟨k, hk⟩⟩, hj.net, ?_⟩
    rw [State.fillSlots_l1]
    exact State.acquire_owned _ _

/-- A thread whose stores are performed arrives on a service core (R374). -/
theorem fullThreadArrival_service {k svc : Nat} {f : Bool} (hnet : s.net[k]? = some (.move t c (some svc) f)) (hst : (s.thread t).st = 0)
    (hhalt : s.halted (s.thread t).ctx = false)
    (hsw : s.switching (s.thread t).ctx (s.thread t).core false = false ∨ (s.thread t).steep = true) : ∃ u,
      u = ((((s.drop k).sendImage t).modThread t fun x => { x with place := .service svc }).acquire (svcUnit svc) 3) ∧
      fullThreadArrival s k = { u with svcs := Tab.set u.svcs svc (Tab.get u.svcs [] svc ++ [t]) } := by
  refine ⟨_, rfl, ?_⟩
  have hgo : ((s.thread t).st ≠ 0 || s.halted (s.thread t).ctx || (s.switching (s.thread t).ctx (s.thread t).core false && !(s.thread t).steep)) = false := by
    rcases hsw with hsw | hsw <;> simp [hst, hhalt, hsw]
  simp only [fullThreadArrival, hnet, hgo, Bool.false_eq_true, if_false]

/-- A thread that its core may instantiate, or that returns to it, lands there (R156, R302). -/
theorem fullThreadArrival_compute {k : Nat} {f : Bool} (hnet : s.net[k]? = some (.move t c none f))
    (hmay : s.mayInstantiate (s.thread t).ctx c = true ∨ (f = true ∧ (s.thread t).ctx ∈ (s.coreAt c).ctxs ∧ s.halted (s.thread t).ctx = false ∧
      ((s.thread t).steep = true ∨ s.switching (s.thread t).ctx c false = false))) : fullThreadArrival s k = (s.drop k).landThread t c f := by
  have hgo : ((f && (s.coreAt c).ctxs.contains (s.thread t).ctx && !s.halted (s.thread t).ctx &&
      ((s.thread t).steep || !s.switching (s.thread t).ctx c false)) || s.mayInstantiate (s.thread t).ctx c) = true := by
    rcases hmay with hmay | ⟨hf, hin, hhalt, hsw⟩
    · simp [hmay]
    · rcases hsw with hsw | hsw <;> simp [hf, hin, hhalt, hsw]
  simp only [fullThreadArrival, hnet]
  exact if_pos hgo

end

/-- Settles O49: an arrival joins its core (`instantiateContinuation_joined`, `State.landThread_joined`) or its service core, its image written back
(`State.sendImage_written`), with an acquire (`State.acquire_owned`). -/
theorem threadsArrive : Obligations.ThreadsArrive := by
  unfold Obligations.ThreadsArrive
  refine ⟨?_, ?_, ?_⟩
  · intro s c ctx n e h
    obtain ⟨image, u, hu, hx, hnext, hl1⟩ := instantiateContinuation_joined h
    refine ⟨u, congrArg _ hu, ?_⟩
    obtain ⟨p, j, i, f, ev, hx, hp, hi⟩ := hx
    rw [newThread_eq] at hx hi
    intro x w
    have hplace : x.place = p := congrArg Thread.place hx
    refine ⟨?_, fun g hg hc => ?_, hplace ▸ hp, hnext, hl1⟩
    · have hi : i = false := hi rfl
      subst hi
      show u.thread s.nextThread = _
      simp only [x, hx]
    · have hw := State.template_words hg hc
      have htvec : x.tvec = _ := congrArg Thread.tvec hx
      have htdeleg : x.tdeleg = _ := congrArg Thread.tdeleg hx
      rw [htvec, htdeleg, hw]
      exact ⟨rfl, rfl, rfl, rfl⟩
  · intro s k t svc c f hnet hst hhalt hsw
    obtain ⟨u, hu, hex⟩ := fullThreadArrival_service hnet hst hhalt hsw
    refine ⟨_, congrArg Host.Outcome.next hex, ?_⟩
    obtain ⟨miss, kept, desc, hthread, himage⟩ := (s.drop k).sendImage_thread t
    obtain ⟨hothers, hnet', hsvcs⟩ := (s.drop k).sendImage_others t
    rw [State.acquire_pkg] at hu
    have husvcs : u.svcs = s.svcs := hu ▸ hsvcs
    have humem : u.mem = ((s.drop k).sendImage t).mem := hu ▸ rfl
    refine ⟨⟨miss, kept, desc, ?_, himage⟩, hu ▸ hnet', by rw [husvcs], ?_, fun a ha => ?_, fun ha => ?_, fun v hv => ?_⟩
    · subst hu
      show (State.modThread _ t fun x => { x with place := .service svc }).thread t = _
      rw [State.thread_modThread, hthread]
      rfl
    · rw [← State.acquire_pkg] at hu
      subst hu
      exact State.acquire_owned _ _
    · exact humem.trans (State.sendImage_written (s := s.drop k) ha).2.2.2.2
    · rw [humem, State.sendImage_none (s := s.drop k) ha]
      rfl
    · subst hu
      exact (State.thread_setThread_ne _ _ hv).trans (hothers v hv)
  · intro s k t c f hnet hmay
    refine ⟨_, congrArg Host.Outcome.next (fullThreadArrival_compute hnet hmay), ?_⟩
    obtain ⟨x, hx, ⟨p, j, i, m, e, hland, hp⟩, hnet', hl1⟩ := (s.drop k).landThread_joined t c f
    have hsent : ∃ miss kept desc, x = { s.thread t with fetchMiss := miss, evicted := kept, tmDesc := desc } ∧
        (f = false → desc = (s.thread t).tmDesc) ∧ (f = true → (s.imagePlace (s.thread t)).isSome → desc = Vector.replicate 16 none) := by
      cases f
      · exact ⟨_, _, _, hx, fun _ => rfl, fun h => nomatch h⟩
      · obtain ⟨miss, kept, desc, hthread, himage⟩ := (s.drop k).sendImage_thread t
        exact ⟨miss, kept, desc, hx.trans hthread, (fun h => nomatch h), fun _ h => (himage h).2⟩
    have hkeep : ((s.drop k).landThread t c f).net = dropAt s.net k := by
      cases f
      · exact hnet'
      · exact hnet'.trans ((s.drop k).sendImage_others t).2.1
    obtain ⟨miss, kept, desc, rfl, hdesc, hdesc'⟩ := hsent
    intro y
    have hy : y = _ := hland
    refine ⟨?_, ?_, ?_, ?_, hkeep, hl1⟩
    · rw [hy]
    · rw [hy]
      exact hdesc
    · rw [hy]
      exact hdesc'
    · rw [hy]
      exact hp

end Sys2Proof.Machine
end

section
/-!
PROOFS. The encoding of the instructions: each code is a concatenation of slices, which the decoder reads and compares one by one. Decoding what is
encoded evaluates the slices of a concatenation (`slice_append_low`, `slice_append_high`); encoding what is decoded compares a concatenation with a
word slice by slice (`append_eq_iff_slices`), and bit by bit where the decoder compares parts of a slice (`slice_succ_eq_iff`).
-/

namespace Sys2Proof

/-! ### Slices of words -/

section
variable {n v w : Nat}

theorem slice_append_low (x : BitVec v) (y : BitVec w) {k l : Nat} (h : k + l ≤ w) :
    BitVec.extractLsb' (n := no_index (v + w)) k l (HAppend.hAppend (γ := no_index (BitVec (v + w))) x y) = y.extractLsb' k l :=
  BitVec.extractLsb'_append_eq_of_add_le h

theorem slice_append_high (x : BitVec v) (y : BitVec w) {k l : Nat} (h : w ≤ k) :
    BitVec.extractLsb' (n := no_index (v + w)) k l (HAppend.hAppend (γ := no_index (BitVec (v + w))) x y) = x.extractLsb' (k - w) l :=
  BitVec.extractLsb'_append_eq_of_le h

theorem append_eq_iff_slices (x : BitVec v) (y : BitVec w) (z : BitVec (v + w)) :
    HAppend.hAppend (γ := no_index (BitVec (v + w))) x y = z ↔ x = z.extractLsb' w v ∧ z.extractLsb' 0 w = y := by
  constructor
  · rintro rfl
    exact ⟨BitVec.extractLsb'_append_eq_left.symm, BitVec.extractLsb'_append_eq_right⟩
  · rintro ⟨rfl, rfl⟩
    rw [BitVec.extractLsb'_append_extractLsb'_eq_extractLsb' (Nat.zero_add w).symm, BitVec.extractLsb'_eq_self]

theorem slice_slice (x : BitVec n) {k l k' l' : Nat} (h : k' + l' ≤ l) : (x.extractLsb' k l).extractLsb' k' l' = x.extractLsb' (k + k') l' := by
  ext i hi
  have hl : k' + i < l := by omega
  simp [hl, Nat.add_assoc]

/-- A slice has a value if its lowest bit and the slice above that have theirs. -/
theorem slice_succ_eq_iff (x : BitVec n) (k l m : Nat) : x.extractLsb' k (no_index (l + 1)) = BitVec.ofNat (no_index (l + 1)) m ↔
    x.getLsbD k = decide (m % 2 = 1) ∧ x.extractLsb' (k + 1) l = BitVec.ofNat l (m / 2) := by
  show x.extractLsb' k (l + 1) = BitVec.ofNat (l + 1) m ↔ _
  simp only [BitVec.eq_of_getLsbD_eq_iff, BitVec.getLsbD_extractLsb', BitVec.getLsbD_ofNat]
  constructor
  · intro h
    refine ⟨by simpa using h 0 (by omega), fun i hi => ?_⟩
    simpa [hi, Nat.testBit_succ, Nat.add_comm 1, Nat.add_assoc] using h (i + 1) (by omega)
  · rintro ⟨h0, h⟩ i hi
    cases i with
    | zero => simpa using h0
    | succ i =>
      have hi' : i < l := Nat.lt_of_succ_lt_succ hi
      simpa [hi', Nat.testBit_succ, Nat.add_comm 1, Nat.add_assoc] using h i hi'

theorem ofNat_eq_slice_comm (x : BitVec n) (k l m : Nat) : BitVec.ofNat l m = x.extractLsb' k l ↔ x.extractLsb' k l = BitVec.ofNat l m := eq_comm

end

/-! ### Decoding what is encoded -/

/-- The minor field of MOVH is below 4 (R104). -/
theorem toNat_slice_movh (imm : BitVec 12) (sh : BitVec 2) : ((imm ++ 0#1 ++ sh).extractLsb' 0 3).toNat = sh.toNat := by
  rw [BitVec.extractLsb'_append_eq_ite]
  simp only [Nat.reduceLT, ↓reduceDIte, slice_append_low, Nat.reduceAdd, Nat.reduceSub, Nat.reduceLeDiff, BitVec.extractLsb'_eq_self, BitVec.cast_eq]
  decide +revert

theorem parseWord_movh (d a : BitVec 5) (imm : BitVec 12) (sh : BitVec 2) :
    parseWord (imm ++ 0#1 ++ sh ++ a ++ d ++ 3#6 ++ 1#1) = some (.movh d a imm sh) := by
  have hsh := sh.isLt
  simp only [parseWord, decode03, slice_append_high, slice_append_low, Nat.reduceAdd, Nat.reduceLeDiff, Nat.reduceSub, BitVec.extractLsb'_eq_self,
    BitVec.reduceToNat, ↓reduceIte, toNat_slice_movh]
  split
  case h_5 => rfl
  all_goals omega

theorem parseWord_addpc (d : BitVec 5) (imm : BitVec 12) {sh : BitVec 3} (h : 5 ≤ sh.toNat) :
    parseWord (imm ++ sh ++ 0#5 ++ d ++ 3#6 ++ 1#1) = some (.addpc d imm sh) := by
  obtain rfl | rfl | rfl : sh = 5#3 ∨ sh = 6#3 ∨ sh = 7#3 := by decide +revert
  all_goals
    simp only [parseWord, decode03, slice_append_high, slice_append_low, Nat.reduceAdd, Nat.reduceLeDiff, Nat.reduceSub, BitVec.extractLsb'_eq_self,
      BitVec.reduceToNat, ↓reduceIte]

theorem parseWord_cmpi (d : BitVec 3) (a : BitVec 5) (imm : BitVec 12) {cc : BitVec 3} (h : 1 ≤ cc.toNat ∧ cc.toNat ≤ 6) :
    parseWord (imm ++ cc ++ a ++ 0#2 ++ d ++ 4#6 ++ 1#1) = some (.cmpi d a imm cc) := by
  simp only [parseWord, decode04, slice_append_high, slice_append_low, Nat.reduceAdd, Nat.reduceLeDiff, Nat.reduceSub, BitVec.extractLsb'_eq_self,
    BitVec.reduceToNat, ↓reduceIte]
  split
  case h_3 => rfl
  all_goals omega

section
variable {i : Instr} {w : BitVec 32} {h : BitVec 16}

/-- The words of the guarded majors (R56): each slice that the decoder reads is a field or a constant. -/
theorem parseWord_encode_guarded {g : BitVec 4} (hg : Claims.guardOf i = some g) (hw : encode i = .word w) : parseWord w = some i := by
  cases i <;> cases hg <;> cases hw <;>
    simp only [parseWord, decode01, decode05, decode06, decode0F, decode11, decode12, decode13, decode14, decode15, decode1E, decode20, decode21,
      decode24, slice_append_high, slice_append_low, Nat.reduceAdd, Nat.reduceLeDiff, Nat.reduceSub, BitVec.reduceExtractLsb',
      BitVec.extractLsb'_eq_self, BitVec.reduceToNat, ↓reduceIte, and_self]

/-- The words of the other majors: as `parseWord_encode_guarded`, but for the three forms whose minor field holds an operand. -/
theorem parseWord_encode_unguarded (hg : Claims.guardOf i = none) (hwf : wellFormed i = true) (hw : encode i = .word w) : parseWord w = some i := by
  cases i with
  | movh d a imm sh =>
    cases hw
    exact parseWord_movh d a imm sh
  | addpc d imm sh =>
    cases hw
    exact parseWord_addpc d imm (of_decide_eq_true hwf)
  | cmpi d a imm cc =>
    cases hw
    obtain ⟨hlo, hhi⟩ := Bool.and_eq_true_iff.1 hwf
    exact parseWord_cmpi d a imm ⟨of_decide_eq_true hlo, of_decide_eq_true hhi⟩
  | _ =>
    cases hg <;> cases hw <;>
      simp only [parseWord, decode02, decode03, decode04, decode08, decode09, decode0A, decode0C, decode0D, decode0E, decode10, decode18, decode19,
        decode1A, decode1C, decode1D, decode30, slice_append_high, slice_append_low, Nat.reduceAdd, Nat.reduceLeDiff, Nat.reduceSub,
        BitVec.reduceExtractLsb', BitVec.extractLsb'_eq_self, BitVec.reduceToNat, ↓reduceIte, and_self]

theorem parseWord_encode (hwf : wellFormed i = true) (hw : encode i = .word w) : parseWord w = some i := by
  cases hg : Claims.guardOf i with
  | none => exact parseWord_encode_unguarded hg hwf hw
  | some g => exact parseWord_encode_guarded hg hw

theorem parseHalf_encode (hh : encode i = .half h) : parseHalf h = some i := by
  cases i <;> cases hh <;>
    simp only [parseHalf, slice_append_high, slice_append_low, Nat.reduceAdd, Nat.reduceLeDiff, Nat.reduceSub, BitVec.reduceExtractLsb',
      BitVec.extractLsb'_eq_self, BitVec.reduceToNat, ↓reduceIte]

/-! ### Encoding what is decoded -/

/-- A minor field of major 0x03 below 4 has no bit 2 (R104). -/
theorem slice_movh_eq_zero (h4 : (w.extractLsb' 17 3).toNat = 4 → False) (h5 : (w.extractLsb' 17 3).toNat = 5 → False)
    (h6 : (w.extractLsb' 17 3).toNat = 6 → False) (h7 : (w.extractLsb' 17 3).toNat = 7 → False) : w.extractLsb' 19 1 = 0#1 := by
  rw [← slice_slice w (k := 17) (l := 3) (k' := 2) (by decide)]
  generalize w.extractLsb' 17 3 = m at *
  decide +revert

theorem encode_of_decode03 (h0 : w.extractLsb' 0 1 = 1#1) (hm : (w.extractLsb' 1 6).toNat = 3) (hd : decode03 w = some i) : encode i = .word w := by
  revert i
  fun_cases decode03 w
  case case9 h4 h5 h6 h7 =>
    have hs := slice_movh_eq_zero h4 h5 h6 h7
    rintro i ⟨⟩
    refine congrArg Code.word ?_
    simp_all only [append_eq_iff_slices, slice_slice, BitVec.toNat_eq_nat, Nat.reduceAdd, Nat.reduceLeDiff, Nat.reducePow, Nat.reduceLT, true_and,
      and_self]
  all_goals
    rintro i ⟨⟩ <;> refine congrArg Code.word ?_ <;>
      simp_all only [append_eq_iff_slices, slice_slice, BitVec.toNat_eq_nat, ofNat_eq_slice_comm, slice_succ_eq_iff, Nat.reduceAdd, Nat.reduceLeDiff,
        Nat.reducePow, Nat.reduceLT, Nat.reduceMod, Nat.reduceDiv, Nat.reduceEqDiff, decide_true, decide_false, true_and, and_self]

/-- Each branch of a major's decoder builds an instruction from slices of the word, and has compared every other slice with what the form has there
(R58): the form's concatenation has the slices of the word. The one slice that no branch compares is that of MOVH (`encode_of_decode03`). -/
theorem encode_of_parseWord (hd : parseWord w = some i) : encode i = .word w := by
  revert i
  fun_cases parseWord w <;>
    [fun_cases decode01 w; fun_cases decode02 w; exact encode_of_decode03 ‹_› ‹_›; fun_cases decode04 w; fun_cases decode05 w; fun_cases decode06 w;
     fun_cases decode08 w; fun_cases decode09 w; fun_cases decode0A w; fun_cases decode0C w; fun_cases decode0D w; fun_cases decode0E w;
     fun_cases decode0F w; fun_cases decode10 w; fun_cases decode11 w; fun_cases decode12 w; fun_cases decode13 w; fun_cases decode14 w;
     fun_cases decode15 w; fun_cases decode18 w; fun_cases decode19 w; fun_cases decode1A w; fun_cases decode1C w; fun_cases decode1D w;
     fun_cases decode1E w; fun_cases decode20 w; fun_cases decode21 w; fun_cases decode24 w; fun_cases decode30 w; skip; skip] <;>
    rintro i ⟨⟩ <;> refine congrArg Code.word ?_ <;>
    simp_all only [append_eq_iff_slices, slice_slice, BitVec.toNat_eq_nat, ofNat_eq_slice_comm, Nat.reduceAdd, Nat.reduceLeDiff, Nat.reducePow,
      Nat.reduceLT, true_and, and_true] <;>
    simp_all only [slice_succ_eq_iff, Nat.reduceAdd, Nat.reduceMod, Nat.reduceDiv, Nat.reduceEqDiff, decide_true, decide_false, and_self]

theorem encode_of_parseHalf (hd : parseHalf h = some i) : encode i = .half h := by
  revert i
  fun_cases parseHalf h <;> rintro i ⟨⟩ <;> refine congrArg Code.half ?_ <;>
    simp_all only [append_eq_iff_slices, slice_slice, BitVec.toNat_eq_nat, ofNat_eq_slice_comm, slice_succ_eq_iff, Nat.reduceAdd, Nat.reduceLeDiff,
      Nat.reducePow, Nat.reduceLT, Nat.reduceMod, Nat.reduceDiv, Nat.reduceEqDiff, decide_true, decide_false, true_and, and_self]

/-! ### Framing (R52) -/

theorem low_of_parseWord (hd : parseWord w = some i) : w.getLsbD 0 = true := by
  by_cases h0 : w.extractLsb' 0 1 = 1#1
  · simpa using congrArg (·.getLsbD 0) h0
  · rw [parseWord, if_neg h0] at hd
    cases hd

theorem low_of_parseHalf (hd : parseHalf h = some i) : h.getLsbD 0 = false := by
  by_cases h0 : h.extractLsb' 0 1 = 0#1
  · simpa using congrArg (·.getLsbD 0) h0
  · rw [parseHalf, if_neg h0] at hd
    cases hd

theorem frame_bytes_word (h0 : w.getLsbD 0 = true) (rest : List Byte) : frame ((Code.word w).bytes ++ rest) = .word w := by
  have hjoin : w.extractLsb' 24 8 ++ w.extractLsb' 16 8 ++ w.extractLsb' 8 8 ++ w.extractLsb' 0 8 = w := by
    simp only [append_eq_iff_slices, slice_slice, Nat.reduceAdd, Nat.reduceLeDiff, and_self]
  simp [Code.bytes, frame, h0, hjoin]

theorem frame_bytes_half (h0 : h.getLsbD 0 = false) (rest : List Byte) : frame ((Code.half h).bytes ++ rest) = .half h := by
  have hjoin : h.extractLsb' 8 8 ++ h.extractLsb' 0 8 = h := by
    simp only [append_eq_iff_slices, and_self]
  have hbit : h[0] = false := h0
  simp [Code.bytes, frame, hbit, hjoin]

/-! ### The decoder and the encoder -/

theorem decode_word_eq_some_iff : decode (.word w) = some i ↔ parseWord w = some i ∧ wellFormed i = true := Option.filter_eq_some_iff
theorem decode_half_eq_some_iff : decode (.half h) = some i ↔ parseHalf h = some i ∧ wellFormed i = true := Option.filter_eq_some_iff

theorem decode_encode (hwf : wellFormed i = true) (hc : encode i ≠ .none) : decode (encode i) = some i := by
  cases hi : encode i with
  | word w => exact decode_word_eq_some_iff.2 ⟨parseWord_encode hwf hi, hwf⟩
  | half h => exact decode_half_eq_some_iff.2 ⟨parseHalf_encode hi, hwf⟩
  | none => exact absurd hi hc

theorem encode_of_decode {c : Code} (hd : decode c = some i) : encode i = c ∧ wellFormed i = true := by
  cases c with
  | word w =>
    obtain ⟨hp, hwf⟩ := decode_word_eq_some_iff.1 hd
    exact ⟨encode_of_parseWord hp, hwf⟩
  | half h =>
    obtain ⟨hp, hwf⟩ := decode_half_eq_some_iff.1 hd
    exact ⟨encode_of_parseHalf hp, hwf⟩
  | none => cases hd

/-- Bytes that encode an instruction are framed as encoded, whatever follows them (R52). -/
theorem frame_bytes {c : Code} (hd : decode c = some i) (rest : List Byte) : frame (c.bytes ++ rest) = c := by
  cases c with
  | word w => exact frame_bytes_word (low_of_parseWord (decode_word_eq_some_iff.1 hd).1) rest
  | half h => exact frame_bytes_half (low_of_parseHalf (decode_half_eq_some_iff.1 hd).1) rest
  | none => cases hd

end

/-- Settles O2: what the decoder reads of a concatenation are its pieces (`parseWord_encode`, `parseHalf_encode`). -/
theorem decodeOfEncode : Obligations.DecodeOfEncode := by
  unfold Obligations.DecodeOfEncode
  exact fun i hwf hc => decode_encode hwf hc

/-- Settles O3: the decoder has read every bit of a code that decodes (`encode_of_parseWord`, `encode_of_parseHalf`), bit 0 among them, which frames
its bytes (`frame_bytes`). -/
theorem encodeOfDecode : Obligations.EncodeOfDecode := by
  unfold Obligations.EncodeOfDecode
  refine ⟨fun c i hd => encode_of_decode hd, fun i rest hwf hc => ?_⟩
  have hd := decode_encode hwf hc
  rw [decodeBytes, frame_bytes hd, hd]

end Sys2Proof
end

section
/-!
PROOFS. A step in which a thread has its turn, and a step with a given event (O4, O5); the worked words, the compact register forms and the false guard
(O1, O15, O16).
-/

namespace Sys2Proof.Machine

open Claims

/-! ### Who moves (R4, R57, R266) -/

theorem State.advance_event {s : State} {i : Instr} {rest : List Instr} (hin : s.inputs = i :: rest) (hi : encode i = .none) :
    s.advance = exec i { s with inputs := rest } := by
  have hev : isEvent i = true := by rw [isEvent, hi]; rfl
  simp only [State.advance, hin, hev, if_true]

theorem State.advance_issue {s : State} {t : Nat} (hin : s.inputs = []) (hturn : s.turn = true) (hnext : s.nextIssuer = some t) :
    s.advance = State.issue { s with turn := false } t := by
  simp only [State.advance, hin, hturn, hnext, Bool.true_or, Bool.not_true, if_true]

/-- A thread with no trap due that no debugger steps executes its instruction (R57, R210). -/
theorem State.issue_runs {s : State} {t : Nat} (hdebug : (s.thread t).debugStep = false)
    (hdue : (s.thread t).stalled = true ∨ (s.thread t).hold.isSome = true ∨ (s.thread t).duePending s.cycle = none) :
    s.issue t = s.noteIssue t (s.begin t).runInstr := by
  have hnone : (if (s.thread t).stalled || (s.thread t).hold.isSome then none else (s.thread t).duePending s.cycle) = none := by
    rcases hdue with h | h | h <;> simp [h]
  rw [State.issue, hnone]
  simp only [hdebug, endDebugStep, Bool.false_eq_true, if_false]

/-! ### The instruction of a fetch (R57) -/

theorem State.runInstr_decoded {s s' : State} {bs : List Byte} {i : Instr} (hf : s.fetch s.cur = .ok (bs, s')) (hh : s'.halted s'.self.ctx = false)
    (hd : decodeBytes bs = some i) : s.runInstr = s'.execute i := by
  simp only [State.runInstr, hf, hh, hd, Bool.false_eq_true, if_false]

theorem State.runInstr_illegal {s s' : State} {bs : List Byte} (hf : s.fetch s.cur = .ok (bs, s')) (hh : s'.halted s'.self.ctx = false)
    (hd : decodeBytes bs = none) : s.runInstr = traps s' 1 (frame bs).bits := by
  simp only [State.runInstr, hf, hh, hd, Bool.false_eq_true, if_false]
  exact finish_trap s' 4 1 (frame bs).bits

/-- The state after a tick, in which a thread has its turn. -/
abbrev State.turned (s : State) : State := { s.tick with turn := false }

/-- A step in which a thread has its turn (R57). -/
theorem step_turn {s : State} {t : Nat} (hin : s.inputs = []) (hturn : s.turn = true) (hnext : s.tick.nextIssuer = some t)
    (hdebug : (s.thread t).debugStep = false) (hdue : NoneDue s t) :
    step s = s.mapped (s.turned.noteIssue t (s.turned.begin t).runInstr) := by
  obtain ⟨-, hinputs, hturns, -⟩ := s.tick_sameTurn
  have hthread : s.turned.thread t = s.thread t := s.tick_sameTurn.thread t
  rw [step, State.advance_issue (hinputs.trans hin) (hturns.trans hturn) hnext]
  exact congrArg s.mapped (State.issue_runs (hthread ▸ hdebug) (hthread ▸ hdue))

/-- Where no soft error stands and no core owns a line, the reads and walks before an instruction change nothing but which lines the slices hold, and
its registers have nothing to mend (R347, R397). -/
theorem State.execute_sound {s : State} (hr : s.regions = []) (hs : Sound s) (hh : s.halted s.self.ctx = false) (i : Instr) :
    ∃ l2, s.execute i = exec i { s with l2 := l2 } := by
  have hfree := errorFree_of_sound hs
  have hregs : s.meetRegs i = s := by simp [State.meetRegs, hfree]
  obtain ⟨l2, hwalk⟩ : ∃ l2, s.walkFor i = { s with l2 := l2 } := State.readEntries_none hr hs ..
  have hgo : State.halted { s with l2 := l2 } (State.self { s with l2 := l2 }).ctx = false := hh
  have hmend (o : Out) : State.mendRegs { s with l2 := l2 } i o = o := if_pos hfree
  exact ⟨l2, by simp only [State.execute, hregs, hwalk, hgo, hmend, Bool.false_eq_true, if_false]⟩

/-- Settles O4: `step_turn` brings the thread to its fetch, and `State.execute_sound` says what comes before the instruction. -/
theorem stepRunsTheDecodedInstruction : Obligations.StepRunsTheDecodedInstruction := by
  unfold Obligations.StepRunsTheDecodedInstruction
  intro s s' t bs i u v hin hturn hnext hdebug hdue hf hh hd
  have hstep : step s = s.mapped (u.noteIssue t (s'.execute i)) := by
    rw [step_turn hin hturn hnext hdebug hdue, State.runInstr_decoded hf hh hd]
  refine ⟨hstep, fun hr hs => ?_⟩
  obtain ⟨l2, hl2⟩ := State.execute_sound hr hs hh i
  exact ⟨l2, hl2 ▸ hstep⟩

/-- Settles O5: `step_turn` brings the thread to its fetch, whose bytes `State.runInstr_illegal` refuses; an event given is the first thing that
`State.advance` looks at. -/
theorem undecodedWordsAndGivenEvents : Obligations.UndecodedWordsAndGivenEvents := by
  unfold Obligations.UndecodedWordsAndGivenEvents
  refine ⟨fun s s' t bs hin hturn hnext hdebug hdue hf hh hd => ?_, fun s i rest hin hi => ?_⟩
  · rw [step_turn hin hturn hnext hdebug hdue, State.runInstr_illegal hf hh hd]
  · rw [step, State.advance_event (s.tick_sameTurn.2.1.trans hin) hi]

/-! ### The forms of 03_encoding.md -/

/-- Settles O1: four words are the codes of what they stand for (`decode_encode`), and the fifth has bit 10 set, which CMPI reserves. -/
theorem workedWordsDecode : Obligations.WorkedWordsDecode := by
  unfold Obligations.WorkedWordsDecode
  exact ⟨decode_encode (i := .add 0xA 3 4 5) (by decide) (by decide), decode_encode (i := .cmpi 3 7 0xFFF 5) (by decide) (by decide), by decide,
    decode_encode (i := .cAdd 3 4) (by decide) (by decide), decode_encode (i := .add 0 3 3 4) (by decide) (by decide)⟩

/-- Settles O15: each form is the write of one register (`finish_setG`), of the value stated. -/
theorem compactRegisterForms : Obligations.CompactRegisterForms := by
  unfold Obligations.CompactRegisterForms
  intro s d a imm sh hp x y
  have hw {v r : Word} (h : v = r) : finish 2 s (putG s d v) = writesG s 2 d r := h ▸ finish_setG s 2 hp d v
  refine ⟨?_, finish_nothing hp⟩
  simp only [List.forall_mem_cons, List.not_mem_nil, false_implies, implies_true, and_true]
  refine ⟨hw rfl, hw ?_, hw ?_, hw rfl, hw rfl, hw rfl, hw ?_, hw rfl, hw ?_⟩
  · exact BitVec.add_def ..
  · simp [Int.sub_eq_add_neg, BitVec.ofInt_add, BitVec.ofInt_neg, BitVec.sub_eq_add_neg, x, y]
  · simp [BitVec.ofInt_add, BitVec.signExtend, x]
  · exact BitVec.eq_of_toNat_eq (by simp [Nat.shiftLeft_eq, x])

theorem guardTrue_of_not_guard {s : State} {g : BitVec 4} (h : ¬ Guard s g) : guardTrue s.self g = false := by
  unfold Guard at h
  simpa [guardTrue] using h

theorem guarded_skips {s : State} {g : BitVec 4} (hp : Plain s 4) (h : ¬ Guard s g) (b : Body) : guarded g s b = onlySelf s 4 id :=
  (guarded_false g s b (guardTrue_of_not_guard h)).trans (finish_nothing hp)

theorem onCompute_here {s : State} (h : s.self.onService = none) (i : Instr) (o : Out) : onCompute i s o = o := by simp [onCompute, h]

/-- Settles O16: every guarded form looks at its guard first (`guarded_skips`), those that service cores lack once they are on a compute core. -/
theorem falseGuardHasNoEffect : Obligations.FalseGuardHasNoEffect := by
  unfold Obligations.FalseGuardHasNoEffect
  intro s i g hg hp hf hc
  have hskip (b : Body) : guarded g s b = onlySelf s 4 id := guarded_skips hp hf b
  have hskip' (j : Instr) (b : Body) : onCompute j s (guarded g s b) = onlySelf s 4 id := (onCompute_here hc ..).trans (hskip b)
  cases i with
  | cnvJoin | cnvTry | cnvLeave | ringCfg | ringPut | ringGo | steepDone | ringTry | ringTake => cases hg; exact hskip' _ _
  | _ => cases hg <;> exact hskip _

end Sys2Proof.Machine
end

section
/-!
PROOFS. Lanes (R90), and the packed forms that compute lane by lane (O34, O35).
-/

namespace Sys2Proof.Machine

open Claims

/-! ### Lanes (R90) -/

/-- Packed fields fill the low bits (R74). -/
theorem packBits_lt {w : Nat} {l : List Nat} (h : ∀ x ∈ l, x < 2 ^ w) : packBits w l < 2 ^ (w * l.length) := by
  induction l with
  | nil => simp [packBits]
  | cons x xs ih =>
    rw [List.forall_mem_cons] at h
    have hx : x + 1 ≤ 2 ^ w := h.1
    have hxs : packBits w xs + 1 ≤ 2 ^ (w * xs.length) := ih h.2
    calc packBits w (x :: xs) = x + 2 ^ w * packBits w xs := rfl
      _ < 2 ^ w * (packBits w xs + 1) := by rw [Nat.mul_add]; omega
      _ ≤ 2 ^ w * 2 ^ (w * xs.length) := Nat.mul_le_mul_left _ hxs
      _ = 2 ^ (w * (x :: xs).length) := by rw [← Nat.pow_add, List.length_cons, Nat.mul_succ, Nat.add_comm]

/-- A field of a packed number (R74). -/
theorem packBits_div_mod {w : Nat} {l : List Nat} (h : ∀ x ∈ l, x < 2 ^ w) (i : Nat) : packBits w l / 2 ^ (w * i) % 2 ^ w = l.getD i 0 := by
  induction l generalizing i with
  | nil => simp [packBits]
  | cons x xs ih =>
    rw [List.forall_mem_cons] at h
    cases i with
    | zero => simp [packBits, Nat.mod_eq_of_lt h.1]
    | succ i =>
      have hdiv : (x + 2 ^ w * packBits w xs) / 2 ^ w = packBits w xs := by
        rw [Nat.add_mul_div_left _ _ (Nat.two_pow_pos w), Nat.div_eq_of_lt h.1, Nat.zero_add]
      rw [packBits, Nat.mul_succ, Nat.add_comm (w * i), Nat.pow_add, ← Nat.div_div_eq_div_mul, hdiv, ih h.2, List.getD_cons_succ]

/-- A lane of a register that was made of lanes (R90). -/
theorem lane_ofLanes {w : Nat} {l : List Nat} (h : w * l.length ≤ 128) (i : Nat) : lane (ofLanes w l) w i = l.getD i 0 % 2 ^ w := by
  have hw : ∀ x ∈ l.map (· % 2 ^ w), x < 2 ^ w := by
    simp only [List.forall_mem_map]
    exact fun x _ => Nat.mod_lt _ (Nat.two_pow_pos w)
  have hlt : packBits w (l.map (· % 2 ^ w)) < 2 ^ 128 := (packBits_lt hw).trans_le (Nat.pow_le_pow_right (by decide) (by simpa using h))
  rw [lane, ofLanes, BitVec.toNat_ofNat, Nat.mod_eq_of_lt hlt, packBits_div_mod hw]
  simp only [List.getD_eq_getElem?_getD, List.getElem?_map]
  cases l[i]? <;> simp

theorem lane_lanewise {n w : Nat} (h : w * n ≤ 128) (f : Nat → Nat × Flags) {i : Nat} (hi : i < n) :
    lane (lanewise n w f).1 w i = (f i).1 % 2 ^ w := by
  simp [lanewise, lane_ofLanes, h, hi]

theorem lanewise_flags (n w : Nat) (f : Nat → Nat × Flags) : (lanewise n w f).2 = flagsOf n f := by
  simp [lanewise, flagsOf, List.foldl_map]

theorem flagsOf_congr {n : Nat} {f r : Nat → Nat × Flags} (h : ∀ i, (f i).2 = (r i).2) : flagsOf n f = flagsOf n r := by
  simp only [flagsOf, h]

/-- Lanes that raise nothing (R88). -/
theorem flagsOf_none (n : Nat) (v : Nat → Nat) : flagsOf n (fun i => (v i, 0)) = 0 := by
  simp [flagsOf]

/-! ### Tags (R36, R91, R115) -/

/-- The lanes of a tag fill a register (R90). -/
theorem tagBits_mul_tagLanes (t : BitVec 4) : tagBits t * tagLanes t = 128 := by revert t; decide

theorem fpTag_iff {t : BitVec 4} : fpTag t = true ↔ t ∈ [1#4, 2#4, 3#4, 4#4] := by revert t; decide
theorem intTag_iff {t : BitVec 4} : intTag t = true ↔ t ∈ [7#4, 8#4, 9#4, 10#4, 11#4] := by revert t; decide

/-- The lanes of a tag of the FP arithmetic family are as wide as its encodings (R78). -/
theorem fpOf_width {t : BitVec 4} (h : fpTag t = true) : (fpOf t).x + (fpOf t).f = tagBits t - 1 ∧ 1 ≤ tagBits t := by
  revert t; decide

/-- The precision of the estimates (R126). -/
theorem estBits_eq {t : BitVec 4} (h : fpTag t = true) : estBits t = if t = 1 then 24 else if t = 2 then 12 else if t = 3 then 11 else 8 := by
  revert t; decide

section
variable {s : State} {d a b : BitVec 4} {β : Type}

/-- A tag that a form accepts (R91). -/
theorem accept_bind {ok : Bool} (h : ok = true) (low : Nat) (k : Unit → Except Stop β) : (accept ok low >>= k) = k () := by
  subst h; rfl

theorem sameTag_bind {r : BitVec 4} (h : s.tag r = s.tag a) (k : Unit → Except Stop β) : (sameTag s r a >>= k) = k () :=
  accept_bind (by simpa using h) ..

/-! ### Bodies that write lanes (R114) -/

theorem Thread.addFlags_zero (t : Thread) : t.addFlags 0 = t := by simp [Thread.addFlags]

theorem finish_putV {tag : BitVec 4} {x : BitVec 128} {fl : Flags} (hp : Plain s 4) :
    finish 4 s (putV s d x tag fl) = onlySelf s 4 fun t => (t.setV d x tag).addFlags fl :=
  finish_self s 4 hp _ rfl rfl rfl rfl

/-- A body that writes lanes under a tag, with the flags of all of them (R86, R114). -/
def putLanes (s : State) (d tag : BitVec 4) (r : Nat → Nat × Flags) : Body :=
  putV s d (lanewise (tagLanes tag) (tagBits tag) r).1 tag (lanewise (tagLanes tag) (tagBits tag) r).2

/-- What such a body writes matters modulo the width of a lane. -/
theorem writesLanes_of_body {g tag : BitVec 4} {i : Instr} {body : Body} {f r : Nat → Nat × Flags} (hp : Plain s 4) (hg : Guard s g)
    (hi : exec i s = guarded g s body) (hbody : body = putLanes s d tag f) (hval : ∀ j, (f j).1 % 2 ^ tagBits tag = (r j).1 % 2 ^ tagBits tag)
    (hfl : ∀ j, (f j).2 = (r j).2) : writesLanes i s d tag (tagLanes tag) (tagBits tag) r := by
  refine ⟨(lanewise (tagLanes tag) (tagBits tag) f).1, fun j hj => ?_, ?_⟩
  · rw [lane_lanewise (tagBits_mul_tagLanes tag).le f hj, hval]
  · rw [hi, guarded_true g s body hg.true, hbody, putLanes, finish_putV hp, lanewise_flags, flagsOf_congr hfl]

/-! ### The floating-point forms (R120 to R122, R125, R126) -/

/-- The value of a lane under a floating-point tag (R79, R90). -/
abbrev State.fpLane (s : State) (t r : BitVec 4) (i : Nat) : FVal := (fpOf t).decode (lane (s.v r) (tagBits t) i)

theorem fpBin_eq (ha : fpTag (s.tag a) = true) (hb : s.tag b = s.tag a) (f : RMode → FVal → FVal → FVal × Flags) :
    fpBin s d a b f = putLanes s d (s.tag a) fun i =>
      rounded (fpOf (s.tag a)) s.self.rm (f s.self.rm (s.fpLane (s.tag a) a i) (s.fpLane (s.tag a) b i)) := by
  rw [fpBin, accept_bind ha, sameTag_bind hb]
  rfl

/-- The number among two, the canonical NaN for two NaNs, and the second where the form prefers it (R121). -/
theorem minMax_eq (k : Fmt) (mx : Bool) (x y : Nat) :
    minMax k mx x y =
      (if (k.decode x).isNan && (k.decode y).isNan then k.nanBits
        else if (k.decode x).isNan || (!(k.decode y).isNan && if mx then (k.decode x).lt (k.decode y) else (k.decode y).lt (k.decode x)) then y
        else x,
       if (k.decode x).isSig || (k.decode y).isSig then fNV else 0) := by
  simp only [minMax, flagIf]
  cases (k.decode x).isNan <;> cases (k.decode y).isNan
  case false.false => cases mx <;> simp
  all_goals simp

theorem fpMinMax_eq (ha : fpTag (s.tag a) = true) (hb : s.tag b = s.tag a) (mx : Bool) :
    fpMinMax s mx d a b = putLanes s d (s.tag a) fun i =>
      minMax (fpOf (s.tag a)) mx (lane (s.v a) (tagBits (s.tag a)) i) (lane (s.v b) (tagBits (s.tag a)) i) := by
  rw [fpMinMax, accept_bind ha, sameTag_bind hb]
  rfl

/-- The product's flags and the sum's (R122). -/
theorem fusedExact_eq (rm : RMode) (negP negC : Bool) (x y c : FVal) :
    fusedExact rm negP negC x y c =
      (let r := (if negP then (x.mul y).1.neg else (x.mul y).1).add rm (if negC then c.neg else c); (r.1, r.2 ||| (x.mul y).2)) :=
  congrArg (Prod.mk _) (BitVec.or_comm ..)

theorem fpFused_eq (ha : fpTag (s.tag a) = true) (hb : s.tag b = s.tag a) (hd : s.tag d = s.tag a) (negP negC : Bool) :
    fpFused s negP negC d a b = putLanes s d (s.tag a) fun i => rounded (fpOf (s.tag a)) s.self.rm
      (fusedExact s.self.rm negP negC (s.fpLane (s.tag a) a i) (s.fpLane (s.tag a) b i) (s.fpLane (s.tag a) d i)) := by
  rw [fpFused, accept_bind ha, sameTag_bind hb, sameTag_bind hd]
  rfl

theorem fpUn_eq (ha : fpTag (s.tag a) = true) (f : Fmt → Nat → Nat × Flags) :
    fpUn s d a f = putLanes s d (s.tag a) fun i => f (fpOf (s.tag a)) (lane (s.v a) (tagBits (s.tag a)) i) := by
  rw [fpUn, accept_bind ha]
  rfl

theorem fpEst_eq (ha : fpTag (s.tag a) = true) (f : FVal → FVal × Flags) :
    fpEst s d a f = putLanes s d (s.tag a) fun i => (fpOf (s.tag a)).estimate (estBits (s.tag a)) (f (s.fpLane (s.tag a) a i)) :=
  fpUn_eq ha _

/-! ### The integer forms (R128, R129) -/

/-- The value of a lane under an integer tag (R87, R90). -/
abbrev State.intLane (s : State) (t r : BitVec 4) (i : Nat) : Int := (tagInt t).decode (lane (s.v r) (tagBits t) i)

theorem IFmt.wrap_eq (k : IFmt) (x : Int) : k.wrap x = (x % 2 ^ k.bits).toNat := by simp [IFmt.wrap]

theorem putLanes_silent (tag : BitVec 4) (v : Nat → Nat) :
    putLanes s d tag (fun i => (v i, 0)) = putV s d (lanewise (tagLanes tag) (tagBits tag) fun i => (v i, 0)).1 tag := by
  rw [putLanes, lanewise_flags, flagsOf_none]

theorem intBin_eq (ha : intTag (s.tag a) = true) (hb : s.tag b = s.tag a) {useD : Bool} (hd : useD = true → s.tag d = s.tag a) (sat : Bool)
    (f : Int → Int → Int → Int) :
    intBin s d a b useD sat f = putLanes s d (s.tag a) fun i =>
      let r := f (s.intLane (s.tag a) a i) (s.intLane (s.tag a) b i) (s.intLane (s.tag a) d i)
      (if sat then (tagInt (s.tag a)).sat r else (tagInt (s.tag a)).wrap r, 0) := by
  rw [putLanes_silent, intBin, accept_bind ha, sameTag_bind hb]
  cases useD with
  | false => rfl
  | true =>
    simp only [if_true]
    exact sameTag_bind (hd rfl) _

theorem vShift_eq (ha : intTag (s.tag a) = true) (hb : s.tag b = s.tag a) (f : IFmt → Nat → Nat → Nat) :
    vShift s d a b f = putLanes s d (s.tag a) fun i =>
      (f (tagInt (s.tag a)) (lane (s.v a) (tagBits (s.tag a)) i) (lane (s.v b) (tagBits (s.tag a)) i % tagBits (s.tag a)), 0) := by
  rw [putLanes_silent, vShift, accept_bind ha, sameTag_bind hb]

end

/-- Settles O34: each form writes its lanes (`fpBin_eq`, `fpMinMax_eq`, `fpFused_eq`, `fpUn_eq`, `fpEst_eq`), which `writesLanes_of_body` puts in the
words of the statement; the sign bit is the top bit of a lane (`fpOf_width`). -/
theorem vectorFloatForms : Obligations.VectorFloatForms := by
  unfold Obligations.VectorFloatForms
  intro s g d a b hp hg ha hb T k w n rm X Y Z fused p pick
  rw [← fpTag_iff] at ha
  have hw {i : Instr} {body : Body} {r : Nat → Nat × Flags} (hi : exec i s = guarded g s body) (hbody : body = putLanes s d T r) :
      writesLanes i s d T n w r := writesLanes_of_body hp hg hi hbody (fun _ => rfl) fun _ => rfl
  have hbin (f : RMode → FVal → FVal → FVal × Flags) := fpBin_eq (d := d) ha hb f
  have hpick (mx : Bool) : fpMinMax s mx d a b = putLanes s d T fun i => pick i (if mx then (X i).lt (Y i) else (Y i).lt (X i)) := by
    rw [fpMinMax_eq ha hb]
    simp only [minMax_eq]
    rfl
  have hest (f : FVal → FVal × Flags) : fpEst s d a f = putLanes s d T fun i => k.estimate p (f (X i)) := by
    rw [fpEst_eq ha, estBits_eq ha]
  have hfused (hd : s.tag d = T) (np nz : Bool) : fpFused s np nz d a b = putLanes s d T (fused np nz) := by
    rw [fpFused_eq ha hb hd]
    simp only [fusedExact_eq]
    rfl
  obtain ⟨hsign, hpos⟩ := fpOf_width ha
  simp only [List.forall_mem_cons, List.not_mem_nil, false_imp_iff, implies_true, and_true]
  refine ⟨⟨hw rfl (hbin _), hw rfl (hbin _), hw rfl (hbin _), hw rfl (hbin _), hw rfl (hpick false), hw rfl (hpick true), ?_, ?_,
    hw rfl (fpUn_eq ha _), hw rfl (hest _), hw rfl (hest _), hw rfl (hest _), hw rfl (hest _)⟩, fun hd => ?_⟩
  · refine writesLanes_of_body hp hg rfl (fpUn_eq ha _) (fun j => ?_) fun _ => rfl
    simp only [hsign]
    rfl
  · refine writesLanes_of_body hp hg rfl (fpUn_eq ha _) (fun j => ?_) fun _ => rfl
    simp only [hsign, Nat.sub_add_cancel hpos]
    exact Nat.mod_mod ..
  · exact ⟨hw rfl (hfused hd ..), hw rfl (hfused hd ..), hw rfl (hfused hd ..), hw rfl (hfused hd ..)⟩

/-- Settles O35: the lanewise forms and the shifts write their lanes (`intBin_eq`, `vShift_eq`), wrapped or saturated (`IFmt.wrap_eq`); the logical
forms write the whole register. -/
theorem vectorIntegerForms : Obligations.VectorIntegerForms := by
  unfold Obligations.VectorIntegerForms
  intro s g d a b hp hg T k w n X Y Z c wrap sat
  refine ⟨fun ha hb => ?_, ?_⟩
  · rw [← intTag_iff] at ha
    have hw {i : Instr} {body : Body} {r : Nat → Nat × Flags} (hi : exec i s = guarded g s body) (hbody : body = putLanes s d T r) :
        writesLanes i s d T n w r := writesLanes_of_body hp hg hi hbody (fun _ => rfl) fun _ => rfl
    have hwrap {useD : Bool} (hd : useD = true → s.tag d = T) (f : Int → Int → Int → Int) :
        intBin s d a b useD false f = putLanes s d T fun i => wrap (f (X i) (Y i) (Z i)) := by
      rw [intBin_eq ha hb hd]
      simp only [IFmt.wrap_eq]
      rfl
    have hsat {useD : Bool} (hd : useD = true → s.tag d = T) (f : Int → Int → Int → Int) :
        intBin s d a b useD true f = putLanes s d T fun i => sat (f (X i) (Y i) (Z i)) := by
      rw [intBin_eq ha hb hd]
      simp only [IFmt.sat, IFmt.wrap_eq]
      rfl
    have hsra : vShift s d a b (fun k x m => k.wrap (k.decode x / (2 ^ m : Nat))) = putLanes s d T fun i => wrap (X i / 2 ^ c i) := by
      rw [vShift_eq ha hb]
      simp only [IFmt.wrap_eq, Nat.cast_pow]
      rfl
    have hno : false = true → s.tag d = T := nofun
    simp only [List.forall_mem_cons, List.not_mem_nil, false_imp_iff, implies_true, and_true]
    exact ⟨⟨hw rfl (hwrap hno _), hw rfl (hwrap hno _), hw rfl (hwrap hno _), hw rfl (hsat hno _), hw rfl (hsat hno _), hw rfl (hsat hno _),
      hw rfl (vShift_eq ha hb _), hw rfl (vShift_eq ha hb _), hw rfl hsra⟩,
      fun hd => ⟨hw rfl (hwrap (fun _ => hd) _), hw rfl (hsat (fun _ => hd) _)⟩⟩
  · have hlogic {i : Instr} {x : BitVec 128} (hi : exec i s = guarded g s (putV s d x T)) : exec i s = onlySelf s 4 fun t => t.setV d x T := by
      rw [hi, guarded_true g s _ hg.true, finish_putV hp]
      simp only [Thread.addFlags_zero]
    simp only [List.forall_mem_cons, List.not_mem_nil, false_imp_iff, implies_true, and_true]
    exact ⟨hlogic rfl, hlogic rfl, hlogic rfl⟩

end Sys2Proof.Machine
end

section
/-!
PROOFS. Operands with a wrong tag (O39).
-/

namespace Sys2Proof.Machine

open Claims

section
variable {s : State} {d a b : BitVec 4} {β : Type}

/-! ### The checks that refuse (R91, R119) -/

/-- The body, or a part of one, raises BADTAG with the value `low` (R91). -/
def Refuses (body : Except Stop β) (low : Nat) : Prop := body = trap cBADTAG (BitVec.ofNat 64 low)

theorem Refuses.accept {ok : Bool} {low : Nat} (h : ok = false) (k : Unit → Except Stop β) : Refuses (accept ok low >>= k) low := by
  subst h; rfl

theorem Refuses.after_accept {ok : Bool} {low n : Nat} {k : Unit → Except Stop β} (h : ok = true) (hk : Refuses (k ()) n) :
    Refuses (Machine.accept ok low >>= k) n :=
  (accept_bind h low k).trans hk

theorem Refuses.sameTag {r : BitVec 4} (h : s.tag r ≠ s.tag a) (k : Unit → Except Stop β) : Refuses (sameTag s r a >>= k) (s.tag a).toNat :=
  Refuses.accept (by simpa using h) k

theorem Refuses.after_sameTag {r : BitVec 4} {n : Nat} {k : Unit → Except Stop β} (h : s.tag r = s.tag a) (hk : Refuses (k ()) n) :
    Refuses (Machine.sameTag s r a >>= k) n :=
  (sameTag_bind h k).trans hk

/-- A register of a group with a tag of its own refuses the group (R132). -/
theorem Refuses.group {l : List (BitVec 4)} (h : ∃ r ∈ l, s.tag r ≠ s.tag a) (k : List Unit → Except Stop β) :
    Refuses (l.mapM (fun r => Machine.sameTag s r a) >>= k) (s.tag a).toNat := by
  induction l generalizing k with
  | nil => simp at h
  | cons r rs ih =>
    rw [List.mapM_cons, bind_assoc]
    by_cases hr : s.tag r = s.tag a
    · refine .after_sameTag hr ?_
      rw [bind_assoc]
      exact ih (by simpa [hr] using h) _
    · exact .sameTag hr _

/-- An instruction whose body refuses a tag traps, and has no effect (R91, R370). -/
theorem Refuses.traps {g : BitVec 4} {i : Instr} {body : Body} {low : Nat} (hg : Guard s g) (hi : exec i s = guarded g s body)
    (hbody : Refuses body low) : exec i s = traps s 16 (BitVec.ofNat 64 low) := by
  rw [hi, guarded_true g s body hg.true, hbody, finish_trap]
  rfl

/-! ### Forms with checks of their own -/

theorem neither_tag {t c e : BitVec 4} (hc : t ≠ c) (he : t ≠ e) : (t == c || t == e) = false := by
  rw [beq_eq_false_iff_ne.2 hc, beq_eq_false_iff_ne.2 he]; rfl

/-- A widening conversion keeps the other lanes of its destination, which so needs the tag or none (R131). -/
theorem Refuses.vcvtBody {tag : BitVec 4} {sat : Bool} {k : BitVec 3} (ha : s.tag a ≠ 0) (hn : tagLanes (s.tag a) < tagLanes tag)
    (hd : s.tag d ≠ tag) (hd0 : s.tag d ≠ 0) : Refuses (vcvtBody s d a tag sat k) 0 := by
  refine .after_accept (bne_iff_ne.2 ha) ?_
  simp only [hn, if_true]
  exact .accept (neither_tag hd hd0) _

/-- The tags that VDOT accepts (R134). -/
def dotTag (t : BitVec 4) : Bool := t.toNat == 3 || t.toNat == 4 || t.toNat == 5 || t.toNat == 6 || t.toNat == 10 || t.toNat == 11

theorem dotTag_iff {t : BitVec 4} : dotTag t = true ↔ (t = 3 ∨ t = 4) ∨ (t = 5 ∨ t = 6) ∨ t = 10 ∨ t = 11 := by revert t; decide

theorem toNat_of_half {t : BitVec 4} (h : t = 3 ∨ t = 4) : t.toNat ≤ 4 := by revert t; decide
theorem toNat_of_eight {t : BitVec 4} (h : t = 5 ∨ t = 6) : ¬ t.toNat ≤ 4 ∧ t.toNat ≤ 6 := by revert t; decide
theorem toNat_of_bytes {t : BitVec 4} (h : t = 10 ∨ t = 11) : ¬ t.toNat ≤ 4 ∧ ¬ t.toNat ≤ 6 := by revert t; decide

theorem Refuses.of_then {c : Prop} [Decidable c] {x y : Except Stop β} {n : Nat} (h : c) (hx : Refuses x n) : Refuses (if c then x else y) n := by
  rwa [if_pos h]

theorem Refuses.of_else {c : Prop} [Decidable c] {x y : Except Stop β} {n : Nat} (h : ¬ c) (hy : Refuses y n) : Refuses (if c then x else y) n := by
  rwa [if_neg h]

/-- The sums are binary32 or I32, which vd holds already (R134). -/
theorem Refuses.vdotBody_d {acc : BitVec 4} (hacc : (if (s.tag a).toNat ≤ 6 then 2 else 8) = acc) (hd : s.tag d ≠ acc)
    (hab : ((s.tag a = 3 ∨ s.tag a = 4) ∧ s.tag b = s.tag a) ∨ ((s.tag a = 5 ∨ s.tag a = 6) ∧ (s.tag b = 5 ∨ s.tag b = 6)) ∨
      ((s.tag a = 10 ∨ s.tag a = 11) ∧ (s.tag b = 10 ∨ s.tag b = 11))) : Refuses (vdotBody s d a b) acc.toNat := by
  subst hacc
  have hlast : (s.tag d == if (s.tag a).toNat ≤ 6 then 2 else 8) = false := beq_eq_false_iff_ne.2 hd
  refine .after_accept (dotTag_iff.2 (hab.imp And.left (Or.imp And.left And.left))) ?_
  rcases hab with ⟨ha, hb⟩ | ⟨ha, hb⟩ | ⟨ha, hb⟩
  · exact .of_then (toNat_of_half ha) (.after_sameTag hb (.accept hlast _))
  · obtain ⟨h4, h6⟩ := toNat_of_eight ha
    exact .of_else h4 (.of_then h6 (.after_accept (by simpa using hb) (.accept hlast _)))
  · obtain ⟨h4, h6⟩ := toNat_of_bytes ha
    exact .of_else h4 (.of_else h6 (.after_accept (by simpa using hb) (.accept hlast _)))

/-- The tags that VQNT accepts (R132). -/
theorem qntTag_iff {t : BitVec 4} : (decide (2 ≤ t.toNat) && decide (t.toNat ≤ 4)) = true ↔ t ∈ [2#4, 3#4, 4#4] := by revert t; decide

/-- The registers of a group of VQNT: as many as its elements fill (R132). -/
theorem groupRegs_count (c : Nat) (t : BitVec 4) : c * tagBits t / 128 = c / tagLanes t := by
  have hpos : 0 < tagBits t := Nat.pos_of_mul_pos_right (by rw [tagBits_mul_tagLanes]; decide)
  rw [← tagBits_mul_tagLanes t, Nat.mul_comm c, Nat.mul_div_mul_left _ _ hpos]

theorem isMxCode_add (f : BitVec 4) : isMxCode (12 + f.toNat) = decide (f.toNat ≤ 5) := by revert f; decide

theorem Refuses.vqntBody_group {x y : BitVec 5} {h : BitVec 1} {f : BitVec 4} {r0 : BitVec 4} (hr0 : BitVec.ofNat 4 (8 * h.toNat) = r0)
    (hq : s.tag r0 ∈ [2#4, 3#4, 4#4])
    (hj : ∃ j < (if f.toNat ≤ 5 then 32 else 16) / tagLanes (s.tag r0), s.tag (r0 + BitVec.ofNat 4 j) ≠ s.tag r0) :
    Refuses (vqntBody s x h y f) (s.tag r0).toNat := by
  subst hr0
  refine .after_accept (qntTag_iff.2 hq) (.group ?_ _)
  obtain ⟨j, hlt, hne⟩ := hj
  refine ⟨_, List.mem_map.2 ⟨j, List.mem_range.2 ?_, rfl⟩, ?_⟩
  · simpa only [isMxCode_add, decide_eq_true_eq, groupRegs_count] using hlt
  · rwa [BitVec.ofNat_add, BitVec.ofNat_toNat, BitVec.setWidth_eq]

end

/-- Settles O39: each body checks its tags in turn, and the first that it does not accept ends it (`Refuses`). -/
theorem vectorTagsAreChecked : Obligations.VectorTagsAreChecked := by
  unfold Obligations.VectorTagsAreChecked
  intro s g d a b hg T fp int bad
  have hbad {i : Instr} {body : Body} {low : Nat} (hi : exec i s = guarded g s body) (hbody : Refuses body low) : bad i low := hbody.traps hg hi
  simp only [List.forall_mem_cons, List.not_mem_nil, false_imp_iff, implies_true, and_true]
  have hfp : ¬ fp → fpTag T = false := fun h => Bool.eq_false_iff.2 fun h' => h (fpTag_iff.1 h')
  have hint : ¬ int → intTag T = false := fun h => Bool.eq_false_iff.2 fun h' => h (intTag_iff.1 h')
  refine ⟨fun ha => ?_, fun ha hb => ?_, fun ha hb hd => ?_, fun ha => ?_, fun ha hb => ?_, fun ha hb hd => ?_, fun r cc => ?_,
    fun tag sat k => ?_, ⟨fun hh he hb => ?_, fun ha hb => ?_, fun ha hn5 hn6 => ?_, fun ha hn10 hn11 => ?_, fun ha hd => ?_, fun ha hb hd => ?_⟩,
    fun x y h f => ?_, fun r idx => ?_, fun ha ha' => ?_⟩
  · have ha := hfp ha
    and_intros <;> exact hbad rfl (.accept ha _)
  · have ha := fpTag_iff.2 ha
    and_intros <;> exact hbad rfl (.after_accept ha (.sameTag hb _))
  · have ha := fpTag_iff.2 ha
    and_intros <;> exact hbad rfl (.after_accept ha (.after_sameTag hb (.sameTag hd _)))
  · have ha := hint ha
    and_intros <;> exact hbad rfl (.accept ha _)
  · have ha := intTag_iff.2 ha
    and_intros <;> exact hbad rfl (.after_accept ha (.sameTag hb _))
  · have ha := intTag_iff.2 ha
    and_intros <;> exact hbad rfl (.after_accept ha (.after_sameTag hb (.sameTag hd _)))
  · exact ⟨fun ha => hbad rfl (.accept (bne_eq_false_iff_eq.2 ha) _), fun ha hb => hbad rfl (.after_accept (bne_iff_ne.2 ha) (.sameTag hb _))⟩
  · exact ⟨fun ha => hbad rfl (.accept (bne_eq_false_iff_eq.2 ha) _), fun ha hn hd hd0 => hbad rfl (.vcvtBody ha hn hd hd0)⟩
  · exact hbad rfl (.accept (Bool.eq_false_iff.2 fun h => (dotTag_iff.1 h).elim hh (Or.elim · he hb)) _)
  · exact hbad rfl (.after_accept (dotTag_iff.2 (.inl ha)) (.of_then (toNat_of_half ha) (.sameTag hb _)))
  · obtain ⟨h4, h6⟩ := toNat_of_eight ha
    exact hbad rfl (.after_accept (dotTag_iff.2 (.inr (.inl ha))) (.of_else h4 (.of_then h6 (.accept (neither_tag hn5 hn6) _))))
  · obtain ⟨h4, h6⟩ := toNat_of_bytes ha
    exact hbad rfl (.after_accept (dotTag_iff.2 (.inr (.inr ha))) (.of_else h4 (.of_else h6 (.accept (neither_tag hn10 hn11) _))))
  · have h6 : T.toNat ≤ 6 := ha.elim (fun h => (toNat_of_half h.1).trans (by decide)) fun h => (toNat_of_eight h.1).2
    exact hbad rfl (.vdotBody_d (acc := 2) (if_pos h6) hd (ha.imp_right .inl))
  · exact hbad rfl (.vdotBody_d (acc := 8) (if_neg (toNat_of_bytes ha).2) hd (.inr (.inr ⟨ha, hb⟩)))
  · exact ⟨fun hq => hbad rfl (.accept (Bool.eq_false_iff.2 fun h => hq (qntTag_iff.1 h)) _), fun hq hj _ => hbad rfl (.vqntBody_group rfl hq hj)⟩
  · exact ⟨fun hd => hbad rfl (.sameTag hd _), fun ha => hbad rfl (.accept (bne_eq_false_iff_eq.2 ha) _),
      fun hd => hbad rfl (.accept (bne_eq_false_iff_eq.2 hd) _)⟩
  · have ha : (fpTag T || intTag T) = false := by rw [hfp ha, hint ha']; rfl
    exact ⟨hbad rfl (.accept ha _), hbad rfl (.accept ha _)⟩

end Sys2Proof.Machine
end

section
/-!
PROOFS. Exact sums and products, the codes of a format, and rounding (O31, O32).
-/

namespace Sys2Proof.Machine

open Claims

/-! ### Exact values as rational numbers (R79, R81) -/

/-- The sign of a value as a factor (R79). -/
def signOf (neg : Bool) : ℚ := if neg then -1 else 1

@[simp] theorem signOf_true : signOf true = -1 := rfl
@[simp] theorem signOf_false : signOf false = 1 := rfl

theorem numberOf_fin (neg : Bool) (m : Nat) (e : Int) : numberOf (.fin neg m e) = some (signOf neg * m * (2 : ℚ) ^ e) := rfl

theorem signOf_bne (a b : Bool) : signOf (a != b) = signOf a * signOf b := by cases a <;> cases b <;> simp

/-- An integer is its sign times its magnitude. -/
theorem signOf_mul_natAbs (z : Int) : signOf (decide (z < 0)) * z.natAbs = (z : ℚ) := by
  rw [Nat.cast_natAbs]
  by_cases h : z < 0
  · simp [h, abs_of_neg h]
  · simp [h, abs_of_nonneg (not_lt.1 h)]

theorem two_zpow_toNat {e t : Int} (h : t ≤ e) : (2 : ℚ) ^ (e - t).toNat * 2 ^ t = 2 ^ e := by
  rw [← zpow_natCast, Int.toNat_of_nonneg (by omega), ← zpow_add₀ (by norm_num), Int.sub_add_cancel]

/-- A value as a multiple of a smaller power of two. -/
theorem scaled_mul_zpow (neg : Bool) (m : Nat) {e t : Int} (h : t ≤ e) : (scaled neg m e t : ℚ) * 2 ^ t = signOf neg * m * 2 ^ e := by
  have hs : (scaled neg m e t : ℚ) = signOf neg * m * 2 ^ (e - t).toNat := by
    cases neg <;> simp [scaled]
  rw [hs, mul_assoc, two_zpow_toNat h]

theorem sum_eq_scaled (a b : Bool) (m n : Nat) (e f : Int) :
    signOf a * m * (2 : ℚ) ^ e + signOf b * n * 2 ^ f = ((scaled a m e (min e f) + scaled b n f (min e f) : Int) : ℚ) * 2 ^ min e f := by
  rw [Int.cast_add, add_mul, scaled_mul_zpow a m (min_le_left e f), scaled_mul_zpow b n (min_le_right e f)]

/-- The sum of two finite values is exact, raises nothing, and has the sign of R81 where it is zero. -/
theorem FVal.add_fin (mode : RMode) (a b : Bool) (m n : Nat) (e f : Int) :
    ∃ c k g, (FVal.fin a m e).add mode (.fin b n f) = (.fin c k g, 0) ∧ signOf a * m * 2 ^ e + signOf b * n * 2 ^ f = signOf c * k * (2 : ℚ) ^ g ∧
      (k = 0 → c = if m = 0 ∧ n = 0 ∧ a = b then a else decide (mode = .rdn)) := by
  rw [sum_eq_scaled]
  simp only [FVal.add]
  generalize scaled a m e (min e f) + scaled b n f (min e f) = z
  by_cases hz : z = 0
  · subst hz
    by_cases hs : m = 0 ∧ n = 0 ∧ a = b
    · obtain ⟨rfl, rfl, rfl⟩ := hs
      exact ⟨a, 0, 0, by simp⟩
    · refine ⟨mode == .rdn, 0, 0, ?_, by simp, fun _ => by rw [if_neg hs]; rfl⟩
      rw [if_pos rfl, if_neg (by simpa [and_assoc] using hs)]
  · refine ⟨decide (z < 0), z.natAbs, min e f, by rw [if_neg hz], ?_, fun h => absurd (Int.natAbs_eq_zero.1 h) hz⟩
    rw [signOf_mul_natAbs]

theorem FVal.mul_fin (a b : Bool) (m n : Nat) (e f : Int) :
    (FVal.fin a m e).mul (.fin b n f) = (.fin (a != b) (m * n) (e + f), 0) ∧
      signOf a * m * 2 ^ e * (signOf b * n * 2 ^ f) = signOf (a != b) * (m * n : Nat) * (2 : ℚ) ^ (e + f) := by
  refine ⟨rfl, ?_⟩
  rw [signOf_bne, zpow_add₀ (by norm_num), Nat.cast_mul]
  ring

/-! ### The codes of a format (R78, R79) -/

/-- The significand of a magnitude code. -/
def Fmt.sig (k : Fmt) (c : Nat) : Nat := if c / 2 ^ k.f = 0 then c else 2 ^ k.f + c % 2 ^ k.f

/-- The exponent of its last bit, counted from that of the smallest subnormal. -/
def Fmt.steps (k : Fmt) (c : Nat) : Nat := c / 2 ^ k.f - 1

/-- A format has exponents and fractions (R78). -/
structure Fmt.Proper (k : Fmt) : Prop where
  x_pos : 1 ≤ k.x
  f_pos : 1 ≤ k.f

/-- Every element format of R78 does. -/
theorem proper_of_mem : ∀ k ∈ [fmtF64, fmtF32, fmtF16, fmtBF16, fmtE4M3, fmtE5M2, fmtE2M3, fmtE3M2, fmtE2M1], k.Proper := by
  simp only [List.forall_mem_cons, List.not_mem_nil, false_imp_iff, implies_true, and_true]
  refine ⟨?_, ?_, ?_, ?_, ?_, ?_, ?_, ?_, ?_⟩ <;> exact ⟨by decide, by decide⟩

section
variable {k : Fmt} {c : Nat}

/-- The fields of an encoding (R78). -/
theorem Fmt.signed_fields (neg : Bool) (hc : c < 2 ^ (k.x + k.f)) :
    k.signed neg c / 2 ^ (k.x + k.f) % 2 = neg.toNat ∧ k.signed neg c / 2 ^ k.f % 2 ^ k.x = c / 2 ^ k.f ∧ k.signed neg c % 2 ^ k.f = c % 2 ^ k.f := by
  have hs : k.signed neg c = c + 2 ^ (k.x + k.f) * neg.toNat := by cases neg <;> simp [signed, Nat.add_comm]
  have hf : k.signed neg c = c + 2 ^ k.f * (2 ^ k.x * neg.toNat) := by rw [hs, Nat.add_comm k.x, Nat.pow_add, Nat.mul_assoc]
  have hx : c / 2 ^ k.f < 2 ^ k.x := Nat.div_lt_of_lt_mul (by rwa [← Nat.pow_add, Nat.add_comm])
  refine ⟨?_, ?_, ?_⟩
  · rw [hs, Nat.add_mul_div_left _ _ (Nat.two_pow_pos _), Nat.div_eq_of_lt hc, Nat.zero_add]
    exact Nat.mod_eq_of_lt neg.toNat_lt
  · rw [hf, Nat.add_mul_div_left _ _ (Nat.two_pow_pos _), Nat.add_mul_mod_self_left, Nat.mod_eq_of_lt hx]
  · rw [hf, Nat.add_mul_mod_self_left]

/-- The finite codes: those without the exponent of an infinity, or, where a format has NaNs only, those below the NaN (R78, R79). -/
theorem Fmt.le_maxCode_iff (hk : k.Proper) (hc : c < 2 ^ (k.x + k.f)) :
    c ≤ k.maxCode ↔ (k.hasInf = true → c / 2 ^ k.f ≠ 2 ^ k.x - 1) ∧
      (k.hasInf = false → k.hasNan = true → ¬ (c / 2 ^ k.f = 2 ^ k.x - 1 ∧ c % 2 ^ k.f = 2 ^ k.f - 1)) := by
  have hx : 2 ≤ 2 ^ k.x := Nat.pow_le_pow_right (by decide : 0 < 2) hk.x_pos
  have hf : 0 < 2 ^ k.f := Nat.two_pow_pos _
  have hlt : c / 2 ^ k.f < 2 ^ k.x := Nat.div_lt_of_lt_mul (by rwa [← Nat.pow_add, Nat.add_comm])
  have hpow : 2 ^ (k.x + k.f) = (2 ^ k.x - 1) * 2 ^ k.f + 2 ^ k.f := by rw [← Nat.succ_mul, Nat.pow_add]; congr 1; omega
  have hbelow : c < (2 ^ k.x - 1) * 2 ^ k.f ↔ c / 2 ^ k.f < 2 ^ k.x - 1 := (Nat.div_lt_iff_lt_mul hf).symm
  have hone : 0 < (2 ^ k.x - 1) * 2 ^ k.f := Nat.mul_pos (by omega) hf
  have hlast : (c / 2 ^ k.f = 2 ^ k.x - 1 ∧ c % 2 ^ k.f = 2 ^ k.f - 1) ↔ c = 2 ^ (k.x + k.f) - 1 := by
    rw [Nat.div_mod_unique hf, Nat.mul_comm]
    omega
  rw [hlast, maxCode]
  cases k.hasInf <;> cases k.hasNan <;> simp <;> omega

theorem Fmt.maxCode_lt (hk : k.Proper) : k.maxCode < 2 ^ (k.x + k.f) := by
  have hpos : 0 < 2 ^ (k.x + k.f) := Nat.two_pow_pos _
  have hle : (2 ^ k.x - 1) * 2 ^ k.f ≤ 2 ^ (k.x + k.f) := by rw [Nat.pow_add]; exact Nat.mul_le_mul_right _ (Nat.sub_le ..)
  rw [maxCode]
  split
  · have hone : 0 < (2 ^ k.x - 1) * 2 ^ k.f := Nat.mul_pos (by have := Nat.pow_le_pow_right (by decide : 0 < 2) hk.x_pos; omega) (Nat.two_pow_pos _)
    omega
  · split <;> omega

/-- An encoding is a sign and a magnitude code. -/
theorem Fmt.exists_signed {b : Nat} (hb : b < 2 ^ k.bits) : ∃ neg, ∃ c < 2 ^ (k.x + k.f), b = k.signed neg c := by
  have hbits : 2 ^ k.bits = 2 * 2 ^ (k.x + k.f) := by rw [bits, Nat.add_assoc, Nat.pow_add]
  by_cases h : b < 2 ^ (k.x + k.f)
  · exact ⟨false, b, h, by simp [signed]⟩
  · exact ⟨true, b - 2 ^ (k.x + k.f), by omega, by simp [signed]; omega⟩

/-- What an encoding stands for (R79). -/
theorem Fmt.decode_signed (hk : k.Proper) (neg : Bool) (hc : c ≤ k.maxCode) : k.decode (k.signed neg c) = .fin neg (k.sig c) (k.lsb + k.steps c) := by
  have hlt := hc.trans_lt (maxCode_lt hk)
  obtain ⟨hs, he, hf⟩ := signed_fields neg hlt
  obtain ⟨hinf, hnan⟩ := (le_maxCode_iff hk hlt).1 hc
  rw [decode, hs, he, hf, if_neg (by simpa using hinf), if_neg (by simpa [and_assoc, and_comm, and_left_comm] using hnan)]
  have hneg : (neg.toNat == 1) = neg := by cases neg <;> rfl
  rw [sig, steps, hneg]
  by_cases hzero : c / 2 ^ k.f = 0
  · have hsub : c % 2 ^ k.f = c := Nat.mod_eq_of_lt ((Nat.div_eq_zero_iff_lt (Nat.two_pow_pos _)).1 hzero)
    simp [hzero, hsub]
  · simp [hzero]

/-- The codes above the largest finite one are no numbers (R78, R79). -/
theorem Fmt.le_maxCode_of_isSome (hk : k.Proper) (neg : Bool) (hc : c < 2 ^ (k.x + k.f)) (h : (numberOf (k.decode (k.signed neg c))).isSome) : c ≤ k.maxCode := by
  obtain ⟨hs, he, hf⟩ := signed_fields neg hc
  rw [le_maxCode_iff hk hc]
  rw [decode, hs, he, hf] at h
  refine ⟨fun hi hx => ?_, fun hi hn hx => ?_⟩
  · simp only [hi, hx, beq_self_eq_true, Bool.and_self, if_true] at h
    split at h <;> exact absurd h (by simp [numberOf])
  · simp [hi, hn, hx, numberOf] at h

/-! ### Codes in their order (R79) -/

/-- The magnitude of a code in units of the smallest subnormal. -/
def Fmt.size (k : Fmt) (c : Nat) : Nat := k.sig c * 2 ^ k.steps c

theorem Fmt.sig_lt : k.sig c < 2 ^ (k.f + 1) := by
  have hmod : c % 2 ^ k.f < 2 ^ k.f := Nat.mod_lt _ (Nat.two_pow_pos _)
  rw [sig, Nat.pow_succ]
  split
  case isTrue h => have := (Nat.div_eq_zero_iff_lt (Nat.two_pow_pos _)).1 h; omega
  case isFalse => omega

/-- A code is its significand after its steps (R79). -/
theorem Fmt.steps_mul_add_sig (c : Nat) : k.steps c * 2 ^ k.f + k.sig c = c := by
  rw [steps, sig]
  split
  case isTrue h => simp [h]
  case isFalse h =>
    rw [← Nat.add_assoc, ← Nat.succ_mul, Nat.succ_eq_add_one, Nat.sub_add_cancel (Nat.pos_of_ne_zero h), Nat.div_add_mod']

/-- A significand is of full precision, or its code is of a subnormal or of the least exponent. -/
theorem Fmt.full_precision (c : Nat) : k.steps c = 0 ∨ 2 ^ k.f ≤ k.sig c := by
  rw [steps, sig]
  split
  case isTrue h => simp [h]
  case isFalse => exact .inr (Nat.le_add_right ..)

theorem Fmt.size_cast (neg : Bool) : signOf neg * k.sig c * (2 : ℚ) ^ (k.lsb + k.steps c) = signOf neg * (k.size c * 2 ^ k.lsb) := by
  rw [size, zpow_add₀ (by norm_num), zpow_natCast, Nat.cast_mul, Nat.cast_pow, Nat.cast_ofNat]
  ring

theorem numberOf_signed (hk : k.Proper) (neg : Bool) (hc : c ≤ k.maxCode) :
    numberOf (k.decode (k.signed neg c)) = some (signOf neg * (k.size c * 2 ^ k.lsb)) := by
  rw [k.decode_signed hk neg hc, numberOf_fin, Fmt.size_cast]

/-- The code of a multiple of 2^d, of full precision or of a subnormal; the first multiple beyond full precision belongs to the next exponent. -/
theorem Fmt.size_of_multiple {d n : Nat} (hd : d = 0 ∨ 2 ^ k.f ≤ n) (hn : n ≤ 2 ^ (k.f + 1)) : k.size (d * 2 ^ k.f + n) = n * 2 ^ d := by
  have hpos : 0 < 2 ^ k.f := Nat.two_pow_pos _
  have hfields {q r : Nat} (h : d * 2 ^ k.f + n = r + 2 ^ k.f * (q + 1)) (hr : r < 2 ^ k.f) : k.size (d * 2 ^ k.f + n) = (2 ^ k.f + r) * 2 ^ q := by
    obtain ⟨hq, hr⟩ := (Nat.div_mod_unique hpos).2 ⟨h.symm, hr⟩
    rw [size, sig, steps, hq, hr, if_neg (Nat.succ_ne_zero q), Nat.add_sub_cancel]
  rw [Nat.pow_succ] at hn
  rcases lt_or_ge n (2 ^ k.f) with hlt | hge
  · obtain rfl : d = 0 := hd.resolve_right (not_le.2 hlt)
    have hq : n / 2 ^ k.f = 0 := Nat.div_eq_of_lt hlt
    simp [size, sig, steps, hq]
  · obtain ⟨r, rfl⟩ := Nat.exists_eq_add_of_le hge
    rcases lt_or_ge r (2 ^ k.f) with hr | hr
    · exact hfields (by ring) hr
    · obtain rfl : r = 2 ^ k.f := by omega
      rw [hfields (q := d + 1) (r := 0) (by ring) hpos]
      ring

/-- No code lies between two neighbouring multiples of 2^d. -/
theorem Fmt.size_gap {d n : Nat} (hd : d = 0 ∨ 2 ^ k.f ≤ n) (c : Nat) : k.size c ≤ n * 2 ^ d ∨ (n + 1) * 2 ^ d ≤ k.size c := by
  rcases le_or_gt d (k.steps c) with h | h
  · obtain ⟨j, hj⟩ := Nat.exists_eq_add_of_le h
    have hsize : k.size c = k.sig c * 2 ^ j * 2 ^ d := by rw [size, hj, Nat.pow_add]; ring
    rw [hsize]
    exact (le_or_gt (k.sig c * 2 ^ j) n).imp (Nat.mul_le_mul_right _) (Nat.mul_le_mul_right _)
  · have hn : 2 ^ k.f ≤ n := hd.resolve_left (by omega)
    left
    calc k.size c ≤ 2 ^ (k.f + 1) * 2 ^ k.steps c := Nat.mul_le_mul_right _ sig_lt.le
      _ = 2 ^ k.f * 2 ^ (k.steps c + 1) := by ring
      _ ≤ n * 2 ^ d := Nat.mul_le_mul hn (Nat.pow_le_pow_right (by decide) h)

end

/-! ### Rounding to a multiple of a power of two (R82) -/

/-- `x`, between `n` and `n` + 1 times `u`, goes to the upper one. -/
def RMode.up (mode : RMode) (neg : Bool) (x u : ℚ) (n : Nat) : Prop :=
  match mode with
  | .rne => (n + 1) * u - x < x - n * u ∨ ((n + 1) * u - x = x - n * u ∧ n % 2 = 1)
  | .rna => (n + 1) * u - x ≤ x - n * u
  | .rtz => False
  | .rdn => neg = true
  | .rup => neg = false

/-- The magnitude `x` rounded to `r` times `u`, `n` times `u` being the multiple at or below it. -/
inductive Rounds (mode : RMode) (neg : Bool) (x u : ℚ) (n : Nat) : Nat → Prop
  | exact : x = n * u → Rounds mode neg x u n n
  | down : n * u < x → x < (n + 1) * u → ¬ mode.up neg x u n → Rounds mode neg x u n n
  | up : n * u < x → x < (n + 1) * u → mode.up neg x u n → Rounds mode neg x u n (n + 1)

theorem RMode.up_mul {mode : RMode} {neg : Bool} {x u v : ℚ} {n : Nat} (hv : 0 < v) : mode.up neg (x * v) (u * v) n ↔ mode.up neg x u n := by
  have hhi : (n + 1) * (u * v) - x * v = ((n + 1) * u - x) * v := by ring
  have hlo : x * v - n * (u * v) = (x - n * u) * v := by ring
  cases mode <;> simp only [RMode.up, hhi, hlo, mul_lt_mul_iff_left₀ hv, mul_le_mul_iff_left₀ hv, mul_left_inj' hv.ne']

section
variable {mode : RMode} {neg : Bool} {x u v : ℚ} {n r : Nat}

theorem Rounds.mul (h : Rounds mode neg x u n r) (hv : 0 < v) : Rounds mode neg (x * v) (u * v) n r := by
  cases h with
  | exact h => exact .exact (by rw [h, mul_assoc])
  | down h1 h2 hup => exact .down (by rw [← mul_assoc]; gcongr) (by rw [← mul_assoc]; gcongr) (mt (RMode.up_mul hv).1 hup)
  | up h1 h2 hup => exact .up (by rw [← mul_assoc]; gcongr) (by rw [← mul_assoc]; gcongr) ((RMode.up_mul hv).2 hup)

theorem Rounds.lower_le (h : Rounds mode neg x u n r) : n * u ≤ x := by
  cases h with
  | exact h => exact h.ge
  | down h => exact h.le
  | up h => exact h.le

theorem Rounds.lt_upper (h : Rounds mode neg x u n r) (hu : 0 < u) : x < (n + 1) * u := by
  cases h with
  | exact h => rw [h]; linarith
  | down _ h => exact h
  | up _ h => exact h

theorem Rounds.le_succ (h : Rounds mode neg x u n r) : r ≤ n + 1 := by cases h <;> omega

/-- An inexact quotient goes up as R82 says of the fraction. -/
theorem roundMag_inexact (mode : RMode) (neg : Bool) {m j : Nat} (hr : m % 2 ^ j ≠ 0) :
    (mode.up neg m (2 ^ j) (m / 2 ^ j) ∧ roundMag mode neg m j = m / 2 ^ j + 1) ∨
      (¬ mode.up neg m (2 ^ j) (m / 2 ^ j) ∧ roundMag mode neg m j = m / 2 ^ j) := by
  have hdiv : ((m / 2 ^ j : Nat) : ℚ) * 2 ^ j + (m % 2 ^ j : Nat) = m := by exact_mod_cast Nat.div_add_mod' m (2 ^ j)
  have hlo : (m : ℚ) - (m / 2 ^ j : Nat) * 2 ^ j = (m % 2 ^ j : Nat) := by linarith
  have hhi : ((m / 2 ^ j : Nat) + 1) * (2 : ℚ) ^ j - m = 2 ^ j - (m % 2 ^ j : Nat) := by linarith
  have hlt : (2 : ℚ) ^ j - (m % 2 ^ j : Nat) < (m % 2 ^ j : Nat) ↔ 2 ^ j < 2 * (m % 2 ^ j) := by
    rw [sub_lt_iff_lt_add, ← two_mul]; exact_mod_cast Iff.rfl
  have hle : (2 : ℚ) ^ j - (m % 2 ^ j : Nat) ≤ (m % 2 ^ j : Nat) ↔ 2 ^ j ≤ 2 * (m % 2 ^ j) := by
    rw [sub_le_iff_le_add, ← two_mul]; exact_mod_cast Iff.rfl
  have heq : (2 : ℚ) ^ j - (m % 2 ^ j : Nat) = (m % 2 ^ j : Nat) ↔ 2 ^ j = 2 * (m % 2 ^ j) := by
    rw [sub_eq_iff_eq_add, ← two_mul]; exact_mod_cast Iff.rfl
  cases mode with
  | rne =>
    simp only [RMode.up, roundMag, hlo, hhi, hlt, heq, if_neg hr, Bool.or_eq_true, Bool.and_eq_true, decide_eq_true_eq, beq_iff_eq]
    split <;> simp [*]
  | rna =>
    simp only [RMode.up, roundMag, hlo, hhi, hle, if_neg hr, decide_eq_true_eq]
    split <;> simp [*]
  | rtz => simp [RMode.up, roundMag, hr]
  | rdn => cases neg <;> simp [RMode.up, roundMag, hr]
  | rup => cases neg <;> simp [RMode.up, roundMag, hr]

/-- The quotient rounded (R82). -/
theorem roundMag_rounds (mode : RMode) (neg : Bool) (m j : Nat) : Rounds mode neg m (2 ^ j) (m / 2 ^ j) (roundMag mode neg m j) := by
  have hdiv : ((m / 2 ^ j : Nat) : ℚ) * 2 ^ j + (m % 2 ^ j : Nat) = m := by exact_mod_cast Nat.div_add_mod' m (2 ^ j)
  by_cases hr : m % 2 ^ j = 0
  · have hq : roundMag mode neg m j = m / 2 ^ j := if_pos hr
    rw [hq]
    exact .exact (by rw [← hdiv, hr, Nat.cast_zero, add_zero])
  · have hpos : (0 : ℚ) < (m % 2 ^ j : Nat) := by exact_mod_cast Nat.pos_of_ne_zero hr
    have hlt : ((m % 2 ^ j : Nat) : ℚ) < 2 ^ j := by exact_mod_cast Nat.mod_lt m (Nat.two_pow_pos j)
    rcases roundMag_inexact mode neg hr with ⟨hup, hq⟩ | ⟨hup, hq⟩ <;> rw [hq]
    · exact .up (by linarith) (by linarith) hup
    · exact .down (by linarith) (by linarith) hup

/-- ±`m` × 2^`e` rounded to a multiple of 2^`t` (R82). -/
theorem roundAt_rounds (mode : RMode) (neg : Bool) (m : Nat) (e t : Int) :
    ∃ n, Rounds mode neg (m * 2 ^ e) (2 ^ t) n (roundAt mode neg m e t).1 := by
  by_cases h : t ≤ e
  · rw [roundAt, if_pos h]
    exact ⟨_, .exact (by rw [Nat.cast_mul, Nat.cast_pow, Nat.cast_ofNat, mul_assoc, two_zpow_toNat h])⟩
  · rw [roundAt, if_neg h]
    have hmul := (roundMag_rounds mode neg m (t - e).toNat).mul (zpow_pos (by norm_num : (0 : ℚ) < 2) e)
    rw [two_zpow_toNat (by omega)] at hmul
    exact ⟨_, hmul⟩

/-! ### What rounding means (R82)

`w` stands for a value of the format, none of which lies between the two multiples. -/

/-- The distance to a value at or below the lower multiple, or at or above the upper one. -/
theorem distance_of_gap {w lo hi : ℚ} (hw : w ≤ lo ∨ hi ≤ w) (h1 : lo ≤ x) (h2 : x ≤ hi) :
    (w ≤ lo ∧ |x - w| = x - w) ∨ (hi ≤ w ∧ |x - w| = w - x) := by
  rcases hw with hw | hw
  · exact .inl ⟨hw, abs_of_nonneg (by linarith)⟩
  · exact .inr ⟨hw, by rw [abs_sub_comm]; exact abs_of_nonneg (by linarith)⟩

/-- RNE leaves no value nearer, and a tie goes to the even multiple. -/
theorem Rounds.nearest_even (h : Rounds .rne neg x u n r) {w : ℚ} (hw : w ≤ n * u ∨ (n + 1) * u ≤ w) :
    |x - r * u| ≤ |x - w| ∧ (|x - r * u| = |x - w| → w ≠ r * u → r % 2 = 0) := by
  cases h with
  | exact h =>
    rw [h, sub_self, abs_zero]
    exact ⟨abs_nonneg _, fun htie hne => absurd (sub_eq_zero.1 (abs_eq_zero.1 htie.symm)).symm hne⟩
  | down h1 h2 hup =>
    obtain ⟨hle, hodd⟩ := not_or.1 hup
    rw [abs_of_pos (sub_pos.2 h1)]
    rcases distance_of_gap hw h1.le h2.le with ⟨hw, hd⟩ | ⟨hw, hd⟩ <;> rw [hd]
    · exact ⟨by linarith, fun htie hne => absurd (by linarith) hne⟩
    · exact ⟨by linarith, fun htie _ => by_contra fun hr => hodd ⟨by linarith, by omega⟩⟩
  | up h1 h2 hup =>
    have hle : (n + 1) * u - x ≤ x - n * u := hup.elim le_of_lt fun h => h.1.le
    rw [Nat.cast_succ, abs_sub_comm x, abs_of_pos (sub_pos.2 h2)]
    rcases distance_of_gap hw h1.le h2.le with ⟨hw, hd⟩ | ⟨hw, hd⟩ <;> rw [hd]
    · refine ⟨by linarith, fun htie _ => ?_⟩
      have hodd : n % 2 = 1 := (hup.resolve_left (by linarith)).2
      omega
    · exact ⟨by linarith, fun htie hne => absurd (by linarith) hne⟩

/-- RNA leaves no value nearer, and a tie goes to the larger magnitude. -/
theorem Rounds.nearest_away (h : Rounds .rna neg x u n r) (hu : 0 < u) {w : ℚ} (hw : w ≤ n * u ∨ (n + 1) * u ≤ w) :
    |x - r * u| ≤ |x - w| ∧ (|x - r * u| = |x - w| → |w| ≤ |r * u|) := by
  have hn : 0 ≤ n * u := by positivity
  cases h with
  | exact h =>
    rw [h, sub_self, abs_zero]
    exact ⟨abs_nonneg _, fun htie => by rw [← sub_eq_zero.1 (abs_eq_zero.1 htie.symm)]⟩
  | down h1 h2 hup =>
    have hlt : x - n * u < (n + 1) * u - x := not_le.1 hup
    rw [abs_of_pos (sub_pos.2 h1)]
    rcases distance_of_gap hw h1.le h2.le with ⟨hw, hd⟩ | ⟨hw, hd⟩ <;> rw [hd]
    · exact ⟨by linarith, fun htie => by rw [show w = n * u by linarith]⟩
    · exact ⟨by linarith, fun htie => by linarith⟩
  | up h1 h2 hup =>
    have hle : (n + 1) * u - x ≤ x - n * u := hup
    rw [Nat.cast_succ, abs_sub_comm x, abs_of_pos (sub_pos.2 h2)]
    rcases distance_of_gap hw h1.le h2.le with ⟨hw, hd⟩ | ⟨hw, hd⟩ <;> rw [hd]
    · refine ⟨by linarith, fun htie => ?_⟩
      rw [show w = n * u by linarith, abs_of_nonneg hn, abs_of_nonneg (by linarith)]
      linarith
    · exact ⟨by linarith, fun htie => by rw [show w = (n + 1) * u by linarith]⟩

/-- A mode that never goes up takes the nearest value that is not above. -/
theorem Rounds.toward_zero (h : Rounds mode neg x u n r) (hmode : ¬ mode.up neg x u n) {w : ℚ} (hw : w ≤ n * u ∨ (n + 1) * u ≤ w) :
    r * u ≤ x ∧ (w ≤ x → w ≤ r * u) := by
  cases h with
  | exact h => exact ⟨h.ge, fun hx => hx.trans h.le⟩
  | down h1 h2 => exact ⟨h1.le, fun hx => hw.resolve_right (by linarith)⟩
  | up _ _ hup => exact absurd hup hmode

/-- A mode that always goes up takes the nearest value that is not below. -/
theorem Rounds.away_from_zero (h : Rounds mode neg x u n r) (hmode : mode.up neg x u n) {w : ℚ} (hw : w ≤ n * u ∨ (n + 1) * u ≤ w) :
    x ≤ r * u ∧ (x ≤ w → r * u ≤ w) := by
  cases h with
  | exact h => exact ⟨h.le, fun hx => h.ge.trans hx⟩
  | down _ _ hup => exact absurd hmode hup
  | up h1 h2 =>
    rw [Nat.cast_succ]
    exact ⟨h2.le, fun hx => hw.resolve_left (by linarith)⟩

end

/-! ### Rounding to a format (R82, R83) -/

theorem bitLen_bounds {m : Nat} (hm : m ≠ 0) : 2 ^ (bitLen m - 1) ≤ m ∧ m < 2 ^ bitLen m ∧ 1 ≤ bitLen m := by
  rw [bitLen, if_neg hm, Nat.add_sub_cancel]
  exact ⟨Nat.log2_self_le hm, Nat.lt_log2_self, Nat.succ_pos _⟩

section
variable {k : Fmt} {m : Nat} {e : Int}

/-- The exponent at which `m` × 2^`e` is rounded: full precision, or that of the subnormals (R82). -/
def Fmt.roundExp (k : Fmt) (m : Nat) (e : Int) : Int := max k.lsb (e + bitLen m - (k.f + 1))

/-- The code of a finite value rounded, before the overflow step (R82, R83). -/
def Fmt.roundCode (k : Fmt) (mode : RMode) (neg : Bool) (m : Nat) (e : Int) : Nat :=
  (k.roundExp m e - k.lsb).toNat * 2 ^ k.f + (roundAt mode neg m e (k.roundExp m e)).1

theorem Fmt.roundFin_overflow (mode : RMode) (sat neg : Bool) (hm : m ≠ 0) (h : k.maxCode < k.roundCode mode neg m e) :
    (k.roundFin mode sat neg m e).2 = fOF ||| fNX := by
  rw [roundFin, if_neg hm]
  exact congrArg Prod.snd (if_pos h)

theorem Fmt.roundFin_code (mode : RMode) (sat neg : Bool) (hm : m ≠ 0) (h : k.roundCode mode neg m e ≤ k.maxCode) :
    (k.roundFin mode sat neg m e).1 = k.signed neg (k.roundCode mode neg m e) := by
  rw [roundFin, if_neg hm]
  exact congrArg Prod.fst (if_neg (not_lt.2 h))

theorem Fmt.roundFin_exact (mode : RMode) (sat neg : Bool) (hm : m ≠ 0) (h : k.roundCode mode neg m e ≤ k.maxCode)
    (hexact : (roundAt mode neg m e (k.roundExp m e)).2 = false) : (k.roundFin mode sat neg m e).2 = 0 := by
  have hflags (inexact tiny : Bool) (h : inexact = false) : flagIf inexact fNX ||| flagIf (inexact && tiny) fUF = 0 := by
    simp [h, flagIf]
  rw [roundFin, if_neg hm]
  exact (congrArg Prod.snd (if_neg (not_lt.2 h))).trans (hflags _ _ hexact)

/-- Above the exponent of the subnormals the multiple below is of full precision. -/
theorem Fmt.le_lower_multiple {mode : RMode} {neg : Bool} {n r : Nat} (hm : m ≠ 0)
    (h : Rounds mode neg (m * 2 ^ e) (2 ^ k.roundExp m e) n r) (hsub : k.roundExp m e ≠ k.lsb) : 2 ^ k.f ≤ n := by
  obtain ⟨hlow, -, hlen⟩ := bitLen_bounds hm
  have hpos : (0 : ℚ) < 2 ^ k.roundExp m e := zpow_pos (by norm_num) _
  have ht : k.roundExp m e = e + bitLen m - (k.f + 1) := (max_choice ..).resolve_left hsub
  have hx : (2 : ℚ) ^ k.f * 2 ^ k.roundExp m e ≤ m * 2 ^ e := calc
    (2 : ℚ) ^ k.f * 2 ^ k.roundExp m e = 2 ^ (bitLen m - 1) * 2 ^ e := by
      rw [← zpow_natCast, ← zpow_natCast, ← zpow_add₀ (by norm_num), ← zpow_add₀ (by norm_num)]
      congr 1
      omega
    _ ≤ m * 2 ^ e := by
      gcongr
      exact_mod_cast hlow
  have hlt : ((2 ^ k.f : Nat) : ℚ) < (n + 1 : Nat) := by
    rw [Nat.cast_pow, Nat.cast_ofNat, Nat.cast_succ]
    exact lt_of_mul_lt_mul_right (hx.trans_lt (h.lt_upper hpos)) hpos.le
  exact Nat.lt_succ_iff.1 (Nat.cast_lt.1 hlt)

/-- The multiple below has no more than full precision. -/
theorem Fmt.lower_multiple_lt {mode : RMode} {neg : Bool} {n r : Nat} (hm : m ≠ 0)
    (h : Rounds mode neg (m * 2 ^ e) (2 ^ k.roundExp m e) n r) : n < 2 ^ (k.f + 1) := by
  obtain ⟨-, hhigh, -⟩ := bitLen_bounds hm
  have hpos : (0 : ℚ) < 2 ^ k.roundExp m e := zpow_pos (by norm_num) _
  have ht : e + bitLen m ≤ (k.f + 1 : Nat) + k.roundExp m e := by
    have := le_max_right k.lsb (e + bitLen m - (k.f + 1))
    rw [roundExp]
    omega
  have hx : (m : ℚ) * 2 ^ e < 2 ^ (k.f + 1) * 2 ^ k.roundExp m e := calc
    (m : ℚ) * 2 ^ e < 2 ^ bitLen m * 2 ^ e := by
      gcongr
      exact_mod_cast hhigh
    _ = 2 ^ (e + bitLen m) := by rw [← zpow_natCast, ← zpow_add₀ (by norm_num), add_comm]
    _ ≤ 2 ^ ((k.f + 1 : Nat) + k.roundExp m e) := zpow_le_zpow_right₀ (by norm_num) ht
    _ = 2 ^ (k.f + 1) * 2 ^ k.roundExp m e := by rw [zpow_add₀ (by norm_num), zpow_natCast]
  have hlt : (n : ℚ) < (2 ^ (k.f + 1) : Nat) := by
    rw [Nat.cast_pow, Nat.cast_ofNat]
    exact lt_of_mul_lt_mul_right (h.lower_le.trans_lt hx) hpos.le
  exact Nat.cast_lt.1 hlt

/-- A finite value that does not overflow rounds to a multiple `r` of a power of two, in units of the smallest subnormal, whose code is the result. -/
theorem Fmt.roundFin_rounds {mode : RMode} {sat neg : Bool} (hof : (k.roundFin mode sat neg m e).2 &&& fOF = 0) :
    ∃ d n r : Nat, (d = 0 ∨ 2 ^ k.f ≤ n) ∧ n < 2 ^ (k.f + 1) ∧ Rounds mode neg (m * 2 ^ e) (2 ^ d * 2 ^ k.lsb) n r ∧
      d * 2 ^ k.f + r ≤ k.maxCode ∧ (k.roundFin mode sat neg m e).1 = k.signed neg (d * 2 ^ k.f + r) := by
  by_cases hm : m = 0
  · subst hm
    exact ⟨0, 0, 0, .inl rfl, Nat.two_pow_pos _, .exact (by simp), by simp, by simp [roundFin]⟩
  · have hcode : k.roundCode mode neg m e ≤ k.maxCode := by
      by_contra h
      rw [roundFin_overflow mode sat neg hm (not_le.1 h)] at hof
      exact absurd hof (by decide)
    obtain ⟨n, h⟩ := roundAt_rounds mode neg m e (k.roundExp m e)
    have hlsb : k.lsb ≤ k.roundExp m e := le_max_left ..
    have hd : (k.roundExp m e - k.lsb).toNat = 0 ∨ 2 ^ k.f ≤ n := or_iff_not_imp_left.2 fun hd => le_lower_multiple hm h (by omega)
    refine ⟨(k.roundExp m e - k.lsb).toNat, n, _, hd, lower_multiple_lt hm h, ?_, hcode, roundFin_code mode sat neg hm hcode⟩
    rwa [two_zpow_toNat hlsb]

/-- A finite encoding rounds to itself and raises nothing: it is a multiple of the last place at which it is rounded (R82). -/
theorem Fmt.roundFin_encoded (mode : RMode) (sat neg : Bool) {c : Nat} (hc : c ≤ k.maxCode) :
    k.roundFin mode sat neg (k.sig c) (k.lsb + k.steps c) = (k.signed neg c, 0) := by
  have hpos : 0 < 2 ^ k.f := Nat.two_pow_pos _
  have hsum := k.steps_mul_add_sig c
  by_cases hm : k.sig c = 0
  · have hsteps : k.steps c = 0 := (k.full_precision c).resolve_right (by omega)
    have hzero : c = 0 := by rw [← hsum, hsteps, hm, Nat.zero_mul]
    rw [roundFin, if_pos hm, hzero]
  · obtain ⟨hlow, hhigh, hlen⟩ := bitLen_bounds hm
    have hle : bitLen (k.sig c) - 1 < k.f + 1 := (Nat.pow_lt_pow_iff_right (by decide)).1 (hlow.trans_lt k.sig_lt)
    have hexp : k.roundExp (k.sig c) (k.lsb + k.steps c) = k.lsb + k.steps c := by
      rw [roundExp]
      rcases k.full_precision c with hsteps | hfull
      · rw [hsteps]
        exact (max_eq_left (by omega)).trans (by simp)
      · have hge : k.f < bitLen (k.sig c) := (Nat.pow_lt_pow_iff_right (by decide)).1 (hfull.trans_lt hhigh)
        rw [max_eq_right (by omega)]
        omega
    have hat : roundAt mode neg (k.sig c) (k.lsb + k.steps c) (k.lsb + k.steps c) = (k.sig c, false) := by simp [roundAt]
    have hcode : k.roundCode mode neg (k.sig c) (k.lsb + k.steps c) = c := by
      rw [roundCode, hexp, hat, add_sub_cancel_left, Int.toNat_natCast, hsum]
    have hle : k.roundCode mode neg (k.sig c) (k.lsb + k.steps c) ≤ k.maxCode := hcode.trans_le hc
    have hfirst := roundFin_code mode sat neg hm hle
    rw [hcode] at hfirst
    exact Prod.ext hfirst (roundFin_exact mode sat neg hm hle (by rw [hexp, hat]))

end

/-- Settles O31: sums and products of finite values are exact (`FVal.add_fin`, `FVal.mul_fin`); a finite encoding is a sign and a code
(`Fmt.exists_signed`, `Fmt.le_maxCode_of_isSome`), which rounding gives back (`Fmt.roundFin_encoded`). -/
theorem exactArithmetic : Obligations.ExactArithmetic := by
  unfold Obligations.ExactArithmetic
  refine ⟨fun mode a b m n e f => ⟨?_, ?_⟩, fun k hk mode sat b hb hnum => ?_⟩
  · obtain ⟨c, j, g, hadd, hsum, hzero⟩ := FVal.add_fin mode a b m n e f
    exact ⟨c, j, g, hadd, congrArg some hsum, hzero⟩
  · obtain ⟨hmul, hprod⟩ := FVal.mul_fin a b m n e f
    exact ⟨m * n, e + f, hmul, congrArg some hprod⟩
  · have hk := proper_of_mem k hk
    obtain ⟨neg, c, hlt, rfl⟩ := k.exists_signed hb
    have hc := k.le_maxCode_of_isSome hk neg hlt hnum
    rw [k.decode_signed hk neg hc]
    exact k.roundFin_encoded mode sat neg hc

/-! ### Signs (R82) -/

theorem signOf_mul_self (neg : Bool) (x : ℚ) : signOf neg * (signOf neg * x) = x := by cases neg <;> simp

/-- A distance is the same with the sign on the other side. -/
theorem abs_signOf_mul_sub (neg : Bool) (x v : ℚ) : |signOf neg * x - v| = |x - signOf neg * v| := by
  cases neg with
  | false => simp
  | true => rw [← abs_neg]; congr 1; simp; ring

theorem abs_signOf_mul (neg : Bool) (x : ℚ) : |signOf neg * x| = |x| := by cases neg <;> simp

/-- No value of the format, taken with the sign of the result, lies between two neighbouring multiples. -/
theorem Fmt.value_gap {k : Fmt} {d n : Nat} (hd : d = 0 ∨ 2 ^ k.f ≤ n) (neg s : Bool) (c : Nat) :
    signOf neg * (signOf s * (k.size c * 2 ^ k.lsb)) ≤ n * (2 ^ d * (2 : ℚ) ^ k.lsb) ∨
      (n + 1) * (2 ^ d * (2 : ℚ) ^ k.lsb) ≤ signOf neg * (signOf s * (k.size c * 2 ^ k.lsb)) := by
  have hn : (0 : ℚ) ≤ n * (2 ^ d * 2 ^ k.lsb) := by positivity
  have hc : (0 : ℚ) ≤ k.size c * 2 ^ k.lsb := by positivity
  by_cases hs : s = neg
  · subst hs
    rw [signOf_mul_self, ← mul_assoc, ← mul_assoc]
    refine (k.size_gap hd c).imp (fun h => ?_) fun h => ?_
    · gcongr
      exact_mod_cast h
    · gcongr
      exact_mod_cast h
  · have hsign : signOf neg * signOf s = -1 := by cases neg <;> cases s <;> simp at hs ⊢
    rw [← mul_assoc, hsign]
    exact .inl (by linarith)

theorem Fmt.signed_mod_two {k : Fmt} (hk : k.Proper) (neg : Bool) {d r : Nat} (hr : r % 2 = 0) : k.signed neg (d * 2 ^ k.f + r) % 2 = 0 := by
  have hf : 2 ∣ 2 ^ k.f := dvd_pow_self 2 (by have := hk.f_pos; omega)
  have hx : 2 ∣ 2 ^ (k.x + k.f) := dvd_pow_self 2 (by have := hk.f_pos; omega)
  have hcode : 2 ∣ d * 2 ^ k.f + r := Nat.dvd_add (Dvd.dvd.mul_left hf d) (Nat.dvd_of_mod_eq_zero hr)
  refine Nat.mod_eq_zero_of_dvd (Nat.dvd_add ?_ hcode)
  split
  · exact hx
  · exact Nat.dvd_zero 2

/-- Settles O32: the result is one of the two multiples around the value (`Fmt.roundFin_rounds`), between which no code lies (`Fmt.size_gap`); which one
it is, and that it is the value of the result's code (`Fmt.size_of_multiple`), gives each mode's claim. -/
theorem roundingIsNearest : Obligations.RoundingIsNearest := by
  unfold Obligations.RoundingIsNearest
  intro k hk mode neg m e q hq hof
  have hk := proper_of_mem k hk
  obtain ⟨d, n, r, hd, hn, hr, hcode, hres⟩ := k.roundFin_rounds (sat := false) hof
  have hres : (k.round mode false (.fin neg m e)).1 = k.signed neg (d * 2 ^ k.f + r) := hres
  obtain rfl : signOf neg * (m * 2 ^ e) = q := by rw [← mul_assoc]; exact Option.some.inj hq
  have hsize : k.size (d * 2 ^ k.f + r) = r * 2 ^ d := by
    refine k.size_of_multiple (hd.imp_right fun h => ?_) ?_
    · cases hr <;> omega
    · have := hr.le_succ
      omega
  have hvalue : signOf neg * (k.size (d * 2 ^ k.f + r) * (2 : ℚ) ^ k.lsb) = signOf neg * (r * (2 ^ d * 2 ^ k.lsb)) := by
    rw [hsize, Nat.cast_mul, Nat.cast_pow, Nat.cast_ofNat, mul_assoc (r : ℚ)]
  have hu : (0 : ℚ) < 2 ^ d * 2 ^ k.lsb := by positivity
  rw [hres, numberOf_signed hk neg hcode, hvalue]
  refine ⟨_, rfl, fun b v hb hv => ?_⟩
  obtain ⟨s, c, hlt, rfl⟩ := k.exists_signed hb
  rw [numberOf_signed hk s (k.le_maxCode_of_isSome hk s hlt (by rw [hv]; rfl))] at hv
  have hgap := k.value_gap hd neg s c
  rw [Option.some.inj hv] at hgap
  cases mode with
  | rne =>
    obtain ⟨hnear, htie⟩ := hr.nearest_even hgap
    simp only [abs_signOf_mul_sub, signOf_mul_self]
    refine ⟨hnear, fun h hne => k.signed_mod_two hk neg (htie h fun hv => hne ?_)⟩
    rw [← hv, signOf_mul_self]
  | rna =>
    obtain ⟨hnear, htie⟩ := hr.nearest_away hu hgap
    simp only [abs_signOf_mul_sub, signOf_mul_self, abs_signOf_mul] at htie ⊢
    exact ⟨hnear, htie⟩
  | rtz =>
    obtain ⟨hle, hnear⟩ := hr.toward_zero id hgap
    refine ⟨?_, ?_⟩
    · rw [abs_signOf_mul, abs_signOf_mul]
      exact abs_le_abs_of_nonneg (by positivity) hle
    · cases neg with
      | false =>
        simp only [signOf_false, one_mul] at hnear ⊢
        exact ⟨fun _ _ => hnear, fun _ _ h => hle.trans h⟩
      | true =>
        simp only [signOf_true, neg_one_mul] at hnear ⊢
        exact ⟨fun _ _ h => h.trans (neg_le_neg hle), fun _ _ h => neg_le.1 (hnear (neg_le.1 h))⟩
  | rdn =>
    cases neg with
    | false => simpa using hr.toward_zero Bool.false_ne_true hgap
    | true =>
      obtain ⟨hle, hnear⟩ := hr.away_from_zero rfl hgap
      simp only [signOf_true, neg_one_mul] at hnear ⊢
      exact ⟨neg_le_neg hle, fun h => le_neg.1 (hnear (le_neg.1 h))⟩
  | rup =>
    cases neg with
    | false => simpa using hr.away_from_zero rfl hgap
    | true =>
      obtain ⟨hle, hnear⟩ := hr.toward_zero Bool.noConfusion hgap
      simp only [signOf_true, neg_one_mul] at hnear ⊢
      exact ⟨neg_le_neg hle, fun h => neg_le.1 (hnear (neg_le.1 h))⟩

end Sys2Proof.Machine
end

section
/-!
PROOFS. The integer register and immediate forms, the compares and the predicate operations (O11 to O13): each writes one register
(`finish_putG`, `guarded_putG`, `finish_putP`), so what is left to show is the value, a fact about words.
-/

namespace Sys2Proof.Machine

open Claims

/-! ### What the instructions of majors 0x01 to 0x06 write (R98) -/

section
variable {s : State} (hp : Plain s 4)
include hp

theorem finish_putG {d : BitVec 5} {v r : Word} (h : v = r) : finish 4 s (putG s d v) = writesG s 4 d r :=
  h ▸ finish_setG s 4 hp d v

theorem finish_putP {d : BitVec 3} {c r : Bool} (h : c = r) : finish 4 s (putP s d c) = writesP s 4 d r :=
  h ▸ finish_setP s 4 hp d c

theorem guarded_putG {g : BitVec 4} (hg : Guard s g) {d : BitVec 5} {v r : Word} (h : v = r) : guarded g s (putG s d v) = writesG s 4 d r :=
  (guarded_true g s _ hg.true).trans (finish_putG hp h)

end

/-! ### Sums, shifts and choices (R101, R103, R104) -/

theorem sub_eq_ofInt (x y : Word) : x - y = BitVec.ofInt 64 ((x.toNat : Int) - y.toNat) := by
  simp [Int.sub_eq_add_neg, BitVec.ofInt_add, BitVec.ofInt_neg, BitVec.sub_eq_add_neg]

theorem add_sext12 (x : Word) (imm : BitVec 12) : x + sext12 imm = BitVec.ofInt 64 (x.toNat + imm.toInt) := by
  simp [BitVec.ofInt_add, BitVec.signExtend, sext12]

theorem shiftLeft_eq_ofNat (x : Word) (n : Nat) : x <<< n = BitVec.ofNat 64 (x.toNat * 2 ^ n) :=
  BitVec.eq_of_toNat_eq (by simp [Nat.shiftLeft_eq])

theorem ushiftRight_eq_ofNat (x : Word) (n : Nat) : x >>> n = BitVec.ofNat 64 (x.toNat / 2 ^ n) := by
  rw [← Nat.shiftRight_eq_div_pow, ← BitVec.toNat_ushiftRight, BitVec.ofNat_toNat, BitVec.setWidth_eq]

theorem sshiftRight_eq_ofInt (x : Word) (n : Nat) : x.sshiftRight n = BitVec.ofInt 64 (x.toInt / 2 ^ n) := by
  rw [BitVec.sshiftRight, Int.shiftRight_eq_div_pow, Nat.cast_pow, Nat.cast_ofNat]

theorem ofInt_shiftLeft (i : Int) (n : Nat) : BitVec.ofInt 64 i <<< n = BitVec.ofInt 64 (i * 2 ^ n) := by
  rw [BitVec.shiftLeft_eq_mul_twoPow, BitVec.ofInt_mul]
  refine congrArg (BitVec.ofInt 64 i * ·) (BitVec.eq_of_toNat_eq ?_)
  rw [← Nat.cast_ofNat (n := 2), ← Nat.cast_pow, BitVec.ofInt_natCast, BitVec.toNat_ofNat, BitVec.toNat_twoPow]

/-- MOVH of an immediate of any width (R104). -/
theorem movh_signExtend {w : Nat} (x : Word) (imm : BitVec w) (k : Nat) :
    movh x (imm.signExtend 64) k = BitVec.ofInt 64 ((x.toNat % 2 ^ k : Nat) + imm.toInt * 2 ^ k) := by
  rw [movh, BitVec.signExtend, ofInt_shiftLeft, BitVec.ofInt_add, BitVec.ofInt_natCast]

/-- ADDPC adds an immediate to its own address (R105). -/
theorem pcWord_add_sext12 (s : State) (imm : BitVec 12) (n : Nat) :
    s.pcWord + sext12 imm <<< n = BitVec.ofInt 64 (s.self.pc.toNat + imm.toInt * 2 ^ n) := by
  rw [State.pcWord_eq, sext12, BitVec.signExtend, ofInt_shiftLeft, BitVec.ofInt_add]

theorem choose_decide (p : Prop) [Decidable p] (x y : Word) : choose (decide p) x y = if p then x else y := by
  simp [choose]

/-! ### Products and quotients (R113) -/

theorem mul_eq_ofInt (x y : Word) : x * y = BitVec.ofInt 64 (x.toInt * y.toInt) := by
  rw [BitVec.ofInt_mul, BitVec.ofInt_toInt, BitVec.ofInt_toInt]

/-- The one overflow of the signed divisions (R113). -/
theorem overflow_iff (x y : Word) : (x.toInt = -2 ^ 63 && y.toInt = -1) = true ↔ x.toInt = -2 ^ 63 ∧ y.toInt = -1 := by
  simp

theorem divS_eq (x y : Word) : divS x y = if y = 0 then BitVec.ofInt 64 (-1) else if x.toInt = -2 ^ 63 ∧ y.toInt = -1 then BitVec.ofInt 64 (-2 ^ 63)
    else BitVec.ofInt 64 (x.toInt.tdiv y.toInt) := by
  simp only [divS, overflow_iff]
  rfl

theorem remS_eq (x y : Word) : remS x y = if y = 0 then x else if x.toInt = -2 ^ 63 ∧ y.toInt = -1 then 0
    else BitVec.ofInt 64 (x.toInt - y.toInt * x.toInt.tdiv y.toInt) := by
  simp only [remS, overflow_iff, Int.tmod_def]

theorem remU_eq (x y : Word) : remU x y = if y = 0 then x else BitVec.ofNat 64 (x.toNat - y.toNat * (x.toNat / y.toNat)) := by
  rw [remU, Nat.mod_eq_sub_mul_div]

/-! ### The words of major 0x06 (R112) -/

/-- The decoder reads minor6 as two digits of three bits. -/
theorem toNat_minor6 (m : BitVec 6) : m.toNat = 8 * (m.extractLsb' 3 3).toNat + (m.extractLsb' 0 3).toNat := by
  decide +revert

theorem parseWord_major06_eq_none (g : BitVec 4) {m : BitVec 6} (d a b : BitVec 5) (hm : m.toNat = 3 ∨ 8 ≤ m.toNat) :
    parseWord (g ++ m ++ b ++ a ++ d ++ 6#6 ++ 1#1) = none := by
  rw [toNat_minor6] at hm
  have hlt := (m.extractLsb' 0 3).isLt
  simp only [parseWord, decode06, slice_append_high, slice_append_low, Nat.reduceAdd, Nat.reduceLeDiff, Nat.reduceSub,
    BitVec.extractLsb'_eq_self, BitVec.reduceToNat, ↓reduceIte]
  split
  case h_2 => rfl
  case h_1 =>
    split
    case h_8 => rfl
    all_goals omega

theorem decode_major06 {g : BitVec 4} (hg : g ≠ 8) (m : BitVec 6) (d a b : BitVec 5) :
    decode (.word (g ++ m ++ b ++ a ++ d ++ 6#6 ++ 1#1)) =
      if m = 0 then some (.mul g d a b) else if m = 1 then some (.mulh g d a b) else if m = 2 then some (.mulhn g d a b)
      else if m = 4 then some (.div g d a b) else if m = 5 then some (.divn g d a b) else if m = 6 then some (.rem g d a b)
      else if m = 7 then some (.remn g d a b) else none := by
  have hwf : guardOk g = true := bne_iff_ne.2 hg
  have hdec {i : Instr} {w : BitVec 32} (hi : encode i = .word w) (hok : wellFormed i = true) : decode (.word w) = some i :=
    decode_word_eq_some_iff.2 ⟨parseWord_encode hok hi, hok⟩
  split_ifs with h0 h1 h2 h4 h5 h6 h7
  case neg =>
    have hm : m.toNat = 3 ∨ 8 ≤ m.toNat := by bv_omega
    rw [decode, parseWord_major06_eq_none g d a b hm]
    rfl
  all_goals subst m; exact hdec rfl hwf

/-- Settles O11: `guarded_putG` leaves the values, `decode_major06` has the words. -/
theorem integerRegisterForms : Obligations.IntegerRegisterForms := by
  unfold Obligations.IntegerRegisterForms
  refine ⟨?_, ?_, fun g m d a b hg => decode_major06 hg m d a b⟩
  · intro s g d a b p hp hg x y n
    have hw {v r : Word} (h : v = r) : guarded g s (putG s d v) = writesG s 4 d r := guarded_putG hp hg h
    have hpick (c : Prop) [Decidable c] : guarded g s (putG s d (choose (decide c) x y)) = writesG s 4 d (if c then x else y) :=
      hw (choose_decide c x y)
    simp only [List.forall_mem_cons, List.not_mem_nil, false_imp_iff, implies_true, and_true]
    exact ⟨hw (BitVec.add_def ..), hw (sub_eq_ofInt x y), hw rfl, hw rfl, hw rfl, hw rfl, hw (shiftLeft_eq_ofNat x n), hw (ushiftRight_eq_ofNat x n),
      hw (sshiftRight_eq_ofInt x n), hw (congrArg₂ (· ||| ·) (shiftLeft_eq_ofNat x n) (ushiftRight_eq_ofNat x (64 - n))),
      hpick _, hpick _, hpick _, hpick _, hw rfl, hw rfl⟩
  · intro s g d a b hp hg x y ovf
    have hw {v r : Word} (h : v = r) : guarded g s (putG s d v) = writesG s 4 d r := guarded_putG hp hg h
    simp only [List.forall_mem_cons, List.not_mem_nil, false_imp_iff, implies_true, and_true]
    exact ⟨hw (mul_eq_ofInt x y), hw rfl, hw rfl, hw (divS_eq x y), hw rfl, hw (remS_eq x y), hw (remU_eq x y)⟩

/-- Settles O12: `finish_putG` leaves the values, which the shifts share with O11; an immediate shifted is its integer times a power of two
(`ofInt_shiftLeft`). -/
theorem integerImmediateForms : Obligations.IntegerImmediateForms := by
  unfold Obligations.IntegerImmediateForms
  constructor
  · intro s d a imm sh hp x y
    have hw {v r : Word} (h : v = r) : finish 4 s (putG s d v) = writesG s 4 d r := finish_putG hp h
    simp only [List.forall_mem_cons, List.not_mem_nil, false_imp_iff, implies_true, and_true]
    exact ⟨hw (add_sext12 x imm), hw rfl, hw rfl, hw rfl, hw (shiftLeft_eq_ofNat x _), hw (ushiftRight_eq_ofNat x _), hw (sshiftRight_eq_ofInt x _)⟩
  · intro s d a imm i4 sh hp x pc k
    have hw {v r : Word} (h : v = r) : finish 4 s (putG s d v) = writesG s 4 d r := finish_putG hp h
    simp only [List.forall_mem_cons, List.not_mem_nil, false_imp_iff, implies_true, and_true]
    have hnear : s.pcWord + sext12 imm <<< 0 = BitVec.ofInt 64 (pc + imm.toInt) := by
      rw [pcWord_add_sext12, pow_zero, mul_one]
    exact ⟨hw (movh_signExtend x imm k), hw (movh_signExtend x i4 60), hw hnear, hw (pcWord_add_sext12 s imm 12), hw (pcWord_add_sext12 s imm 24)⟩

/-! ### Conditions (R107) -/

section
variable (x y : Word)

theorem compareBits_eq : compareBits 0 x y = decide (x = y) := rfl
theorem compareBits_ne : compareBits 1 x y = decide (x ≠ y) := by rw [decide_not]; rfl
theorem compareBits_lt : compareBits 2 x y = decide (x.toInt < y.toInt) := rfl
theorem compareBits_ge : compareBits 3 x y = decide (x.toInt ≥ y.toInt) := by simp only [ge_iff_le, ← not_lt, decide_not]; rfl
theorem compareBits_ltn : compareBits 4 x y = decide (x.toNat < y.toNat) := rfl
theorem compareBits_gen : compareBits 5 x y = decide (x.toNat ≥ y.toNat) := by simp only [ge_iff_le, ← not_lt, decide_not]; rfl

end

/-- Settles O13: `finish_putP` leaves the values, one fact for each condition. -/
theorem compareAndPredicateForms : Obligations.CompareAndPredicateForms := by
  unfold Obligations.CompareAndPredicateForms
  intro s d pa pb a b imm hp x y z u v
  have hw {c r : Bool} (h : c = r) : finish 4 s (putP s d c) = writesP s 4 d r := finish_putP hp h
  simp only [List.forall_mem_cons, List.not_mem_nil, false_imp_iff, implies_true, and_true]
  exact ⟨hw (compareBits_eq x y), hw (compareBits_ne x y), hw (compareBits_lt x y), hw (compareBits_ge x y), hw (compareBits_ltn x y),
    hw (compareBits_gen x y), hw (compareBits_eq x z), hw (compareBits_ne x z), hw (compareBits_lt x z), hw (compareBits_ge x z),
    hw (compareBits_ltn x z), hw (compareBits_gen x z), hw rfl, hw rfl, hw rfl, hw rfl, hw rfl⟩

end Sys2Proof.Machine
end

section
/-!
PROOFS. The bit-field and bit-counting forms (O14).
-/

namespace Sys2Proof.Machine

open Claims

/-! ### Bit fields (R110) -/

theorem bfLo_eq (y : Word) : bfLo y = y.toNat % 64 := by simp [bfLo, Word.field]

theorem bfWidth_eq (y : Word) : bfWidth y = min (y.toNat / 256 % 128) (64 - y.toNat % 64) := by simp [bfWidth, bfLo_eq, Word.field]

theorem bfWidth_le (y : Word) : bfWidth y ≤ 64 := by unfold bfWidth; omega

theorem toNat_bfxn (x y : Word) : (bfxn x y).toNat = x.toNat / 2 ^ bfLo y % 2 ^ bfWidth y := by
  have hlt : x.toNat / 2 ^ bfLo y % 2 ^ bfWidth y < 2 ^ 64 :=
    (Nat.mod_lt _ (Nat.two_pow_pos _)).trans_le (Nat.pow_le_pow_right (by decide) (bfWidth_le y))
  rw [bfxn, BitVec.toNat_ofNat, Nat.mod_eq_of_lt hlt]

/-- A field sign-extended from its top bit (R110). -/
theorem signExtend_field {w f : Nat} (hf : f < 2 ^ w) : (BitVec.ofNat w f).signExtend 64 =
    if w = 0 then 0 else if 2 ^ (w - 1) ≤ f then BitVec.ofInt 64 ((f : Int) - 2 ^ w) else BitVec.ofNat 64 f := by
  cases w with
  | zero =>
    obtain rfl : f = 0 := by omega
    rfl
  | succ w =>
    have htop : 2 * f < 2 ^ (w + 1) ↔ ¬ 2 ^ w ≤ f := by omega
    rw [BitVec.signExtend, BitVec.toInt_eq_toNat_cond, BitVec.toNat_ofNat, Nat.mod_eq_of_lt hf]
    simp only [htop, Nat.add_sub_cancel, Nat.add_one_ne_zero, if_false, ite_not]
    split <;> simp

theorem bfx_eq (x y : Word) : bfx x y = (BitVec.ofNat (bfWidth y) (x.toNat / 2 ^ bfLo y % 2 ^ bfWidth y)).signExtend 64 := by
  rw [signExtend_field (Nat.mod_lt _ (Nat.two_pow_pos _)), bfx, toNat_bfxn]

/-! ### Counts of bits (R111) -/

theorem clzFrom_zero (n : Nat) : clzFrom 0#64 n = n := by
  induction n with
  | zero => rfl
  | succ n ih => simp [clzFrom, ih, Nat.add_comm]

theorem ctzFrom_zero (n : Nat) : ctzFrom 0#64 n = n := by
  induction n with
  | zero => rfl
  | succ n ih => simp [ctzFrom, ih, Nat.add_comm]

theorem clzFrom_of_highest {x : Word} {n m : Nat} (hn : n < m) (hone : x.getLsbD n = true) (hzero : ∀ k < m, n < k → x.getLsbD k = false) :
    clzFrom x m = m - 1 - n := by
  induction m with
  | zero => omega
  | succ m ih =>
    obtain rfl | hlt := Nat.eq_or_lt_of_le (Nat.le_of_lt_succ hn)
    · simp [clzFrom, hone]
    · rw [clzFrom, hzero m (Nat.lt_succ_self m) hlt, ih hlt fun k hk => hzero k (by omega)]
      simp only [Bool.false_eq_true, if_false]
      omega

/-- The count over the top `m` bits is the place of the lowest one bit above their lowest place. -/
theorem ctzFrom_of_lowest {x : Word} {n m : Nat} (hm : m ≤ 64) (hlo : 64 - m ≤ n) (hn : n < 64) (hone : x.getLsbD n = true)
    (hzero : ∀ k < n, x.getLsbD k = false) : ctzFrom x m = n - (64 - m) := by
  induction m with
  | zero => omega
  | succ m ih =>
    have hbit : 63 - m = 64 - (m + 1) := by omega
    rw [ctzFrom, hbit]
    obtain heq | hlt := Nat.eq_or_lt_of_le hlo
    · simp [heq, hone]
    · rw [hzero _ hlt, ih (by omega) (by omega)]
      simp only [Bool.false_eq_true, if_false]
      omega

theorem onesIn_eq_countP (x : Word) (n : Nat) : onesIn x n = (List.range n).countP fun k => x.getLsbD k := by
  induction n with
  | zero => rfl
  | succ n ih => simp [onesIn, ih, List.range_succ, List.countP_append, List.countP_cons, Nat.add_comm]

theorem reverse_eq {x r : Word} (h : ∀ k, k < 64 → r.getLsbD k = x.getLsbD (63 - k)) : x.reverse = r := by
  refine BitVec.eq_of_getLsbD_eq fun k hk => ?_
  rw [h k hk, BitVec.getLsbD_reverse, BitVec.getMsbD, decide_eq_true hk, Bool.true_and, Nat.sub_right_comm]

/-- Settles O14: the descriptor's two fields are those of the statement (`bfLo_eq`, `bfWidth_eq`), and the counts, which the model makes by recursion
on the number of bits looked at, are found by induction on that number (`clzFrom_of_highest`, `ctzFrom_of_lowest`, `onesIn_eq_countP`). -/
theorem bitFieldForms : Obligations.BitFieldForms := by
  unfold Obligations.BitFieldForms
  intro s g d a b hp hg x lo w f
  have hw {v r : Word} (h : v = r) : guarded g s (putG s d v) = writesG s 4 d r := guarded_putG hp hg h
  have hlo : bfLo (s.g b) = lo := bfLo_eq (s.g b)
  have hwidth : bfWidth (s.g b) = w := bfWidth_eq (s.g b)
  refine ⟨hw ?_, hw ?_, hw ?_, fun hx => ⟨hw ?_, hw ?_⟩, fun n hn hone hzero => hw ?_, fun n hone hzero => hw ?_, hw ?_, fun r hr => hw ?_⟩
  · rw [bfxn, hlo, hwidth]
  · rw [bfx_eq, hlo, hwidth]
  · simp only [bfi, hlo, hwidth, x]
  · exact congrArg _ ((congrArg (clzFrom · 64) hx).trans (clzFrom_zero 64))
  · exact congrArg _ ((congrArg (ctzFrom · 64) hx).trans (ctzFrom_zero 64))
  · exact congrArg _ (clzFrom_of_highest hn hone hzero)
  · exact congrArg _ (ctzFrom_of_lowest le_rfl (Nat.zero_le n) (BitVec.lt_of_getLsbD hone) hone hzero)
  · exact congrArg _ (onesIn_eq_countP x 64)
  · exact reverse_eq hr

end Sys2Proof.Machine
end

section
/-!
PROOFS. Comparisons of lanes (O36).
-/

namespace Sys2Proof.Machine

open Claims

/-! ### One bit for each lane (R123) -/

/-- The word of a list of bits, bit 0 first. -/
def bitsWord (l : List Bool) : Word := BitVec.ofNat 64 (packBits 1 (l.map fun b => if b then 1 else 0))

theorem getLsbD_bitsWord {l : List Bool} (hl : l.length ≤ 64) (i : Nat) : (bitsWord l).getLsbD i = l.getD i false := by
  have hbit : ∀ x ∈ l.map (fun b => if b then 1 else 0), x < 2 ^ 1 := by
    simp only [List.forall_mem_map]
    intro b _
    cases b <;> decide
  have hpack : (packBits 1 (l.map fun b => if b then 1 else 0)).testBit i = l.getD i false := by
    have := packBits_div_mod hbit i
    rw [one_mul, pow_one] at this
    rw [Nat.testBit_eq_decide_div_mod_eq, this]
    simp only [List.getD_eq_getElem?_getD, List.getElem?_map]
    rcases l[i]? with _ | _ | _ <;> rfl
  rw [bitsWord, BitVec.getLsbD_ofNat, hpack]
  by_cases hi : i < 64
  · simp [hi]
  · rw [List.getD_eq_default _ _ (hl.trans (not_lt.1 hi)), decide_eq_false hi, Bool.false_and]

/-! ### Comparisons (R123) -/

/-- The comparison of two lanes under a tag, and its flags. -/
def cmpLane (t : BitVec 4) (cc : BitVec 3) (x y : Nat) : Bool × Flags :=
  match tagFp t with
  | some k => fpCompare cc (k.decode x) (k.decode y)
  | none => (intCompare cc ((tagInt t).decode x) ((tagInt t).decode y), 0)

theorem cmpLane_fp {t : BitVec 4} {k : Fmt} (h : tagFp t = some k) (cc : BitVec 3) (x y : Nat) :
    cmpLane t cc x y = fpCompare cc (k.decode x) (k.decode y) := by
  simp only [cmpLane, h]

theorem cmpLane_int {t : BitVec 4} (h : tagFp t = none) (cc : BitVec 3) (x y : Nat) :
    cmpLane t cc x y = (intCompare cc ((tagInt t).decode x) ((tagInt t).decode y), 0) := by
  simp only [cmpLane, h]

theorem tagFp_none {t : BitVec 4} (h : 7 ≤ t.toNat) : tagFp t = none := by
  revert t; decide

theorem tagLanes_le (t : BitVec 4) : tagLanes t ≤ 16 := by revert t; decide

theorem FVal.isNan_of_isSig {x : FVal} (h : x.isSig = true) : x.isNan = true := by
  cases x with
  | nan s => rfl
  | inf n => cases h
  | fin n m e => cases h

/-- The flags of a comparison: a quiet NaN raises NV under the four orderings only (R123, R124). -/
theorem fpCompare_flags (cc : BitVec 3) (x y : FVal) : (fpCompare cc x y).2 =
    if x.isSig || y.isSig || (2 ≤ cc.toNat && cc.toNat ≤ 5 && (x.isNan || y.isNan)) then fNV else 0 := by
  have hsig : x.isSig = true ∨ y.isSig = true → x.isNan = true ∨ y.isNan = true := Or.imp FVal.isNan_of_isSig FVal.isNan_of_isSig
  have habsorb : (x.isSig || y.isSig || (x.isNan || y.isNan)) = (x.isNan || y.isNan) := by
    simpa only [Bool.or_eq_right_iff_imp, Bool.or_eq_true] using hsig
  match cc with
  | 0 | 1 | 6 | 7 => simp [fpCompare, flagIf]
  | 2 | 3 | 4 | 5 =>
    change flagIf (x.isNan || y.isNan) fNV = if x.isSig || y.isSig || (x.isNan || y.isNan) then fNV else 0
    rw [habsorb, flagIf]

/-- An unordered pair satisfies NE and UN (R123). -/
theorem fpCompare_unordered (cc : BitVec 3) {x y : FVal} (h : (x.isNan || y.isNan) = true) :
    (fpCompare cc x y).1 = decide (cc = 1 ∨ cc = 6) := by
  match cc with
  | 0 | 1 | 2 | 3 | 4 | 5 | 6 | 7 => simp [fpCompare, h]

theorem fpCompare_ordered (cc : BitVec 3) {x y : FVal} (h : (x.isNan || y.isNan) = false) :
    (fpCompare cc x y).1 = ([decide (x.cmp y = 0), decide (x.cmp y ≠ 0), decide (x.cmp y < 0), decide (x.cmp y ≤ 0), decide (x.cmp y > 0),
      decide (x.cmp y ≥ 0), false, true] : List Bool).getD cc.toNat false := by
  rw [Bool.eq_iff_iff]
  match cc with
  | 0 | 1 | 2 | 3 | 4 | 5 | 6 | 7 => simp [fpCompare, h]

theorem intCompare_eq (cc : BitVec 3) (x y : Int) :
    intCompare cc x y = ([decide (x = y), decide (x ≠ y), decide (x < y), decide (x ≤ y), decide (x > y), decide (x ≥ y), false, true] :
      List Bool).getD cc.toNat false := by
  rw [Bool.eq_iff_iff]
  match cc with
  | 0 | 1 | 2 | 3 | 4 | 5 | 6 | 7 => simp [intCompare]

/-- The word of the comparisons of all lanes of two registers. -/
def cmpWord (t : BitVec 4) (cc : BitVec 3) (x y : BitVec 128) : Word :=
  bitsWord ((List.range (tagLanes t)).map fun i => (cmpLane t cc (lane x (tagBits t) i) (lane y (tagBits t) i)).1)

theorem getLsbD_cmpWord (t : BitVec 4) (cc : BitVec 3) (x y : BitVec 128) (i : Nat) : (cmpWord t cc x y).getLsbD i =
    if i < tagLanes t then (cmpLane t cc (lane x (tagBits t) i) (lane y (tagBits t) i)).1 else false := by
  rw [cmpWord, getLsbD_bitsWord (by simpa using (tagLanes_le t).trans (by decide))]
  split
  · next h => simp [h]
  · next h => simp [not_lt.1 h]

/-- VCMP compares lane by lane. -/
theorem vcmpBody_eq {s : State} {d : BitVec 5} {a b : BitVec 4} {cc : BitVec 3} (ha : s.tag a ≠ 0) (hb : s.tag b = s.tag a) :
    vcmpBody s d a b cc = .ok (s.modSelf fun t => (t.setG d (cmpWord (s.tag a) cc (s.v a) (s.v b))).addFlags
      (flagsOf (tagLanes (s.tag a)) fun i =>
        (0, (cmpLane (s.tag a) cc (lane (s.v a) (tagBits (s.tag a)) i) (lane (s.v b) (tagBits (s.tag a)) i)).2))) := by
  rw [vcmpBody, accept_bind (bne_iff_ne.2 ha), sameTag_bind hb]
  simp only [cmpWord, bitsWord, flagsOf, List.map_map, List.foldl_map]
  rfl

/-- Settles O36: VCMP compares lane by lane (`vcmpBody_eq`), as values of the tag's format (`cmpLane_fp`, `cmpLane_int`), and the word holds one bit
for each lane (`getLsbD_cmpWord`). -/
theorem vectorCompare : Obligations.VectorCompare := by
  unfold Obligations.VectorCompare
  intro s g a b d cc hp hg ha hle hb T w nv
  have hflags : flagsOf (tagLanes T) (fun i => (0, (cmpLane T cc (lane (s.v a) w i) (lane (s.v b) w i)).2)) = flagsOf (tagLanes T) nv := by
    refine flagsOf_congr fun i => ?_
    cases hk : tagFp T with
    | none => simp only [nv, cmpLane_int hk, hk]
    | some k => simp only [nv, cmpLane_fp hk, fpCompare_flags, hk]
  have hbit {i : Nat} (hi : i < tagLanes T) : (cmpWord T cc (s.v a) (s.v b)).getLsbD i = (cmpLane T cc (lane (s.v a) w i) (lane (s.v b) w i)).1 := by
    rw [getLsbD_cmpWord, if_pos hi]
  refine ⟨cmpWord T cc (s.v a) (s.v b), ?_, fun i hi => ?_, fun hT i hi => ?_, fun k hk i hi => ⟨fun hn => ?_, fun hn => ?_⟩⟩
  · have hx : exec (.vcmp g d a b cc) s = finish 4 s (vcmpBody s d a b cc) := guarded_true g s _ hg.true
    rw [hx, vcmpBody_eq ha hb, ← hflags]
    apply finish_self s 4 hp
    all_goals simp [Thread.addFlags, Thread.pl]
  · rw [getLsbD_cmpWord, if_neg (not_lt.2 hi)]
  · intro x y
    rw [hbit hi, cmpLane_int (tagFp_none hT), ← intCompare_eq]
  · rw [hbit hi, cmpLane_fp hk]
    exact fpCompare_unordered cc hn
  · rw [hbit hi, cmpLane_fp hk]
    exact fpCompare_ordered cc (by simpa using hn)

end Sys2Proof.Machine
end

section
/-!
PROOFS. One lane replaced, and the conversions and dot products (O37).
-/

namespace Sys2Proof.Machine

open Claims

/-! ### One lane replaced (R90) -/

/-- The number in which one field of `w` bits is replaced by `v`. -/
theorem replaceField_eq (X : Nat) (w i v : Nat) :
    X - X / 2 ^ (w * i) % 2 ^ w * 2 ^ (w * i) + v * 2 ^ (w * i) =
      (X / 2 ^ (w * i) / 2 ^ w * 2 ^ w + v) * 2 ^ (w * i) + X % 2 ^ (w * i) := by
  have hX := Nat.div_add_mod' X (2 ^ (w * i))
  have hq := Nat.div_add_mod' (X / 2 ^ (w * i)) (2 ^ w)
  rw [← hq] at hX
  generalize X / 2 ^ (w * i) % 2 ^ w = l at *
  generalize X / 2 ^ (w * i) / 2 ^ w = h at *
  generalize X % 2 ^ (w * i) = r at *
  rw [← hX]
  simp only [Nat.add_mul]
  omega

section
variable {x : BitVec 128} {w i : Nat} (v : Nat) (h : w * (i + 1) ≤ 128)
include h

theorem toNat_setLane : (setLane x w i v).toNat =
    (x.toNat / 2 ^ (w * i) / 2 ^ w * 2 ^ w + v % 2 ^ w) * 2 ^ (w * i) + x.toNat % 2 ^ (w * i) := by
  have hv : v % 2 ^ w < 2 ^ w := Nat.mod_lt _ (Nat.two_pow_pos w)
  have hlow : x.toNat % 2 ^ (w * i) < 2 ^ (w * i) := Nat.mod_lt _ (Nat.two_pow_pos _)
  have hx : x.toNat / 2 ^ (w * i) / 2 ^ w < 2 ^ (128 - w * (i + 1)) := by
    rw [Nat.div_div_eq_div_mul, ← Nat.pow_add, ← Nat.mul_succ, Nat.div_lt_iff_lt_mul (Nat.two_pow_pos _), ← Nat.pow_add, Nat.sub_add_cancel h]
    exact x.isLt
  have hlt : (x.toNat / 2 ^ (w * i) / 2 ^ w * 2 ^ w + v % 2 ^ w) * 2 ^ (w * i) + x.toNat % 2 ^ (w * i) < 2 ^ 128 := calc
    _ < (x.toNat / 2 ^ (w * i) / 2 ^ w * 2 ^ w + v % 2 ^ w + 1) * 2 ^ (w * i) := by rw [Nat.add_one_mul]; omega
    _ ≤ (x.toNat / 2 ^ (w * i) / 2 ^ w + 1) * 2 ^ w * 2 ^ (w * i) := Nat.mul_le_mul_right _ (by rw [Nat.add_one_mul]; omega)
    _ ≤ 2 ^ (128 - w * (i + 1)) * 2 ^ w * 2 ^ (w * i) := Nat.mul_le_mul_right _ (Nat.mul_le_mul_right _ hx)
    _ = 2 ^ 128 := by rw [Nat.mul_assoc, ← Nat.pow_add, ← Nat.pow_add]; congr 1; rw [Nat.mul_succ] at h ⊢; omega
  rw [setLane, lane, replaceField_eq, BitVec.toNat_ofNat, Nat.mod_eq_of_lt hlt]

theorem lane_setLane_same : lane (setLane x w i v) w i = v % 2 ^ w := by
  have hlow : x.toNat % 2 ^ (w * i) < 2 ^ (w * i) := Nat.mod_lt _ (Nat.two_pow_pos _)
  rw [lane, toNat_setLane v h, Nat.add_comm, Nat.add_mul_div_right _ _ (Nat.two_pow_pos _), Nat.div_eq_of_lt hlow, Nat.zero_add,
    Nat.add_comm, Nat.add_mul_mod_self_right, Nat.mod_mod]

theorem lane_setLane_ne {j : Nat} (hj : j ≠ i) : lane (setLane x w i v) w j = lane x w j := by
  have hpos := Nat.two_pow_pos (w * i)
  have hlow : x.toNat % 2 ^ (w * i) < 2 ^ (w * i) := Nat.mod_lt _ hpos
  have hv : v % 2 ^ w < 2 ^ w := Nat.mod_lt _ (Nat.two_pow_pos w)
  have hset := toNat_setLane (x := x) v h
  rcases Nat.lt_or_gt_of_ne hj with hj | hj
  · -- below the lane both numbers have the same low bits
    have hmod : (setLane x w i v).toNat % 2 ^ (w * i) = x.toNat % 2 ^ (w * i) := by
      rw [hset, Nat.add_comm, Nat.add_mul_mod_self_right, Nat.mod_mod]
    have hsplit : 2 ^ (w * i) = 2 ^ (w * j) * 2 ^ (w * (i - j)) := by rw [← Nat.pow_add, ← Nat.mul_add, Nat.add_sub_cancel' hj.le]
    have hdvd : 2 ^ w ∣ 2 ^ (w * (i - j)) := Nat.pow_dvd_pow 2 (Nat.le_mul_of_pos_right w (Nat.sub_pos_of_lt hj))
    have hfield (X : Nat) : X % 2 ^ (w * i) / 2 ^ (w * j) % 2 ^ w = X / 2 ^ (w * j) % 2 ^ w := by
      rw [hsplit, Nat.mod_mul_right_div_self, Nat.mod_mod_of_dvd _ hdvd]
    rw [lane, lane, ← hfield, hmod, hfield]
  · -- above it, the same high bits
    have hdiv : (setLane x w i v).toNat / 2 ^ (w * i) / 2 ^ w = x.toNat / 2 ^ (w * i) / 2 ^ w := by
      rw [hset, Nat.add_comm, Nat.add_mul_div_right _ _ hpos, Nat.div_eq_of_lt hlow, Nat.zero_add, Nat.add_comm,
        Nat.add_mul_div_right _ _ (Nat.two_pow_pos w), Nat.div_eq_of_lt hv, Nat.zero_add]
    have hsplit : 2 ^ (w * j) = 2 ^ (w * i) * 2 ^ w * 2 ^ (w * (j - (i + 1))) := by
      rw [← Nat.pow_add, ← Nat.pow_add, ← Nat.mul_succ, ← Nat.mul_add, Nat.add_sub_cancel' hj]
    rw [lane, lane, hsplit, ← Nat.div_div_eq_div_mul, ← Nat.div_div_eq_div_mul, hdiv, Nat.div_div_eq_div_mul x.toNat,
      Nat.div_div_eq_div_mul x.toNat]

end

/-- Lanes replaced from `k` on by the values of a list. -/
def setLanes (w : Nat) : BitVec 128 → Nat → List Nat → BitVec 128
  | x, _, [] => x
  | x, k, v :: vs => setLanes w (setLane x w k v) (k + 1) vs

theorem setLanes_eq_foldl {α : Type} (w : Nat) (f : α → Nat) (x : BitVec 128) (k m : Nat) (l : List α) :
    (l.zipIdx m).foldl (fun x p => setLane x w (k + p.2) (f p.1)) x = setLanes w x (k + m) (l.map f) := by
  induction l generalizing x m with
  | nil => rfl
  | cons a l ih => exact ih ..

theorem lane_setLanes {w : Nat} {l : List Nat} {k : Nat} (h : w * (k + l.length) ≤ 128) (x : BitVec 128) (j : Nat) :
    lane (setLanes w x k l) w j = if k ≤ j ∧ j < k + l.length then l.getD (j - k) 0 % 2 ^ w else lane x w j := by
  induction l generalizing x k with
  | nil => rw [if_neg (by simp), setLanes]
  | cons v vs ih =>
    rw [List.length_cons, ← Nat.add_assoc, Nat.add_right_comm] at h
    have hk : w * (k + 1) ≤ 128 := (Nat.mul_le_mul_left w (Nat.le_add_right ..)).trans h
    rw [setLanes, ih h, List.length_cons]
    by_cases hjk : j = k
    · subst hjk
      rw [if_neg (by omega), if_pos (by omega), lane_setLane_same v hk, Nat.sub_self, List.getD_cons_zero]
    · by_cases hin : k + 1 ≤ j ∧ j < k + 1 + vs.length
      · obtain ⟨m, rfl⟩ : ∃ m, j = k + 1 + m := ⟨j - (k + 1), by omega⟩
        rw [if_pos hin, if_pos (by omega), Nat.add_sub_cancel_left, Nat.add_assoc, Nat.add_sub_cancel_left, Nat.add_comm 1, List.getD_cons_succ]
      · rw [if_neg hin, if_neg (by omega), lane_setLane_ne v hk hjk]

/-! ### Conversions (R131) -/

section
variable {s : State} {d a b : BitVec 4}

/-- The lanes that a conversion writes, from `slot` on, from those of the source from `base` on. -/
theorem vcvtBody_eq {tag : BitVec 4} {sat : Bool} {k : BitVec 3} (ha : s.tag a ≠ 0)
    (hd : tagLanes (s.tag a) < tagLanes tag → s.tag d = tag ∨ s.tag d = 0) : vcvtBody s d a tag sat k =
      (let ns := tagLanes (s.tag a)
       let nd := tagLanes tag
       let base := if nd < ns then k.toNat % (ns / nd) * nd else 0
       let slot := if ns < nd then k.toNat % (nd / ns) * ns else 0
       let r (i : Nat) := cvtLane s.self.rm sat (s.tag a) tag (lane (s.v a) (tagBits (s.tag a)) (base + i))
       putV s d (setLanes (tagBits tag) (if ns < nd then s.v d else 0) slot ((List.range (min ns nd)).map fun i => (r i).1)) tag
         (flagsOf (min ns nd) r)) := by
  have hold {β : Type} (k : Unit → Except Stop β) :
      (if tagLanes (s.tag a) < tagLanes tag then accept (s.tag d == tag || s.tag d == 0) 0 >>= k else k ()) = k () := by
    split
    · next h => exact accept_bind (by simpa using hd h) ..
    · rfl
  rw [vcvtBody, accept_bind (bne_iff_ne.2 ha)]
  simp only [setLanes_eq_foldl, flagsOf, List.foldl_map, List.map_map, Nat.add_zero]
  exact hold _

theorem tagLanes_pos (t : BitVec 4) : 0 < tagLanes t := by revert t; decide

/-- A conversion to the narrower shape, or to one as wide, writes every lane of the destination. -/
theorem vcvtBody_narrow {tag : BitVec 4} {sat : Bool} {k : BitVec 3} (ha : s.tag a ≠ 0) (hn : tagLanes tag ≤ tagLanes (s.tag a)) :
    vcvtBody s d a tag sat k =
      (let r (i : Nat) := cvtLane s.self.rm sat (s.tag a) tag
         (lane (s.v a) (tagBits (s.tag a)) (k.toNat % (tagLanes (s.tag a) / tagLanes tag) * tagLanes tag + i))
       putV s d (setLanes (tagBits tag) 0 0 ((List.range (tagLanes tag)).map fun i => (r i).1)) tag (flagsOf (tagLanes tag) r)) := by
  have hbase : (if tagLanes tag < tagLanes (s.tag a) then k.toNat % (tagLanes (s.tag a) / tagLanes tag) * tagLanes tag else 0) =
      k.toNat % (tagLanes (s.tag a) / tagLanes tag) * tagLanes tag := by
    split
    · rfl
    · next h => rw [le_antisymm hn (not_lt.1 h), Nat.div_self (tagLanes_pos _), Nat.mod_one, Nat.zero_mul]
  rw [vcvtBody_eq ha fun h => absurd h (not_lt.2 hn)]
  simp only [not_lt.2 hn, if_false, min_eq_right hn, hbase]

/-- A conversion to the wider shape writes a group of the destination's lanes. -/
theorem vcvtBody_widen {tag : BitVec 4} {sat : Bool} {k : BitVec 3} (ha : s.tag a ≠ 0) (hn : tagLanes (s.tag a) < tagLanes tag)
    (hd : s.tag d = tag ∨ s.tag d = 0) : vcvtBody s d a tag sat k =
      (let r (i : Nat) := cvtLane s.self.rm sat (s.tag a) tag (lane (s.v a) (tagBits (s.tag a)) i)
       putV s d (setLanes (tagBits tag) (s.v d) (k.toNat % (tagLanes tag / tagLanes (s.tag a)) * tagLanes (s.tag a))
         ((List.range (tagLanes (s.tag a))).map fun i => (r i).1)) tag (flagsOf (tagLanes (s.tag a)) r)) := by
  rw [vcvtBody_eq ha fun _ => hd]
  simp only [hn, hn.not_gt, if_true, if_false, min_eq_left hn.le, Nat.zero_add]

/-- A group of `m` lanes lies within `n`. -/
theorem group_le {m n : Nat} (hm : 0 < m) (h : m ≤ n) (k : Nat) : k % (n / m) * m + m ≤ n := by
  have hk : k % (n / m) + 1 ≤ n / m := Nat.mod_lt _ (Nat.div_pos h hm)
  calc k % (n / m) * m + m = (k % (n / m) + 1) * m := (Nat.succ_mul ..).symm
    _ ≤ n / m * m := Nat.mul_le_mul_right m hk
    _ ≤ n := Nat.div_mul_le_self n m

/-! ### Dot products (R134) -/

theorem tagBits_of_half {t : BitVec 4} (h : t = 3 ∨ t = 4) : tagBits t = 16 := by revert t; decide
theorem tagBits_of_eight {t : BitVec 4} (h : t = 5 ∨ t = 6) : tagBits t = 8 := by revert t; decide
theorem tagBits_of_bytes {t : BitVec 4} (h : t = 10 ∨ t = 11) : tagBits t = 8 := by revert t; decide

/-- The product of two lanes of `w` bits as values of their tags' formats. -/
abbrev State.fpTerm (s : State) (a b : BitVec 4) (w i : Nat) : FVal × Flags :=
  ((fpOf (s.tag a)).decode (lane (s.v a) w i)).mul ((fpOf (s.tag b)).decode (lane (s.v b) w i))

abbrev State.intTerm (s : State) (a b : BitVec 4) (i : Nat) : Int :=
  (tagInt (s.tag a)).decode (lane (s.v a) 8 i) * (tagInt (s.tag b)).decode (lane (s.v b) 8 i)

/-- The dot products of halves: two products to a binary32 lane. -/
theorem vdotBody_half (ha : s.tag a = 3 ∨ s.tag a = 4) (hb : s.tag b = s.tag a) (hd : s.tag d = 2) :
    vdotBody s d a b = putLanes s d 2 fun j => rounded fmtF32 .rne
      (exactSum [(fmtF32.decode (lane (s.v d) 32 j), 0), s.fpTerm a b 16 (2 * j), s.fpTerm a b 16 (2 * j + 1)]) := by
  have h4 := toNat_of_half ha
  have h6 : (s.tag a).toNat ≤ 6 := h4.trans (by decide)
  refine (accept_bind (dotTag_iff.2 (.inl ha)) ..).trans ((if_pos h4).trans ((sameTag_bind hb _).trans ((accept_bind ?_ ..).trans ?_)))
  · simpa only [h6, if_true, beq_iff_eq] using hd
  · simp only [h6, if_true, tagBits_of_half ha]
    rfl

/-- The dot products of 8-bit values: four products to a binary32 lane. -/
theorem vdotBody_eight (ha : s.tag a = 5 ∨ s.tag a = 6) (hb : s.tag b = 5 ∨ s.tag b = 6) (hd : s.tag d = 2) :
    vdotBody s d a b = putLanes s d 2 fun j => rounded fmtF32 .rne
      (exactSum [(fmtF32.decode (lane (s.v d) 32 j), 0), s.fpTerm a b 8 (4 * j), s.fpTerm a b 8 (4 * j + 1), s.fpTerm a b 8 (4 * j + 2),
        s.fpTerm a b 8 (4 * j + 3)]) := by
  obtain ⟨h4, h6⟩ := toNat_of_eight ha
  refine (accept_bind (dotTag_iff.2 (.inr (.inl ha))) ..).trans ((if_neg h4).trans ((if_pos h6).trans
    ((accept_bind (by simpa using hb) ..).trans ((accept_bind ?_ ..).trans ?_))))
  · simpa only [h6, if_true, beq_iff_eq] using hd
  · simp only [h6, if_true, tagBits_of_eight ha]
    rfl

/-- A sum in I32, wrapped, does not see whether its first term is read signed (R88). -/
theorem wrap32_add (b : Nat) (y : Int) : ({ signed := true, bits := 32 } : IFmt).wrap (({ signed := true, bits := 32 } : IFmt).decode b + y) =
    ((b + y) % 2 ^ 32).toNat := by
  simp only [IFmt.wrap, IFmt.decode]
  split <;> push_cast <;> omega

/-- The dot products of integers: four products to an I32 lane. -/
theorem vdotBody_bytes (ha : s.tag a = 10 ∨ s.tag a = 11) (hb : s.tag b = 10 ∨ s.tag b = 11) (hd : s.tag d = 8) :
    vdotBody s d a b = putLanes s d 8 fun j => ((((lane (s.v d) 32 j : Int) + s.intTerm a b (4 * j) + s.intTerm a b (4 * j + 1) +
      s.intTerm a b (4 * j + 2) + s.intTerm a b (4 * j + 3)) % 2 ^ 32).toNat, 0) := by
  obtain ⟨h4, h6⟩ := toNat_of_bytes ha
  refine (accept_bind (dotTag_iff.2 (.inr (.inr ha))) ..).trans ((if_neg h4).trans ((if_neg h6).trans
    ((accept_bind (by simpa using hb) ..).trans ((accept_bind ?_ ..).trans ?_))))
  · simpa only [h6, if_false, beq_iff_eq] using hd
  · simp only [h6, if_false, tagBits_of_bytes ha, wrap32_add, Nat.reduceDiv, List.range_succ, List.range_zero, List.nil_append,
      List.cons_append, List.map_cons, List.map_nil, List.foldl_cons, List.foldl_nil, Int.zero_add, Nat.add_zero, Int.add_assoc]
    rfl

end

/-- Settles O37: a conversion writes a group of lanes (`vcvtBody_eq`, `lane_setLanes`), which is the whole register where the destination's shape is
the narrower; the dot products write four lanes. -/
theorem vectorConversions : Obligations.VectorConversions := by
  unfold Obligations.VectorConversions
  intro s g d a b tag sat k hp hg ha T ns nd conv
  have hcvt : exec (.vcvt g d a tag sat k) s = finish 4 s (vcvtBody s d a tag (sat == 1) k) := guarded_true g s _ hg.true
  have hdot {t : BitVec 4} {r : Nat → Nat × Flags} (h : vdotBody s d a b = putLanes s d t r) :
      writesLanes (.vdot g d a b) s d t (tagLanes t) (tagBits t) r :=
    writesLanes_of_body hp hg rfl h (fun _ => rfl) fun _ => rfl
  refine ⟨fun hn => ?_, fun hn hd => ?_, fun hT hb hd => hdot (vdotBody_bytes hT hb hd), fun hT hb hd => ?_,
    fun hT hb hd => hdot (vdotBody_eight hT hb hd)⟩
  · refine ⟨setLanes (tagBits tag) 0 0 ((List.range nd).map fun i => (conv (k.toNat % (ns / nd) * nd + i)).1), fun i hi => ?_, ?_⟩
    · rw [lane_setLanes (by simpa using (tagBits_mul_tagLanes tag).le)]
      simp [hi]
    · rw [hcvt, vcvtBody_narrow ha hn]
      exact finish_putV hp
  · intro at0
    have hfit : tagBits tag * (at0 + ((List.range ns).map fun i => (conv i).1).length) ≤ 128 := by
      rw [List.length_map, List.length_range]
      exact (Nat.mul_le_mul_left _ (group_le (tagLanes_pos T) hn.le k.toNat)).trans (tagBits_mul_tagLanes tag).le
    refine ⟨setLanes (tagBits tag) (s.v d) at0 ((List.range ns).map fun i => (conv i).1), ?_, fun i hi => ?_, fun i hi hout => ?_⟩
    · rw [hcvt, vcvtBody_widen ha hn hd]
      exact finish_putV hp
    · rw [lane_setLanes hfit]
      simp [hi]
    · rw [lane_setLanes hfit, if_neg]
      simp only [List.length_map, List.length_range]
      omega
  · have h2 := hdot (vdotBody_half hT hb hd)
    simp only [State.fpTerm, hb] at h2
    exact h2

end Sys2Proof.Machine
end

section
/-!
PROOFS. Moves of packed registers and the horizontal forms (O38).
-/

namespace Sys2Proof.Machine

open Claims

/-! ### The tree of a horizontal form (R137) -/

section
variable {op op' : Nat → Nat → Nat × Flags} {x : Nat → Nat}

theorem pairUp_range (t : Nat → Nat × Flags) (m : Nat) : pairUp op ((List.range (2 * m)).map t) =
    (List.range m).map fun i =>
      let r := op (t (2 * i)).1 (t (2 * i + 1)).1
      (r.1, r.2 ||| (t (2 * i)).2 ||| (t (2 * i + 1)).2) := by
  induction m generalizing t with
  | zero => rfl
  | succ m ih =>
    rw [Nat.mul_succ, List.range_succ_eq_map, List.range_succ_eq_map, List.range_succ_eq_map]
    simp only [List.map_cons, List.map_map, pairUp]
    exact congrArg _ (ih fun i => t (i + 2))

/-- A level of the model's tree is a level of the balanced one. -/
theorem pairUp_treeOf (k m : Nat) : pairUp op ((List.range (2 * m)).map fun i => treeOf op x k (i * 2 ^ k)) =
    (List.range m).map fun i => treeOf op x (k + 1) (i * 2 ^ (k + 1)) := by
  have hl (i : Nat) : 2 * i * 2 ^ k = i * 2 ^ (k + 1) := by rw [Nat.pow_succ]; ring
  have hr (i : Nat) : (2 * i + 1) * 2 ^ k = i * 2 ^ (k + 1) + 2 ^ k := by rw [Nat.pow_succ]; ring
  rw [pairUp_range]
  simp only [hl, hr]
  rfl

theorem treeFold_one (fuel : Nat) (r : Nat × Flags) : treeFold op fuel [r] = r := by
  induction fuel with
  | zero => rfl
  | succ fuel ih => exact ih

theorem treeFold_levels (j k fuel : Nat) : treeFold op (j + fuel) ((List.range (2 ^ j)).map fun i => treeOf op x k (i * 2 ^ k)) =
    treeOf op x (k + j) 0 := by
  induction j generalizing k with
  | zero => simp [treeFold_one]
  | succ j ih => rw [Nat.add_right_comm, treeFold, Nat.pow_succ', pairUp_treeOf, ih, Nat.add_right_comm, Nat.add_assoc]

/-- The model's fold over 2^j lanes is the balanced tree (R137). -/
theorem treeFold_eq {j : Nat} (hj : j ≤ 4) : treeFold op 4 ((List.range (2 ^ j)).map fun i => (x i, 0)) = treeOf op x j 0 := by
  have := treeFold_levels (op := op) (x := x) j 0 (4 - j)
  simpa only [Nat.add_sub_cancel' hj, pow_zero, mul_one, Nat.zero_add, treeOf] using this

/-- Two operations that agree where the lanes lie, and stay there, give the same tree. -/
theorem treeOf_congr {P : Nat → Prop} (hx : ∀ i, P (x i)) (hop : ∀ y z, P y → P z → op y z = op' y z ∧ P (op' y z).1) (j i : Nat) :
    treeOf op x j i = treeOf op' x j i ∧ P (treeOf op' x j i).1 := by
  induction j generalizing i with
  | zero => exact ⟨rfl, hx i⟩
  | succ j ih =>
    obtain ⟨hl, hPl⟩ := ih i
    obtain ⟨hr, hPr⟩ := ih (i + 2 ^ j)
    obtain ⟨heq, hP⟩ := hop _ _ hPl hPr
    exact ⟨by simp only [treeOf, hl, hr, heq], hP⟩

theorem treeOf_silent (h : ∀ y z, (op y z).2 = 0) (j i : Nat) : (treeOf op x j i).2 = 0 := by
  induction j generalizing i with
  | zero => rfl
  | succ j ih => simp [treeOf, h, ih]

/-- The tree of sums modulo `M` is the sum modulo `M`. -/
theorem treeOf_sum {M : Nat} (hx : ∀ i, x i < M) (j i : Nat) :
    (treeOf (fun y z => ((y + z) % M, 0)) x j i).1 = ((List.range (2 ^ j)).map fun m => x (i + m)).sum % M := by
  induction j generalizing i with
  | zero => simp [treeOf, Nat.mod_eq_of_lt (hx i)]
  | succ j ih =>
    rw [Nat.pow_succ, Nat.mul_two, List.range_add, List.map_append, List.map_map, List.sum_append, Nat.add_mod, ← ih i]
    simp only [Function.comp_def, ← Nat.add_assoc, ← ih (i + 2 ^ j)]
    rfl

end

/-! ### Sums and greatest of integer lanes (R137) -/

section
variable {k : IFmt}

theorem IFmt.decode_emod (b : Nat) : k.decode b % (2 ^ k.bits : Nat) = b % (2 ^ k.bits : Nat) := by
  rw [IFmt.decode]
  split
  · exact Int.sub_emod_right ..
  · rfl

theorem IFmt.wrap_decode {b : Nat} (h : b < 2 ^ k.bits) : k.wrap (k.decode b) = b := by
  rw [IFmt.wrap, IFmt.decode_emod]
  exact Nat.mod_eq_of_lt h

theorem IFmt.wrap_decode_add (b c : Nat) : k.wrap (k.decode b + k.decode c) = (b + c) % 2 ^ k.bits := by
  rw [IFmt.wrap, Int.add_emod, IFmt.decode_emod, IFmt.decode_emod, ← Int.add_emod]
  rfl

/-- The greater of two lanes is one of them. -/
theorem IFmt.wrap_max {b c : Nat} (hb : b < 2 ^ k.bits) (hc : c < 2 ^ k.bits) :
    k.wrap (max (k.decode b) (k.decode c)) = if k.decode b < k.decode c then c else b := by
  split
  · next h => rw [max_eq_right h.le, IFmt.wrap_decode hc]
  · next h => rw [max_eq_left (not_lt.1 h), IFmt.wrap_decode hb]

end

/-! ### Lanes (R90) -/

theorem lane_lt (x : BitVec 128) (w i : Nat) : lane x w i < 2 ^ w := Nat.mod_lt _ (Nat.two_pow_pos w)

theorem lane_mod (x : BitVec 128) (w i : Nat) : lane x w i % 2 ^ w = lane x w i := Nat.mod_eq_of_lt (lane_lt ..)

/-- A register that holds one lane's value in lane 0, and zeros (R137). -/
theorem lane_ofNat {X w : Nat} (hX : X < 2 ^ w) (hw : w ≤ 128) (i : Nat) : lane (BitVec.ofNat 128 X) w i = if i = 0 then X else 0 := by
  have h128 : X < 2 ^ 128 := hX.trans_le (Nat.pow_le_pow_right (by decide) hw)
  rw [lane, BitVec.toNat_ofNat, Nat.mod_eq_of_lt h128]
  split
  · next h => simp [h, Nat.mod_eq_of_lt hX]
  · next h =>
    have hi : w ≤ w * i := Nat.le_mul_of_pos_right w (Nat.pos_of_ne_zero h)
    rw [Nat.div_eq_of_lt (hX.trans_le (Nat.pow_le_pow_right (by decide) hi)), Nat.zero_mod]

theorem lane_setLane {x : BitVec 128} {w i : Nat} (v : Nat) (h : w * (i + 1) ≤ 128) (j : Nat) :
    lane (setLane x w i v) w j = (if j = i then v else lane x w j) % 2 ^ w := by
  split
  · next hj => rw [hj, lane_setLane_same v h]
  · next hj => rw [lane_setLane_ne v h hj, lane_mod]

/-! ### The bodies (R136, R137) -/

/-- The levels of the tree over the lanes of a tag. -/
def treeDepth (t : BitVec 4) : Nat := if t = 1 ∨ t = 7 then 1 else if t = 2 ∨ t = 8 then 2 else if t = 3 ∨ t = 4 ∨ t = 9 then 3 else 4

theorem treeDepth_le (t : BitVec 4) : treeDepth t ≤ 4 := by revert t; decide

theorem tagLanes_eq_pow {t : BitVec 4} (h : (fpTag t || intTag t) = true) : tagLanes t = 2 ^ treeDepth t := by revert t; decide

theorem tagInt_bits (t : BitVec 4) : (tagInt t).bits = tagBits t := rfl

theorem tagBits_le (t : BitVec 4) : tagBits t ≤ 128 := by revert t; decide

theorem not_fpTag_of_intTag {t : BitVec 4} (h : intTag t = true) : fpTag t = false := by revert t; decide

section
variable {s : State} {d a : BitVec 4}

theorem horizontal_fp (ha : fpTag (s.tag a) = true) (fpOp : Fmt → Nat → Nat → Nat × Flags) (intOp : IFmt → Int → Int → Int) :
    horizontal s d a fpOp intOp =
      (let r := treeOf (fpOp (fpOf (s.tag a))) (lane (s.v a) (tagBits (s.tag a))) (treeDepth (s.tag a)) 0
       putV s d (BitVec.ofNat 128 r.1) (s.tag a) r.2) := by
  have hfam : (fpTag (s.tag a) || intTag (s.tag a)) = true := by rw [ha, Bool.true_or]
  rw [horizontal, accept_bind hfam]
  simp only [ha, if_true, tagLanes_eq_pow hfam, treeFold_eq (treeDepth_le _)]

theorem horizontal_int {fpOp : Fmt → Nat → Nat → Nat × Flags} {intOp : IFmt → Int → Int → Int} {r : Nat × Flags}
    (ha : intTag (s.tag a) = true)
    (hr : treeOf (fun x y => ((tagInt (s.tag a)).wrap (intOp (tagInt (s.tag a)) ((tagInt (s.tag a)).decode x) ((tagInt (s.tag a)).decode y)), 0))
      (lane (s.v a) (tagBits (s.tag a))) (treeDepth (s.tag a)) 0 = r) :
    horizontal s d a fpOp intOp = putV s d (BitVec.ofNat 128 r.1) (s.tag a) r.2 := by
  subst hr
  have hfam : (fpTag (s.tag a) || intTag (s.tag a)) = true := by rw [ha, Bool.or_true]
  rw [horizontal, accept_bind hfam]
  simp only [not_fpTag_of_intTag ha, Bool.false_eq_true, if_false, tagLanes_eq_pow hfam, treeFold_eq (treeDepth_le _)]

/-- The tree of wrapped sums is the sum of the lanes, wrapped. -/
theorem treeOf_wrap_add {t : BitVec 4} (ht : intTag t = true) (x : BitVec 128) :
    treeOf (fun y z => ((tagInt t).wrap ((tagInt t).decode y + (tagInt t).decode z), 0)) (lane x (tagBits t)) (treeDepth t) 0 =
      (((List.range (tagLanes t)).map fun i => lane x (tagBits t) i).sum % 2 ^ tagBits t, 0) := by
  have hfam : (fpTag t || intTag t) = true := by rw [ht, Bool.or_true]
  have hsum := treeOf_sum (fun i => lane_lt x (tagBits t) i) (treeDepth t) 0
  refine Prod.ext ?_ (treeOf_silent (fun _ _ => rfl) ..)
  simp only [IFmt.wrap_decode_add, tagInt_bits]
  simpa only [Nat.zero_add, ← tagLanes_eq_pow hfam] using hsum

/-- The greater of two lanes of an integer tag. -/
abbrev laneMax (t : BitVec 4) (y z : Nat) : Nat × Flags := (if (tagInt t).decode y < (tagInt t).decode z then z else y, 0)

theorem treeOf_wrap_max (t : BitVec 4) (x : BitVec 128) (j : Nat) :
    treeOf (fun y z => ((tagInt t).wrap (max ((tagInt t).decode y) ((tagInt t).decode z)), 0)) (lane x (tagBits t)) j 0 =
      treeOf (laneMax t) (lane x (tagBits t)) j 0 ∧ (treeOf (laneMax t) (lane x (tagBits t)) j 0).1 < 2 ^ tagBits t := by
  refine treeOf_congr (P := (· < 2 ^ tagBits t)) (fun i => lane_lt x _ i) (fun y z hy hz => ⟨?_, ?_⟩) j 0
  · rw [IFmt.wrap_max hy hz]
  · dsimp only
    split <;> assumption

/-- A body that writes one lane's value, and zeros in the other lanes. -/
theorem writesLanes_lane0 {g tag : BitVec 4} {i : Instr} {n w : Nat} {body : Body} {r : Nat × Flags} (hp : Plain s 4)
    (hg : Guard s g) (hi : exec i s = guarded g s body) (hbody : body = putV s d (BitVec.ofNat 128 r.1) tag r.2) (hr : r.1 < 2 ^ w)
    (hw : w ≤ 128) (hfl : r.2 = 0) : writesLanes i s d tag n w fun j => if j = 0 then r else (0, 0) := by
  have hflags : flagsOf n (fun j => if j = 0 then r else (0, 0)) = 0 := by
    refine (flagsOf_congr (r := fun _ => (0, 0)) fun j => ?_).trans (flagsOf_none n fun _ => 0)
    dsimp only
    split
    · exact hfl
    · rfl
  refine ⟨BitVec.ofNat 128 r.1, fun j _ => ?_, ?_⟩
  · dsimp only
    rw [lane_ofNat hr hw]
    split
    · rw [Nat.mod_eq_of_lt hr]
    · rw [Nat.zero_mod]
  · rw [hi, guarded_true g s _ hg.true, hbody, finish_putV hp, hflags, hfl]

/-- The integer that a lane stands for under a signed tag is its sign extension (R87, R136). -/
theorem signExtend_decode {t : BitVec 4} {x : Nat} (ht : 7 ≤ t.toNat ∧ t.toNat ≤ 10) (hx : x < 2 ^ tagBits t) :
    (BitVec.ofNat (tagBits t) x).signExtend 64 = BitVec.ofInt 64 ((tagInt t).decode x) := by
  have htag : (tagInt t).signed = true ∧ tagBits t ≠ 0 := by
    clear hx
    revert t
    decide
  obtain ⟨hsg, hw⟩ := htag
  rw [signExtend_field hx, if_neg hw, IFmt.decode, hsg]
  simp only [Bool.true_and, decide_eq_true_eq, apply_ite (BitVec.ofInt 64), BitVec.ofInt_natCast, Nat.cast_pow, Nat.cast_ofNat]
  rfl

theorem vselBody_eq {b : BitVec 5} (hd : s.tag d = s.tag a) : vselBody s d a b =
    putLanes s d (s.tag a) fun i => (lane (if (s.g b).getLsbD i then s.v a else s.v d) (tagBits (s.tag a)) i, 0) := by
  rw [putLanes_silent, vselBody, sameTag_bind hd]

/-- A lane is extended as its tag says (R136). -/
theorem vextBody_eq {r : BitVec 5} {idx : BitVec 4} (ha : s.tag a ≠ 0) : vextBody s r a idx =
    (let w := tagBits (s.tag a)
     let x := lane (s.v a) w (idx.toNat % tagLanes (s.tag a))
     .ok (s.setG r (if 7 ≤ (s.tag a).toNat ∧ (s.tag a).toNat ≤ 10 then (BitVec.ofNat w x).signExtend 64 else BitVec.ofNat 64 x))) := by
  rw [vextBody, accept_bind (bne_iff_ne.2 ha)]
  by_cases hs : 7 ≤ (s.tag a).toNat ∧ (s.tag a).toNat ≤ 10
  · have hval := signExtend_decode hs (lane_lt (s.v a) (tagBits (s.tag a)) (idx.toNat % tagLanes (s.tag a)))
    simp only [hs, decide_true, Bool.and_self, and_self, if_true, hval]
    rfl
  · have hs' : (decide (7 ≤ (s.tag a).toNat) && decide ((s.tag a).toNat ≤ 10)) = false := by simpa using hs
    simp only [hs, hs', Bool.false_eq_true, if_false, BitVec.ofInt_natCast]
    rfl

end

/-- Settles O38: the moves write lanes that they take from a register (`lane_setLane` for the one that VINS replaces), and the horizontal forms fold
the lanes over a tree (`treeFold_eq`), whose operation on integers is that of the statement (`treeOf_wrap_add`, `treeOf_wrap_max`). -/
theorem vectorMoves : Obligations.VectorMoves := by
  unfold Obligations.VectorMoves
  intro s g d a idx tag r hp hg T w n D k j at0 horiz imax
  have hrun {i : Instr} {body : Body} (hi : exec i s = guarded g s body) : exec i s = finish 4 s body := hi.trans (guarded_true g s body hg.true)
  have hlanes {i : Instr} {body : Body} {t : BitVec 4} {f : Nat → Nat × Flags} (hi : exec i s = guarded g s body)
      (hbody : body = putLanes s d t f) : writesLanes i s d t (tagLanes t) (tagBits t) f :=
    writesLanes_of_body hp hg hi hbody (fun _ => rfl) fun _ => rfl
  refine ⟨?_, ?_, fun hd => hlanes rfl (vselBody_eq hd), hlanes rfl (putLanes_silent ..).symm, fun ha => ?_, fun hD => ?_, fun ha => ⟨?_, ?_⟩,
    fun ha => ⟨?_, ?_⟩⟩
  · refine ⟨ofLanes (tagBits tag) (List.replicate (tagLanes tag) (s.g r).toNat), fun i hi => ?_, ?_⟩
    · rw [lane_ofLanes (by simpa using (tagBits_mul_tagLanes tag).le)]
      simp [hi]
    · rw [hrun rfl, flagsOf_none]
      exact finish_putV hp
  · rw [hrun rfl, finish_putV hp]
    simp only [Thread.addFlags_zero]
    rfl
  · rw [hrun rfl, vextBody_eq ha]
    exact finish_setG s 4 hp ..
  · have hfit : tagBits D * (idx.toNat % tagLanes D + 1) ≤ 128 :=
      (Nat.mul_le_mul_left _ (Nat.mod_lt _ (tagLanes_pos D))).trans (tagBits_mul_tagLanes D).le
    refine ⟨setLane (s.v d) (tagBits D) (idx.toNat % tagLanes D) (s.g r).toNat, fun i _ => lane_setLane _ hfit i, ?_⟩
    rw [hrun rfl, vinsBody, accept_bind (bne_iff_ne.2 hD), flagsOf_none]
    exact finish_putV hp
  · rw [← fpTag_iff] at ha
    refine ⟨_, rfl, ?_⟩
    rw [hrun rfl, horizontal_fp ha]
    exact finish_putV hp
  · rw [← fpTag_iff] at ha
    rw [hrun rfl, horizontal_fp ha]
    exact finish_putV hp
  · rw [← intTag_iff] at ha
    exact writesLanes_lane0 hp hg rfl (horizontal_int ha (treeOf_wrap_add ha (s.v a))) (Nat.mod_lt _ (Nat.two_pow_pos w)) (tagBits_le T) rfl
  · rw [← intTag_iff] at ha
    obtain ⟨htree, hlt⟩ := treeOf_wrap_max T (s.v a) (treeDepth T)
    exact writesLanes_lane0 hp hg rfl (horizontal_int ha htree) hlt (tagBits_le T) (treeOf_silent (fun _ _ => rfl) ..)

end Sys2Proof.Machine
end

section
/-!
PROOFS. Packed loads and stores (O33): ranges of the own caddy of any length, VLD and VST.
-/

namespace Sys2Proof.Machine

open Claims

/-! ### Ranges of a caddy (R49, R50) -/

theorem gather_cons_joined {ps : List (Word × Nat × Target)} {u : Unit8} {us : List Unit8} (h : gather ps = u :: us) {va : Word} {n : Nat}
    {t : Target} (ht : together t u.t = true) (hpa : t.pa + n = u.t.pa) :
    gather ((va, n, t) :: ps) = { va, n := n + u.n, t, words := u.words + 1 } :: us := by
  simp [gather, h, ht, hpa]

/-- The pieces of a range of a caddy are performed together. -/
theorem State.locateAll_caddy {s : State} {q : Who} {k : Kind} {last : Option Xlat} {c : Coord} {off unit fuel n : Nat} {va : Word}
    (hunit : 0 < unit) (h0 : 0 < n) (hfuel : n ≤ fuel) (hc : isCaddy va = true) (h : s.caddyPlace q va n = .ok (c, off)) :
    ∃ ls, s.locateAll q k last (pieces va unit fuel n) = .ok ls ∧ gather ls =
      [{ va, n, t := { pa := caddyKey c off, cls := .caddy, home := c }, words := (pieces va unit fuel n).length }] := by
  induction fuel generalizing va n off with
  | zero => omega
  | succ fuel ih =>
    have hmod : va.toNat % unit < unit := Nat.mod_lt _ hunit
    have hpieces : pieces va unit (fuel + 1) n =
        (va, min n (unit - va.toNat % unit)) :: pieces (va + BitVec.ofNat 64 (min n (unit - va.toNat % unit))) unit fuel
          (n - min n (unit - va.toNat % unit)) := by
      rw [pieces]
      omega
    rcases Nat.lt_or_ge (unit - va.toNat % unit) n with hlt | hge
    · rw [min_eq_right hlt.le] at hpieces
      generalize hm : unit - va.toNat % unit = m at *
      obtain ⟨hfirst, hrest⟩ := State.caddyPlace_parts h hlt
      obtain ⟨hoff, hn, -⟩ := State.caddyPlace_ok_iff.1 h
      have hlow : Word.field va 0 18 + m < 2 ^ 18 := by omega
      obtain ⟨ls, hls, hg⟩ := ih (by omega) (by omega) ((isCaddy_add_low hlow).trans hc) hrest
      have hkey : caddyKey c off + m = caddyKey c (off + m) := by
        unfold caddyKey
        omega
      refine ⟨(va, m, { pa := caddyKey c off, cls := .caddy, home := c }) :: ls, ?_, ?_⟩
      · simp only [hpieces, State.locateAll, hc, if_true, hfirst, ok_bind, hls, pure_ok]
      · rw [gather_cons_joined hg (by simp [together]) hkey, hpieces]
        simp only [List.length_cons, Nat.add_sub_cancel' hlt.le]
    · rw [min_eq_left hge, Nat.sub_self, pieces_zero] at hpieces
      refine ⟨[(va, n, { pa := caddyKey c off, cls := .caddy, home := c })], ?_, ?_⟩
      · simp only [hpieces, State.locateAll, hc, if_true, h, ok_bind, pure_ok]
      · rw [hpieces]
        rfl

/-- The unit of a range of the own caddy. -/
def caddyUnit (c : Coord) (key : Nat) (va : Word) (n words : Nat) : Unit8 := { va, n, t := { pa := key, cls := .caddy, home := c }, words }

section
variable {s : State} {va : Word} {n key : Nat}

/-- A range of the own caddy is one unit, counted once for each of its pieces (R50, R205). -/
theorem OwnCaddyAt.unit (h : OwnCaddyAt s va n key) {unit : Nat} (hunit : 0 < unit) (h0 : 0 < n) (k : Kind) :
    s.locateUnits k va n unit = .ok [caddyUnit s.self.core key va n (pieces va unit n n).length] := by
  obtain ⟨hc, hplace, hkey, -⟩ := h
  obtain ⟨ls, hls, hg⟩ := State.locateAll_caddy (k := k) (last := none) hunit h0 le_rfl hc hplace
  unfold State.locateUnits State.locateRange State.wholeCaddy
  simp only [hc, if_true, hplace, ok_bind, pure_ok, hls, hg, ← hkey]
  rfl

theorem OwnCaddyAt.own (h : OwnCaddyAt s va n key) (u : Word) (m words : Nat) : s.ownCaddy (caddyUnit s.self.core key u m words).t = true := by
  obtain ⟨-, -, -, hsvc, hprim, -⟩ := h
  simp [caddyUnit, State.ownCaddy, hsvc, hprim]

end

/-! ### The pieces of sixteen bytes (R118) -/

theorem pieces_aligned {va : Word} (h : va.toNat % 16 = 0) : pieces va 16 16 16 = [(va, 16)] := pieces_one (by decide) (by omega)

theorem length_pieces_unaligned {va : Word} (h : va.toNat % 16 ≠ 0) : (pieces va 16 16 16).length = 2 := by
  have hva : va.toNat < 2 ^ 64 := va.isLt
  have hnext : (va + BitVec.ofNat 64 (16 - va.toNat % 16)).toNat % 16 = 0 := by
    rw [BitVec.toNat_add, BitVec.toNat_ofNat]
    omega
  rw [pieces_two rfl (by omega) (by omega) (by omega)]
  rfl

/-! ### VLD and VST (R117) -/

theorem othersKeep_past {s u : State} {n : Nat} (hcur : u.cur = s.cur) (h : othersKeep s u s.cur) : othersKeep s (past s n u) s.cur :=
  fun v hv => (State.thread_modSelf_ne u _ (by rwa [hcur])).trans (h v hv)

/-- The state after a load's requests for its units have set out; the thread changes by `f`. -/
def State.sentLoad (s : State) (f : Thread → Thread) (us : List Unit8) : State :=
  { s.modSelf f with nextId := s.nextId + 1, net := s.net ++ loadsFor s us }

theorem State.sentLoad_congr {s : State} {f h : Thread → Thread} (heq : f s.self = h s.self) (us : List Unit8) :
    s.sentLoad f us = s.sentLoad h us := by
  have hmod : s.modSelf f = s.modSelf h := congrArg (s.setThread s.cur) heq
  rw [State.sentLoad, hmod, State.sentLoad]

theorem State.sentLoad_others (s : State) (f : Thread → Thread) (us : List Unit8) : othersKeep s (s.sentLoad f us) s.cur :=
  fun _ hv => State.thread_modSelf_ne s f hv

theorem State.sentLoad_self (s : State) (f : Thread → Thread) (us : List Unit8) : (s.sentLoad f us).self = f s.self :=
  State.self_modSelf s f

section
variable {s : State} {t tag : BitVec 4} {va : Word}

/-- VLD of the own caddy (R50, R117). -/
theorem finish_vld_own {key : Nat} (hp : Plain s 4) (h : OwnCaddyAt s va 16 key) (hroom : s.self.ld + (pieces va 16 16 16).length ≤ 63) :
    finish 4 s (issueLoads s 4 [(va, 16, 16)] (.v t tag) none) =
      onlySelf s 4 fun x => x.setV t (BitVec.ofNat 128 (leNat (s.bytes key 16))) tag := by
  have hunit := OwnCaddyAt.unit h (unit := 16) (by decide) (by decide) .load
  have hown := OwnCaddyAt.own h va 16 (pieces va 16 16 16).length
  obtain ⟨-, -, -, -, -, -, hq, hs⟩ := h
  rw [issueLoads_own hunit hown rfl hq hs hroom]
  exact finish_self s 4 hp _ rfl rfl rfl rfl

/-- VST to the own caddy (R50, R117). -/
theorem finish_vst_own {key : Nat} {data : List Byte} (hp : Plain s 4) (hlen : data.length = 16) (h : OwnCaddyAt s va 16 key)
    (hroom : s.self.st + (pieces va 16 16 16).length ≤ 63) :
    finish 4 s (issueStore s va 16 data) = .next (past s 4 (s.putBytes key data)) := by
  have hunit : s.locateUnits .store va data.length 16 = .ok [caddyUnit s.self.core key va 16 (pieces va 16 16 16).length] :=
    hlen ▸ OwnCaddyAt.unit h (unit := 16) (by decide) (by decide) .store
  have hown := OwnCaddyAt.own h va 16 (pieces va 16 16 16).length
  obtain ⟨-, -, hkey, -, -, hc, hq, hs⟩ := h
  rw [issueStore_own hunit hown hlen.symm hkey (Nat.mod_lt _ (by decide)) hc hq hs hroom]
  exact finish_past hp rfl rfl rfl rfl rfl

/-- VLD of memory sets out (R117, R205). -/
theorem finish_vld_away {us : List Unit8} (hp : Plain s 4) (h : InMemoryAs s va 16 16 .load us) (hroom : s.self.ld + countOf us ≤ 63) :
    finish 4 s (issueLoads s 4 [(va, 16, 16)] (.v t tag) none) = .next (past s 4 (s.sentLoad (fun x => { x with
        ld := x.ld + countOf us
        pendV := x.pendV ||| BitVec.twoPow 16 t.toNat
        loads := x.loads ++ [{ id := s.nextId, dest := .v t tag, buf := List.replicate 16 0, left := us.length, words := countOf us }]
        hold := none }) us)) := by
  have hm (x : Thread) : x.pendG ||| Dest.marksG (.v t tag) = x.pendG := by simp [Dest.marksG]
  rw [issueLoads_away (by decide) (by decide) h.1 h.2 hroom]
  simp only [Thread.mark, hm, Dest.marksV]
  refine finish_past (s' := s.sentLoad _ us) hp ?_ ?_ ?_ ?_ rfl <;> rw [State.sentLoad_self]

/-- Sixteen aligned bytes of memory are one unit. -/
theorem inMemoryAs_aligned {k : Kind} {g : Target} (h : va.toNat % 16 = 0) (hg : s.locate s.self.who va 16 k = .ok g) (hcaddy : g.cls ≠ .caddy)
    (hpod : g.cls ≠ .pod) : InMemoryAs s va 16 16 k [{ va, n := 16, t := g, words := 1 }] := by
  refine ⟨State.locateUnits_one (by decide) (by omega) hg, fun u hu => ?_⟩
  obtain rfl := List.mem_singleton.1 hu
  exact ⟨hcaddy, hpod⟩

/-- VLD of sixteen aligned bytes of memory: one request, and the register is pending. -/
theorem finish_vld_request {g : Target} (hp : Plain s 4) (ha : va.toNat % 16 = 0) (hg : s.locate s.self.who va 16 .load = .ok g)
    (hcaddy : g.cls ≠ .caddy) (hpod : g.cls ≠ .pod) (hroom : s.self.ld < 63) :
    ∃ u, finish 4 s (issueLoads s 4 [(va, 16, 16)] (.v t tag) none) = .next u ∧ u.mem = s.mem ∧ u.self.v = s.self.v ∧ u.self.g = s.self.g ∧
      u.self.ld = s.self.ld + 1 ∧ u.self.pendV = s.self.pendV ||| BitVec.twoPow 16 t.toNat ∧
      u.net = s.net ++ [.load { s.accessOf va 16 g with id := s.nextId }] ∧ othersKeep s u s.cur := by
  refine ⟨_, finish_vld_away hp (inMemoryAs_aligned ha hg hcaddy hpod) hroom, rfl, ?_, ?_, ?_, ?_, rfl,
    othersKeep_past rfl (s.sentLoad_others _ _)⟩
  all_goals
    rw [past, State.self_modSelf, State.sentLoad_self]
    rfl

/-- VST to memory sets out (R117, R208). -/
theorem finish_vst_away {data : List Byte} {us : List Unit8} (hp : Plain s 4) (hlen : data.length = 16) (h : InMemoryAs s va 16 16 .store us)
    (hroom : s.self.st + countOf us ≤ 63) :
    finish 4 s (issueStore s va 16 data) = .next (past s 4 (s.stored (countOf us) (storesFor s us data))) := by
  obtain ⟨hu, hr⟩ := h
  have hu' : s.locateUnits .store va data.length 16 = .ok us := by rw [hlen, hu]
  rw [issueStore_away (by omega) (by decide) hu' hr hroom]
  refine finish_past hp ?_ ?_ ?_ ?_ rfl <;> rw [State.stored_self]

end

theorem exec_vld (s : State) (t tag : BitVec 4) (a : BitVec 5) (off : BitVec 8) :
    exec (.vld t a off tag) s = finish 4 s (issueLoads s 4 [(s.g a + BitVec.ofInt 64 (16 * off.toInt), 16, 16)] (.v t tag) none) := by
  rw [BitVec.ofInt_mul]
  rfl

end Sys2Proof.Machine
end

section
/-!
PROOFS. Quantised blocks (O33): VQNT.
-/

namespace Sys2Proof.Machine

open Claims

/-! ### The values of a group (R132) -/

theorem flatMap_range (m p : Nat) {α : Type} (f : Nat → Nat → α) :
    ((List.range m).flatMap fun i => (List.range p).map (f i)) = (List.range (m * p)).map fun i => f (i / p) (i % p) := by
  induction m with
  | zero => simp
  | succ m ih =>
    rw [List.range_succ, List.flatMap_append, ih, Nat.succ_mul, List.range_add, List.map_append, List.flatMap_singleton, List.map_map]
    refine congrArg _ (List.map_congr_left fun j hj => ?_)
    have hlt : j < p := List.mem_range.1 hj
    simp only [Function.comp_apply, Nat.add_comm (m * p), Nat.add_mul_div_right _ _ (Nat.zero_lt_of_lt hlt), Nat.div_eq_of_lt hlt, Nat.zero_add,
      Nat.add_mul_mod_self_right, Nat.mod_eq_of_lt hlt]

/-- A group whose registers have one tag is accepted (R132). -/
theorem group_bind {s : State} {a : BitVec 4} {l : List (BitVec 4)} (h : ∀ r ∈ l, s.tag r = s.tag a) {β : Type}
    (k : List Unit → Except Stop β) : (l.mapM (fun r => sameTag s r a) >>= k) = k (l.map fun _ => ()) := by
  induction l generalizing k with
  | nil => rfl
  | cons r rs ih =>
    rw [List.forall_mem_cons] at h
    rw [List.mapM_cons, bind_assoc, sameTag_bind h.1, bind_assoc, ih h.2]
    rfl

theorem groupRegs_eq (r : BitVec 4) (n : Nat) : groupRegs r n = (List.range n).map fun i => r + BitVec.ofNat 4 i :=
  List.map_congr_left fun i _ => by rw [BitVec.ofNat_add, BitVec.ofNat_toNat, BitVec.setWidth_eq]

/-- The lanes of a group, register by register, are those of its registers in turn. -/
theorem flatMap_groupRegs (r0 : BitVec 4) {c p : Nat} (hc : c / p * p = c) {α : Type} (f : BitVec 4 → Nat → α) :
    ((groupRegs r0 (c / p)).flatMap fun r => (List.range p).map (f r)) =
      (List.range c).map fun i => f (r0 + BitVec.ofNat 4 (i / p)) (i % p) := by
  rw [groupRegs_eq, List.flatMap_map, flatMap_range (c / p) p fun i => f (r0 + BitVec.ofNat 4 i), hc]

/-- The elements of a block of a format: 32 of an MX format, 16 of a PE format (R132). -/
def blockCount (f : BitVec 4) : Nat := if isMxCode (12 + f.toNat) then 32 else 16

theorem blockCount_eq (f : BitVec 4) : blockCount f = if f.toNat ≤ 5 then 32 else 16 := by
  rw [blockCount, isMxCode_add]
  simp only [decide_eq_true_eq]

theorem blockCount_div_mul {t : BitVec 4} (h : t ∈ [2#4, 3#4, 4#4]) (f : BitVec 4) : blockCount f / tagLanes t * tagLanes t = blockCount f := by
  revert t f; decide

/-- The block that VQNT makes of a group (R132). -/
def qntBlock (s : State) (r0 f : BitVec 4) : Nat × Nat :=
  quantBlock (12 + f.toNat) ((List.range (blockCount f)).map fun i =>
    (fpOf (s.tag r0)).decode (lane (s.v (r0 + BitVec.ofNat 4 (i / tagLanes (s.tag r0)))) (tagBits (s.tag r0)) (i % tagLanes (s.tag r0))))

section
variable {s : State} {d b : BitVec 5} {h : BitVec 1} {f r0 : BitVec 4} (hr0 : BitVec.ofNat 4 (8 * h.toNat) = r0) (ht : s.tag r0 ∈ [2#4, 3#4, 4#4])
  (hgroup : ∀ j < blockCount f / tagLanes (s.tag r0), s.tag (r0 + BitVec.ofNat 4 j) = s.tag r0)
include hr0 ht hgroup

/-- A group of one tag is stored: its elements and, of an MX format, its scale. -/
theorem vqntBody_eq : vqntBody s d h b f =
    (let elems := (s.g d, leBytes (blockBytes (12 + f.toNat)) (qntBlock s r0 f).1)
     issueStores s (if isMxCode (12 + f.toNat) then [elems, (s.g b, leBytes 1 (qntBlock s r0 f).2)] else [elems])) := by
  have hall : ∀ r ∈ groupRegs r0 (blockCount f / tagLanes (s.tag r0)), s.tag r = s.tag r0 := by
    rw [groupRegs_eq]
    simp only [List.forall_mem_map, List.mem_range]
    exact hgroup
  have hvalues := flatMap_groupRegs r0 (blockCount_div_mul ht f) fun r i => (fpOf (s.tag r0)).decode (lane (s.v r) (tagBits (s.tag r0)) i)
  subst hr0
  rw [vqntBody, accept_bind (qntTag_iff.2 ht)]
  simp only [← blockCount.eq_1, groupRegs_count, group_bind hall, qntBlock]
  rw [← hvalues]
  rfl

theorem vqntBody_mx (hf : f.toNat ≤ 5) : vqntBody s d h b f =
    issueStores s [(s.g d, leBytes (blockBytes (12 + f.toNat)) (qntBlock s r0 f).1), (s.g b, leBytes 1 (qntBlock s r0 f).2)] := by
  rw [vqntBody_eq hr0 ht hgroup, isMxCode_add]
  simp only [hf, decide_true, if_true]

theorem vqntBody_pe (hf : ¬ f.toNat ≤ 5) : vqntBody s d h b f =
    issueStores s [(s.g d, leBytes (blockBytes (12 + f.toNat)) (qntBlock s r0 f).1)] := by
  rw [vqntBody_eq hr0 ht hgroup, isMxCode_add]
  simp only [hf, decide_false, Bool.false_eq_true, if_false]

end

/-! ### Stores of several ranges (R132) -/

/-- One unit of a counted range leaves the core, or is performed at once in the own caddy. -/
def groupUnit (x : Thread) (gid : Nat) (acc : State × List Byte) (u : Unit8) : State × List Byte :=
  let (s, bs) := acc
  (if s.ownCaddy u.t then s.caddyWrite x.ctx x.core (keyOff u.t.pa) (bs.take u.n)
   else { s with net := s.net ++ [.store { s.accessOf u.va u.n u.t with id := gid } (bs.take u.n)] }, bs.drop u.n)

/-- One range of several is stored. -/
def storeRange (x : Thread) (s : State) (us : List Unit8) (data : List Byte) : State :=
  let away := (us.filter fun u => !s.ownCaddy u.t).length
  let (gid, s) := if away = 0 then (0, s) else (s.count .st 1).newGroup .st [s.cur] away
  (us.foldl (groupUnit x gid) (s, data)).1

theorem issueStores_eq (s : State) (ranges : List (Word × List Byte)) : issueStores s ranges = (do
    let locs ← ranges.mapM fun r => lift (s.locateUnits .store r.1 r.2.length 8)
    roomFor s .st ranges.length
    gate s (locs.flatten.filter fun u => s.ownCaddy u.t)
    pure ((locs.zip ranges).foldl (fun t p => storeRange s.self t p.1 p.2.2) s)) := rfl

/-- Every range located (R205). -/
theorem mapM_lift {α β : Type} {f : α → Except Fail β} {l : List α} {ls : List β} (h : List.Forall₂ (fun a b => f a = .ok b) l ls) :
    l.mapM (fun a => lift (f a)) = .ok ls := by
  induction h with
  | nil => rfl
  | cons h _ ih => simp only [List.mapM_cons, h, lift_ok, ok_bind, ih, pure_ok]

theorem issueStores_located {s : State} {ranges : List (Word × List Byte)} {locs : List (List Unit8)}
    (hlocs : List.Forall₂ (fun r us => s.locateUnits .store r.1 r.2.length 8 = .ok us) ranges locs)
    (hgate : gate s (locs.flatten.filter fun u => s.ownCaddy u.t) = .ok ()) (hroom : s.self.st + ranges.length ≤ 63) :
    issueStores s ranges = .ok ((locs.zip ranges).foldl (fun t p => storeRange s.self t p.1 p.2.2) s) := by
  rw [issueStores_eq, mapM_lift hlocs, ok_bind, roomFor_ok (c := .st) hroom, ok_bind, hgate]
  rfl

/-- A range of the own caddy is stored at once. -/
theorem storeRange_own {s : State} {va : Word} {words key : Nat} {bs : List Byte}
    (hown : s.ownCaddy (caddyUnit s.self.core key va bs.length words).t = true) (hkey : key = caddyKey s.self.core (key % 2 ^ 18))
    (hc : NoConvene (s.coreAt s.self.core)) (hs : Sound s) :
    storeRange s.self s [caddyUnit s.self.core key va bs.length words] bs = s.putBytes key bs := by
  have ho : keyOff key = key % 2 ^ 18 := rfl
  simp only [storeRange, List.filter_cons, hown, Bool.not_true, Bool.false_eq_true, if_false, List.filter_nil, List.length_nil, if_true,
    List.foldl_cons, List.foldl_nil, groupUnit]
  simp only [caddyUnit, ho, List.take_length, State.caddyWrite_plain hs hc, ← hkey]

/-! ### Ranges of memory -/

/-- The requests of a counted range. -/
def rangeFor (s : State) (id : Nat) (us : List Unit8) (bs : List Byte) : List Packet :=
  (withOffsets 0 us).map fun l => .store { s.accessOf l.2.va l.2.n l.2.t with id } ((bs.drop l.1).take l.2.n)

/-- A count of ST that falls when `k` parts are acknowledged (R132). -/
def State.grouped (s : State) (k : Nat) : State :=
  { s.modSelf (fun x => { x with st := x.st + 1 }) with
    nextId := s.nextId + 1
    groups := Tab.set s.groups s.nextId { left := k, ctr := .st, threads := [s.cur] } }

theorem State.count_newGroup {s : State} (hroom : s.self.st < 63) (k : Nat) : ((s.count .st 1).newGroup .st [s.cur] k).2 = s.grouped k := by
  rw [State.count_room (c := .st) hroom]
  rfl

theorem State.grouped_self (s : State) (k : Nat) : (s.grouped k).self = { s.self with st := s.self.st + 1 } :=
  State.self_modSelf s fun x => { x with st := x.st + 1 }

theorem State.accessOf_grouped (s : State) (k : Nat) : (s.grouped k).accessOf = s.accessOf := by
  unfold State.accessOf
  rw [State.grouped_self]
  rfl

/-- The state after a counted range has set out: one count of ST for all its requests (R132). -/
def State.sentRange (s : State) (us : List Unit8) (bs : List Byte) : State :=
  { s.grouped us.length with net := s.net ++ rangeFor s s.nextId us bs }

theorem State.sentRange_self (s : State) (us : List Unit8) (bs : List Byte) : (s.sentRange us bs).self = { s.self with st := s.self.st + 1 } :=
  s.grouped_self us.length

theorem rangeFor_sentRange (s : State) (us : List Unit8) (bs : List Byte) : rangeFor (s.sentRange us bs) = rangeFor s := by
  have h : (s.sentRange us bs).accessOf = s.accessOf := s.accessOf_grouped us.length
  unfold rangeFor
  rw [h]

theorem foldl_groupUnit {us : List Unit8} (hr : Remote us) (x : Thread) (id : Nat) (s : State) (bs : List Byte) (off : Nat) :
    (us.foldl (groupUnit x id) (s, bs.drop off)).1 = { s with
      net := s.net ++ (withOffsets off us).map fun l => .store { s.accessOf l.2.va l.2.n l.2.t with id } ((bs.drop l.1).take l.2.n) } := by
  induction us generalizing s off with
  | nil => simp [withOffsets]
  | cons u us ih =>
    obtain ⟨hu, hr⟩ := List.forall_mem_cons.1 hr
    have hone : groupUnit x id (s, bs.drop off) u =
        ({ s with net := s.net ++ [.store { s.accessOf u.va u.n u.t with id } ((bs.drop off).take u.n)] }, bs.drop (off + u.n)) := by
      simp only [groupUnit, State.ownCaddy_of_cls hu.1, Bool.false_eq_true, if_false, List.drop_drop]
    rw [List.foldl_cons, hone, ih hr, withOffsets, List.map_cons]
    simp only [List.append_assoc, List.singleton_append]
    rfl

/-- A range of memory sets out (R132). -/
theorem storeRange_away {us : List Unit8} (hr : Remote us) (hne : us ≠ []) (x : Thread) {s : State} (hroom : s.self.st < 63) (bs : List Byte) :
    storeRange x s us bs = s.sentRange us bs := by
  have haway : us.filter (fun u => !s.ownCaddy u.t) = us := List.filter_eq_self.2 fun u h => by simp [State.ownCaddy_of_cls (hr u h).1]
  have hlen : us.length ≠ 0 := fun h => hne (List.length_eq_zero_iff.1 h)
  have hfold := foldl_groupUnit hr x s.nextId (s.grouped us.length) bs 0
  rw [State.accessOf_grouped, List.drop_zero, ← State.count_newGroup hroom] at hfold
  simp only [storeRange, haway, hlen, if_false]
  refine hfold.trans ?_
  rw [State.count_newGroup hroom]
  rfl

theorem sentRange_sentRange (s : State) (us uc : List Unit8) (bs cs : List Byte) : (s.sentRange us bs).sentRange uc cs =
    { s.modSelf (fun x => { x with st := x.st + 2 }) with
      nextId := s.nextId + 2
      groups := Tab.set (Tab.set s.groups s.nextId { left := us.length, ctr := .st, threads := [s.cur] }) (s.nextId + 1)
        { left := uc.length, ctr := .st, threads := [s.cur] }
      net := s.net ++ rangeFor s s.nextId us bs ++ rangeFor s (s.nextId + 1) uc cs } := by
  rw [State.sentRange, rangeFor_sentRange]
  simp only [State.sentRange, State.grouped, State.modSelf, State.modThread, State.setThread, State.thread, Tab.set_set, Tab.get_set_self]

theorem gate_remote {s : State} {us : List Unit8} (hr : Remote us) : gate s (us.filter fun u => s.ownCaddy u.t) = .ok () := by
  rw [List.filter_eq_nil_iff.2 fun u h => by simp [State.ownCaddy_of_cls (hr u h).1]]
  rfl

theorem ne_nil_of_located {s : State} {k : Kind} {va : Word} {n unit : Nat} {us : List Unit8} (hunit : 0 < unit) (h0 : 0 < n)
    (h : s.locateUnits k va n unit = .ok us) : us ≠ [] := by
  rintro rfl
  have := State.locateUnits_total hunit h
  simp at this
  omega

/-! ### VQNT (R132) -/

section
variable {s : State} {va vb : Word} {n m : Nat} {bs cs : List Byte} (hp : Plain s 4) (hroom : s.self.st < 62)
include hp hroom

theorem finish_store_own_range {key : Nat} (hn : bs.length = n) (h0 : 0 < n) (h : OwnCaddyAt s va n key) :
    finish 4 s (issueStores s [(va, bs)]) = .next (past s 4 (s.putBytes key bs)) := by
  subst hn
  have hu := OwnCaddyAt.unit h (unit := 8) (by decide) h0 .store
  have hown := OwnCaddyAt.own h va bs.length (pieces va 8 bs.length bs.length).length
  obtain ⟨-, -, hkey, -, -, hc, hq, hs⟩ := h
  rw [issueStores_located (ranges := [(va, bs)]) (.cons hu .nil) (gate_quiet hq _) (by simp; omega)]
  simp only [List.zip_cons_cons, List.zip_nil_left, List.foldl_cons, List.foldl_nil, storeRange_own hown hkey hc hs]
  exact finish_past hp rfl rfl rfl rfl rfl

theorem finish_store_own_ranges {key kc : Nat} (hn : bs.length = n) (hm : cs.length = m) (h0 : 0 < n) (h1 : 0 < m) (h : OwnCaddyAt s va n key)
    (h' : OwnCaddyAt s vb m kc) :
    finish 4 s (issueStores s [(va, bs), (vb, cs)]) = .next (past s 4 ((s.putBytes key bs).putBytes kc cs)) := by
  subst hn hm
  have hu := OwnCaddyAt.unit h (unit := 8) (by decide) h0 .store
  have hown := OwnCaddyAt.own h va bs.length (pieces va 8 bs.length bs.length).length
  have hu' := OwnCaddyAt.unit h' (unit := 8) (by decide) h1 .store
  have hown' := OwnCaddyAt.own h' vb cs.length (pieces vb 8 cs.length cs.length).length
  obtain ⟨-, -, hkey, -, -, hc, hq, hs⟩ := h
  obtain ⟨-, -, hkey', -⟩ := h'
  have hsecond : storeRange s.self (s.putBytes key bs) [caddyUnit s.self.core kc vb cs.length (pieces vb 8 cs.length cs.length).length] cs =
      (s.putBytes key bs).putBytes kc cs := storeRange_own (s := s.putBytes key bs) hown' hkey' hc hs
  rw [issueStores_located (ranges := [(va, bs), (vb, cs)]) (.cons hu (.cons hu' .nil)) (gate_quiet hq _) (by simp; omega)]
  simp only [List.zip_cons_cons, List.zip_nil_left, List.foldl_cons, List.foldl_nil, storeRange_own hown hkey hc hs, hsecond]
  exact finish_past hp rfl rfl rfl rfl rfl

theorem finish_store_range {us : List Unit8} (hn : bs.length = n) (h0 : 0 < n) (h : InMemoryAs s va n 8 .store us) :
    finish 4 s (issueStores s [(va, bs)]) = .next (past s 4 (s.sentRange us bs)) := by
  subst hn
  obtain ⟨hu, hr⟩ := h
  have hr' : Remote [us].flatten := by rwa [List.flatten_singleton]
  rw [issueStores_located (ranges := [(va, bs)]) (.cons hu .nil) (gate_remote hr') (by simp; omega)]
  simp only [List.zip_cons_cons, List.zip_nil_left, List.foldl_cons, List.foldl_nil,
    storeRange_away hr (ne_nil_of_located (by decide) h0 hu) s.self (hroom.trans (by decide)) bs]
  refine finish_past hp ?_ ?_ ?_ ?_ rfl <;> rw [State.sentRange_self]

theorem finish_store_ranges {us uc : List Unit8} (hn : bs.length = n) (hm : cs.length = m) (h0 : 0 < n) (h1 : 0 < m)
    (h : InMemoryAs s va n 8 .store us) (h' : InMemoryAs s vb m 8 .store uc) :
    finish 4 s (issueStores s [(va, bs), (vb, cs)]) = .next (past s 4 ((s.sentRange us bs).sentRange uc cs)) := by
  subst hn hm
  obtain ⟨hu, hr⟩ := h
  obtain ⟨hu', hr'⟩ := h'
  have hroom' : (s.sentRange us bs).self.st < 63 := by
    rw [State.sentRange_self]
    exact Nat.succ_lt_succ hroom
  have hall : Remote [us, uc].flatten := by
    simp only [List.flatten_cons, List.flatten_nil, List.append_nil]
    exact fun u hu => (List.mem_append.1 hu).elim (hr u) (hr' u)
  rw [issueStores_located (ranges := [(va, bs), (vb, cs)]) (.cons hu (.cons hu' .nil)) (gate_remote hall) (by simp; omega)]
  simp only [List.zip_cons_cons, List.zip_nil_left, List.foldl_cons, List.foldl_nil,
    storeRange_away hr (ne_nil_of_located (by decide) h0 hu) s.self (hroom.trans (by decide)) bs,
    storeRange_away hr' (ne_nil_of_located (by decide) h1 hu') s.self hroom' cs]
  refine finish_past hp ?_ ?_ ?_ ?_ rfl <;> rw [State.sentRange_self, State.sentRange_self]

end

end Sys2Proof.Machine
end

section
/-!
PROOFS. Blocks read (O33): VDEQ.
-/

namespace Sys2Proof.Machine

open Claims

/-! ### Loads of several ranges (R133, R205) -/

/-- The bytes of units of the own caddy, one after the other. -/
theorem State.ownBytes_eq {s : State} {us : List Unit8} (hown : ∀ u ∈ us, s.ownCaddy u.t = true) (bs : List Byte) :
    s.ownBytes (withOffsets bs.length us) (bs ++ List.replicate (us.map (·.n)).sum 0) = bs ++ us.flatMap fun u => s.bytes u.t.pa u.n := by
  induction us generalizing bs with
  | nil => simp [State.ownBytes, withOffsets]
  | cons u us ih =>
    obtain ⟨hu, hus⟩ := List.forall_mem_cons.1 hown
    have hput : putBuf (bs ++ List.replicate ((u :: us).map (·.n)).sum 0) bs.length (s.bytes u.t.pa u.n) =
        (bs ++ s.bytes u.t.pa u.n) ++ List.replicate (us.map (·.n)).sum 0 := by
      simp [putBuf, List.drop_append]
    have hlen : (bs ++ s.bytes u.t.pa u.n).length = bs.length + u.n := by simp
    have hrest := ih hus (bs ++ s.bytes u.t.pa u.n)
    rw [hlen] at hrest
    rw [withOffsets, State.ownBytes, List.foldl_cons, if_pos hu, hput]
    exact hrest.trans (by simp)

section
variable {s : State} {ranges : List (Word × Nat × Nat)} {parts : List (List Unit8)}
  (hparts : List.Forall₂ (fun r us => s.locateUnits .load r.1 r.2.1 r.2.2 = .ok us) ranges parts) {c : Nat} (hroom : s.self.ld + c ≤ 63)
include hparts hroom

/-- A load of ranges of the own caddy has their bytes at once (R50, R133). -/
theorem issueLoads_ranges_own (hown : ∀ u ∈ parts.flatten, s.ownCaddy u.t = true) (hq : Quiet s) (hs : Sound s) (size : Nat) (dest : Dest) :
    issueLoads s size ranges dest none (some c) =
      .ok (s.modSelf (landLoad · dest (parts.flatten.flatMap fun u => s.bytes u.t.pa u.n))) := by
  have hbuf := State.ownBytes_eq hown []
  have haway : (withOffsets 0 parts.flatten).filter (fun l => !s.ownCaddy l.2.t) = [] :=
    List.filter_eq_nil_iff.2 fun l h => by simp [hown _ (mem_withOffsets h)]
  rw [List.nil_append, List.length_nil, List.nil_append] at hbuf
  rw [issueLoads, mapM_lift hparts, ok_bind]
  simp only [Option.getD_some, roomFor_ok (c := .ld) hroom, ok_bind, gate_quiet hq, State.meetOwn_sound hs, foldl_withOffsets, Nat.zero_add,
    hbuf, haway, List.isEmpty_nil, if_true]
  rfl

/-- A load of ranges of memory sets out (R133, R205). -/
theorem issueLoads_ranges_away (hr : Remote parts.flatten) (hne : parts.flatten ≠ []) (size : Nat) (dest : Dest) :
    issueLoads s size ranges dest none (some c) = .ok (s.sentLoad (fun x => { x.mark dest with
        ld := x.ld + c
        loads := x.loads ++ [{ id := s.nextId, dest, buf := List.replicate (parts.flatten.map (·.n)).sum 0, left := parts.flatten.length,
                               words := c }]
        hold := none }) parts.flatten) := by
  have hlocs : ∀ l ∈ withOffsets 0 parts.flatten, s.ownCaddy l.2.t = false := fun l h => State.ownCaddy_of_cls (hr _ (mem_withOffsets h)).1
  have haway : (withOffsets 0 parts.flatten).filter (fun l => !s.ownCaddy l.2.t) = withOffsets 0 parts.flatten :=
    List.filter_eq_self.2 fun l h => by simp [hlocs l h]
  have hsome : (withOffsets 0 parts.flatten).isEmpty = false := by
    rwa [← Bool.not_eq_true, List.isEmpty_iff, ← List.length_eq_zero_iff, length_withOffsets, List.length_eq_zero_iff]
  have hfull : (withOffsets 0 parts.flatten).any (fun l => remoteJudged l.2.t) = false :=
    List.any_eq_false.2 fun l h => by simp [remoteJudged_of_cls (hr _ (mem_withOffsets h))]
  have hbuf (b : List Byte) : s.ownBytes (withOffsets 0 parts.flatten) b = b :=
    List.foldlRecOn (motive := fun a => a = b) _ _ rfl fun a ha l h => by rw [ha, hlocs l h]; rfl
  have hmeet : s.meetOwn parts.flatten = s := by
    rw [State.meetOwn, List.filter_eq_nil_iff.2 fun u h => by simp [State.ownCaddy_of_cls (hr u h).1]]
    rfl
  rw [issueLoads, mapM_lift hparts, ok_bind]
  simp only [Option.getD_some, roomFor_ok (c := .ld) hroom, ok_bind, gate_remote hr, hmeet, foldl_withOffsets, Nat.zero_add, hbuf, haway, hsome,
    hfull, Option.isSome_none, Bool.false_and, Bool.or_false, Bool.false_eq_true, if_false, length_withOffsets, State.newId, pure_ok]
  rw [State.count_room (s := { s with nextId := s.nextId + 1 }) (c := .ld) hroom, State.modSelf_modSelf]
  rfl

end

/-! ### Registers of a group written (R133) -/

theorem Thread.getElem_setV (t : Thread) (d r : BitVec 4) (x : BitVec 128) (tag : BitVec 4) :
    (t.setV d x tag).v[r.toNat] = (if r.toNat = d.toNat then x else t.v[r.toNat]) ∧
      (t.setV d x tag).tag[r.toNat] = if r.toNat = d.toNat then tag else t.tag[r.toNat] := by
  simp [Thread.setV, Vector.getElem_set, eq_comm]

/-- Registers `d` to `d + n - 1` hold the values, four to a register, and the others are as they were. -/
theorem getElem_landRegs (t : Thread) {d n : Nat} (h : d + n ≤ 16) (vs : List Nat) (r : BitVec 4) :
    (landRegs t d n vs).v[r.toNat] =
        (if d ≤ r.toNat ∧ r.toNat < d + n then ofLanes 32 ((vs.drop (4 * (r.toNat - d))).take 4) else t.v[r.toNat]) ∧
      (landRegs t d n vs).tag[r.toNat] = if d ≤ r.toNat ∧ r.toNat < d + n then 2 else t.tag[r.toNat] := by
  induction n generalizing t d vs with
  | zero =>
    have hno : ¬ (d ≤ r.toNat ∧ r.toNat < d + 0) := by omega
    simp only [hno, if_false]
    exact ⟨rfl, rfl⟩
  | succ n ih =>
    have hd : (BitVec.ofNat 4 d).toNat = d := by
      rw [BitVec.toNat_ofNat]
      omega
    obtain ⟨hv, htag⟩ := ih (t.setV (BitVec.ofNat 4 d) (ofLanes 32 (vs.take 4)) 2) (d := d + 1) (by omega) (vs.drop 4)
    obtain ⟨hv0, htag0⟩ := t.getElem_setV (BitVec.ofNat 4 d) r (ofLanes 32 (vs.take 4)) 2
    rw [hv0, hd] at hv
    rw [htag0, hd] at htag
    rw [landRegs, hv, htag, List.drop_drop]
    rcases Nat.lt_trichotomy r.toNat d with hlt | heq | hgt
    · have hrest : ¬ (d + 1 ≤ r.toNat ∧ r.toNat < d + 1 + n) := by omega
      have hall : ¬ (d ≤ r.toNat ∧ r.toNat < d + (n + 1)) := by omega
      simp only [hlt.ne, hrest, hall, if_false, and_self]
    · simp [heq]
    · have hk : 4 * (r.toNat - d) = 4 + 4 * (r.toNat - (d + 1)) := by omega
      have hin : (d ≤ r.toNat ∧ r.toNat < d + (n + 1)) ↔ (d + 1 ≤ r.toNat ∧ r.toNat < d + 1 + n) := by omega
      simp only [hgt.ne', hin, hk, if_false, and_self]

theorem landRegs_frame (t : Thread) (d n : Nat) (vs : List Nat) : ∃ v tag, landRegs t d n vs = { t with v, tag } := by
  induction n generalizing t d vs with
  | zero => exact ⟨t.v, t.tag, rfl⟩
  | succ n ih =>
    obtain ⟨v, tag, h⟩ := ih (t.setV (BitVec.ofNat 4 d) (ofLanes 32 (vs.take 4)) 2) (d + 1) (vs.drop 4)
    exact ⟨v, tag, h⟩

/-- A lane of a register of the group is the value at its place in the list. -/
theorem lane_drop_take (vs : List Nat) {j : Nat} : lane (ofLanes 32 ((vs.drop (4 * (j / 4))).take 4)) 32 (j % 4) = vs.getD j 0 % 2 ^ 32 := by
  have hlen : 32 * ((vs.drop (4 * (j / 4))).take 4).length ≤ 128 := by
    have := List.length_take_le 4 (vs.drop (4 * (j / 4)))
    omega
  have hj : j % 4 < 4 := Nat.mod_lt _ (by decide)
  rw [lane_ofLanes hlen]
  simp [List.getD_eq_getElem?_getD, List.getElem?_drop, hj, Nat.div_add_mod]

/-! ### The arrival of a block (R133) -/

theorem leNat_eq_foldr (bs : List Byte) : bs.foldr (fun b n => b.toNat + 256 * n) 0 = leNat bs := by
  induction bs with
  | nil => rfl
  | cons b bs ih => rw [List.foldr_cons, ih, leNat]

/-- An element of a block as binary32, with its flags (R96, R133). -/
abbrev deqElem (f : BitVec 4) (rm : RMode) (bytes scale i : Nat) : Nat × Flags :=
  fmtF32.round rm false (blockElem (12 + f.toNat) bytes scale i)

theorem deqLand_eq (t : Thread) (q : BitVec 2) (f : BitVec 4) (rm : RMode) {bs : List Byte} (hlen : bs.length = blockBytes (12 + f.toNat))
    (cs : List Byte) : deqLand t q f rm (bs ++ cs) =
      (landRegs t (4 * q.toNat) (deqRegs f) ((List.range (4 * deqRegs f)).map fun i => (deqElem f rm (leNat bs) (cs.headD 0).toNat i).1)).addFlags
        (flagsOf (4 * deqRegs f) (deqElem f rm (leNat bs) (cs.headD 0).toNat)) := by
  simp only [deqLand, deqBlock, ← hlen, List.take_left, List.drop_left, leNat_eq_foldr, flagsOf, List.map_map, List.foldl_map]
  rfl

/-- What a block leaves in its thread. -/
structure Dequantised (t u : Thread) (q : BitVec 2) (f : BitVec 4) (rm : RMode) (bytes scale : Nat) : Prop where
  lanes : ∀ j < 4 * deqRegs f, lane u.v[(BitVec.ofNat 4 (4 * q.toNat + j / 4)).toNat] 32 (j % 4) = (deqElem f rm bytes scale j).1 % 2 ^ 32 ∧
    u.tag[(BitVec.ofNat 4 (4 * q.toNat + j / 4)).toNat] = 2
  others : ∀ r : BitVec 4, r.toNat < 4 * q.toNat ∨ 4 * q.toNat + deqRegs f ≤ r.toNat →
    u.v[r.toNat] = t.v[r.toNat] ∧ u.tag[r.toNat] = t.tag[r.toNat]
  frame : ∃ v tag, u = { t with v, tag, fcsr := t.fcsr ||| ((flagsOf (4 * deqRegs f) (deqElem f rm bytes scale)).setWidth 64 <<< 4) }

section
variable {t u : Thread} {q : BitVec 2} {f : BitVec 4} {rm : RMode} {bytes scale : Nat} (h : Dequantised t u q f rm bytes scale)
include h

theorem Dequantised.keeps_control : u.pc = t.pc ∧ u.lend = t.lend ∧ u.lc = t.lc ∧ u.pl = t.pl := by
  obtain ⟨v, tag, rfl⟩ := h.frame
  exact ⟨rfl, rfl, rfl, rfl⟩

theorem Dequantised.keeps_registers :
    u.fcsr = t.fcsr ||| ((flagsOf (4 * deqRegs f) (deqElem f rm bytes scale)).setWidth 64 <<< 4) ∧ u.g = t.g ∧ u.p = t.p := by
  obtain ⟨v, tag, rfl⟩ := h.frame
  exact ⟨rfl, rfl, rfl⟩

end

theorem deqLand_dequantised (t : Thread) {q : BitVec 2} {f : BitVec 4} (hfit : 4 * q.toNat + deqRegs f ≤ 16) (rm : RMode) {bs : List Byte}
    (hlen : bs.length = blockBytes (12 + f.toNat)) (cs : List Byte) :
    Dequantised t (deqLand t q f rm (bs ++ cs)) q f rm (leNat bs) (cs.headD 0).toNat := by
  rw [deqLand_eq t q f rm hlen]
  have hregs := getElem_landRegs t hfit ((List.range (4 * deqRegs f)).map fun i => (deqElem f rm (leNat bs) (cs.headD 0).toNat i).1)
  constructor
  case lanes =>
    intro j hj
    have hr : (BitVec.ofNat 4 (4 * q.toNat + j / 4)).toNat = 4 * q.toNat + j / 4 := by
      rw [BitVec.toNat_ofNat]
      omega
    have hin : 4 * q.toNat ≤ 4 * q.toNat + j / 4 ∧ 4 * q.toNat + j / 4 < 4 * q.toNat + deqRegs f := by omega
    obtain ⟨hv, htag⟩ := hregs (BitVec.ofNat 4 (4 * q.toNat + j / 4))
    rw [if_pos (by rwa [hr])] at hv htag
    refine ⟨?_, htag⟩
    simp only [Thread.addFlags]
    rw [hv, hr, Nat.add_sub_cancel_left, lane_drop_take]
    simp [hj]
  case others =>
    intro r hr
    obtain ⟨hv, htag⟩ := hregs r
    rw [if_neg (by omega)] at hv htag
    exact ⟨hv, htag⟩
  case frame =>
    obtain ⟨v, tag, h⟩ := landRegs_frame t (4 * q.toNat) (deqRegs f)
      ((List.range (4 * deqRegs f)).map fun i => (deqElem f rm (leNat bs) (cs.headD 0).toNat i).1)
    exact ⟨v, tag, by rw [h, Thread.addFlags]⟩

/-! ### VDEQ (R133) -/

theorem vdeq_fits {g f : BitVec 4} {q : BitVec 2} {a b : BitVec 5} (h : wellFormed (.vdeq g q a b f) = true) : 4 * q.toNat + deqRegs f ≤ 16 := by
  have heven : ∀ q : BitVec 2, q.getLsbD 0 = false → 4 * q.toNat + 8 ≤ 16 := by decide
  have hlt := q.isLt
  rw [deqRegs]
  split
  · next hf =>
    have hwf : (guardOk g && f.toNat ≤ 8 && (if f.toNat ≤ 5 then q.getLsbD 0 == false else b == 0)) = true := h
    rw [if_pos hf, Bool.and_eq_true, beq_iff_eq] at hwf
    exact heven q hwf.2
  · omega

theorem blockBytes_pos (code : Nat) : 0 < blockBytes code := by
  unfold blockBytes
  split <;> decide

theorem landLoad_deq (x y : Thread) (q : BitVec 2) (f : BitVec 4) (buf : List Byte) :
    landLoad x (.deq q f (y.fcsr.setWidth 3)) buf = deqLand x q f y.rm buf := by
  rw [landLoad, Thread.rm, Word.field, BitVec.toNat_setWidth, Nat.pow_zero, Nat.div_one]

section
variable {s : State} {q : BitVec 2} {a b : BitVec 5} {f : BitVec 4}

/-- The ranges that VDEQ reads: the elements and, of an MX format, the scale. -/
theorem vdeqBody_mx (hf : f.toNat ≤ 5) : vdeqBody s q a b f =
    issueLoads s 4 [(s.g a, blockBytes (12 + f.toNat), 8), (s.g b, 1, 8)] (.deq q f (s.self.fcsr.setWidth 3)) none (some 2) := by
  simp only [vdeqBody, isMxCode_add, hf, decide_true, if_true]

theorem vdeqBody_pe (hf : ¬ f.toNat ≤ 5) : vdeqBody s q a b f =
    issueLoads s 4 [(s.g a, blockBytes (12 + f.toNat), 8)] (.deq q f (s.self.fcsr.setWidth 3)) none (some 1) := by
  simp only [vdeqBody, isMxCode_add, hf, decide_false, Bool.false_eq_true, if_false]

/-- A block of the own caddy is read at once (R50, R133). -/
theorem vdeqBody_own {ke kc : Nat} (hroom : s.self.ld < 62) (h : OwnCaddyAt s (s.g a) (blockBytes (12 + f.toNat)) ke)
    (h' : f.toNat ≤ 5 → OwnCaddyAt s (s.g b) 1 kc) : vdeqBody s q a b f =
      .ok (s.modSelf fun x => deqLand x q f s.self.rm (s.bytes ke (blockBytes (12 + f.toNat)) ++ if f.toNat ≤ 5 then s.bytes kc 1 else [])) := by
  have hu := OwnCaddyAt.unit h (unit := 8) (by decide) (blockBytes_pos _) .load
  have hown := OwnCaddyAt.own h (s.g a) (blockBytes (12 + f.toNat))
  obtain ⟨-, -, -, -, -, -, hq, hs⟩ := h
  by_cases hf : f.toNat ≤ 5
  · have hu' := OwnCaddyAt.unit (h' hf) (unit := 8) (by decide) (by decide) .load
    have hown' := OwnCaddyAt.own (h' hf) (s.g b) 1
    rw [vdeqBody_mx hf, issueLoads_ranges_own (ranges := [(s.g a, blockBytes (12 + f.toNat), 8), (s.g b, 1, 8)]) (.cons hu (.cons hu' .nil))
      (by omega) (List.forall_mem_cons.2 ⟨hown _, List.forall_mem_cons.2 ⟨hown' _, nofun⟩⟩) hq hs, if_pos hf]
    simp only [landLoad_deq]
    rfl
  · rw [vdeqBody_pe hf, issueLoads_ranges_own (ranges := [(s.g a, blockBytes (12 + f.toNat), 8)]) (.cons hu .nil) (by omega)
      (List.forall_mem_cons.2 ⟨hown _, nofun⟩) hq hs,
      if_neg hf]
    simp only [landLoad_deq]
    rfl

/-- A block of memory is asked for (R133). -/
theorem vdeqBody_away {us uc : List Unit8} (hroom : s.self.ld < 62) (h : InMemoryAs s (s.g a) (blockBytes (12 + f.toNat)) 8 .load us)
    (h' : if f.toNat ≤ 5 then InMemoryAs s (s.g b) 1 8 .load uc else uc = []) : vdeqBody s q a b f =
      .ok (s.sentLoad (fun x => { x with
          ld := x.ld + if f.toNat ≤ 5 then 2 else 1
          pendV := x.pendV ||| BitVec.ofNat 16 ((2 ^ deqRegs f - 1) * 2 ^ (4 * q.toNat))
          loads := x.loads ++ [{
            id := s.nextId, dest := .deq q f (x.fcsr.setWidth 3)
            buf := List.replicate (if f.toNat ≤ 5 then blockBytes (12 + f.toNat) + 1 else blockBytes (12 + f.toNat)) 0
            left := (us ++ uc).length, words := if f.toNat ≤ 5 then 2 else 1 }]
          hold := none }) (us ++ uc)) := by
  obtain ⟨hu, hr⟩ := h
  have hm (x : Thread) (rm : BitVec 3) : x.pendG ||| Dest.marksG (.deq q f rm) = x.pendG := by simp [Dest.marksG]
  have hne := ne_nil_of_located (by decide) (blockBytes_pos _) hu
  have htotal := State.locateUnits_total (by decide) hu
  by_cases hf : f.toNat ≤ 5
  · rw [if_pos hf] at h'
    obtain ⟨hu', hr'⟩ := h'
    have htotal' := State.locateUnits_total (by decide) hu'
    have hflat : [us, uc].flatten = us ++ uc := by simp
    have hall : Remote [us, uc].flatten := by
      rw [hflat]
      exact fun u hu => (List.mem_append.1 hu).elim (hr u) (hr' u)
    have hsome : [us, uc].flatten ≠ [] := by
      rw [hflat]
      exact List.append_ne_nil_of_left_ne_nil hne uc
    rw [vdeqBody_mx hf, issueLoads_ranges_away (ranges := [(s.g a, blockBytes (12 + f.toNat), 8), (s.g b, 1, 8)]) (.cons hu (.cons hu' .nil))
      (c := 2) (by omega) hall hsome]
    simp only [hflat, List.map_append, List.sum_append, htotal, htotal', Thread.mark, hm, Dest.marksV, hf, if_true]
    exact congrArg _ (State.sentLoad_congr rfl _)
  · rw [if_neg hf] at h'
    subst h'
    have hflat : [us].flatten = us := List.flatten_singleton
    have hall : Remote [us].flatten := by rwa [hflat]
    have hsome : [us].flatten ≠ [] := by rwa [hflat]
    rw [vdeqBody_pe hf, issueLoads_ranges_away (ranges := [(s.g a, blockBytes (12 + f.toNat), 8)]) (.cons hu .nil)
      (c := 1) (by omega) hall hsome]
    simp only [hflat, htotal, Thread.mark, hm, Dest.marksV, hf, if_false, List.append_nil]
    exact congrArg _ (State.sentLoad_congr rfl _)

end

end Sys2Proof.Machine
end

section
/-!
PROOFS. Packed loads and stores, and blocks (O33).
-/

namespace Sys2Proof.Machine

open Claims

section
variable {s : State} {q : BitVec 2} {a b : BitVec 5} {f : BitVec 4} (hp : Plain s 4) (hroom : s.self.ld < 62)
include hp hroom

/-- VDEQ of the own caddy: the registers have their values at once, and nothing else of the thread but sr.fcsr changes (R133). -/
theorem finish_vdeq_own {ke kc : Nat} (hfit : 4 * q.toNat + deqRegs f ≤ 16) (h : OwnCaddyAt s (s.g a) (blockBytes (12 + f.toNat)) ke)
    (h' : f.toNat ≤ 5 → OwnCaddyAt s (s.g b) 1 kc) :
    ∃ F : Thread → Thread, finish 4 s (vdeqBody s q a b f) = onlySelf s 4 F ∧
      Dequantised s.self (F s.self) q f s.self.rm (leNat (s.bytes ke (blockBytes (12 + f.toNat))))
        (if f.toNat ≤ 5 then (s.byte kc).toNat else 0) := by
  have hdeq := deqLand_dequantised s.self hfit s.self.rm (s.length_bytes ke _) (if f.toNat ≤ 5 then s.bytes kc 1 else [])
  have hscale : ((if f.toNat ≤ 5 then s.bytes kc 1 else []).headD 0).toNat = if f.toNat ≤ 5 then (s.byte kc).toNat else 0 := by
    split <;> rfl
  rw [hscale] at hdeq
  refine ⟨fun x => deqLand x q f s.self.rm (s.bytes ke (blockBytes (12 + f.toNat)) ++ if f.toNat ≤ 5 then s.bytes kc 1 else []), ?_, hdeq⟩
  obtain ⟨hpc, hlend, hlc, hpl⟩ := hdeq.keeps_control
  rw [vdeqBody_own hroom h h']
  exact finish_self s 4 hp _ hpc hlend hlc hpl

/-- VDEQ of memory sets out (R133). -/
theorem finish_vdeq_away {us uc : List Unit8} (h : InMemoryAs s (s.g a) (blockBytes (12 + f.toNat)) 8 .load us)
    (h' : if f.toNat ≤ 5 then InMemoryAs s (s.g b) 1 8 .load uc else uc = []) : finish 4 s (vdeqBody s q a b f) =
      .next (past s 4 (s.sentLoad (fun x => { x with
          ld := x.ld + if f.toNat ≤ 5 then 2 else 1
          pendV := x.pendV ||| BitVec.ofNat 16 ((2 ^ deqRegs f - 1) * 2 ^ (4 * q.toNat))
          loads := x.loads ++ [{
            id := s.nextId, dest := .deq q f (x.fcsr.setWidth 3)
            buf := List.replicate (if f.toNat ≤ 5 then blockBytes (12 + f.toNat) + 1 else blockBytes (12 + f.toNat)) 0
            left := (us ++ uc).length, words := if f.toNat ≤ 5 then 2 else 1 }]
          hold := none }) (us ++ uc))) := by
  rw [vdeqBody_away hroom h h']
  refine finish_past hp ?_ ?_ ?_ ?_ rfl <;> rw [State.sentLoad_self]

end

/-- Settles O33: a range of the own caddy is one unit (`OwnCaddyAt.unit`), which is read or written at once; the units of ranges of memory set out,
for VQNT as one count for each range (`storeRange_away`), for VDEQ as one load (`issueLoads_ranges_away`). -/
theorem vectorMemoryForms : Obligations.VectorMemoryForms := by
  unfold Obligations.VectorMemoryForms
  constructor
  · intro s t tag a off imm g key hp la sa
    have hst : exec (.vst t a imm) s = finish 4 s (issueStore s sa 16 (leBytes 16 (s.v t).toNat)) := rfl
    have hlen : (leBytes 16 (s.v t).toNat).length = 16 := length_leBytes ..
    rw [answers, exec_vld, hst]
    exact ⟨fun ha h hroom => finish_vld_own hp h (by rwa [pieces_aligned ha]),
      fun ha hg hc hpod hroom => finish_vld_request hp ha hg hc hpod hroom,
      fun ha h hroom => finish_vst_own hp hlen h (by rwa [pieces_aligned ha]),
      fun ha hg hc hpod hroom => finish_vst_away hp hlen (inMemoryAs_aligned ha hg hc hpod) hroom,
      fun ha h hroom => finish_vld_own hp h (by rwa [length_pieces_unaligned ha]),
      fun ha h hroom => finish_vst_own hp hlen h (by rwa [length_pieces_unaligned ha]),
      fun us h hroom => finish_vld_away hp h hroom, fun us h hroom => finish_vst_away hp hlen h hroom⟩
  · intro s g f d a b h q ke kc hp hg hf9 code mx n
    have hqnt : exec (.vqnt g d h b f) s = finish 4 s (vqntBody s d h b f) := guarded_true g s _ hg.true
    have hdeq : exec (.vdeq g q a b f) s = finish 4 s (vdeqBody s q a b f) := guarded_true g s _ hg.true
    have hmx : mx = true ↔ f.toNat ≤ 5 := decide_eq_true_iff
    have hpos : 0 < n := blockBytes_pos code
    refine ⟨?_, fun hwf hroom us uc hu hc => ?_, fun hwf hroom hke hkc => ?_⟩
    · intro r0 T per count x block hT hgroup hroom
      have hcount : count = blockCount f := by
        rw [blockCount_eq]
        simp only [count, hmx]
      have hblock : block = qntBlock s r0 f := by
        simp only [block, hcount]
        rfl
      rw [hcount] at hgroup
      have hlen := length_leBytes n (qntBlock s r0 f).1
      have hlen' := length_leBytes 1 (qntBlock s r0 f).2
      rw [hqnt, hblock]
      refine ⟨fun hke => ⟨fun hm hkc => ?_, fun hm => ?_⟩, fun us uc hu hc => ⟨fun hm => ?_, fun hm => ?_⟩⟩
      · rw [vqntBody_mx rfl hT hgroup (hmx.1 hm)]
        exact finish_store_own_ranges hp hroom hlen hlen' hpos Nat.one_pos hke hkc
      · rw [vqntBody_pe rfl hT hgroup (of_decide_eq_false hm)]
        exact finish_store_own_range hp hroom hlen hpos hke
      · rw [vqntBody_mx rfl hT hgroup (hmx.1 hm), finish_store_ranges hp hroom hlen hlen' hpos Nat.one_pos hu (hc hm), sentRange_sentRange]
        rfl
      · rw [vqntBody_pe rfl hT hgroup (of_decide_eq_false hm)]
        exact finish_store_range hp hroom hlen hpos hu
    · simp only [hmx] at hc
      rw [hdeq, finish_vdeq_away hp hroom hu hc]
      intro regs words
      simp only [regs, words, hmx]
      rfl
    · intro bytes scale regs
      have hregs : regs = deqRegs f := by
        simp only [regs, hmx]
        rfl
      have hscale : scale = if f.toNat ≤ 5 then (s.byte kc).toNat else 0 := by simp only [scale, hmx]
      obtain ⟨F, hrun, hD⟩ := finish_vdeq_own hp hroom (vdeq_fits hwf) hke fun hf => hkc (hmx.2 hf)
      rw [← hscale] at hD
      obtain ⟨hfcsr, hg', hp'⟩ := hD.keeps_registers
      have hself : (past s 4 (s.modSelf F)).self = issuedAt s.fresh (s.self.pc + 4) (F s.self) := by
        rw [past, State.self_modSelf, State.self_modSelf]
        rfl
      rw [hregs]
      refine ⟨_, hdeq.trans hrun, fun j hj => ?_, fun r hr => ?_, ?_, ?_, ?_, ?_, rfl,
        othersKeep_past rfl fun v hv => State.thread_modSelf_ne s F hv⟩
      · intro r
        rw [State.v, State.tag, hself]
        exact hD.lanes j hj
      · rw [State.v, State.tag, hself]
        exact hD.others r hr
      · rw [hself]
        exact hfcsr
      · rw [hself]
        exact hg'
      · rw [hself]
        exact hp'
      · rw [hself]
        rfl

end Sys2Proof.Machine
end

section
/-!
PROOFS. The instructions of accumulation (O42): ACC.INIT, ACC.SETTLE, RED.V, DET.NEXT, DRAIN and TMLD.
-/

namespace Sys2Proof.Machine

open Claims

/-! ### Operands (R164, R175) -/

theorem badAddr_good {x : Word} {align : Nat} (hx : x.toNat < 2 ^ 57) (ha : x.toNat % align = 0) : badAddr x align = false := by
  have hf : Word.field x 57 7 = 0 := by rw [Word.field, Nat.div_eq_of_lt hx, Nat.zero_mod]
  simp [badAddr, hf, ha]

theorem needClass_ok {s : State} {va : Word} {k : Kind} {c : Cls} {y : Xlat} (hc : isCaddy va = false) (hy : s.xlate s.self.who va k = .ok y)
    (hcls : y.cls = c) : needClass s va k c = .ok y := by
  simp [needClass, hc, hy, hcls]

theorem mapM_ok {α β : Type} {f : α → Except Stop β} {g : α → β} {l : List α} (h : ∀ a ∈ l, f a = .ok (g a)) : l.mapM f = .ok (l.map g) := by
  induction l with
  | nil => rfl
  | cons a l ih =>
    obtain ⟨ha, hl⟩ := List.forall_mem_cons.1 h
    simp only [List.mapM_cons, ha, ok_bind, ih hl, pure_ok, List.map_cons]

/-! ### Completion in sequence -/

/-- A body that leaves `x` of the executing thread, which changes nothing of what the loop check reads, completes in sequence (R273, R377). -/
theorem finish_leaves {s u : State} {size : Nat} {x : Thread} (h : Plain s size) (hself : u.self = x) (hpc : x.pc = s.self.pc)
    (hend : x.lend = s.self.lend) (hlc : x.lc = s.self.lc) (hpl : x.pl = s.self.pl) (hnow : u.fresh = s.fresh) :
    finish size s (.ok u) = .next (past s size u) ∧ (past s size u).self = issuedAt s.fresh (s.self.pc + BitVec.ofNat 48 size) x := by
  obtain ⟨hstep, hloop⟩ := h
  refine ⟨?_, by rw [past, State.self_modSelf, hself]⟩
  rw [finish, hstep, State.complete_off, hself, hpc, hnow]
  · rfl
  · rwa [hself, hpc, hend, hpl, hlc]

/-! ### Operations that count once and are acknowledged in parts (R149, R176) -/

section
variable {s : State}

/-- The state after such an operation, counted in ST, has sent its requests. -/
def State.sentGroup (s : State) (k : Nat) (ps : List Packet) : State := { s.grouped k with net := s.net ++ ps }

theorem State.sentGroup_self (k : Nat) (ps : List Packet) : (s.sentGroup k ps).self = { s.self with st := s.self.st + 1 } := s.grouped_self k

/-- What an instruction that counts once in ST and sends its requests leaves. -/
theorem answers_sentGroup {i : Instr} {body : Body} {k : Nat} {ps : List Packet} (hp : Plain s 4) (hi : exec i s = finish 4 s body)
    (hb : body = .ok (s.sentGroup k ps)) :
    answers i s fun u => u.self.st = s.self.st + 1 ∧ u.net = s.net ++ ps ∧ u.mem = s.mem ∧ u.nextKey = s.nextKey ∧ u.detRec = s.detRec ∧
      u.self.g = s.self.g ∧ u.self.pc = s.self.pc + 4 ∧ othersKeep s u s.cur := by
  obtain ⟨hrun, hself⟩ := finish_leaves hp (s.sentGroup_self k ps) rfl rfl rfl rfl rfl
  refine ⟨past s 4 (s.sentGroup k ps), by rw [hi, hb, hrun], ?_, rfl, rfl, rfl, rfl, ?_, ?_, ?_⟩
  · rw [hself]
    rfl
  · rw [hself]
    rfl
  · rw [hself]
    rfl
  · exact othersKeep_past rfl fun v hv => State.thread_modSelf_ne s (fun x => { x with st := x.st + 1 }) hv

theorem State.count_newGroup_st (hroom : s.self.st < 63) (k : Nat) :
    (s.count .st 1).newGroup .st [s.cur] k = (s.nextId, s.grouped k) := Prod.ext rfl (State.count_newGroup hroom k)

theorem tileLines_grouped (k : Nat) (y : Xlat) (va : Word) (id : Nat) : tileLines (s.grouped k) y va id = tileLines s y va id := by
  unfold tileLines
  rw [State.accessOf_grouped]
  rfl

end

section
variable {s : State} {y : Xlat} {a b : BitVec 5}

/-! ### ACC.INIT and DET.NEXT (R176, R180) -/

theorem accInitBody_ok (ha : (s.g a).toNat % 1024 = 0) (hx : (s.g a).toNat < 2 ^ 57) (hw : Word.field (s.g b) 48 16 = 0)
    (hc : isCaddy (s.g a) = false) (hy : s.xlate s.self.who (s.g a) .store = .ok y) (hcls : y.cls = .acc) (hroom : s.self.st < 63) :
    accInitBody s a b = .ok (s.sentGroup 16 ((tileLines s y (s.g a) s.nextId).map fun l =>
      .accInit l ((s.g b).setWidth 32) (BitVec.ofNat 16 (Word.field (s.g b) 32 16)))) := by
  unfold accInitBody
  simp only [badAddr_good hx ha, Bool.false_eq_true, if_false, hw, ne_eq, not_true, needClass_ok hc hy hcls, ok_bind, pure_ok,
    roomFor_ok (c := .st) (n := 1) hroom, State.count_newGroup_st hroom, tileLines_grouped]
  rfl

theorem detNextBody_ok (ha : (s.g a).toNat % 64 = 0) (hx : (s.g a).toNat < 2 ^ 57) (hw0 : s.g b ≠ 0) (hw : (s.g b).toNat % 64 = 0)
    (hc : isCaddy (s.g a) = false) (hy : s.xlate s.self.who (s.g a) .store = .ok y) (hcls : y.cls = .det)
    (hpage : (s.g a).toNat + (s.g b).toNat ≤ y.vbase + y.size) (hroom : s.self.st < 63) :
    detNextBody s a b = .ok (s.sentGroup (s.slicesFor (s.partOf s.self.ctx) y.place).length
      ((s.slicesFor (s.partOf s.self.ctx) y.place).map fun h =>
        .detNext { s.accessOf (s.g a) (s.g b).toNat { s.targetOf y (s.g a) with home := h } with id := s.nextId } y.place)) := by
  unfold detNextBody
  simp only [badAddr_good hx ha, Bool.false_eq_true, if_false, hw0, hw, decide_false, ne_eq, not_true, Bool.or_self, needClass_ok hc hy hcls,
    ok_bind, pure_ok, if_neg (Nat.not_lt.2 hpage), roomFor_ok (c := .st) (n := 1) hroom, State.count_newGroup_st hroom, State.accessOf_grouped]
  rfl

/-! ### DRAIN (R179) -/

/-- The packet of one row: its one or two lines, and where its elements and its scale go. -/
def drainPacket (s : State) (y : Xlat) (x : Word) (f : BitVec 5) (clr : Bool) (rows scales : Nat → List (Word × Nat × Target)) (r : Nat) : Packet :=
  let line (base : Word) : Access :=
    { s.accessOf (base + BitVec.ofNat 64 (64 * r)) 64 (s.targetOf y (base + BitVec.ofNat 64 (64 * r))) with id := s.nextId }
  let acc (l : Word × Nat × Target) : Access := { s.accessOf l.1 l.2.1 l.2.2 with id := s.nextId, bypass := true }
  .drainRow (line x :: if isMxCode f.toNat then [line (x + 1024)] else []) f clr ((rows r).map acc) ((scales r).map acc)

theorem getElem?_tileLines {va : Word} {id r : Nat} (hr : r < 16) : (tileLines s y va id)[r]? =
    some { s.accessOf (va + BitVec.ofNat 64 (64 * r)) 64 (s.targetOf y (va + BitVec.ofNat 64 (64 * r))) with id } := by
  simp [tileLines, hr]

theorem drainBody_ok {c f : BitVec 5} {rows scales : Nat → List (Word × Nat × Target)}
    (ha : (s.g a).toNat % (if isMxCode f.toNat then 2048 else 1024) = 0) (hx : (s.g a).toNat < 2 ^ 57) (hb : (s.g b).toNat < 2 ^ 57)
    (hb1 : isMxCode f.toNat = true → (s.g (b + 1)).toNat < 2 ^ 57) (hres : Word.field (s.g c) 49 15 = 0)
    (hes : Word.field (s.g c) 0 24 = 0 ∨ drainRowBytes f.toNat ≤ Word.field (s.g c) 0 24)
    (hss : isMxCode f.toNat = false → Word.field (s.g c) 24 24 = 0) (hc : isCaddy (s.g a) = false)
    (hy : s.xlate s.self.who (s.g a) .load = .ok y) (hcls : y.cls = .acc)
    (hrows : ∀ r < 16, drainPlace s (s.g b + BitVec.ofNat 64 (r * if Word.field (s.g c) 0 24 = 0 then drainRowBytes f.toNat else
      Word.field (s.g c) 0 24)) (drainRowBytes f.toNat) = .ok (rows r))
    (hscales : if isMxCode f.toNat then ∀ r < 16, drainPlace s (s.g (b + 1) + BitVec.ofNat 64 (r * if Word.field (s.g c) 24 24 = 0 then 1 else
      Word.field (s.g c) 24 24)) 1 = .ok (scales r) else ∀ r, scales r = []) (hroom : s.self.st < 63) :
    ∃ k, drainBody s a b c f = .ok (s.sentGroup k ((List.range 16).map (drainPacket s y (s.g a) f ((s.g c).getLsbD 48) rows scales))) := by
  have hbad : (badAddr (s.g a) (if isMxCode f.toNat then 2048 else 1024) || badAddr (s.g b) 1 ||
      (isMxCode f.toNat && badAddr (s.g (b + 1)) 1)) = false := by
    rw [badAddr_good hx ha, badAddr_good hb (Nat.mod_one _)]
    cases hm : isMxCode f.toNat with
    | false => rfl
    | true => rw [badAddr_good (hb1 hm) (Nat.mod_one _)]; rfl
  have hstride : ((Word.field (s.g c) 0 24 ≠ 0 && Word.field (s.g c) 0 24 < drainRowBytes f.toNat) ||
      (Word.field (s.g c) 24 24 ≠ 0 && !isMxCode f.toNat)) = false := by
    have h1 : (Word.field (s.g c) 0 24 ≠ 0 && Word.field (s.g c) 0 24 < drainRowBytes f.toNat : Bool) = false := by simp; omega
    rw [h1]
    cases hm : isMxCode f.toNat <;> simp [hss, hm]
  have hmrows := mapM_ok (l := List.range 16) fun r hr => hrows r (List.mem_range.1 hr)
  have hmscales : (List.range 16).mapM (fun r => if isMxCode f.toNat = true then
      drainPlace s (s.g (b + 1) + BitVec.ofNat 64 (r * if Word.field (s.g c) 24 24 = 0 then 1 else Word.field (s.g c) 24 24)) 1 else .ok []) =
      .ok ((List.range 16).map scales) := by
    refine mapM_ok fun r hr => ?_
    cases hm : isMxCode f.toNat with
    | false => simp_all
    | true => simp_all
  refine ⟨(((List.range 16).map rows ++ (List.range 16).map scales).map List.length).foldl (· + ·) 0, ?_⟩
  unfold drainBody
  simp only [hbad, hres, hstride, Bool.false_eq_true, if_false, ne_eq, not_true, needClass_ok hc hy hcls, ok_bind, pure_ok, hmrows, hmscales,
    roomFor_ok (c := .st) (n := 1) hroom, State.count_newGroup_st hroom, tileLines_grouped, State.accessOf_grouped]
  refine congrArg (fun ps => Except.ok (s.sentGroup _ ps)) (List.map_congr_left fun r hr => ?_)
  have hr : r < 16 := List.mem_range.1 hr
  cases hm : isMxCode f.toNat <;> simp [drainPacket, hm, getElem?_tileLines, hr]

/-! ### ACC.SETTLE (R177) -/

/-- An operand word of ACC.SETTLE in order: nothing reserved set, a scope that there is. -/
def settleWord (w : Word) : Prop := Word.field w 4 12 = 0 ∧ Word.field w 32 32 = 0 ∧ Word.field w 0 3 ≤ 5

theorem accSettleBody_all (hw : settleWord (s.g b)) (hmx : s.self.mx = 0) (ha : s.g a = 0) (hk : (s.g b).getLsbD 3 = false) :
    accSettleBody s a b = .ok (s.acquireSelf (Word.field (s.g b) 0 3)) := by
  obtain ⟨h4, h32, hsc⟩ := hw
  unfold accSettleBody
  simp only [ha, h4, h32, decide_eq_false (Nat.not_lt.2 hsc), hk, hmx, ne_eq, not_true, decide_false, Bool.false_and, Bool.or_self,
    Bool.false_eq_true, if_false, if_true, ok_bind, pure_ok]

theorem accSettleBody_line (hw : settleWord (s.g b)) (hmx : s.self.mx = 0) (ha0 : s.g a ≠ 0) (ha : (s.g a).toNat % 1024 = 0)
    (hx : (s.g a).toNat < 2 ^ 57) (hc : isCaddy (s.g a) = false) (hy : s.xlate s.self.who (s.g a) .load = .ok y) (hcls : y.cls = .acc)
    (hkey : (s.g b).getLsbD 3 = true → ∀ i < 16, s.keyOf ((s.targetOf y (s.g a)).pa + 64 * i) = BitVec.ofNat 16 (Word.field (s.g b) 16 16)) :
    accSettleBody s a b = .ok (s.acquireSelf (Word.field (s.g b) 0 3)) := by
  obtain ⟨h4, h32, hsc⟩ := hw
  have hwait : ((s.g b).getLsbD 3 && (List.range 16).any fun i =>
      s.keyOf ((s.targetOf y (s.g a)).pa + 64 * i) != BitVec.ofNat 16 (Word.field (s.g b) 16 16)) = false := by
    cases hk : (s.g b).getLsbD 3 with
    | false => rfl
    | true => simpa using hkey hk
  unfold accSettleBody
  simp only [badAddr_good hx ha, ha0, h4, h32, decide_eq_false (Nat.not_lt.2 hsc), hmx, ne_eq, not_true, decide_false, Bool.and_false,
    Bool.or_self, Bool.false_eq_true, if_false, needClass_ok hc hy hcls, ok_bind, pure_ok, hwait]

/-! ### RED.V (R178) -/

theorem relGate_quiet (h : Quiet s) : relGate s = .ok () := by
  refine if_neg ?_
  simp only [List.any_eq_true, Bool.or_eq_true, not_exists, not_and, not_or, Bool.and_eq_true, beq_iff_eq]
  exact fun p hp => ⟨(h p hp).2, fun q hq _ => (h p hp).1 q hq⟩

/-- The thread has counted an operation in MX; `n` and `gs` are what the groups of counted operations are after it (R48, R149). -/
def State.issuedMx (s : State) (n : Nat) (gs : Tab Group) : State :=
  { s.modSelf (fun x => { x with mx := x.mx + 1 }) with nextId := n, groups := gs }

theorem State.issuedMx_self (s : State) (n : Nat) (gs : Tab Group) : (s.issuedMx n gs).self = { s.self with mx := s.self.mx + 1 } :=
  State.self_modSelf s fun x => { x with mx := x.mx + 1 }

theorem State.issuedMx_others (s : State) (n : Nat) (gs : Tab Group) : othersKeep s (s.issuedMx n gs) s.cur :=
  fun _ hv => State.thread_modSelf_ne s (fun x => { x with mx := x.mx + 1 }) hv

theorem State.count_mx {s : State} (hroom : s.self.mx < 63) : s.count .mx 1 = s.issuedMx s.nextId s.groups :=
  State.count_room (c := .mx) hroom

theorem State.newGroup_issuedMx (s : State) (k : Nat) : (s.issuedMx s.nextId s.groups).newGroup .mx [s.cur] k =
    (s.nextId, s.issuedMx (s.nextId + 1) (Tab.set s.groups s.nextId { left := k, ctr := .mx, threads := [s.cur] })) := rfl

/-- The four registers of a quad (R174). -/
theorem groupRegs_quad (q : BitVec 2) :
    groupRegs (BitVec.ofNat 4 (4 * q.toNat)) 4 = (List.range 4).map fun j => BitVec.ofNat 4 (4 * q.toNat + j) := by
  rw [groupRegs_eq]
  simp only [BitVec.ofNat_add]

/-- The line of a RED.V. -/
def redLine (s : State) (t : Target) (q : BitVec 2) (w : Word) : RedLine := {
  ctx := s.self.ctx, pa := t.pa, home := t.home
  words := (List.range 16).map fun k => BitVec.ofNat 32 (lane (s.v (BitVec.ofNat 4 (4 * q.toNat + k / 4))) 32 (k % 4))
  key := BitVec.ofNat 16 (Word.field w 48 16), ord := w.getLsbD 35, scope := BitVec.ofNat 3 (Word.field w 32 3)
  cores := [s.self.core], groups := [s.nextId], by_ := [(s.cur, s.fresh)] }

theorem redVBody_ok {q : BitVec 2} {c : BitVec 5} (ha : (s.g a).toNat % 64 = 0) (hx : (s.g a).toNat < 2 ^ 57)
    (h0 : Word.field (s.g c) 0 32 = 0) (h36 : Word.field (s.g c) 36 12 = 0) (hsc : Word.field (s.g c) 32 3 ≤ 5)
    (hfree : (s.g c).getLsbD 35 = false → Word.field (s.g c) 48 16 = 0) (hord : (s.g c).getLsbD 35 = true → Word.field (s.g c) 32 3 = 0)
    (hc : isCaddy (s.g a) = false) (hy : s.xlate s.self.who (s.g a) .reduce = .ok y) (hcls : y.cls = .acc)
    (htag : ∀ j < 4, s.tag (BitVec.ofNat 4 (4 * q.toNat + j)) = 2) (hroom : s.self.mx < 63) (hq : Quiet s) :
    ∃ gs, redVBody s a q c =
      .ok { s.issuedMx (s.nextId + 1) gs with net := s.net ++ [.red (redLine s (s.targetOf y (s.g a)) q (s.g c))] } := by
  refine ⟨Tab.set s.groups s.nextId { left := 1, ctr := .mx, threads := [s.cur] }, ?_⟩
  have hbad : (Word.field (s.g c) 0 32 ≠ 0 || Word.field (s.g c) 36 12 ≠ 0 || 5 < Word.field (s.g c) 32 3 ||
      (!(s.g c).getLsbD 35 && Word.field (s.g c) 48 16 ≠ 0) || ((s.g c).getLsbD 35 && Word.field (s.g c) 32 3 ≠ 0) : Bool) = false := by
    cases ho : (s.g c).getLsbD 35 with
    | false => simp [h0, h36, hsc, hfree ho]
    | true => simp [h0, h36, hord ho]
  have htags : (groupRegs (BitVec.ofNat 4 (4 * q.toNat)) 4).mapM (fun r => accept (s.tag r == 2) 2) =
      .ok ((groupRegs (BitVec.ofNat 4 (4 * q.toNat)) 4).map fun _ => ()) := by
    refine mapM_ok fun r hr => ?_
    rw [groupRegs_quad, List.mem_map] at hr
    obtain ⟨j, hj, rfl⟩ := hr
    rw [htag j (List.mem_range.1 hj)]
    rfl
  have hwords : ((groupRegs (BitVec.ofNat 4 (4 * q.toNat)) 4).flatMap fun r => (List.range 4).map fun i => BitVec.ofNat 32 (lane (s.v r) 32 i)) =
      (redLine s (s.targetOf y (s.g a)) q (s.g c)).words := by
    rw [groupRegs_quad, List.flatMap_map]
    exact flatMap_range 4 4 fun j i => BitVec.ofNat 32 (lane (s.v (BitVec.ofNat 4 (4 * q.toNat + j))) 32 i)
  unfold redVBody
  simp only [badAddr_good hx ha, Bool.false_eq_true, if_false, hbad, needClass_ok hc hy hcls, htags, relGate_quiet hq,
    roomFor_ok (c := .mx) (n := 1) hroom, ok_bind, pure_ok, State.count_mx hroom, State.newGroup_issuedMx, hwords, State.issuedMx_self]
  rfl

/-! ### TMLD (R151) -/

/-- A descriptor in the own caddy is read at once (log entry 27). -/
theorem readNow_own {va : Word} {n key : Nat} (h : OwnCaddyAt s va n key) (h0 : 0 < n) (hsleep : s.homeAsleep s.self.core = false) :
    readNow s va n 8 false = .ok (s.bytes key n, s) := by
  have hu := OwnCaddyAt.unit h (unit := 8) (by decide) h0 .load
  obtain ⟨-, -, hkey, hsvc, hprim, ⟨hsaved, -⟩, hquiet, hsound⟩ := h
  set u := caddyUnit s.self.core key va n (pieces va 8 n n).length with hdef
  have holder : (s.net.any fun o => s.holdsBack o (.load (s.accessTo u))) = false := by
    have hgate := gate_quiet hquiet [u]
    unfold gate at hgate
    split at hgate
    · cases hgate
    · next hany => simpa using hany
  have hplace : s.placeAsleep (s.accessTo u) = false := by simp [State.placeAsleep, State.accessTo, State.accessOf, hdef, caddyUnit, hsleep]
  have hread : s.readUnit u false = .ok (s.bytes key n, s) := by
    have hok : s.caddyOk s.self.ctx s.self.core false s.self.core (keyOff key) n .rd = true := by simp [State.caddyOk, hprim]
    have hat : s.caddyAt s.self.ctx s.self.core (keyOff key) = key := by rw [State.caddyAt, hsaved, keyOff, ← hkey]; rfl
    simp [State.readUnit, hdef, caddyUnit, hsvc, hok, State.caddyRead, hat, State.meetCaddy, hsaved,
      State.meetErrors_none _ _ _ _ _ _ _ hsound.1 hsound.2]
  unfold readNow
  rw [hu]
  change (if [u].any fun u => (s.net.any fun o => s.holdsBack o (.load (s.accessTo u))) || s.placeAsleep (s.accessTo u) then _ else _) = _
  rw [List.any_cons, holder, hplace]
  simp [hread]

/-- A tensor-map slot is given an address and a copy of its descriptor. -/
def Thread.putTm (t : Thread) (tm : BitVec 4) (va : Word) (d : Option (List Byte)) : Thread :=
  { t with tm := t.tm.set tm.toNat va, tmDesc := t.tmDesc.set tm.toNat d }

section
variable {imm : BitVec 12} {tm : BitVec 4} {va : Word} (hva : s.g a + sext12 imm = va)
include hva

theorem tmldBody_empty (h : va = 0) : tmldBody s a imm tm = .ok (s.modSelf fun t => t.putTm tm va none) := by
  subst h
  unfold tmldBody
  simp only [hva, if_true]
  rfl

theorem tmldBody_unaligned (h : va ≠ 0) (h64 : va.toNat % 64 ≠ 0) : tmldBody s a imm tm = trap 17 va := by
  unfold tmldBody
  simp only [hva, h, h64, if_false, ne_eq, not_false_iff, if_true]
  rfl

theorem tmldBody_own {key : Nat} (h : va ≠ 0) (h64 : va.toNat % 64 = 0) (hown : OwnCaddyAt s va 64 key) (hsleep : s.homeAsleep s.self.core = false) :
    tmldBody s a imm tm =
      if tmValid (s.bytes key 64) then .ok (s.modSelf fun t => t.putTm tm va (some (s.bytes key 64))) else trap 17 va := by
  unfold tmldBody
  simp only [hva, h, h64, if_false, ne_eq, not_true, readNow_own hown (by decide) hsleep, ok_bind]
  rfl

end

end

/-! ### O42 -/

/-- An acquire changes the lines of a core, and no thread. -/
theorem finish_acquireSelf {s : State} (hp : Plain s 4) (scope : Nat) :
    finish 4 s (.ok (s.acquireSelf scope)) = .next (past s 4 (acquired s scope)) := by
  have hself : (s.acquireSelf scope).self = s.self ∧ (s.acquireSelf scope).fresh = s.fresh := by
    unfold State.acquireSelf State.acquire
    split <;> exact ⟨rfl, rfl⟩
  obtain ⟨hself, hfresh⟩ := hself
  exact (finish_leaves hp hself rfl rfl rfl rfl hfresh).1

/-- Settles O42: each body is what its checks, which all pass, leave of it; what counts once then moves past the instruction. -/
theorem accumulationInstructions : Obligations.AccumulationInstructions := by
  unfold Obligations.AccumulationInstructions
  intro s a b c f q imm tm y key hp x w line counted
  have hva : x + BitVec.ofInt 64 imm.toInt = s.g a + sext12 imm := rfl
  refine ⟨fun ha hx hw hc hy hcls hroom => ?_, fun h4 h32 hsc hmx => ?_, ?_, fun ha hx hw0 hw hc hy hcls hpage hroom => ?_, ?_, ?_⟩
  · have hb := accInitBody_ok ha hx hw hc hy hcls hroom
    rw [tileLines, List.map_map] at hb
    exact answers_sentGroup hp rfl hb
  · refine ⟨fun ha hk => ?_, fun ha0 ha hx hc hy hcls hkey => ?_⟩
    · change finish 4 s (accSettleBody s a b) = _
      rw [accSettleBody_all ⟨h4, h32, hsc⟩ hmx ha hk, finish_acquireSelf hp]
    · change finish 4 s (accSettleBody s a b) = _
      rw [accSettleBody_line ⟨h4, h32, hsc⟩ hmx ha0 ha hx hc hy hcls hkey, finish_acquireSelf hp]
  · intro w scope ha hx h0 h36 hsc hfree hord hc hy hcls htag hroom hq
    obtain ⟨gs, hb⟩ := redVBody_ok ha hx h0 h36 hsc hfree hord hc hy hcls htag hroom hq
    set u : State := { s.issuedMx (s.nextId + 1) gs with net := s.net ++ [.red (redLine s (s.targetOf y (s.g a)) q (s.g c))] }
    have hself : u.self = { s.self with mx := s.self.mx + 1 } := s.issuedMx_self (s.nextId + 1) gs
    obtain ⟨hrun, hpast⟩ := finish_leaves hp hself rfl rfl rfl rfl rfl
    refine ⟨past s 4 u, (congrArg (finish 4 s) hb).trans hrun, ?_, ?_, rfl, ?_, othersKeep_past rfl (s.issuedMx_others (s.nextId + 1) gs), rfl⟩
    · rw [hpast]
      rfl
    · rw [hpast]
      rfl
    · rw [hpast]
      rfl
  · exact answers_sentGroup hp rfl (detNextBody_ok ha hx hw0 hw hc hy hcls hpage hroom)
  · intro code mx n w1 v es ss acc rows scales ha hx hb hb1 hres hes hss hc hy hcls hrows hscales hroom
    obtain ⟨k, hb⟩ := drainBody_ok ha hx hb hb1 hres hes hss hc hy hcls hrows hscales hroom
    exact answers_sentGroup hp rfl hb
  · intro va put
    have hputs (d : Option (List Byte)) : finish 4 s (.ok (s.modSelf fun t => t.putTm tm va d)) = onlySelf s 4 (put d) :=
      finish_self s 4 hp _ rfl rfl rfl rfl
    refine ⟨fun h => ?_, fun h h64 => ?_, fun h h64 hown hsleep => ?_⟩
    · change finish 4 s (tmldBody s a imm tm) = _
      rw [tmldBody_empty hva.symm h, hputs]
    · change finish 4 s (tmldBody s a imm tm) = _
      rw [tmldBody_unaligned hva.symm h h64, finish_trap]
    · have hrun : exec (.tmld a imm tm) s = finish 4 s
          (if tmValid (s.bytes key 64) then .ok (s.modSelf fun t => t.putTm tm va (some (s.bytes key 64))) else trap 17 va) :=
        congrArg (finish 4 s) (tmldBody_own hva.symm h h64 hown hsleep)
      refine ⟨fun hv => ?_, fun hv => ?_⟩
      · rw [hrun, if_pos hv, hputs]
      · rw [hrun, if_neg (by simp [hv]), finish_trap]

end Sys2Proof.Machine
end

section
/-!
PROOFS. The arbiter of the matrix engine (O41): the clause on the grant of a lease fails for a group of a halted context.

The statement asks that the engine is not stopped, which speaks of the primary context of the core alone (`State.engineStopped`). The grant of a lease
looks at the context of the group as well and leaves the engine as it is where that one is halted (`State.grantLease`); an entry of the convene table
may name a context other than the primary one, and the statement does not ask for the two to be the same.
-/

namespace Sys2Proof.Machine

open Claims

/-- The command of a group of context 2 with one member, which has issued it (R159). -/
def contextTwoCmd : Cmd := { ctx := 2, form := 0, a := 0, b := 0, c := 0, pa := 0, place := .hall, issuers := [7], group := 1 }

/-- The group: formed, its command pending and issued by all (R152, R159). -/
def contextTwoGroup : Convene := { off := 0, ctx := 2, count := 1, present := 1, formed := true, pending := some contextTwoCmd, issued := 1 }

/-- A core whose primary context is 1 and whose entry 0 of the convene table is that group. -/
def contextTwoCore : Core := { primary := some 1, convene := (Vector.replicate 8 none).set 0 (some contextTwoGroup) }

/-- Context 2 is halted, context 1 is not. -/
def haltedGroup : State := { cores := [(0, contextTwoCore)], ctxs := [(2, { halt := some { cause := 0, unit := none, kind := 0 } })] }

/-- The engine may take commands, and finds the group's formed. -/
theorem haltedGroup_ready : haltedGroup.engineStopped 0 = false ∧ haltedGroup.nextReady 0 0 = some 0 ∧
    haltedGroup.conv 0 0 = some contextTwoGroup := by decide

/-- Nobody is given the lease. -/
theorem haltedGroup_unleased : ((engineArbitration haltedGroup 0).coreAt 0).engine.holder = none := by decide

/-- Refutes O41: the arbiter grants no lease to the group that it finds, whose context is halted while the core's primary context is not
(`haltedGroup`). -/
theorem not_theEngineRunsItsCommands : ¬ Obligations.TheEngineRunsItsCommands := by
  unfold Obligations.TheEngineRunsItsCommands
  intro h
  obtain ⟨harbiter, -⟩ := h haltedGroup 0 0 contextTwoGroup contextTwoCmd []
  obtain ⟨hstopped, hnext, hconv⟩ := haltedGroup_ready
  obtain ⟨hgrant, -⟩ := harbiter hstopped (by decide) ⟨⟨rfl, rfl⟩, fun _ hring => nomatch hring⟩
  obtain ⟨u, hu, hengine, -⟩ := hgrant rfl rfl hnext hconv
  obtain rfl : engineArbitration haltedGroup 0 = u := Host.Outcome.next.inj hu
  have hholder := haltedGroup_unleased
  rw [hengine] at hholder
  exact absurd hholder (by simp)

end Sys2Proof.Machine
end

section
/-!
PROOFS. What the core does when it rewrites the object of a convened group (R50, R152, R160, R389): the entry of the table, the 64 bytes of the
object, and, where the caddy is held in its image, what the caches do for a write there.
-/

namespace Sys2Proof.Machine

open Claims

/-! ### What the caches do for an access of the hardware itself (R189, R190, R202) -/

/-- No error stands in `u`, which differs from `s` in what the L1s, the slices and the table of owned regions hold, and in nothing else. -/
structure CachesOnly (s u : State) : Prop where
  free : u.errorFree = true
  rest : ∃ regions cores l2, u = { s with regions, cores, l2 }
  core : ∀ c, ∃ l1, u.coreAt c = { s.coreAt c with l1 }

namespace CachesOnly

theorem refl {s : State} (h : s.errorFree = true) : CachesOnly s s := ⟨h, ⟨_, _, _, rfl⟩, fun _ => ⟨_, rfl⟩⟩

theorem trans {s u w : State} (h : CachesOnly s u) (h' : CachesOnly u w) : CachesOnly s w := by
  obtain ⟨-, ⟨_, _, _, hrest⟩, hcore⟩ := h
  obtain ⟨hfree, ⟨_, _, _, hrest'⟩, hcore'⟩ := h'
  refine ⟨hfree, ⟨_, _, _, hrest'.trans (by rw [hrest])⟩, fun c => ?_⟩
  obtain ⟨_, h1⟩ := hcore c
  obtain ⟨_, h2⟩ := hcore' c
  exact ⟨_, h2.trans (by rw [h1])⟩

section
variable {s u : State} (h : CachesOnly s u)
include h

theorem meetFor_eq (c : Option CtxId) (r : Nat) (e : Coord) (l n k : Nat) : u.meetFor c r e l n k = u := by
  obtain ⟨hb, hs⟩ := u.errorFree_iff.1 h.free
  unfold State.meetFor
  split
  · exact State.meetErrors_none _ _ _ _ _ _ _ hs hb
  · exact State.noticeErrors_none h.free ..

theorem slices (w : State) : CachesOnly s (u.slices w) := by
  rw [State.slices_none h.free]
  exact h.trans ⟨h.free, ⟨_, _, _, rfl⟩, fun _ => ⟨_, rfl⟩⟩

theorem withRegions (rs : List Region) : CachesOnly s { u with regions := rs } := h.trans ⟨h.free, ⟨_, _, _, rfl⟩, fun _ => ⟨_, rfl⟩⟩

theorem modL1 (c : Coord) (f : List L1Line → List L1Line) : CachesOnly s (u.modCore c fun k => { k with l1 := f k.l1 }) := by
  refine h.trans ⟨h.free, ⟨_, _, _, rfl⟩, fun e => ?_⟩
  by_cases he : e = c
  · subst he
    exact ⟨f (u.coreAt e).l1, State.coreAt_setCore ..⟩
  · exact ⟨(u.coreAt e).l1, State.coreAt_setCore_ne _ _ he⟩

theorem foldl {α : Type} {f : State → α → State} (hf : ∀ w a, CachesOnly s w → CachesOnly s (f w a)) (l : List α) : CachesOnly s (l.foldl f u) :=
  foldl_keeps (P := CachesOnly s) hf l h

theorem writeHome (c : Coord) (l : L1Line) : CachesOnly s (u.writeHome c l) := by
  unfold State.writeHome
  rw [State.noticeErrors_none h.free]
  split
  · exact h
  · exact h.slices _

theorem writeBackLines (c : Coord) (f : L1Line → Bool) : CachesOnly s (u.writeBackLines c f) := by
  unfold State.writeBackLines
  dsimp only
  split
  · exact h
  · exact modL1 (h.foldl (fun _ _ h => h.writeHome ..) _) c _

theorem loseLines (c : Coord) (r : Region) : CachesOnly s (u.loseLines c r) := modL1 (h.writeBackLines ..) c _

theorem requestLine (line : Nat) (b : Option Coord) (take : Bool) (c : Option CtxId) : CachesOnly s (u.requestLine line b take c) := by
  unfold State.requestLine
  simp only [h.meetFor_eq, ite_self]
  split
  · exact h
  · split
    · exact h
    · split
      · exact (h.withRegions _).loseLines ..
      · exact h.withRegions _

theorem recallLines (c : Option CtxId) (pa n : Nat) : CachesOnly s (u.recallLines c pa n) := by
  unfold State.recallLines
  split
  · exact h
  · exact h.foldl (fun _ _ h => h.requestLine ..) _

theorem unitRead (part : Nat) (pl : Placement) (c : Option CtxId) (pa n : Nat) : CachesOnly s (u.unitRead part pl c pa n) :=
  (h.recallLines c pa n).slices _

theorem unitPut (part : Nat) (pl : Placement) (c : Option CtxId) (pa n : Nat) : CachesOnly s (u.unitPut part pl c pa n) :=
  (h.recallLines c pa n).slices _

/-! ### What stays -/

theorem mem : u.mem = s.mem := by
  obtain ⟨-, ⟨_, _, _, rfl⟩, -⟩ := h
  rfl

theorem threads : u.threads = s.threads := by
  obtain ⟨-, ⟨_, _, _, rfl⟩, -⟩ := h
  rfl

theorem cur : u.cur = s.cur := by
  obtain ⟨-, ⟨_, _, _, rfl⟩, -⟩ := h
  rfl

theorem fresh : u.fresh = s.fresh := by
  obtain ⟨-, ⟨_, _, _, rfl⟩, -⟩ := h
  rfl

theorem ctxs : u.ctxs = s.ctxs := by
  obtain ⟨-, ⟨_, _, _, rfl⟩, -⟩ := h
  rfl

theorem savedCaddy (c : Coord) : (u.coreAt c).savedCaddy = (s.coreAt c).savedCaddy := by
  obtain ⟨_, hc⟩ := h.core c
  rw [hc]

theorem savedConv (c : Coord) : (u.coreAt c).savedConv = (s.coreAt c).savedConv := by
  obtain ⟨_, hc⟩ := h.core c
  rw [hc]

theorem conv (c : Coord) (i : Nat) : u.conv c i = s.conv c i := by
  obtain ⟨_, hc⟩ := h.core c
  rw [State.conv, hc]
  rfl

theorem saveArea (ctx : CtxId) (c : Coord) : u.saveArea ctx c = s.saveArea ctx c := by
  obtain ⟨-, ⟨_, _, _, rfl⟩, -⟩ := h
  rfl

theorem caddyAt (ctx : CtxId) (c : Coord) (off : Nat) : u.caddyAt ctx c off = s.caddyAt ctx c off := by
  rw [State.caddyAt, State.caddyAt, h.savedCaddy, h.saveArea]

end

end CachesOnly

/-! ### The object rewritten -/

/-- A write of bytes of a caddy puts them where they stand, in the caddy or in its image (R389). -/
theorem State.putCaddy_writes {s : State} (h : s.errorFree = true) (ctx : CtxId) (c : Coord) (off : Nat) (bs : List Byte) :
    ∃ w, CachesOnly s w ∧ s.putCaddy ctx c off bs = w.putBytes (s.caddyAt ctx c off) bs := by
  unfold State.putCaddy
  split
  · exact ⟨_, (CachesOnly.refl h).unitPut .., rfl⟩
  · next hsaved =>
    refine ⟨s, .refl h, ?_⟩
    rw [State.caddyAt, if_neg hsaved]
    exact State.mendWhere_none (s := s.putBytes (caddyKey c off) bs) h _

/-- From `s` to `u` no thread changes, and of the memory at most the 64 bytes at `key`; where each caddy stands does not change, and no error stands in
`u`. -/
structure Rewrites (key : Nat) (s u : State) : Prop where
  free : u.errorFree = true
  wf : Memory.wf u.mem = true
  threads : u.threads = s.threads
  cur : u.cur = s.cur
  fresh : u.fresh = s.fresh
  home : ∀ ctx c off, u.caddyAt ctx c off = s.caddyAt ctx c off
  byte : ∀ x, x < key ∨ key + 64 ≤ x → u.byte x = s.byte x

namespace Rewrites

theorem refl {s : State} (h : s.errorFree = true) (hw : Memory.wf s.mem = true) (key : Nat) : Rewrites key s s :=
  ⟨h, hw, rfl, rfl, rfl, fun _ _ _ => rfl, fun _ _ => rfl⟩

theorem trans {key : Nat} {s u w : State} (h : Rewrites key s u) (h' : Rewrites key u w) : Rewrites key s w where
  free := h'.free
  wf := h'.wf
  threads := h'.threads.trans h.threads
  cur := h'.cur.trans h.cur
  fresh := h'.fresh.trans h.fresh
  home ctx c off := (h'.home ctx c off).trans (h.home ctx c off)
  byte x hx := (h'.byte x hx).trans (h.byte x hx)

theorem of_caches {s u : State} (h : CachesOnly s u) (hw : Memory.wf s.mem = true) (key : Nat) : Rewrites key s u where
  free := h.free
  wf := by rwa [h.mem]
  threads := h.threads
  cur := h.cur
  fresh := h.fresh
  home := h.caddyAt
  byte x _ := by rw [State.byte, State.byte, h.mem]

section
variable {key : Nat} {s u : State} (h : Rewrites key s u)
include h

theorem thread (t : Nat) : u.thread t = s.thread t := by rw [State.thread, State.thread, h.threads]

theorem self : u.self = s.self := by rw [State.self, State.self, h.cur, h.thread]

end

section
variable {s : State} (h : s.errorFree = true) (hw : Memory.wf s.mem = true)
include h hw

theorem modCore {c : Coord} {f : Core → Core} (hf : (f (s.coreAt c)).savedCaddy = (s.coreAt c).savedCaddy) (key : Nat) :
    Rewrites key s (s.modCore c f) where
  free := h
  wf := hw
  threads := rfl
  cur := rfl
  fresh := rfl
  home ctx e off := by
    have hsaved : ((s.modCore c f).coreAt e).savedCaddy = (s.coreAt e).savedCaddy := by
      by_cases he : e = c
      · subst he
        rw [State.modCore, State.coreAt_setCore, hf]
      · rw [State.modCore, State.coreAt_setCore_ne _ _ he]
    rw [State.caddyAt, State.caddyAt, hsaved]
    rfl
  byte _ _ := rfl

theorem putCaddy {bs : List Byte} (hlen : bs.length = 64) (ctx : CtxId) (c : Coord) (off : Nat) :
    Rewrites (s.caddyAt ctx c off) s (s.putCaddy ctx c off bs) := by
  obtain ⟨w, hc, heq⟩ := State.putCaddy_writes h ctx c off bs
  have hr := of_caches hc hw (s.caddyAt ctx c off)
  rw [heq]
  refine ⟨hr.free, Memory.wf_writeList hr.wf .., hr.threads, hr.cur, hr.fresh, hr.home, fun x hx => ?_⟩
  rw [← hr.byte x hx]
  exact Memory.read_writeList_out hr.wf (by rwa [hlen])

theorem putObject {ws : List Word} (hlen : ws.length = 8) (ctx : CtxId) (c : Coord) (off : Nat) :
    Rewrites (s.caddyAt ctx c off) s (s.putObject ctx c off ws) := by
  refine putCaddy h hw ?_ ctx c off
  simp [List.length_flatMap, hlen]

end

end Rewrites

theorem Convene.length_words (g : Convene) : g.words.length = 8 := by
  unfold Convene.words
  cases g.pending <;> rfl

section
variable {s : State} (h : s.errorFree = true)
include h

theorem State.conv_putObject (ctx : CtxId) (c : Coord) (off : Nat) (ws : List Word) (e : Coord) (i : Nat) :
    (s.putObject ctx c off ws).conv e i = s.conv e i := by
  obtain ⟨w, hc, heq⟩ := State.putCaddy_writes h ctx c off (ws.flatMap fun x => leBytes 8 x.toNat)
  rw [State.putObject, heq]
  exact hc.conv e i

/-- The entry of a group holds what it was given. -/
theorem State.conv_setConv (c : Coord) {i : Nat} (hi : i < 8) (g : Convene) : (s.setConv c i g).conv c i = some g := by
  unfold State.setConv
  rw [State.mend, State.mendWhere_none (s := s.modCore c _) h, State.conv_putObject (s := s.modCore c _) h, State.conv, State.modCore,
    State.coreAt_setCore, Vector.getElem?_setIfInBounds_self_of_lt hi]
  rfl

theorem Rewrites.setConv (hw : Memory.wf s.mem = true) (c : Coord) (i : Nat) (g : Convene) :
    Rewrites (s.caddyAt g.ctx c g.off) s (s.setConv c i g) := by
  have hm := Rewrites.modCore h hw (c := c) (f := fun k => { k with convene := k.convene.setIfInBounds i (some g) }) rfl (s.caddyAt g.ctx c g.off)
  have hp := Rewrites.putObject hm.free hm.wf g.length_words g.ctx c g.off
  rw [hm.home] at hp
  unfold State.setConv
  rw [State.mend, State.mendWhere_none (s := s.modCore c _) h]
  exact hm.trans hp

/-- A group without member and command leaves its entry, which zeroes its object but for GEN (R157). -/
theorem State.conv_dissolve {c : Coord} {i : Nat} (hi : i < 8) {g : Convene} (hg : s.conv c i = some g) :
    (s.dissolve c i).conv c i = if g.over then none else some g := by
  unfold State.dissolve
  simp only [hg]
  split
  · rw [State.clearObject, State.conv_putObject (s := s.modCore c _) h, State.conv, State.modCore, State.coreAt_setCore,
      Vector.getElem?_setIfInBounds_self_of_lt hi]
    rfl
  · exact hg

theorem Rewrites.dissolve (hw : Memory.wf s.mem = true) {c : Coord} {i : Nat} {g : Convene} (hg : s.conv c i = some g) :
    Rewrites (s.caddyAt g.ctx c g.off) s (s.dissolve c i) := by
  unfold State.dissolve
  simp only [hg]
  split
  · have hm := Rewrites.modCore h hw (c := c) (f := fun k => { k with
      convene := k.convene.setIfInBounds i none
      engine := if k.engine.holder == some i then { k.engine with holder := none, idle := 0 } else k.engine }) rfl (s.caddyAt g.ctx c g.off)
    have hp := Rewrites.putObject hm.free hm.wf (ws := BitVec.ofNat 64 ((g.gen + 1).toNat * 2 ^ 16) :: List.replicate 7 0) rfl g.ctx c g.off
    rw [hm.home] at hp
    exact hm.trans hp
  · exact .refl h hw _

end

/-! ### The entry of a group (R155, R160) -/

theorem State.convAt_some {s : State} {c : Coord} {ctx : CtxId} {off i : Nat} {g : Convene} (h : s.convAt c ctx off = some (i, g)) :
    i < 8 ∧ s.conv c i = some g ∧ g.off = off ∧ g.ctx = ctx := by
  obtain ⟨j, hj, heq⟩ := List.exists_of_findSome?_eq_some h
  split at heq
  · next g' hg =>
    split at heq
    · next hm =>
      obtain ⟨rfl, rfl⟩ := Prod.mk.inj (Option.some.inj heq)
      simp only [Bool.and_eq_true, beq_iff_eq] at hm
      exact ⟨List.mem_range.1 hj, hg, hm.1, hm.2⟩
    · cases heq
  · cases heq

/-- A live entry is found; with no error about, its read changes nothing. -/
theorem findGroup_live {s : State} (hs : Sound s) {c : Coord} {ctx : CtxId} {off i : Nat} {g : Convene} (h : s.convAt c ctx off = some (i, g)) :
    findGroup s c ctx off = .ok (s, some (i, g)) := by
  have hmeet : s.meetGroup c ctx off = s := by
    rw [State.meetGroup, h]
    exact State.meetErrors_none _ _ _ _ _ _ _ hs.1 hs.2
  unfold findGroup liveGroup
  simp only [hmeet, h, Bool.and_not_self, Bool.false_eq_true, if_false]

/-- Where the table holds no entry and the object no group, there is none: the object has been read. -/
theorem findGroup_none {s : State} (hs : Sound s) {c : Coord} {ctx : CtxId} {off : Nat} (h : s.convAt c ctx off = none)
    (hsaved : s.savedGroup c ctx off = none) : ∃ w, CachesOnly s w ∧ findGroup s c ctx off = .ok (w, none) := by
  have hfree := errorFree_of_sound hs
  have hmeet : CachesOnly s (s.meetCaddy ctx c off 64 1) := by
    unfold State.meetCaddy
    split
    · exact (CachesOnly.refl hfree).unitRead ..
    · rw [State.meetErrors_none _ _ _ _ _ _ _ hs.1 hs.2]
      exact .refl hfree
  refine ⟨_, hmeet, ?_⟩
  have hat : (s.meetCaddy ctx c off 64 1).convAt c ctx off = none := by
    rw [← h]
    unfold State.convAt
    simp only [hmeet.conv]
  have hgroup : (s.meetCaddy ctx c off 64 1).savedGroup c ctx off = none := by
    rw [← hsaved]
    unfold State.savedGroup State.word State.bytes
    simp only [hmeet.caddyAt, hmeet.mem, hmeet.savedConv]
  have hhalted : (s.meetCaddy ctx c off 64 1).halted ctx = s.halted ctx := by
    rw [State.halted, State.halted, State.ctxOf, State.ctxOf, hmeet.ctxs]
  unfold findGroup State.meetGroup liveGroup
  simp only [h, hhalted, hat, hgroup, Bool.and_not_self, Bool.false_eq_true, if_false]

end Sys2Proof.Machine
end

section
/-!
PROOFS. The issue of matrix commands (O40): by the members of a convened group, and by a steep.
-/

namespace Sys2Proof.Machine

open Claims

theorem primaryOnly_ok {s : State} (h : s.primary s.self.ctx s.self.core = true) : primaryOnly s = .ok () := if_pos h

/-- What waiting at an instruction leaves of its thread; `now` is the step (R39). -/
def Thread.waiting (now : Nat) (t : Thread) : Thread :=
  { t with park := none, parkedAt := if t.stalled then t.parkedAt else now, stalled := true, deferred := false, lastIssue := now }

theorem finish_wait (size : Nat) (s s' : State) : finish size s (.error (.wait none s')) = .next (s'.modSelf (·.waiting s.fresh)) := rfl

/-! ### A command issued (R144, R159) -/

theorem reduceTarget_ok {s : State} {va : Word} {y : Xlat} (hc : isCaddy va = false) (hy : s.xlate s.self.who va .reduce = .ok y) :
    reduceTarget s va = .ok y := by
  simp only [reduceTarget, hc, hy, lift, Bool.false_eq_true, if_false]

/-- A member that has issued a command has its group's entry and object changed, counts it and moves past the instruction. -/
theorem answers_issuedMx {s : State} {e : Instr} {body : Body} {core : Coord} {i n : Nat} {gs : Tab Group} {g : Convene} (hp : Plain s 4)
    (hwf : Memory.wf s.mem = true) (hs : Sound s) (hi : i < 8) (he : exec e s = finish 4 s body)
    (hb : body = .ok ((s.issuedMx n gs).setConv core i g)) :
    answers e s fun u => u.conv core i = some g ∧ u.self.mx = s.self.mx + 1 ∧ u.self.pc = s.self.pc + 4 ∧ u.self.g = s.self.g ∧
      othersKeep s u s.cur ∧ ∀ x, x < s.caddyAt g.ctx core g.off ∨ s.caddyAt g.ctx core g.off + 64 ≤ x → u.byte x = s.byte x := by
  have hfree : (s.issuedMx n gs).errorFree = true := errorFree_of_sound hs
  have hr := Rewrites.setConv (s := s.issuedMx n gs) hfree hwf core i g
  obtain ⟨hrun, hpast⟩ := finish_leaves hp (hr.self.trans (s.issuedMx_self n gs)) rfl rfl rfl rfl hr.fresh
  refine ⟨past s 4 ((s.issuedMx n gs).setConv core i g), by rw [he, hb, hrun], State.conv_setConv hfree core hi g, ?_, ?_, ?_, ?_, hr.byte⟩
  · rw [hpast]
    rfl
  · rw [hpast]
    rfl
  · rw [hpast]
    rfl
  · exact othersKeep_past hr.cur fun v hv => (hr.thread v).trans (s.issuedMx_others n gs v hv)

/-! ### The forms of a convened group -/

theorem mmaBody_alone {s : State} (hprim : s.primary s.self.ctx s.self.core = true) (hconv : s.self.conv = false) (a b c : BitVec 5)
    (form : BitVec 6) : mmaBody s a b c form = trap 20 1 := by
  unfold mmaBody
  simp only [primaryOnly_ok hprim, hconv, ok_bind, pure_ok, Bool.not_false, if_true]
  rfl

section
variable {s : State} {a b c : BitVec 5} {form : BitVec 6} {core : Coord} {off idx i : Nat} {g : Convene}
  (hprim : s.primary s.self.ctx s.self.core = true) (hs : Sound s) (hconv : s.self.conv = true) (hplace : cnvPlace s.self.cnv = (core, off, idx))
  (hat : s.convAt core s.self.ctx off = some (i, g)) (hformed : g.formed = true) (hbroken : g.broken = false)
include hprim hs hconv hplace hat hformed hbroken

theorem mmaBody_waits (hpend : g.pending.isSome = true) (hissued : g.issued.getLsbD idx = true) :
    mmaBody s a b c form = .error (.wait none s) := by
  unfold mmaBody
  simp only [primaryOnly_ok hprim, hconv, hplace, findGroup_live hs hat, hformed, hbroken, hpend, hissued, ok_bind, pure_ok, Bool.not_true,
    Bool.false_eq_true, if_false, Bool.and_self, if_true]
  rfl

section
variable (hfirst : (g.pending.isSome && g.issued.getLsbD idx) = false)
include hfirst

theorem mmaBody_badWords (h : checkWords (s.g a) (s.g b) (s.g c) form ≠ 0) :
    mmaBody s a b c form = trap 18 (BitVec.ofNat 64 (checkWords (s.g a) (s.g b) (s.g c) form)) := by
  unfold mmaBody
  simp only [primaryOnly_ok hprim, hconv, hplace, findGroup_live hs hat, hformed, hbroken, hfirst, h, ok_bind, pure_ok, Bool.not_true,
    Bool.false_eq_true, if_false, ne_eq, not_false_iff, if_true]
  rfl

section
variable (hwords : checkWords (s.g a) (s.g b) (s.g c) form = 0) {y : Xlat} (hc : isCaddy (s.g c) = false)
  (hy : s.xlate s.self.who (s.g c) .reduce = .ok y)
include hwords hc hy

theorem mmaBody_otherWords {q : Cmd} (hpend : g.pending = some q) (hne : ¬ (q.a = s.g a ∧ q.b = s.g b ∧ q.c = s.g c ∧ q.form = form)) :
    mmaBody s a b c form = trap 18 8 := by
  have hdiff : (q.a ≠ s.g a || q.b ≠ s.g b || q.c ≠ s.g c || q.form ≠ form : Bool) = true := by
    simp only [ne_eq, Bool.or_eq_true, decide_eq_true_eq]
    tauto
  unfold mmaBody
  simp only [primaryOnly_ok hprim, hconv, hplace, findGroup_live hs hat, hformed, hbroken, hfirst, hwords, reduceTarget_ok hc hy, ok_bind, pure_ok,
    Bool.not_true, Bool.false_eq_true, if_false, ne_eq, not_true]
  simp only [hpend]
  rw [if_pos hdiff]
  rfl

section
variable (hloads : s.self.loads = []) (hst : s.self.st = 0) (hroom : s.self.mx < 63)
include hloads hst hroom

/-- The first member gives the group its command. -/
theorem mmaBody_first (hpend : g.pending = none) : ∃ n gs, mmaBody s a b c form = .ok ((s.issuedMx n gs).setConv core i { g with
    pending := some {
      ctx := s.self.ctx, form, a := s.g a, b := s.g b, c := s.g c
      pa := (s.targetOf y (s.g c)).pa, place := y.place, page := (y.vbase, y.size), issuers := [s.cur], group := s.nextId }
    issued := BitVec.twoPow 32 idx }) := by
  refine ⟨s.nextId + 1, Tab.set s.groups s.nextId { left := 16, ctr := .mx, threads := [s.cur] }, ?_⟩
  have hrel : issueRelease s = .ok () := by simp [issueRelease, hloads, hst]
  unfold mmaBody
  simp only [primaryOnly_ok hprim, hconv, hplace, findGroup_live hs hat, hformed, hbroken, hfirst, hwords, reduceTarget_ok hc hy, hrel,
    roomFor_ok (c := .mx) (n := 1) hroom, State.count_mx hroom, ok_bind, pure_ok, Bool.not_true, Bool.false_eq_true, if_false, ne_eq, not_true]
  simp only [hpend]
  rfl

/-- Another member joins the command. -/
theorem mmaBody_joins {q : Cmd} (hpend : g.pending = some q) (ha : q.a = s.g a) (hb : q.b = s.g b) (hqc : q.c = s.g c) (hf : q.form = form) :
    ∃ n gs, mmaBody s a b c form = .ok ((s.issuedMx n gs).setConv core i { g with
      pending := some { q with issuers := q.issuers ++ [s.cur] }, issued := g.issued ||| BitVec.twoPow 32 idx }) := by
  have hrel : issueRelease s = .ok () := by simp [issueRelease, hloads, hst]
  have hcur : (s.issuedMx s.nextId s.groups).cur = s.cur := rfl
  unfold mmaBody
  simp only [primaryOnly_ok hprim, hconv, hplace, findGroup_live hs hat, hformed, hbroken, hfirst, hwords, reduceTarget_ok hc hy, hrel,
    roomFor_ok (c := .mx) (n := 1) hroom, State.count_mx hroom, ok_bind, pure_ok, Bool.not_true, Bool.false_eq_true, if_false, ne_eq, not_true]
  simp only [hpend, ha, hb, hqc, hf, not_true, decide_false, Bool.or_self, Bool.false_eq_true, if_false]
  cases Tab.find (s.issuedMx s.nextId s.groups).groups q.group with
  | none => exact ⟨s.nextId, s.groups, rfl⟩
  | some gr => exact ⟨s.nextId, _, rfl⟩

end

end

end

end

/-! ### The form of a steep (R144) -/

/-- A core's engine with one more command waiting, of a steep. -/
def Core.queueSteep (k : Core) (q : Cmd) : Core := { k with engine := { k.engine with steepQ := k.engine.steepQ ++ [q] } }

section
variable {s : State} {a b c : BitVec 5} (hprim : s.primary s.self.ctx s.self.core = true)
include hprim

theorem mmaLBody_leaf (hsteep : s.self.steep = false) : mmaLBody s a b c = trap 20 2 := by
  unfold mmaLBody
  simp only [primaryOnly_ok hprim, hsteep, ok_bind, pure_ok, Bool.not_false, if_true]
  rfl

/-- The command of a steep. -/
def steepCmd (s : State) (a b c : BitVec 5) (y : Xlat) : Cmd := {
  ctx := s.self.ctx, form := 1, a := s.g a, b := s.g b, c := s.g c
  pa := (s.targetOf y (s.g c)).pa, place := y.place, page := (y.vbase, y.size), issuers := [s.cur], group := s.nextId
  slot := some (((s.myCore.slots.find? fun e => e.2 == s.cur).map (·.1)).getD 60), cycle := s.cycle }

theorem mmaLBody_steep (hsteep : s.self.steep = true) (hwords : checkWords (s.g a) (s.g b) (s.g c) 1 = 0) (hc : isCaddy (s.g c) = false)
    {y : Xlat} (hy : s.xlate s.self.who (s.g c) .reduce = .ok y) (hroom : s.self.mx < 63) : ∃ gs, mmaLBody s a b c =
    .ok ((s.issuedMx (s.nextId + 1) gs).modMyCore (·.queueSteep (steepCmd s a b c y))) := by
  refine ⟨Tab.set s.groups s.nextId { left := 16, ctr := .mx, threads := [s.cur] }, ?_⟩
  unfold mmaLBody
  simp only [primaryOnly_ok hprim, hsteep, hwords, reduceTarget_ok hc hy, roomFor_ok (c := .mx) (n := 1) hroom, State.count_mx hroom, ok_bind,
    pure_ok, Bool.not_true, Bool.false_eq_true, if_false, ne_eq, not_true]
  rfl

end

/-- A steep that has submitted a command counts it and moves past the instruction. -/
theorem answers_steepCmd {s : State} {e : Instr} {n : Nat} {gs : Tab Group} {q : Cmd} (hp : Plain s 4)
    (he : exec e s = finish 4 s (.ok ((s.issuedMx n gs).modMyCore (·.queueSteep q)))) :
    answers e s fun u => u.coreAt s.self.core = (s.coreAt s.self.core).queueSteep q ∧ u.self.mx = s.self.mx + 1 ∧ u.self.pc = s.self.pc + 4 ∧
      u.self.g = s.self.g ∧ u.mem = s.mem ∧ othersKeep s u s.cur := by
  set u := (s.issuedMx n gs).modMyCore (·.queueSteep q)
  have hself : u.self = { s.self with mx := s.self.mx + 1 } := s.issuedMx_self n gs
  obtain ⟨hrun, hpast⟩ := finish_leaves hp hself rfl rfl rfl rfl rfl
  have hmine : (s.issuedMx n gs).self.core = s.self.core := by rw [State.issuedMx_self]
  refine ⟨past s 4 u, he.trans hrun, ?_, ?_, ?_, ?_, rfl, othersKeep_past rfl (s.issuedMx_others n gs)⟩
  · change u.coreAt _ = _
    simp only [u, State.modMyCore, State.modCore, hmine, State.coreAt_setCore]
    rfl
  · rw [hpast]
    rfl
  · rw [hpast]
    rfl
  · rw [hpast]
    rfl

/-! ### O40 -/

/-- The forms of MMA of a convened group, and the minor6 of each. -/
theorem exec_mma {s : State} (hsvc : s.self.onService = none) (a b c : BitVec 5) :
    ∀ e ∈ ([(.mma a b c, 0), (.mmaSp8 a b c, 2), (.mmaSp16 a b c, 3), (.mmaSp32 a b c, 4)] : List (Instr × BitVec 6)),
      exec e.1 s = finish 4 s (mmaBody s a b c e.2) := by
  simp only [List.forall_mem_cons]
  exact ⟨onCompute_here hsvc _ _, onCompute_here hsvc _ _, onCompute_here hsvc _ _, onCompute_here hsvc _ _, fun _ h => nomatch h⟩

/-- Settles O40: a live group is found at once, and each outcome of the issue is one case of the group's pending command and of the words. -/
theorem matrixCommandsIssue : Obligations.MatrixCommandsIssue := by
  unfold Obligations.MatrixCommandsIssue
  intro s a b c i g y hp hwf hsvc hprim hc hy hroom hs core off idx key cmd
  have hmma := exec_mma hsvc a b c
  have hmmaL : exec (.mmaL a b c) s = finish 4 s (mmaLBody s a b c) := onCompute_here hsvc _ _
  refine ⟨fun hconv hat hformed hbroken e he => ?_, fun hconv j hj => ?_, fun hsteep hwords => ?_, fun hsteep => ?_⟩
  · have hplace : cnvPlace s.self.cnv = (core, off, idx) := rfl
    have hrun := hmma e he
    obtain ⟨hi, hentry, hoff, hctx⟩ := State.convAt_some hat
    have hjoin (g' : Convene) (hoff' : g'.off = g.off) (hctx' : g'.ctx = g.ctx) (n : Nat) (gs : Tab Group)
        (hb : mmaBody s a b c e.2 = .ok ((s.issuedMx n gs).setConv core i g')) :
        answers e.1 s fun u => u.conv core i = some g' ∧ u.self.mx = s.self.mx + 1 ∧ u.self.pc = s.self.pc + 4 ∧ u.self.g = s.self.g ∧
          othersKeep s u s.cur ∧ ∀ x, x < key ∨ key + 64 ≤ x → u.byte x = s.byte x := by
      have hkey : key = s.caddyAt g'.ctx core g'.off := by rw [hoff', hctx', hoff, hctx]
      rw [hkey]
      exact answers_issuedMx hp hwf hs hi hrun hb
    refine ⟨fun hwords => ⟨fun hpend hloads hst => ?_, fun q hpend ha hb hqc hf hissued hloads hst => ?_, fun q hpend hne hissued => ?_⟩,
      fun hpend hissued => ?_, fun hfirst r hr hr0 => ?_⟩
    · obtain ⟨n, gs, hbody⟩ := mmaBody_first hprim hs hconv hplace hat hformed hbroken (by simp [hpend]) hwords hc hy hloads hst hroom hpend
      exact hjoin _ rfl rfl n gs hbody
    · obtain ⟨n, gs, hbody⟩ :=
        mmaBody_joins hprim hs hconv hplace hat hformed hbroken (by simp [hissued]) hwords hc hy hloads hst hroom hpend ha hb hqc hf
      exact hjoin _ rfl rfl n gs hbody
    · rw [hrun, mmaBody_otherWords hprim hs hconv hplace hat hformed hbroken (by simp [hissued]) hwords hc hy hpend hne, finish_trap]
    · have hb := mmaBody_waits (a := a) (b := b) (c := c) (form := e.2) hprim hs hconv hplace hat hformed hbroken hpend hissued
      refine ⟨s.modSelf (·.waiting s.fresh), ?_, hentry, ?_, ?_, ?_, ?_, rfl, rfl, fun v hv => State.thread_modSelf_ne s _ hv⟩
      · rw [hrun, hb, finish_wait]
      all_goals
        rw [State.self_modSelf]
        rfl
    · have hnot : (g.pending.isSome && g.issued.getLsbD idx) = false := by
        rcases hfirst with h | h <;> simp [h]
      subst hr
      rw [hrun, mmaBody_badWords hprim hs hconv hplace hat hformed hbroken hnot hr0, finish_trap]
  · have hone : ∃ form, exec j s = finish 4 s (mmaBody s a b c form) := by
      simp only [List.forall_mem_cons] at hmma
      obtain ⟨h0, h2, h3, h4, -⟩ := hmma
      simp only [List.mem_cons, List.not_mem_nil, or_false] at hj
      rcases hj with rfl | rfl | rfl | rfl
      · exact ⟨_, h0⟩
      · exact ⟨_, h2⟩
      · exact ⟨_, h3⟩
      · exact ⟨_, h4⟩
    obtain ⟨form, hrun⟩ := hone
    rw [hrun, mmaBody_alone hprim hconv, finish_trap]
  · obtain ⟨gs, hb⟩ := mmaLBody_steep hprim hsteep hwords hc hy hroom
    obtain ⟨u, hu, hcore, hkept⟩ := answers_steepCmd hp (hmmaL.trans (congrArg (finish 4 s) hb))
    exact ⟨u, hu, ⟨_, congrArg (·.engine.steepQ) hcore⟩, hkept⟩
  · rw [hmmaL, mmaLBody_leaf hprim hsteep, finish_trap]

end Sys2Proof.Machine
end

section
/-!
PROOFS. Joining and leaving convened groups (O47).
-/

namespace Sys2Proof.Machine

open Claims

/-! ### The convene word of a thread (R155) -/

/-- A thread takes a convene word, and CONV says whether it is a member (R41, R155). -/
def Thread.setCnv (cnv : Word) (b : Bool) (t : Thread) : Thread := { t with cnv, status := Word.setField t.status 3 1 b.toNat }

theorem Thread.pl_setCnv (t : Thread) (cnv : Word) (b : Bool) : (t.setCnv cnv b).pl = t.pl := by
  rw [Thread.pl_eq, Thread.pl_eq, Thread.setCnv, Word.toNat_setField _ _ _ _ (by decide)]
  omega

theorem Thread.conv_setCnv (t : Thread) (cnv : Word) (b : Bool) : (t.setCnv cnv b).conv = b := by
  have hb : (Word.setField t.status 3 1 b.toNat).toNat / 2 ^ 3 % 2 = b.toNat := by
    rw [Word.toNat_setField _ _ _ _ (by decide)]
    have := b.toNat_lt
    omega
  rw [Thread.conv, Thread.setCnv, ← BitVec.testBit_toNat, Nat.testBit_eq_decide_div_mod_eq, hb]
  cases b <;> rfl

/-- The convene word of the member with place `idx` of the object at `off` of core `c`. -/
def memberWord (c : Coord) (off idx : Nat) : Word := BitVec.ofNat 64 (off / 64 + c.toNat * 2 ^ 12 + idx * 2 ^ 21)

/-! ### The entry that a thread joins (R155) -/

/-- The new group of `n` members of an object that holds none. -/
def freshGroup (s : State) (c : Coord) (off n : Nat) : Convene :=
  { off, ctx := s.self.ctx, count := n, gen := BitVec.ofNat 16 (Word.field (s.word (s.caddyAt s.self.ctx c off)) 16 16) }

/-- Entry `i` with `q` is the one that a join of the object at `off` takes: the live one, or a free one for a new group; `w` is `s` with the object
read. -/
structure EntryAt (s w : State) (c : Coord) (off n i : Nat) (q : Convene) : Prop where
  caches : CachesOnly s w
  lt : i < 8
  off_eq : q.off = off
  ctx_eq : q.ctx = s.self.ctx
  found : findGroup s c s.self.ctx off = .ok (w, some (i, q)) ∨
    findGroup s c s.self.ctx off = .ok (w, none) ∧ w.convFree c = some i ∧ q = freshGroup s c off n

theorem EntryAt.of_live {s : State} (hs : Sound s) {c : Coord} {off i : Nat} {q : Convene} (h : s.convAt c s.self.ctx off = some (i, q)) (n : Nat) :
    EntryAt s s c off n i q := by
  obtain ⟨hi, -, hoff, hctx⟩ := State.convAt_some h
  exact ⟨.refl (errorFree_of_sound hs), hi, hoff, hctx, Or.inl (findGroup_live hs h)⟩

theorem EntryAt.of_free {s : State} (hs : Sound s) {c : Coord} {off i : Nat} (h : s.convAt c s.self.ctx off = none)
    (hsaved : s.savedGroup c s.self.ctx off = none) (hfree : s.convFree c = some i) (n : Nat) :
    ∃ w, EntryAt s w c off n i (freshGroup s c off n) := by
  obtain ⟨w, hw, hfind⟩ := findGroup_none hs h hsaved
  have hfree' : w.convFree c = some i := by
    rw [← hfree]
    unfold State.convFree
    simp only [hw.conv]
  have hi : i < 8 := List.mem_range.1 (List.mem_of_find?_eq_some hfree)
  exact ⟨w, hw, hi, rfl, rfl, Or.inr ⟨hfind, hfree', rfl⟩⟩

/-! ### The join at its core (R155) -/

section
variable {s : State} {c : Coord} {off n i idx : Nat} {q : Convene} {d : BitVec 5} {p : Option (BitVec 3)} (hnow : s.self.foundNow = none)
include hnow

section
variable (hs : Sound s) (hat : s.convAt c s.self.ctx off = some (i, q)) (hbroken : q.broken = false)
include hs hat hbroken

theorem joinHere_formed (hformed : q.formed = true) : joinHere s c off n d p = match p with
    | some p => .ok ((s.setP p false).setG d (BitVec.allOnes 64))
    | none => .error (.wait none (s.setFound { since := 0, gen := some q.gen })) := by
  unfold joinHere
  simp only [hnow, findGroup_live hs hat, hbroken, hformed, Option.bind_none, ok_bind, pure_ok, Bool.false_eq_true, if_false, if_true]
  cases p <;> rfl

theorem joinHere_count (hformed : q.formed = false) (hcount : q.count ≠ n) : joinHere s c off n d p = trap 21 1 := by
  unfold joinHere
  simp only [hnow, findGroup_live hs hat, hbroken, hformed, hcount, Option.bind_none, ok_bind, pure_ok, Bool.false_eq_true, if_false, ne_eq,
    not_false_iff, if_true]
  rfl

end

/-- The thread takes place `idx` of the group; `w` is the state with the object read. -/
def State.joined (w : State) (c : Coord) (i idx : Nat) (g : Convene) : State :=
  (w.setConv c i g).modSelf (·.setCnv (memberWord c g.off idx) true)

theorem joinHere_joins {w : State} (he : EntryAt s w c off n i q) (hbroken : q.broken = false) (hformed : q.formed = false) (hcount : q.count = n)
    (hidx : idx < 32) (hfree : q.present.getLsbD idx = false) (hlow : ∀ k < idx, q.present.getLsbD k = true) :
    let present := q.present ||| BitVec.twoPow 32 idx
    let g : Convene := { q with present, formed := popcount present == n }
    joinHere s c off n d p = convPoll (w.joined c i idx g) d p g idx := by
  intro present g
  have hfind : (List.range 32).find? (fun k => !q.present.getLsbD k) = some idx := by
    rw [List.find?_range_eq_some]
    exact ⟨by simp [hfree], List.mem_range.2 hidx, fun j hj => by simp [hlow j hj]⟩
  have hnobreak : ¬ q.broken = true := by simp [hbroken]
  have hnotyet : ¬ q.formed = true := by simp [hformed]
  have hnone : ¬ (none == some q.gen) = true := by simp
  obtain ⟨hcaches, -, rfl, -, hfound⟩ := he
  subst hcount
  rcases hfound with hf | ⟨hf, hcf, hq⟩
  · unfold joinHere
    simp only [hnow, hf, if_neg hnobreak, if_neg hnotyet, if_neg hnone, hfind, ok_bind, Option.bind_none, Option.getD_some, ne_eq, not_true,
      if_false]
    rfl
  · have hnew : ({
        off := q.off, ctx := s.self.ctx, count := q.count
        gen := BitVec.ofNat 16 (Word.field (w.word (w.caddyAt s.self.ctx c q.off)) 16 16) } : Convene) = q := by
      rw [hcaches.caddyAt, State.word, State.bytes, hcaches.mem]
      exact hq.symm
    unfold joinHere
    simp only [hnow, hf, hcf, hnew, if_neg hnobreak, if_neg hnotyet, if_neg hnone, hfind, ok_bind, Option.bind_none, Option.getD_some, ne_eq,
      not_true, if_false]
    rfl

end

/-! ### What the poll of a new member answers (R155) -/

section
variable {w : State} {d : BitVec 5} {g : Convene} {idx : Nat} (hbroken : g.broken = false)
include hbroken

theorem convPoll_try (p : BitVec 3) :
    convPoll w d (some p) g idx = .ok (w.modSelf fun x => (x.setG d (BitVec.ofNat 64 idx)).setP p g.formed) := by
  unfold convPoll
  rw [if_neg (by simp [hbroken])]
  exact congrArg Except.ok (State.modSelf_modSelf ..)

theorem convPoll_formed (h : g.formed = true) : convPoll w d none g idx = .ok (w.modSelf (·.setG d (BitVec.ofNat 64 idx))) := by
  unfold convPoll
  rw [if_neg (by simp [hbroken])]
  exact if_pos h

theorem convPoll_waits (h : g.formed = false) : convPoll w d none g idx = .error (.wait none w) := by
  unfold convPoll
  rw [if_neg (by simp [hbroken])]
  exact if_neg (by simp [h])

end

/-! ### What a join leaves -/

theorem getG_issuedAt (now : Nat) (pc : BitVec 48) (x : Thread) (d : BitVec 5) : (issuedAt now pc x).getG d = x.getG d := rfl
theorem getP_issuedAt (now : Nat) (pc : BitVec 48) (x : Thread) (p : BitVec 3) : (issuedAt now pc x).getP p = x.getP p := rfl
theorem Thread.getG_setP (x : Thread) (p : BitVec 3) (b : Bool) (d : BitVec 5) : (x.setP p b).getG d = x.getG d := by simp [Thread.getG]

/-- `u` is `s` with the executing thread a member of the group of entry `i`, which is `g`. -/
def MemberAfter (s : State) (c : Coord) (off i idx : Nat) (g : Convene) (u : State) : Prop :=
  u.conv c i = some g ∧ u.self.conv = true ∧ u.self.cnv = memberWord c off idx ∧
    (∀ x, x < s.caddyAt s.self.ctx c off ∨ s.caddyAt s.self.ctx c off + 64 ≤ x → u.byte x = s.byte x) ∧ othersKeep s u s.cur

section
variable {s w : State} {c : Coord} {off n i idx : Nat} {q g : Convene} (he : EntryAt s w c off n i q) (hwf : Memory.wf s.mem = true)
  (hoff : g.off = q.off) (hctx : g.ctx = q.ctx)
include he hwf hoff hctx

theorem EntryAt.rewrites : Rewrites (s.caddyAt s.self.ctx c off) s (w.setConv c i g) := by
  have hr := Rewrites.of_caches he.caches hwf (s.caddyAt s.self.ctx c off)
  have hset := Rewrites.setConv hr.free hr.wf c i g
  rw [hr.home, hctx, he.ctx_eq, hoff, he.off_eq] at hset
  exact hr.trans hset

theorem EntryAt.joined_self : (w.joined c i idx g).self = s.self.setCnv (memberWord c off idx) true := by
  rw [State.joined, State.self_modSelf, (he.rewrites hwf hoff hctx).self, hoff, he.off_eq]

/-- Whatever the instruction does to its thread beside, the thread stays a member. -/
theorem EntryAt.joined_member {f : Thread → Thread} (hst : ∀ x, (f x).status = x.status) (hcnv : ∀ x, (f x).cnv = x.cnv) :
    MemberAfter s c off i idx g ((w.joined c i idx g).modSelf f) := by
  have hr := he.rewrites hwf hoff hctx
  refine ⟨State.conv_setConv he.caches.free c he.lt g, ?_, ?_, hr.byte, fun v hv => ?_⟩
  · rw [State.self_modSelf, Thread.conv, hst, he.joined_self hwf hoff hctx]
    exact Thread.conv_setCnv ..
  · rw [State.self_modSelf, hcnv, he.joined_self hwf hoff hctx]
    rfl
  · have hv' : v ≠ (w.setConv c i g).cur := by rwa [hr.cur]
    rw [State.thread_modSelf_ne (w.joined c i idx g) f hv', State.joined, State.thread_modSelf_ne _ _ hv', hr.thread]

/-- A join that completes; `f` is what the instruction does to its thread beside. -/
theorem EntryAt.answers_joined (hp : Plain s 4) {e : Instr} {f : Thread → Thread}
    (hrun : exec e s = finish 4 s (.ok ((w.joined c i idx g).modSelf f))) (hst : ∀ x, (f x).status = x.status) (hcnv : ∀ x, (f x).cnv = x.cnv)
    (hpc : ∀ x, (f x).pc = x.pc) (hend : ∀ x, (f x).lend = x.lend) (hlc : ∀ x, (f x).lc = x.lc) :
    answers e s fun u => MemberAfter s c off i idx g u ∧
      u.self = issuedAt s.fresh (s.self.pc + 4) (f (s.self.setCnv (memberWord c off idx) true)) := by
  have hself := he.joined_self (idx := idx) hwf hoff hctx
  have hleft : ((w.joined c i idx g).modSelf f).self = f (s.self.setCnv (memberWord c off idx) true) := by rw [State.self_modSelf, hself]
  have hpl : (f (s.self.setCnv (memberWord c off idx) true)).pl = s.self.pl := by rw [Thread.pl, hst, ← Thread.pl, Thread.pl_setCnv]
  obtain ⟨hdone, hpast⟩ := finish_leaves hp hleft (hpc _) (hend _) (hlc _) hpl (he.rewrites hwf hoff hctx).fresh
  refine ⟨_, hrun.trans hdone, ?_, hpast⟩
  rw [past, State.modSelf_modSelf]
  exact he.joined_member hwf hoff hctx hst hcnv

section
variable (hp : Plain s 4) (hbroken : g.broken = false) {e : Instr} {d : BitVec 5}
include hp hbroken

/-- The member that CNV.TRY has made is told its place, and whether the group is formed. -/
theorem EntryAt.answers_try {p : BitVec 3} (hrun : exec e s = finish 4 s (convPoll (w.joined c i idx g) d (some p) g idx)) :
    answers e s fun u => MemberAfter s c off i idx g u ∧ (d ≠ 0 → u.self.getG d = BitVec.ofNat 64 idx) ∧ (p ≠ 0 → u.self.getP p = g.formed) ∧
      u.self.pc = s.self.pc + 4 := by
  rw [convPoll_try hbroken] at hrun
  obtain ⟨u, hu, hmember, hself⟩ := he.answers_joined hwf hoff hctx hp hrun (by simp) (by simp) (by simp) (by simp) (by simp)
  refine ⟨u, hu, hmember, fun hd => ?_, fun hp0 => ?_, ?_⟩
  · rw [hself, getG_issuedAt, Thread.getG_setP, Thread.getG_setG _ _ _ hd, if_pos rfl]
  · rw [hself, getP_issuedAt, Thread.getP_setP _ _ _ hp0, if_pos rfl]
  · rw [hself]
    rfl

/-- With the last member CNV.JOIN completes. -/
theorem EntryAt.answers_join (hfull : g.formed = true) (hrun : exec e s = finish 4 s (convPoll (w.joined c i idx g) d none g idx)) :
    answers e s fun u => MemberAfter s c off i idx g u ∧ (d ≠ 0 → u.self.getG d = BitVec.ofNat 64 idx) ∧ u.self.pc = s.self.pc + 4 := by
  rw [convPoll_formed hbroken hfull] at hrun
  obtain ⟨u, hu, hmember, hself⟩ := he.answers_joined hwf hoff hctx hp hrun (by simp) (by simp) (by simp) (by simp) (by simp)
  refine ⟨u, hu, hmember, fun hd => ?_, ?_⟩
  · rw [hself, getG_issuedAt, Thread.getG_setG _ _ _ hd, if_pos rfl]
  · rw [hself]
    rfl

end

/-- Before it CNV.JOIN waits for the group to form: the thread is a member. -/
theorem EntryAt.answers_joinWaits (hbroken : g.broken = false) (hfull : g.formed = false) {e : Instr} {d : BitVec 5}
    (hrun : exec e s = finish 4 s (convPoll (w.joined c i idx g) d none g idx)) :
    answers e s fun u => MemberAfter s c off i idx g u ∧ u.self.g = s.self.g ∧ u.self.pc = s.self.pc := by
  rw [convPoll_waits hbroken hfull] at hrun
  have hself := he.joined_self (idx := idx) hwf hoff hctx
  refine ⟨_, hrun.trans (finish_wait ..), he.joined_member hwf hoff hctx (fun _ => rfl) fun _ => rfl, ?_, ?_⟩
  · rw [State.self_modSelf, hself]
    rfl
  · rw [State.self_modSelf, hself]
    rfl

end

/-! ### CNV.TRY and CNV.JOIN (R155) -/

theorem cnvBody_here {s : State} {d a b : BitVec 5} {p : Option (BitVec 3)} {off : Nat} (hprim : s.primary s.self.ctx s.self.core = true)
    (hspace : Word.field (s.g a) 48 9 = 0x1FF ∨ Word.field (s.g a) 48 9 = 0x1FE)
    (hplace : s.caddyPlace s.self.who (BitVec.ofNat 64 (Word.field (s.g a) 0 57)) 1 = .ok (s.self.core, off)) (halign : off % 64 = 0)
    (hsteep : s.self.steep = false) (hconv : s.self.conv = false) (h1 : 1 ≤ (s.g b).toNat) (h32 : (s.g b).toNat ≤ 32) :
    cnvBody s d a b p = joinHere s s.self.core off (s.g b).toNat d p := by
  have hobj : convObject s (s.g a) = .ok (s.self.core, off) := by
    unfold convObject
    rw [hplace]
  have hnamed : (Word.field (s.g a) 48 9 ≠ 0x1FF && Word.field (s.g a) 48 9 ≠ 0x1FE : Bool) = false := by
    rcases hspace with h | h <;> simp [h]
  have hcount : ((s.g b).toNat < 1 || 32 < (s.g b).toNat : Bool) = false := by
    simp only [Bool.or_eq_false_iff, decide_eq_false_iff_not]
    omega
  unfold cnvBody
  simp only [primaryOnly_ok hprim, hnamed, hobj, halign, hsteep, hcount, hconv, ok_bind, Bool.false_eq_true, if_false, ne_eq, not_true,
    bne_self_eq_false]

/-! ### CNV.LEAVE (R157) -/

theorem leaveBody_live {s : State} (hs : Sound s) {core : Coord} {off idx i : Nat} {q : Convene} (hplace : cnvPlace s.self.cnv = (core, off, idx))
    (hat : s.convAt core s.self.ctx off = some (i, q)) : leaveBody s = .ok (s.leaveGroup s.cur i q) := by
  unfold leaveBody
  simp only [hplace, findGroup_live hs hat, ok_bind, pure_ok]

theorem State.leaveGroup_cur {s : State} {core : Coord} {off idx : Nat} (hplace : cnvPlace s.self.cnv = (core, off, idx)) (i : Nat)
    (q : Convene) : s.leaveGroup s.cur i q =
      ((s.modSelf (·.setCnv 0 false)).setConv core i { q with present := q.present &&& ~~~ BitVec.twoPow 32 idx }).dissolve core i := by
  have hplace' : cnvPlace (s.thread s.cur).cnv = (core, off, idx) := hplace
  unfold State.leaveGroup
  simp only [hplace']
  rfl

/-- A member that leaves: its group's entry goes where it was the last one and no command is pending (R157). -/
theorem finish_leaveGroup {s : State} (hp : Plain s 4) (hwf : Memory.wf s.mem = true) (hs : Sound s) {core : Coord} {off idx i : Nat} {q : Convene}
    (hplace : cnvPlace s.self.cnv = (core, off, idx)) (hat : s.convAt core s.self.ctx off = some (i, q)) :
    let g : Convene := { q with present := q.present &&& ~~~ BitVec.twoPow 32 idx }
    let key := s.caddyAt s.self.ctx core off
    ∃ u, finish 4 s (.ok (s.leaveGroup s.cur i q)) = .next u ∧ u.self.conv = false ∧ u.self.cnv = 0 ∧
      u.conv core i = (if g.over then none else some g) ∧ (∀ x, x < key ∨ key + 64 ≤ x → u.byte x = s.byte x) ∧ u.self.g = s.self.g ∧
      u.self.pc = s.self.pc + 4 ∧ othersKeep s u s.cur := by
  intro g key
  obtain ⟨hi, -, hoff, hctx⟩ := State.convAt_some hat
  set v := s.modSelf (·.setCnv 0 false)
  have hfree : v.errorFree = true := errorFree_of_sound hs
  have hkey : v.caddyAt g.ctx core g.off = key := by
    change s.caddyAt q.ctx core q.off = _
    rw [hctx, hoff]
  have hset : Rewrites key v (v.setConv core i g) := by
    have h := Rewrites.setConv hfree hwf core i g
    rwa [hkey] at h
  have hconv := State.conv_setConv hfree core hi g
  have hr : Rewrites key v ((v.setConv core i g).dissolve core i) := by
    have h := Rewrites.dissolve hset.free hset.wf hconv
    rw [hset.home, hkey] at h
    exact hset.trans h
  rw [State.leaveGroup_cur hplace]
  set u := (v.setConv core i g).dissolve core i
  have hself : u.self = s.self.setCnv 0 false := hr.self.trans (State.self_modSelf ..)
  obtain ⟨hrun, hpast⟩ := finish_leaves hp hself rfl rfl rfl (Thread.pl_setCnv ..) hr.fresh
  refine ⟨past s 4 u, hrun, ?_, ?_, State.conv_dissolve hset.free hi hconv, hr.byte, ?_, ?_, ?_⟩
  · rw [hpast]
    exact Thread.conv_setCnv s.self 0 false
  · rw [hpast]
    rfl
  · rw [hpast]
    rfl
  · rw [hpast]
    rfl
  · exact othersKeep_past hr.cur fun t ht => (hr.thread t).trans (State.thread_modSelf_ne s _ ht)

/-- A thread that has found a group which takes nobody waits, and changes nothing else (R155). -/
theorem finish_foundWaits {size : Nat} {s : State} (f : Found) : ∃ u, finish size s (.error (.wait none (s.setFound f))) = .next u ∧
    (∀ c i, u.conv c i = s.conv c i) ∧ u.self.conv = s.self.conv ∧ u.self.g = s.self.g ∧ u.self.pc = s.self.pc ∧ u.self.stalled = true ∧
      u.mem = s.mem ∧ othersKeep s u s.cur := by
  have hself : ((s.setFound f).modSelf (·.waiting s.fresh)).self =
      Thread.waiting s.fresh { s.self with found := some { f with since := if s.self.stalled then s.self.parkedAt else s.fresh } } := by
    rw [State.self_modSelf, State.setFound, State.self_modSelf]
  refine ⟨_, finish_wait .., fun _ _ => rfl, ?_, ?_, ?_, ?_, rfl, fun v hv => ?_⟩
  · rw [hself]
    rfl
  · rw [hself]
    rfl
  · rw [hself]
    rfl
  · rw [hself]
    rfl
  · rw [State.thread_modSelf_ne (s.setFound f) _ hv, State.setFound, State.thread_modSelf_ne s _ hv]

/-! ### O47 -/

/-- Settles O47: both forms come to the join at the thread's own core, whose outcome the entry decides; a member that leaves rewrites the entry, which
may then dissolve. -/
theorem convenedGroups : Obligations.ConvenedGroups := by
  unfold Obligations.ConvenedGroups
  intro s g d a b p off idx i q hp hwf hg hsvc hprim hs
  refine ⟨fun hspace hplace halign hsteep hconv hnow => ?_, ?_⟩
  · intro core n key present full joined fresh h1 h32 hbroken hentry
    have htry : exec (.cnvTry g d a b p) s = finish 4 s (joinHere s core off n d (some p)) :=
      (onCompute_here hsvc _ _).trans <| (guarded_true _ _ _ hg.true).trans <|
        congrArg (finish 4 s) (cnvBody_here hprim hspace hplace halign hsteep hconv h1 h32)
    have hjoin : exec (.cnvJoin g d a b) s = finish 4 s (joinHere s core off n d none) :=
      (onCompute_here hsvc _ _).trans <| (guarded_true _ _ _ hg.true).trans <|
        congrArg (finish 4 s) (cnvBody_here hprim hspace hplace halign hsteep hconv h1 h32)
    have hlive (h : q ≠ fresh) : s.convAt core s.self.ctx off = some (i, q) := by
      rcases hentry with hat | ⟨-, -, -, hq⟩
      · exact hat
      · exact absurd hq h
    refine ⟨fun hformed hcount hidx hplaceFree hlow => ?_, fun hformed => ?_, fun hformed hcount => ?_⟩
    · obtain ⟨w, he⟩ : ∃ w, EntryAt s w core off n i q := by
        rcases hentry with hat | ⟨hat, hsaved, hfree, rfl⟩
        · exact ⟨s, EntryAt.of_live hs hat n⟩
        · exact EntryAt.of_free hs hat hsaved hfree n
      set q' : Convene := { q with present, formed := full }
      have hbroken' : q'.broken = false := hbroken
      have hbody (r : Option (BitVec 3)) : joinHere s core off n d r = convPoll (w.joined core i idx q') d r q' idx :=
        joinHere_joins hnow he hbroken hformed hcount hidx hplaceFree hlow
      exact ⟨he.answers_try (g := q') hwf rfl rfl hp hbroken' (htry.trans (congrArg _ (hbody _))),
        fun hfull => he.answers_join (g := q') hwf rfl rfl hp hbroken' hfull (hjoin.trans (congrArg _ (hbody _))),
        fun hfull => he.answers_joinWaits (g := q') hwf rfl rfl hbroken' hfull (hjoin.trans (congrArg _ (hbody _)))⟩
    · have hat := hlive fun h => by simp [h, fresh] at hformed
      rw [joinHere_formed hnow hs hat hbroken hformed] at htry hjoin
      obtain ⟨u, hu, hentries, hleft, hkept⟩ := finish_foundWaits (size := 4) (s := s) { since := 0, gen := some q.gen }
      have htold : finish 4 s (.ok ((s.setP p false).setG d (BitVec.allOnes 64))) =
          onlySelf s 4 fun x => (x.setP p false).setG d (BitVec.allOnes 64) :=
        (congrArg (fun u => finish 4 s (.ok u)) (State.modSelf_modSelf ..)).trans
          (finish_self s 4 hp _ (by simp) (by simp) (by simp) (by simp [Thread.pl]))
      exact ⟨htry.trans htold, u, hjoin.trans hu, hentries core i, hleft.trans hconv, hkept⟩
    · have hat := hlive fun h => hcount (by rw [h])
      rw [joinHere_count hnow hs hat hbroken hformed hcount, finish_trap] at htry hjoin
      exact ⟨hjoin, htry⟩
  · intro core off key present hconv hat
    have hplace : cnvPlace s.self.cnv = (core, off, (cnvPlace s.self.cnv).2.2) := rfl
    obtain ⟨u, hu, hleft, hcnv, hentry, hkept⟩ := finish_leaveGroup hp hwf hs hplace hat
    have hrun : exec (.cnvLeave g) s = finish 4 s (.ok (s.leaveGroup s.cur i q)) := by
      refine (onCompute_here hsvc _ _).trans ((guarded_true _ _ _ hg.true).trans (congrArg (finish 4 s) ?_))
      simp only [primaryOnly_ok hprim, hconv, leaveBody_live hs hplace hat, ok_bind, Bool.not_true, Bool.false_eq_true, if_false]
    have hover : ({ q with present } : Convene).over = true ↔ present = 0 ∧ q.pending = none := by
      simp [Convene.over]
    refine ⟨u, hrun.trans hu, hleft, hcnv, ?_, hkept⟩
    rw [hentry]
    simp only [← hover]
    rfl

end Sys2Proof.Machine
end

section
/-!
PROOFS. What soft errors and the slices leave alone: everything but what the slices hold, the errors that stand, their counts and logs, and the halts
that they bring (R22, R395 to R398).
-/

namespace Sys2Proof.Machine

/-- A state without what the slices hold, the errors that stand, their counts and logs, and the halts of contexts. -/
def State.besideErrors (s : State) : State :=
  { s with l2 := [], errCounts := [], errLogs := [], badUnits := [], softUnits := [], ctxs := [] }

theorem foldl_besideErrors {α : Type} {f : State → α → State} (hf : ∀ s a, (f s a).besideErrors = s.besideErrors) (l : List α) (s : State) :
    (l.foldl f s).besideErrors = s.besideErrors :=
  foldl_keeps (P := fun u => u.besideErrors = s.besideErrors) (fun u a h => (hf u a).trans h) l rfl

theorem besideErrors_ite {p : Prop} [Decidable p] {s a b : State} (ha : a.besideErrors = s.besideErrors) (hb : b.besideErrors = s.besideErrors) :
    (if p then a else b).besideErrors = s.besideErrors := by
  split
  · exact ha
  · exact hb

/-! ### Soft errors -/

@[simp] theorem State.besideErrors_mendWhere (s : State) (f : Nat × Nat × Nat → Bool) : (s.mendWhere f).besideErrors = s.besideErrors := rfl

@[simp] theorem State.besideErrors_mend (s : State) (r : Nat) (u : Coord) (l n : Nat) : (s.mend r u l n).besideErrors = s.besideErrors := rfl

@[simp] theorem State.besideErrors_haltCtx (s : State) (c : CtxId) (h : Halt) : (s.haltCtx c h).besideErrors = s.besideErrors := rfl

@[simp] theorem State.besideErrors_logError (s : State) (d r : Nat) (u : Coord) (ue h : Bool) (c : CtxId) (a : Nat) :
    (s.logError d r u ue h c a).besideErrors = s.besideErrors := rfl

@[simp] theorem State.besideErrors_correctable (s : State) (r : Nat) (u : Coord) (a : Nat) : (s.correctable r u a).besideErrors = s.besideErrors := by
  simp only [State.correctable]
  split <;> rfl

@[simp] theorem State.besideErrors_markBad (s : State) (r : Nat) (u : Coord) (l : Nat) : (s.markBad r u l).besideErrors = s.besideErrors := by
  unfold State.markBad
  split <;> rfl

@[simp] theorem State.besideErrors_uncorrectable (s : State) (r : Nat) (u : Coord) (l : Nat) (c : CtxId) (k : Nat) :
    (s.uncorrectable r u l c k).besideErrors = s.besideErrors := by
  simp only [State.uncorrectable]
  split
  · exact (foldl_besideErrors (fun s c => State.besideErrors_haltCtx s c _) _ _).trans (by simp)
  · simp

/-- A correctable error that a read meets, if it stands there. -/
theorem State.besideErrors_softError (s : State) (p : Prop) [Decidable p] (x : Nat × Nat × Nat) (r : Nat) (u : Coord) (a : Nat) :
    (if p then State.correctable { s with softUnits := s.softUnits.erase x } r u a else s).besideErrors = s.besideErrors :=
  besideErrors_ite (s := s) (State.besideErrors_correctable ..) rfl

@[simp] theorem State.besideErrors_meetUnit (s : State) (u : Coord) (c : CtxId) (k : Nat) (x : Nat × Nat × Nat) :
    (s.meetUnit u c k x).besideErrors = s.besideErrors := by
  rw [← s.besideErrors_softError (s.softUnits.contains x = true) x x.1 u (x.2.2 * unitBytes x.1)]
  simp only [State.meetUnit]
  generalize (if s.softUnits.contains x = true then _ else s : State) = w
  have hbad : (if w.badUnits.contains x = true then w.uncorrectable x.1 u (x.2.2 * unitBytes x.1) c k else w).besideErrors = w.besideErrors :=
    besideErrors_ite (State.besideErrors_uncorrectable ..) rfl
  exact besideErrors_ite (p := x.1 = 9) hbad hbad

@[simp] theorem State.besideErrors_meetErrors (s : State) (r : Nat) (u : Coord) (l n : Nat) (c : CtxId) (k : Nat) :
    (s.meetErrors r u l n c k).besideErrors = s.besideErrors := foldl_besideErrors (by simp) _ _

@[simp] theorem State.besideErrors_noticeErrors (s : State) (r : Nat) (u : Coord) (l n : Nat) :
    (s.noticeErrors r u l n).besideErrors = s.besideErrors := by
  refine foldl_besideErrors (fun s x => ?_) _ _
  rw [← s.besideErrors_softError (s.softUnits.contains x = true) x r u (x.2.2 * unitBytes r)]
  dsimp only
  generalize (if s.softUnits.contains x = true then _ else s : State) = w
  exact besideErrors_ite (s := w) rfl rfl

@[simp] theorem State.besideErrors_meetFor (s : State) (c : Option CtxId) (r : Nat) (u : Coord) (l n k : Nat) :
    (s.meetFor c r u l n k).besideErrors = s.besideErrors := by
  unfold State.meetFor
  split <;> simp

/-! ### Slices (R22) -/

theorem State.besideErrors_slices {s t : State} (h : t.besideErrors = s.besideErrors) : (s.slices t).besideErrors = s.besideErrors := by
  unfold State.slices
  split
  · rfl
  · exact h

@[simp] theorem State.besideErrors_writeBack (s : State) (line : Nat) : (s.writeBack line).besideErrors = s.besideErrors := rfl

@[simp] theorem State.besideErrors_l2Gone (s : State) (line : Nat) : (s.l2Gone line).besideErrors = s.besideErrors := rfl

@[simp] theorem State.besideErrors_l2Take (s : State) (home : Coord) (l : L2Line) : (s.l2Take home l).besideErrors = s.besideErrors := by
  unfold State.l2Take
  dsimp only
  split
  · rfl
  · rfl
  · split
    · exact State.besideErrors_noticeErrors ..
    · rfl

@[simp] theorem State.besideErrors_l2Fill (s : State) (home : Coord) (pa : Nat) (c : Option CtxId) (w : Bool) (k : Nat) :
    (s.l2Fill home pa c w k).besideErrors = s.besideErrors := by
  have hmeet : (if w then s else s.meetFor c 1 (hbmUnit pa) (64 * (pa / 64)) 64 k).besideErrors = s.besideErrors :=
    besideErrors_ite rfl (State.besideErrors_meetFor ..)
  unfold State.l2Fill
  dsimp only
  split
  · split <;> rfl
  · split
    · split
      · exact hmeet
      · exact (State.besideErrors_l2Take ..).trans hmeet
    · exact State.besideErrors_l2Take ..

@[simp] theorem State.besideErrors_sliceLook (s : State) (home : Coord) (pa n : Nat) (c : Option CtxId) (k : Nat) :
    (s.sliceLook home pa n c k).besideErrors = s.besideErrors := State.besideErrors_slices (by simp)

@[simp] theorem State.besideErrors_slicePut (s : State) (home : Coord) (pa n : Nat) (c : Option CtxId) (k : Nat) :
    (s.slicePut home pa n c k).besideErrors = s.besideErrors := State.besideErrors_slices (by simp)

@[simp] theorem State.besideErrors_sliceRead (s : State) (home : Coord) (pa n : Nat) (c : CtxId) (k : Nat) :
    (s.sliceRead home pa n c k).besideErrors = s.besideErrors := State.besideErrors_sliceLook ..

@[simp] theorem State.besideErrors_sliceWrite (s : State) (home : Coord) (pa n : Nat) (c : CtxId) (k : Nat) :
    (s.sliceWrite home pa n c k).besideErrors = s.besideErrors := State.besideErrors_slicePut ..

/-! ### The parts of a state that errors leave alone -/

section
variable {s u : State} (h : u.besideErrors = s.besideErrors)
include h

theorem State.mem_of_besideErrors : u.mem = s.mem := (congrArg State.mem h :)

theorem State.net_of_besideErrors : u.net = s.net := (congrArg State.net h :)

theorem State.threads_of_besideErrors : u.threads = s.threads := (congrArg State.threads h :)

theorem State.parks_of_besideErrors : u.parks = s.parks := (congrArg State.parks h :)

theorem State.nextKey_of_besideErrors : u.nextKey = s.nextKey := (congrArg State.nextKey h :)

theorem State.detRec_of_besideErrors : u.detRec = s.detRec := (congrArg State.detRec h :)

theorem State.keyOf_of_besideErrors (pa : Nat) : u.keyOf pa = s.keyOf pa := by
  rw [State.keyOf, State.keyOf, State.nextKey_of_besideErrors h]

theorem State.byte_of_besideErrors (x : Nat) : u.byte x = s.byte x := by rw [State.byte, State.byte, State.mem_of_besideErrors h]

theorem State.lineWords_of_besideErrors (pa : Nat) : u.lineWords pa = s.lineWords pa := by
  unfold State.lineWords State.bytes
  rw [State.mem_of_besideErrors h]

end

/-! ### While no error stands (R395) -/

section
variable {s : State} (h : s.errorFree = true)
include h

theorem State.meetErrors_free (r : Nat) (u : Coord) (l n : Nat) (c : CtxId) (k : Nat) : s.meetErrors r u l n c k = s := by
  obtain ⟨hbad, hsoft⟩ := s.errorFree_iff.1 h
  exact s.meetErrors_none r u l n c k hsoft hbad

theorem State.sliceRead_free (home : Coord) (pa n : Nat) (c : CtxId) (k : Nat) : ∃ l2, s.sliceRead home pa n c k = { s with l2 := l2 } :=
  ⟨_, State.slices_none h _⟩

theorem State.sliceWrite_free (home : Coord) (pa n : Nat) (c : CtxId) (k : Nat) : ∃ l2, s.sliceWrite home pa n c k = { s with l2 := l2 } :=
  ⟨_, State.slices_none h _⟩

theorem State.setKey_free (pa : Nat) (k : BitVec 16) : s.setKey pa k = { s with nextKey := Tab.set s.nextKey (pa / 64) k } :=
  State.mendWhere_none (s := { s with nextKey := Tab.set s.nextKey (pa / 64) k }) h _

end

end Sys2Proof.Machine
end

section
/-!
PROOFS. The words of a line of memory, as they are written and as they are read (R6, R165).
-/

namespace Sys2Proof.Machine

/-- The low bytes of a number stand for the number, as far as they reach (R6). -/
theorem leNat_leBytes (n x : Nat) : leNat (leBytes n x) = x % 256 ^ n := by
  induction n generalizing x with
  | zero => rw [leBytes, leNat, Nat.pow_zero, Nat.mod_one]
  | succ n ih => rw [leBytes, leNat, ih, Nat.pow_succ', Nat.mod_mul, BitVec.toNat_ofNat]

theorem ofNat_leNat_leBytes_four (w : BitVec 32) : BitVec.ofNat 32 (leNat (leBytes 4 w.toNat)) = w := by
  rw [leNat_leBytes, show 256 ^ 4 = 2 ^ 32 from rfl, Nat.mod_eq_of_lt w.isLt, BitVec.ofNat_toNat, BitVec.setWidth_eq]

theorem Memory.writeList_append (m : List Host.Cell) (a : Nat) (xs ys : List Byte) :
    Memory.writeList m a (xs ++ ys) = Memory.writeList (Memory.writeList m a xs) (a + xs.length) ys := by
  induction xs generalizing m a with
  | nil => rfl
  | cons x xs ih => rw [List.cons_append, Memory.writeList, Memory.writeList, ih, List.length_cons, Nat.add_assoc, Nat.add_comm 1]

/-- A range that is written reads as written (R185). -/
theorem Memory.readList_writeList {m : List Host.Cell} (h : Memory.wf m = true) (a : Nat) (bs : List Byte) :
    Memory.readList (Memory.writeList m a bs) a bs.length = bs := by
  induction bs generalizing m a with
  | nil => rfl
  | cons b bs ih =>
    rw [List.length_cons, Memory.readList, Memory.writeList, ih (Memory.wf_write h a b),
      Memory.read_writeList_out (Memory.wf_write h a b) (by omega), Memory.read_write_self h]

/-- A range that ends where a written one begins reads as before (R185). -/
theorem Memory.readList_writeList_after {m : List Host.Cell} (h : Memory.wf m = true) {a n b : Nat} (hb : a + n ≤ b) (bs : List Byte) :
    Memory.readList (Memory.writeList m b bs) a n = Memory.readList m a n := by
  induction n generalizing a with
  | zero => rfl
  | succ n ih => rw [Memory.readList, Memory.readList, ih (by omega), Memory.read_writeList_out h (by omega)]

/-- The bytes of words, four for each. -/
def lineBytes (ws : List (BitVec 32)) : List Byte := ws.flatMap fun w => leBytes 4 w.toNat

@[simp] theorem length_lineBytes (ws : List (BitVec 32)) : (lineBytes ws).length = 4 * ws.length := by
  simp [lineBytes, List.length_flatMap, Nat.mul_comm]

/-- Words that are written read as written, one by one. -/
theorem Memory.words_writeList {m : List Host.Cell} (h : Memory.wf m = true) (a : Nat) (ws : List (BitVec 32)) :
    ((List.range ws.length).map fun j => BitVec.ofNat 32 (leNat (Memory.readList (Memory.writeList m a (lineBytes ws)) (a + 4 * j) 4))) = ws := by
  induction ws generalizing m a with
  | nil => rfl
  | cons w ws ih =>
    have hput : Memory.writeList m a (lineBytes (w :: ws)) = Memory.writeList (Memory.writeList m a (leBytes 4 w.toNat)) (a + 4) (lineBytes ws) :=
      Memory.writeList_append ..
    have hwf := Memory.wf_writeList h a (leBytes 4 w.toNat)
    have hfirst : Memory.readList (Memory.writeList (Memory.writeList m a (leBytes 4 w.toNat)) (a + 4) (lineBytes ws)) (a + 4 * 0) 4 =
        leBytes 4 w.toNat := (Memory.readList_writeList_after hwf (Nat.le_refl _) _).trans (Memory.readList_writeList h a _)
    have hplace (j : Nat) : a + 4 * (j + 1) = a + 4 + 4 * j := by omega
    rw [hput, List.length_cons, List.range_succ_eq_map, List.map_cons, List.map_map, hfirst,
      ofNat_leNat_leBytes_four]
    simp only [Function.comp_def, Nat.succ_eq_add_one, hplace, ih hwf]

/-! ### Lines (R165) -/

@[simp] theorem State.length_lineWords (s : State) (pa : Nat) : (s.lineWords pa).length = 16 := by simp [State.lineWords]

theorem State.mem_putLine (s : State) (pa : Nat) (ws : List (BitVec 32)) : (s.putLine pa ws).mem = Memory.writeList s.mem pa (lineBytes ws) := rfl

section
variable {s : State} (h : Memory.wf s.mem = true) {pa : Nat} {ws : List (BitVec 32)} (hlen : ws.length = 16)
include h hlen

/-- A line reads the words that were written to it. -/
theorem State.lineWords_putLine : (s.putLine pa ws).lineWords pa = ws := by
  have hwords := Memory.words_writeList h pa ws
  rwa [hlen] at hwords

/-- A line that is written leaves every other byte as it was. -/
theorem State.byte_putLine {x : Nat} (hx : x < pa ∨ pa + 64 ≤ x) : (s.putLine pa ws).byte x = s.byte x :=
  Memory.read_writeList_out h (by rwa [← lineBytes, length_lineBytes, hlen])

end

/-- The words of a cleared line. -/
def zeroWords : List (BitVec 32) := List.replicate 16 0

theorem length_zeroWords : zeroWords.length = 16 := rfl

/-- A line of zeros reads zero, byte by byte. -/
theorem State.byte_putLine_zero {s : State} (h : Memory.wf s.mem = true) {pa x : Nat} (h1 : pa ≤ x) (h2 : x < pa + 64) :
    (s.putLine pa zeroWords).byte x = 0 := by
  have hzero : lineBytes zeroWords = List.replicate 64 0 := by decide
  rw [State.byte, State.mem_putLine, hzero, Memory.read_writeList_in h h1 (by rwa [List.length_replicate]), List.getD_replicate _ (by omega)]

end Sys2Proof.Machine
end

section
/-!
PROOFS. Partials at their infuser (O43): what is added, parked, or refused to its core, and the parked successors that follow (R165 to R170).
-/

namespace Sys2Proof.Machine

open Claims

/-! ### A partial reaches its home (R169) -/

/-- The state in which the partial `p`, at place `k` of the traffic, is added, parked or refused: its home has read what it needs. -/
def State.arrived (s : State) (k : Nat) (p : RedLine) : State := { s.meetRed p with net := dropAt s.net k }

@[simp] theorem State.besideErrors_meetRed (s : State) (p : RedLine) : (s.meetRed p).besideErrors = s.besideErrors := by
  unfold State.meetRed
  exact besideErrors_ite (by simp) (by simp)

theorem State.besideErrors_arrived (s : State) (k : Nat) (p : RedLine) :
    (s.arrived k p).besideErrors = { s with net := dropAt s.net k }.besideErrors :=
  (congrArg (fun u : State => { u with net := dropAt s.net k }) (s.besideErrors_meetRed p) :)

theorem State.meetRed_free {s : State} (h : s.errorFree = true) (p : RedLine) : ∃ l2, s.meetRed p = { s with l2 := l2 } := by
  obtain ⟨l2, hl2⟩ := State.sliceRead_free h p.home p.pa 64 p.ctx 5
  refine ⟨l2, ?_⟩
  simp only [State.meetRed, State.meetErrors_free h, hl2, State.meetErrors_free (s := { s with l2 := l2 }) h, ite_self]

theorem State.arrived_free {s : State} (h : s.errorFree = true) (k : Nat) (p : RedLine) :
    ∃ l2, s.arrived k p = { s with l2 := l2, net := dropAt s.net k } := by
  obtain ⟨l2, hl2⟩ := State.meetRed_free h p
  exact ⟨l2, by rw [State.arrived, hl2]⟩

section
variable {s : State} {k : Nat} {p : RedLine} (hnet : s.net[k]? = some (.red p)) (hhalt : s.halted p.ctx = false) (hawake : s.homeAsleep p.home = false)
  (hwait : s.redWaits k (.red p) = false)
include hnet hhalt hawake hwait

/-- A partial with which no later one combines is added, parked or refused at its home, unless the reads there halt its context (R168, R397). -/
theorem infuserArrival_alone (hmate : ∀ j q, k < j → s.net[j]? = some (.red q) → s.mayCombine p q = false) :
    infuserArrival s k = if (s.meetRed p).halted p.ctx then s.meetRed p
      else if p.ord then (s.arrived k p).arriveRed p else (s.arrived k p).applyRed p := by
  have hkept : (s.meetRed p).net = s.net := State.net_of_besideErrors (s.besideErrors_meetRed p)
  unfold infuserArrival
  simp only [hnet, hhalt, hawake, hwait, Bool.or_self, Bool.false_eq_true, if_false]
  split
  · next j hfind =>
    have hj := List.find?_some hfind
    rw [Bool.and_eq_true, decide_eq_true_eq] at hj
    obtain ⟨hlater, hj⟩ := hj
    split at hj
    · next q hq => simp [hmate j q hlater hq] at hj
    · cases hj
  · rw [hkept]
    rfl

/-- An ordered partial: `P` holds after its arrival if it holds after it is added, parked or refused. -/
theorem answers_ordered (hord : p.ord = true) {P : State → Prop} (hP : P ((s.arrived k p).arriveRed p)) :
    answers (.infuserArrival k) s fun u => if (s.meetRed p).halted p.ctx then u = s.meetRed p else P u := by
  have halone := infuserArrival_alone hnet hhalt hawake hwait fun j q _ _ => by simp [State.mayCombine, hord]
  refine ⟨_, congrArg Host.Outcome.next halone, ?_⟩
  split
  · rfl
  · exact hP

/-- A free partial, the last of the traffic. -/
theorem answers_free (hord : p.ord = false) (hlast : s.net.length = k + 1) {P : State → Prop} (hP : P ((s.arrived k p).applyRed p)) :
    answers (.infuserArrival k) s fun u => if (s.meetRed p).halted p.ctx then u = s.meetRed p else P u := by
  have halone := infuserArrival_alone hnet hhalt hawake hwait fun j q hj hq => by
    have hlt := (List.getElem?_eq_some_iff.1 hq).1
    omega
  refine ⟨_, congrArg Host.Outcome.next halone, ?_⟩
  split
  · rfl
  · rwa [if_neg (by simp [hord])]

end

/-! ### Addition (R167) -/

/-- From `s` to `u` the words of `r` have been added to its line, and its acknowledgements have set out; nothing else of the memory has changed, no key,
no thread and no parked entry. -/
structure Added (r : RedLine) (s u : State) : Prop where
  wf : Memory.wf u.mem = true
  words : u.lineWords r.pa = (s.lineWords r.pa).zipWith fadd32 r.words
  byte : ∀ x, x < r.pa ∨ r.pa + 64 ≤ x → u.byte x = s.byte x
  keyOf : ∀ l, u.keyOf l = s.keyOf l
  net : u.net = s.net ++ r.groups.map .redAck
  threads : u.threads = s.threads
  parks : u.parks = s.parks

theorem State.besideErrors_applyRed (s : State) (r : RedLine) :
    (s.applyRed r).besideErrors = ((s.putLine r.pa ((s.lineWords r.pa).zipWith fadd32 r.words)).ackRed r).besideErrors :=
  (congrArg (State.ackRed · r) (State.besideErrors_sliceWrite (s.putLine r.pa ((s.lineWords r.pa).zipWith fadd32 r.words)) r.home r.pa 64 r.ctx 5) :)

theorem State.added_applyRed {s : State} (h : Memory.wf s.mem = true) {r : RedLine} (hlen : r.words.length = 16) : Added r s (s.applyRed r) := by
  have heq := s.besideErrors_applyRed r
  have hsum : ((s.lineWords r.pa).zipWith fadd32 r.words).length = 16 := by rw [List.length_zipWith, State.length_lineWords, hlen, Nat.min_self]
  exact {
    wf := by simp [h]
    words := (State.lineWords_of_besideErrors heq _).trans (State.lineWords_putLine h hsum)
    byte := fun x hx => (State.byte_of_besideErrors heq x).trans (State.byte_putLine h hsum hx)
    keyOf := fun l => (State.keyOf_of_besideErrors heq l :)
    net := (State.net_of_besideErrors heq :)
    threads := (State.threads_of_besideErrors heq :)
    parks := (State.parks_of_besideErrors heq :) }

theorem State.applyRed_free {s : State} (h : s.errorFree = true) (r : RedLine) :
    ∃ mem l2, s.applyRed r = { s with mem := mem, l2 := l2, net := s.net ++ r.groups.map .redAck } := by
  obtain ⟨l2, hl2⟩ := State.sliceWrite_free (s := s.putLine r.pa ((s.lineWords r.pa).zipWith fadd32 r.words)) h r.home r.pa 64 r.ctx 5
  refine ⟨(s.putLine r.pa ((s.lineWords r.pa).zipWith fadd32 r.words)).mem, l2, ?_⟩
  unfold State.applyRed
  rw [hl2]
  rfl

/-! ### Keys (R165) -/

theorem State.keyOf_setKey (s : State) (pa : Nat) (key : BitVec 16) (l : Nat) :
    (s.setKey pa key).keyOf l = if l / 64 = pa / 64 then key else s.keyOf l := Tab.get_set ..

@[simp] theorem State.keyOf_setKey_self (s : State) (pa : Nat) (key : BitVec 16) : (s.setKey pa key).keyOf pa = key := by
  rw [State.keyOf_setKey, if_pos rfl]

/-! ### Parked successors (R169) -/

/-- Where no parked entry of a line has its key, none is applied. -/
theorem State.applyParked_none {s : State} {pa : Nat} (h : ∀ r ∈ s.parks, r.pa = pa → r.key ≠ s.keyOf pa) (fuel : Nat) :
    s.applyParked pa fuel = s := by
  have hfind : (s.parks.find? fun r => r.pa == pa && r.key == s.keyOf pa) = none := by simpa using h
  cases fuel with
  | zero => rfl
  | succ fuel => rw [State.applyParked, hfind]

/-- The parked entry `r` is added to the line at `pa`, whose key advances. -/
def State.followRed (s : State) (pa : Nat) (r : RedLine) : State :=
  ({ s with parks := s.parks.erase r }.applyRed r).setKey pa (s.keyOf pa + 1)

section
variable {s : State} (h : s.errorFree = true) {pa : Nat}
include h

theorem State.applyParked_some {r : RedLine} (hfind : (s.parks.find? fun r => r.pa == pa && r.key == s.keyOf pa) = some r)
    (hhalt : s.halted r.ctx = false) (fuel : Nat) : s.applyParked pa (fuel + 1) = (s.followRed pa r).applyParked pa fuel := by
  rw [State.applyParked, hfind]
  simp only [State.meetErrors_free h, hhalt, Bool.false_eq_true, if_false]
  rfl

theorem State.followRed_free (r : RedLine) :
    (s.followRed pa r).errorFree = true ∧ (s.followRed pa r).ctxs = s.ctxs ∧ (s.followRed pa r).parks = s.parks.erase r := by
  obtain ⟨mem, l2, heq⟩ := State.applyRed_free (s := { s with parks := s.parks.erase r }) h r
  rw [State.followRed, heq, State.setKey_free (s := { s with parks := s.parks.erase r, mem := mem, l2 := l2, net := s.net ++ r.groups.map .redAck }) h]
  exact ⟨h, rfl, rfl⟩

end

/-- With fuel for every parked entry, none is left that has the key of its line (R169). -/
theorem State.applyParked_exhausts {pa : Nat} (fuel : Nat) {s : State} (h : s.errorFree = true)
    (hlive : ∀ r ∈ s.parks, r.pa = pa → s.halted r.ctx = false) (hfuel : s.parks.length ≤ fuel) :
    ∀ r ∈ (s.applyParked pa fuel).parks, r.pa = pa → r.key ≠ (s.applyParked pa fuel).keyOf pa := by
  induction fuel generalizing s with
  | zero => simp [State.applyParked, List.eq_nil_of_length_eq_zero (Nat.le_zero.1 hfuel)]
  | succ fuel ih =>
    cases hfind : s.parks.find? fun r => r.pa == pa && r.key == s.keyOf pa with
    | none =>
      have hnone : ∀ r ∈ s.parks, r.pa = pa → r.key ≠ s.keyOf pa := by simpa using hfind
      rwa [State.applyParked_none hnone]
    | some r =>
      have hmem := List.mem_of_find?_eq_some hfind
      have hpa : r.pa = pa := by
        have hr := List.find?_some hfind
        simp only [Bool.and_eq_true, beq_iff_eq] at hr
        exact hr.1
      obtain ⟨hfree, hctxs, hparks⟩ := State.followRed_free h (pa := pa) r
      rw [State.applyParked_some h hfind (hlive r hmem hpa)]
      refine ih hfree (fun q hq hqpa => ?_) ?_
      · rw [State.halted, State.ctxOf, hctxs]
        exact hlive q (List.mem_of_mem_erase (hparks ▸ hq)) hqpa
      · rw [hparks, List.length_erase_of_mem hmem]
        omega

/-! ### Park buffers and retry stores (R169, R170) -/

/-- Of 64 places, fewer than 64 taken ones leave a lowest free one. -/
theorem exists_free_place {held : List Nat} (h : held.length < 64) :
    ∃ n, ((List.range 64).find? fun i => !held.contains i) = some n ∧ n < 64 ∧ n ∉ held := by
  cases hfind : (List.range 64).find? fun i => !held.contains i with
  | none =>
    have hall : List.range 64 ⊆ held := fun i hi => by simpa using List.find?_eq_none.1 hfind i hi
    have hle := (List.nodup_range.subperm hall).length_le
    rw [List.length_range] at hle
    omega
  | some n =>
    have hn := List.find?_some hfind
    exact ⟨n, rfl, List.mem_range.1 (List.mem_of_find?_eq_some hfind), by simpa using hn⟩

/-- A line is parked in a place of its own. -/
theorem State.park_place {s : State} {r : RedLine} (h : (s.parks.filter (·.home == r.home)).length < 64) :
    ∃ n < 64, (∀ q ∈ s.parks, q.home = r.home → q.slot ≠ n) ∧
      (s.park r).besideErrors = { s with parks := s.parks ++ [{ r with slot := n }] }.besideErrors := by
  obtain ⟨n, hfind, hlt, hfree⟩ := exists_free_place (held := (s.parks.filter (·.home == r.home)).map (·.slot)) (by rwa [List.length_map])
  refine ⟨n, hlt, fun q hq hhome hslot => hfree ?_, ?_⟩
  · exact List.mem_map.2 ⟨q, List.mem_filter.2 ⟨hq, by simpa using hhome⟩, hslot⟩
  · simp only [State.park, hfind, Option.getD_some]
    rfl

/-- The core of a refused line keeps it in the lowest place of the retry area. -/
def State.keepRefused (s : State) (r : RedLine) : State :=
  s.modCore (r.cores.headD 0) fun k => { k with retry := k.retry ++ [{ r with slot := s.retrySlot r.ctx }] }

section
variable {s : State} {r : RedLine}

theorem State.refuseRed_full (h : s.retryPlaces r.ctx ≤ s.retrySlot r.ctx) :
    s.refuseRed r = (s.keepRefused r).haltCtx r.ctx { cause := 4, unit := some (r.cores.headD 0), kind := 1 } := by
  rw [State.refuseRed, if_pos h]
  rfl

theorem State.refuseRed_here (h : s.retrySlot r.ctx < s.retryPlaces r.ctx) (hctx : r.ctx ∈ (s.coreAt (r.cores.headD 0)).ctxs) :
    s.refuseRed r = s.keepRefused r := by
  rw [State.refuseRed, if_neg (Nat.not_le.2 h), if_pos (List.contains_iff_mem.2 hctx)]
  rfl

theorem State.refuseRed_away (h : s.retrySlot r.ctx < s.retryPlaces r.ctx) (hctx : r.ctx ∉ (s.coreAt (r.cores.headD 0)).ctxs) :
    s.refuseRed r = (s.keepRefused r).putRetry { r with slot := s.retrySlot r.ctx } := by
  rw [State.refuseRed, if_neg (Nat.not_le.2 h), if_neg (mt List.contains_iff_mem.1 hctx)]
  rfl

/-- A held line is written to its place, which takes the slices' part in the walk and the write (R170, R347). -/
theorem State.putRetry_free (hs : Sound s) (hregions : s.regions = []) {a : Nat} (hat : s.retryAt r = some a) :
    ∃ l2, s.putRetry r = State.putLine { s with l2 := l2 } a r.words := by
  obtain ⟨l, hl⟩ : ∃ l, s.walkTouch (areaWho r.ctx) (s.retryVa r) = { s with l2 := l } := State.readEntries_none hregions hs ..
  obtain ⟨l2, hl2⟩ := State.unitWrite_none (s := { s with l2 := l }) (errorFree_of_sound (s := s) hs) hregions (s.partOf r.ctx) .hall (some r.ctx) a
    (r.words.flatMap fun w => leBytes 4 w.toNat)
  refine ⟨l2, ?_⟩
  rw [State.putRetry, hat]
  simp only [hl]
  exact hl2

end

end Sys2Proof.Machine
end

section
/-!
PROOFS. Lines at their homes (O43): those that are evicted, those that ACC.INIT and DRAIN write, and the records that DET.NEXT empties; and the
acknowledgements and the held lines of reductions (R149, R170, R172, R176, R179, R180).
-/

namespace Sys2Proof.Machine

open Claims

/-! ### Acknowledgements of reductions and held lines (R149, R170) -/

section
variable {s : State} {k id t : Nat} {g : Group} (hnet : s.net[k]? = some (.redAck id)) (hg : Tab.find s.groups id = some g)
include hnet hg

theorem exec_reductionAck_last (hctr : g.ctr = .mx) (hthreads : g.threads = [t]) (hpour : g.pour = none) (hleft : g.left = 1) (hrun : Running s t) :
    exec (.reductionAck k) s = .next (State.modThread { s with net := dropAt s.net k, groups := Tab.erase s.groups id } t
      fun x => { x with mx := x.mx - 1 }) := by
  obtain ⟨hsome, hpark, -, him, -⟩ := hrun
  obtain ⟨x, hx⟩ := Option.isSome_iff_exists.1 hsome
  have hthread : s.thread t = x := by rw [State.thread, Tab.get, hx]; rfl
  rw [hthread] at hpark him
  have hcount := State.countDown_running (s := { s with net := dropAt s.net k, groups := Tab.erase s.groups id }) hx him (by simp [hpark]) .mx 1
  refine congrArg Host.Outcome.next ?_
  simp only [reductionAck, hnet, State.groupAck, hg, hleft, Nat.le_refl, if_true, hctr, hthreads, hpour, List.foldl_cons, List.foldl_nil]
  exact hcount

theorem exec_reductionAck_part (hleft : 1 < g.left) :
    exec (.reductionAck k) s = .next { s with net := dropAt s.net k, groups := Tab.set s.groups id { g with left := g.left - 1 } } := by
  refine congrArg Host.Outcome.next ?_
  simp only [reductionAck, hnet, State.groupAck, hg, if_neg (Nat.not_le.2 hleft)]

end

/-- A held line whose context is on its core, and runs, sets out again. -/
theorem exec_retryResend {s : State} (hs : Sound s) {c : Coord} {i : Nat} {r : RedLine} (hr : (s.coreAt c).retry[i]? = some r)
    (hctx : r.ctx ∈ (s.coreAt c).ctxs) (hhalt : s.halted r.ctx = false) :
    exec (.retryResend c i) s = .next { s.modCore c (fun q => { q with retry := dropAt q.retry i }) with net := s.net ++ [.red r] } := by
  refine congrArg Host.Outcome.next ?_
  simp [retryResend, hr, State.meetErrors_free (errorFree_of_sound hs), hctx, hhalt]

/-! ### Evicted lines (R172) -/

theorem besideErrors_accLineEvict (s : State) (line : Nat) : (accLineEvict s line).besideErrors = s.besideErrors := by
  unfold accLineEvict
  refine besideErrors_ite rfl (State.besideErrors_slices (besideErrors_ite (by simp) ?_))
  rw [State.besideErrors_mend, State.besideErrors_l2Gone]
  exact besideErrors_ite (by simp) (by simp)

/-- While no error stands, an eviction changes what the slices hold, and no slice keeps the line. -/
theorem accLineEvict_free {s : State} (h : s.errorFree = true) (line : Nat) :
    ∃ l2, accLineEvict s line = { s with l2 := l2 } ∧ ∀ e ∈ l2, ∀ l ∈ e.2, l.line ≠ line := by
  have hgood (unit : Coord) (loc n : Nat) : s.badIn 2 unit loc n = false := by simp [State.badIn, (s.errorFree_iff.1 h).1]
  unfold accLineEvict
  simp only [hgood, Bool.or_self, Bool.false_eq_true, if_false, State.slices_none h]
  split
  · next hnone => exact ⟨s.l2, rfl, by simpa using hnone⟩
  · refine ⟨_, rfl, fun e he l hl => ?_⟩
    obtain ⟨e', -, rfl⟩ := List.mem_map.1 he
    simpa using (List.mem_filter.1 hl).2

/-! ### Lines written anew (R176, R179) -/

/-- Where a line has no parked entry, none is discarded. -/
theorem State.dropParked_none {s : State} {pa : Nat} (h : ∀ r ∈ s.parks, r.pa ≠ pa) : s.dropParked pa = s := by
  have hdrop : s.parks.filter (·.pa == pa) = [] := by simpa using h
  have hkeep : s.parks.filter (·.pa != pa) = s.parks := by simpa using h
  rw [State.dropParked, hdrop, hkeep]
  rfl

/-- A line is written anew: its parked entries are discarded, and its words and its key replaced. -/
def State.renewLine (s : State) (a : Access) (ws : List (BitVec 32)) (key : BitVec 16) : State :=
  (((s.dropParked a.pa).putLine a.pa ws).sliceWrite a.home a.pa 64 a.ctx 5).setKey a.pa key

section
variable {s : State} (h : s.errorFree = true) {a : Access} (hparks : ∀ r ∈ s.parks, r.pa ≠ a.pa) (ws : List (BitVec 32)) (key : BitVec 16)
include h hparks

theorem State.renewLine_free : ∃ l2, s.renewLine a ws key = { s.putLine a.pa ws with l2 := l2, nextKey := Tab.set s.nextKey (a.pa / 64) key } := by
  obtain ⟨l2, hl2⟩ := State.sliceWrite_free (s := s.putLine a.pa ws) h a.home a.pa 64 a.ctx 5
  refine ⟨l2, ?_⟩
  rw [State.renewLine, State.dropParked_none hparks, hl2]
  exact State.setKey_free (s := { s.putLine a.pa ws with l2 := l2 }) h a.pa key

theorem State.renewLine_mem : (s.renewLine a ws key).mem = (s.putLine a.pa ws).mem := by
  obtain ⟨l2, heq⟩ := State.renewLine_free h hparks ws key
  rw [heq]

theorem State.keyOf_renewLine (x : Nat) : (s.renewLine a ws key).keyOf x = if x / 64 = a.pa / 64 then key else s.keyOf x := by
  obtain ⟨l2, heq⟩ := State.renewLine_free h hparks ws key
  rw [heq]
  exact Tab.get_set ..

theorem State.renewLine_keeps : (s.renewLine a ws key).errorFree = true ∧ (s.renewLine a ws key).parks = s.parks ∧
    (s.renewLine a ws key).net = s.net ∧ (s.renewLine a ws key).threads = s.threads := by
  obtain ⟨l2, heq⟩ := State.renewLine_free h hparks ws key
  rw [heq]
  exact ⟨h, rfl, rfl, rfl⟩

/-- The new line is acknowledged. -/
theorem State.renewLine_acked :
    ((s.renewLine a ws key).sendAck a).mem = Memory.writeList s.mem a.pa (lineBytes ws) ∧ ((s.renewLine a ws key).sendAck a).keyOf a.pa = key ∧
    ((s.renewLine a ws key).sendAck a).threads = s.threads ∧
    ((s.renewLine a ws key).sendAck a).net = s.net ++ List.replicate a.words (.ack a.thread a.id) := by
  obtain ⟨l2, heq⟩ := State.renewLine_free h hparks ws key
  rw [heq]
  exact ⟨rfl, Tab.get_set_self .., rfl, rfl⟩

end

/-- In `u` the lines `ls` are zero, their keys too; what else differs from `s` are keys and bytes that have become zero with them. -/
structure Zeroed (ls : List Access) (s u : State) : Prop where
  wf : Memory.wf u.mem = true
  key : ∀ x, u.keyOf x = 0 ∨ u.keyOf x = s.keyOf x
  keyAt : ∀ l ∈ ls, u.keyOf l.pa = 0
  byte : ∀ x, u.byte x = 0 ∨ u.byte x = s.byte x
  byteAt : ∀ l ∈ ls, ∀ x, l.pa ≤ x → x < l.pa + 64 → u.byte x = 0
  out : ∀ x, (∀ l ∈ ls, x < l.pa ∨ l.pa + 64 ≤ x) → u.byte x = s.byte x

theorem Zeroed.cons {a : Access} {ls : List Access} {s w u : State} (h : Zeroed [a] s w) (h' : Zeroed ls w u) : Zeroed (a :: ls) s u where
  wf := h'.wf
  key x := (h'.key x).elim Or.inl fun hx => (h.key x).imp hx.trans hx.trans
  keyAt l hl := by
    rcases List.mem_cons.1 hl with rfl | hl
    · exact (h'.key l.pa).elim id fun hx => hx.trans (h.keyAt l List.mem_cons_self)
    · exact h'.keyAt l hl
  byte x := (h'.byte x).elim Or.inl fun hx => (h.byte x).imp hx.trans hx.trans
  byteAt l hl x h1 h2 := by
    rcases List.mem_cons.1 hl with rfl | hl
    · exact (h'.byte x).elim id fun hx => hx.trans (h.byteAt l List.mem_cons_self x h1 h2)
    · exact h'.byteAt l hl x h1 h2
  out x hx := (h'.out x fun l hl => hx l (List.mem_cons_of_mem _ hl)).trans (h.out x fun l hl => hx l (by simp [List.mem_singleton.1 hl]))

theorem Zeroed.renewLine {s : State} {a : Access} (h : s.errorFree = true) (hparks : ∀ r ∈ s.parks, r.pa ≠ a.pa) (hwf : Memory.wf s.mem = true) :
    Zeroed [a] s (s.renewLine a zeroWords 0) := by
  have hbyte (x : Nat) : (s.renewLine a zeroWords 0).byte x = (s.putLine a.pa zeroWords).byte x := by
    rw [State.byte, State.byte, State.renewLine_mem h hparks]
  have hin (x : Nat) (h1 : a.pa ≤ x) (h2 : x < a.pa + 64) : (s.renewLine a zeroWords 0).byte x = 0 := by
    rw [hbyte, State.byte_putLine_zero hwf h1 h2]
  have hout (x : Nat) (hx : x < a.pa ∨ a.pa + 64 ≤ x) : (s.renewLine a zeroWords 0).byte x = s.byte x := by
    rw [hbyte, State.byte_putLine hwf length_zeroWords hx]
  exact {
    wf := by rw [State.renewLine_mem h hparks, State.mem_putLine, Memory.wf_writeList hwf]
    key := fun x => by
      rw [State.keyOf_renewLine h hparks]
      exact ite_eq_or_eq ..
    keyAt := fun l hl => by rw [List.mem_singleton.1 hl, State.keyOf_renewLine h hparks, if_pos rfl]
    byte := fun x => by
      by_cases hx : a.pa ≤ x ∧ x < a.pa + 64
      · exact Or.inl (hin x hx.1 hx.2)
      · exact Or.inr (hout x (by omega))
    byteAt := fun l hl => by
      rw [List.mem_singleton.1 hl]
      exact hin
    out := fun x hx => hout x (hx a List.mem_cons_self) }

/-- Lines that are cleared one after the other are zero at the end; no parked entry, no packet and no thread has changed. -/
theorem State.renewLines_zeroed (ls : List Access) {s : State} (h : s.errorFree = true) (hparks : ∀ r ∈ s.parks, ∀ l ∈ ls, r.pa ≠ l.pa) :
    let u := ls.foldl (fun s a => s.renewLine a zeroWords 0) s
    u.net = s.net ∧ u.threads = s.threads ∧ (Memory.wf s.mem = true → Zeroed ls s u) := by
  induction ls generalizing s with
  | nil => exact ⟨rfl, rfl, fun hwf => ⟨hwf, fun _ => .inr rfl, by simp, fun _ => .inr rfl, by simp, fun _ _ => rfl⟩⟩
  | cons a ls ih =>
    have hfirst : ∀ r ∈ s.parks, r.pa ≠ a.pa := fun r hr => hparks r hr a List.mem_cons_self
    obtain ⟨hfree, hkept, hnet, hthreads⟩ := State.renewLine_keeps h hfirst zeroWords 0
    obtain ⟨hnet', hthreads', hzero⟩ := ih hfree fun r hr l hl => hparks r (hkept ▸ hr) l (List.mem_cons_of_mem _ hl)
    refine ⟨hnet'.trans hnet, hthreads'.trans hthreads, fun hwf => ?_⟩
    have hone := Zeroed.renewLine h hfirst hwf
    exact hone.cons (hzero hone.wf)

/-! ### The home of an access (R176, R179, R180) -/

theorem Tab.find_keep {α : Type} (f : Nat → Bool) (t : Tab α) (i : Nat) :
    Tab.find (Tab.keep (fun w _ => f w) t) i = if f i then Tab.find t i else none := by
  induction t with
  | nil => simp [Tab.keep, Tab.find]
  | cons e t ih =>
    obtain ⟨w, x⟩ := e
    rw [Tab.keep] at ih ⊢
    rw [List.filter_cons]
    by_cases hi : i = w
    · subst hi
      by_cases hf : f i = true <;> simp [Tab.find, hf, ih]
    · by_cases hf : f w = true <;> simp [Tab.find, hf, hi, ih]

/-- The bytes of a row, by its format (R179). -/
theorem drainBytes_eq (f : BitVec 5) (ws : List (BitVec 32)) :
    drainBytes f.toNat ws =
      if f = 2 then (ws.flatMap fun w => leBytes 4 w.toNat, [])
      else if f = 4 then (ws.flatMap fun w => leBytes 2 (fmtBF16.round .rne true (fmtF32.decode w.toNat)).1, [])
      else (leBytes (blockBytes f.toNat) (quantBlock f.toNat (ws.map fun w => fmtF32.decode w.toNat)).1,
        if isMxCode f.toNat then leBytes 1 (quantBlock f.toNat (ws.map fun w => fmtF32.decode w.toNat)).2 else []) := by
  have hnum (n : BitVec 5) : f = n ↔ f.toNat = n.toNat := BitVec.toNat_inj.symm
  simp only [hnum]
  unfold drainBytes
  dsimp only
  split
  · next h => simp [h]
  · next h => simp [h, List.flatMap_map]
  · next h2 h4 => exact ((if_neg h2).trans (if_neg h4)).symm

/-- While no error stands, an access that reaches its home leaves the traffic, and nothing else changes. -/
theorem State.arrive_sound {s : State} (hs : Sound s) (k : Nat) (a : Access) : s.arrive k a = s.drop k :=
  State.meetErrors_free (s := s.drop k) (errorFree_of_sound (s := s) hs) ..

section
variable {s : State} {k : Nat} (hs : Sound s) (hready : s.ready k = true)
include hs hready

theorem exec_homeAccess_accInit {a : Access} {v : BitVec 32} {key : BitVec 16} (hnet : s.net[k]? = some (.accInit a v key)) :
    exec (.homeAccess k) s = .next ((s.drop k).homeAccInit a v key) := by
  refine congrArg Host.Outcome.next ?_
  simp only [homeAccess, hready, hnet, State.arrive_sound hs, Bool.not_true, Bool.false_eq_true, if_false]

theorem exec_homeAccess_detNext {a : Access} {p : Placement} (hnet : s.net[k]? = some (.detNext a p)) :
    exec (.homeAccess k) s = .next ((s.drop k).homeDetNext a p) := by
  refine congrArg Host.Outcome.next ?_
  simp only [homeAccess, hready, hnet, State.arrive_sound hs, Bool.not_true, Bool.false_eq_true, if_false]

omit hs in
theorem exec_homeAccess_drainRow {ls es sc : List Access} {f : BitVec 5} {clr : Bool} (hnet : s.net[k]? = some (.drainRow ls f clr es sc)) :
    exec (.homeAccess k) s = .next (s.homeDrainRow k ls f clr es sc) := by
  refine congrArg Host.Outcome.next ?_
  simp only [homeAccess, hready, hnet, Bool.not_true, Bool.false_eq_true, if_false]

end

theorem lineBytes_replicate (n : Nat) (w : BitVec 32) : lineBytes (List.replicate n w) = (List.replicate n (leBytes 4 w.toNat)).flatten := by
  rw [lineBytes, List.flatMap_def, List.map_replicate]

/-- ACC.INIT's line takes sixteen times the value, and the key (R176). -/
theorem answers_homeAccInit {s : State} {k : Nat} (hs : Sound s) (hready : s.ready k = true) {a : Access} {v : BitVec 32} {key : BitVec 16}
    (hnet : s.net[k]? = some (.accInit a v key)) (hparks : ∀ r ∈ s.parks, r.pa ≠ a.pa) :
    answers (.homeAccess k) s fun u => u.mem = Memory.writeList s.mem a.pa ((List.replicate 16 (leBytes 4 v.toNat)).flatten) ∧ u.keyOf a.pa = key ∧
      u.threads = s.threads ∧ u.net = dropAt s.net k ++ List.replicate a.words (.ack a.thread a.id) := by
  rw [← lineBytes_replicate]
  exact ⟨_, exec_homeAccess_accInit hs hready hnet,
    State.renewLine_acked (s := s.drop k) (errorFree_of_sound (s := s) hs) hparks (List.replicate 16 v) key⟩

/-- DET.NEXT's slice empties the records of the range that it homes (R180). -/
theorem answers_homeDetNext {s : State} {k : Nat} (hs : Sound s) (hready : s.ready k = true) {a : Access} {p : Placement}
    (hnet : s.net[k]? = some (.detNext a p)) :
    answers (.homeAccess k) s fun u => u.mem = s.mem ∧ u.threads = s.threads ∧
      u.net = dropAt s.net k ++ List.replicate a.words (.ack a.thread a.id) ∧
      ∀ w, Tab.find u.detRec w = if a.pa ≤ 8 * w ∧ 8 * w < a.pa + a.n ∧ s.homeSlice (s.partOf a.ctx) p (8 * w) = a.home then none
        else Tab.find s.detRec w := by
  refine ⟨_, exec_homeAccess_detNext hs hready hnet, rfl, rfl, rfl, fun w => ?_⟩
  refine (Tab.find_keep (fun w => !(a.pa ≤ 8 * w && 8 * w < a.pa + a.n && s.homeSlice (s.partOf a.ctx) p (8 * w) == a.home)) s.detRec w).trans ?_
  by_cases hgone : a.pa ≤ 8 * w ∧ 8 * w < a.pa + a.n ∧ s.homeSlice (s.partOf a.ctx) p (8 * w) = a.home
  · rw [if_pos hgone]
    simp [hgone]
  · rw [if_neg hgone, if_pos (by grind)]

/-- The reads of a row's lines change what the slices hold. -/
theorem State.readLines_free {s : State} (h : s.errorFree = true) (ls : List Access) :
    ∃ l2, ls.foldl (fun s a => s.sliceRead a.home a.pa 64 a.ctx 5) s = { s with l2 := l2 } := by
  refine foldl_keeps (P := fun u : State => ∃ l2, u = { s with l2 := l2 }) (fun u a hu => ?_) ls ⟨s.l2, rfl⟩
  obtain ⟨l2, rfl⟩ := hu
  exact State.sliceRead_free (s := { s with l2 := l2 }) h ..

/-- A row of DRAIN: its lines are read, cleared if it says so, and its stores stand in its place (R179). -/
theorem State.homeDrainRow_row {s : State} (h : s.errorFree = true) (k : Nat) {ls : List Access}
    (hparks : ∀ r ∈ s.parks, ∀ l ∈ ls, r.pa ≠ l.pa) (f : BitVec 5) (clr : Bool) (es sc : List Access) :
    let out := drainBytes f.toNat (ls.flatMap fun a => s.lineWords a.pa)
    let u := s.homeDrainRow k ls f clr es sc
    u.net = s.net.take k ++ (storesOf es out.1 ++ storesOf sc out.2) ++ s.net.drop (k + 1) ∧ u.threads = s.threads ∧
      (clr = false → u.mem = s.mem ∧ u.nextKey = s.nextKey) ∧ (clr = true → Memory.wf s.mem = true → Zeroed ls s u) := by
  intro out u
  obtain ⟨l2, hl2⟩ := State.readLines_free h ls
  obtain ⟨hnet, hthreads, hzero⟩ := State.renewLines_zeroed (s := { s with l2 := l2 }) ls h hparks
  have hu : u = (let w := if clr then ls.foldl (fun s a => s.renewLine a zeroWords 0) { s with l2 := l2 } else { s with l2 := l2 }
      { w with net := w.net.take k ++ (storesOf es out.1 ++ storesOf sc out.2) ++ w.net.drop (k + 1) }) := by
    simp only [u, State.homeDrainRow, hl2]
    rfl
  rw [hu]
  cases clr with
  | false => exact ⟨rfl, rfl, fun _ => ⟨rfl, rfl⟩, nofun⟩
  | true =>
    refine ⟨congrArg (fun n : List Packet => n.take k ++ (storesOf es out.1 ++ storesOf sc out.2) ++ n.drop (k + 1)) hnet, hthreads, nofun,
      fun _ hwf => ?_⟩
    have hz := hzero hwf
    exact ⟨hz.wf, hz.key, hz.keyAt, hz.byte, hz.byteAt, hz.out⟩

end Sys2Proof.Machine
end

section
/-!
PROOFS. The infusers accumulate (O43).
-/

namespace Sys2Proof.Machine

open Claims

/-! ### What an arrival does (R169) -/

section
variable {s : State} {r : RedLine}

theorem State.arriveRed_awaited (h : r.key = s.keyOf r.pa) :
    s.arriveRed r = ((s.applyRed r).setKey r.pa (r.key + 1)).applyParked r.pa s.parks.length := if_pos h

theorem State.arriveRed_park (h : r.key ≠ s.keyOf r.pa) (hroom : (s.parks.filter (·.home == r.home)).length < 64) : s.arriveRed r = s.park r :=
  (if_neg h).trans (if_pos hroom)

theorem State.arriveRed_refuse (h : r.key ≠ s.keyOf r.pa) (hfull : 64 ≤ (s.parks.filter (·.home == r.home)).length) :
    s.arriveRed r = s.refuseRed r := (if_neg h).trans (if_neg (Nat.not_lt.2 hfull))

end

/-- What is added to a state is added to one that differs from it in errors and slices alone. -/
theorem Added.of_besideErrors {r : RedLine} {s w u : State} (hw : w.besideErrors = s.besideErrors) (h : Added r w u) : Added r s u where
  wf := h.wf
  words := by rw [h.words, State.lineWords_of_besideErrors hw]
  byte x hx := (h.byte x hx).trans (State.byte_of_besideErrors hw x)
  keyOf l := (h.keyOf l).trans (State.keyOf_of_besideErrors hw l)
  net := by rw [h.net, State.net_of_besideErrors hw]
  threads := h.threads.trans (State.threads_of_besideErrors hw)
  parks := h.parks.trans (State.parks_of_besideErrors hw)

section
variable {s : State} (k : Nat) {p : RedLine}

theorem State.added_arrived (hwf : Memory.wf s.mem = true) (hlen : p.words.length = 16) :
    Added p { s with net := dropAt s.net k } ((s.arrived k p).applyRed p) :=
  .of_besideErrors (s.besideErrors_arrived k p) (State.added_applyRed (by
    rw [State.mem_of_besideErrors (s.besideErrors_arrived k p)]
    exact hwf) hlen)

/-- The state in which the awaited partial `p` has been added, and the key of its line has advanced. -/
def State.awaited (s : State) (k : Nat) (p : RedLine) : State := ((s.arrived k p).applyRed p).setKey p.pa (p.key + 1)

theorem State.arriveRed_arrived (hkey : p.key = s.keyOf p.pa) :
    (s.arrived k p).arriveRed p = (s.awaited k p).applyParked p.pa s.parks.length := by
  have hkept : (s.arrived k p).parks = s.parks := (State.parks_of_besideErrors (s.besideErrors_arrived k p) :)
  rw [State.arriveRed_awaited (hkey.trans (State.keyOf_of_besideErrors (s.besideErrors_arrived k p) p.pa).symm), hkept]
  rfl

theorem State.awaited_free (h : s.errorFree = true) :
    (s.awaited k p).errorFree = true ∧ (s.awaited k p).ctxs = s.ctxs ∧ (s.awaited k p).parks = s.parks := by
  obtain ⟨l2, hl2⟩ := State.arrived_free h k p
  obtain ⟨mem, l2', heq⟩ := State.applyRed_free (s := { s with l2 := l2, net := dropAt s.net k }) h p
  rw [State.awaited, hl2, heq, State.setKey_free (s := { s with mem := mem, l2 := l2', net := dropAt s.net k ++ p.groups.map .redAck }) h]
  exact ⟨h, rfl, rfl⟩

/-- An awaited partial without parked entries for its line is added, and nothing follows. -/
theorem State.arriveRed_alone (hwf : Memory.wf s.mem = true) (hlen : p.words.length = 16) (hkey : p.key = s.keyOf p.pa)
    (hparks : ∀ r ∈ s.parks, r.pa ≠ p.pa) : (s.arrived k p).arriveRed p = s.awaited k p := by
  rw [State.arriveRed_arrived k hkey]
  refine State.applyParked_none (fun r hr hpa => absurd hpa (hparks r ?_)) _
  exact (State.added_arrived k hwf hlen).parks ▸ hr

/-- While no error stands, the one parked successor of an awaited partial is added after it. -/
theorem State.arriveRed_pair (h : s.errorFree = true) (hkey : p.key = s.keyOf p.pa) {r : RedLine} (hr : r ∈ s.parks) (hpa : r.pa = p.pa)
    (hnext : r.key = p.key + 1) (honly : ∀ q ∈ s.parks, q ≠ r → q.pa ≠ p.pa) (hhalt : s.halted r.ctx = false) :
    (s.arrived k p).arriveRed p = (s.awaited k p).followRed p.pa r := by
  obtain ⟨hfree, hctxs, hparks⟩ := State.awaited_free k (p := p) h
  have hnow : (s.awaited k p).keyOf p.pa = p.key + 1 := State.keyOf_setKey_self ..
  have hfind : ((s.awaited k p).parks.find? fun q => q.pa == p.pa && q.key == (s.awaited k p).keyOf p.pa) = some r := by
    rw [hparks, hnow]
    cases hq : s.parks.find? fun q => q.pa == p.pa && q.key == p.key + 1 with
    | none => exact absurd (List.find?_eq_none.1 hq r hr) (by simp [hpa, hnext])
    | some q =>
      have hat := List.find?_some hq
      rw [Bool.and_eq_true, beq_iff_eq] at hat
      by_contra hne
      exact honly q (List.mem_of_find?_eq_some hq) (fun h => hne (congrArg some h)) hat.1
  obtain ⟨n, hn⟩ := Nat.exists_eq_succ_of_ne_zero (List.length_pos_of_mem hr).ne'
  have hlive : (s.awaited k p).halted r.ctx = false := by rwa [State.halted, State.ctxOf, hctxs]
  rw [State.arriveRed_arrived k hkey, hn, State.applyParked_some hfree hfind hlive]
  refine State.applyParked_none (fun q hq hqpa => ?_) _
  obtain ⟨-, -, hleft⟩ := State.followRed_free hfree (pa := p.pa) r
  rw [hleft, hparks] at hq
  have hqr : q = r := by
    by_contra hne
    exact honly q (List.mem_of_mem_erase hq) hne hqpa
  rw [hqr, hnext, State.followRed, State.keyOf_setKey_self, hnow]
  simp

/-- What a refused partial leaves at its core. -/
theorem State.keepRefused_arrived : (s.arrived k p).keepRefused p =
    { (s.meetRed p).modCore (p.cores.headD 0) (fun q => { q with retry := q.retry ++ [{ p with slot := s.retrySlot p.ctx }] }) with
      net := dropAt s.net k } := by
  have hslot : (s.arrived k p).retrySlot p.ctx = s.retrySlot p.ctx := (congrArg (State.retrySlot · p.ctx) (s.besideErrors_arrived k p) :)
  rw [State.keepRefused, hslot]
  rfl

/-- A partial with another key than the awaited one, for which the park buffer of its home has no room, is refused (R169, R170). -/
theorem State.arriveRed_arrived_refuse (hkey : p.key ≠ s.keyOf p.pa) (hfull : 64 ≤ (s.parks.filter (·.home == p.home)).length) :
    (s.arrived k p).arriveRed p = (s.arrived k p).refuseRed p := by
  have heq := s.besideErrors_arrived k p
  refine State.arriveRed_refuse (fun h => hkey (h.trans (State.keyOf_of_besideErrors heq p.pa))) ?_
  rw [State.parks_of_besideErrors heq]
  exact hfull

/-- The places of the retry area, and the contexts on a core, are those before the arrival. -/
theorem State.refusal_arrived : (s.arrived k p).retrySlot p.ctx = s.retrySlot p.ctx ∧ (s.arrived k p).retryPlaces p.ctx = s.retryPlaces p.ctx ∧
    ∀ c, (s.arrived k p).coreAt c = s.coreAt c := by
  have heq := s.besideErrors_arrived k p
  exact ⟨(congrArg (State.retrySlot · p.ctx) heq :), (congrArg (State.retryPlaces · p.ctx) heq :), fun c => (congrArg (State.coreAt · c) heq :)⟩

/-- A partial with another key than the awaited one is parked where the park buffer of its home has room (R169). -/
theorem State.arriveRed_arrived_park (hkey : p.key ≠ s.keyOf p.pa) (hroom : (s.parks.filter (·.home == p.home)).length < 64) :
    ∃ n < 64, (∀ r ∈ s.parks, r.home = p.home → r.slot ≠ n) ∧ ((s.arrived k p).arriveRed p).besideErrors =
      { s with net := dropAt s.net k, parks := s.parks ++ [{ p with slot := n }] }.besideErrors := by
  have heq := s.besideErrors_arrived k p
  have hparks : (s.arrived k p).parks = s.parks := (State.parks_of_besideErrors heq :)
  rw [← hparks] at hroom ⊢
  obtain ⟨n, hn, hown, hpark⟩ := State.park_place hroom
  rw [State.arriveRed_park (fun h => hkey (h.trans (State.keyOf_of_besideErrors heq p.pa))) hroom]
  refine ⟨n, hn, hown, hpark.trans ?_⟩
  exact congrArg (fun u : State => { u with parks := (s.arrived k p).parks ++ [{ p with slot := n }] }) heq

/-- The keys of other lines stay where an awaited partial is added (R169). -/
theorem State.awaited_keyOf (hwf : Memory.wf s.mem = true) (hlen : p.words.length = 16) (l : Nat) (hl : l / 64 ≠ p.pa / 64) :
    (s.awaited k p).keyOf l = s.keyOf l := by
  rw [State.awaited, State.keyOf_setKey, if_neg hl]
  exact (State.added_arrived k hwf hlen).keyOf l

/-- After the parked successor `r` the line has both sums, one upon the other, and both acknowledgements are on their way (R169). -/
theorem State.followRed_awaited (hwf : Memory.wf s.mem = true) (hlen : p.words.length = 16) {r : RedLine} (hpa : r.pa = p.pa)
    (hrlen : r.words.length = 16) :
    let u := (s.awaited k p).followRed p.pa r
    u.lineWords p.pa = ((s.lineWords p.pa).zipWith fadd32 p.words).zipWith fadd32 r.words ∧ u.keyOf p.pa = p.key + 2 ∧
      u.parks = s.parks.erase r ∧ u.net = dropAt s.net k ++ p.groups.map .redAck ++ r.groups.map .redAck ∧
      ∀ x, x < p.pa ∨ p.pa + 64 ≤ x → u.byte x = s.byte x := by
  have hfirst := State.added_arrived k hwf hlen
  have hthen := State.added_applyRed (s := { s.awaited k p with parks := (s.awaited k p).parks.erase r }) hfirst.wf hrlen
  refine ⟨?_, ?_, ?_, ?_, fun x hx => ?_⟩
  · have hwords := hthen.words
    rw [hpa] at hwords
    exact hwords.trans (congrArg (List.zipWith fadd32 · r.words) hfirst.words)
  · rw [State.followRed, State.keyOf_setKey_self, State.awaited, State.keyOf_setKey_self, BitVec.add_assoc]
    rfl
  · exact hthen.parks.trans (congrArg (List.erase · r) hfirst.parks)
  · exact hthen.net.trans (congrArg (· ++ r.groups.map Packet.redAck) hfirst.net)
  · exact (hthen.byte x (by rwa [hpa])).trans (hfirst.byte x hx)

/-- A refused partial is kept by its core, in the lowest place of the retry area, which it is written to where its context is away; with no place left
its context halts (R170, R181). -/
theorem State.arriveRed_arrived_refused (hkey : p.key ≠ s.keyOf p.pa) (hfull : 64 ≤ (s.parks.filter (·.home == p.home)).length) :
    let c := p.cores.headD 0
    let n := s.retrySlot p.ctx
    let held : State := { (s.meetRed p).modCore c (fun q => { q with retry := q.retry ++ [{ p with slot := n }] }) with net := dropAt s.net k }
    (n < s.retryPlaces p.ctx → p.ctx ∈ (s.coreAt c).ctxs → (s.arrived k p).arriveRed p = held) ∧
    (∀ a, n < s.retryPlaces p.ctx → p.ctx ∉ (s.coreAt c).ctxs → Sound s → s.regions = [] → held.retryAt { p with slot := n } = some a →
      ∃ l2, (s.arrived k p).arriveRed p = State.putLine { held with l2 := l2 } a p.words) ∧
    (s.retryPlaces p.ctx ≤ n → (s.arrived k p).arriveRed p = held.haltCtx p.ctx { cause := 4, unit := some c, kind := 1 }) := by
  intro c n held
  obtain ⟨hslot, hplaces, hcore⟩ := State.refusal_arrived (s := s) k (p := p)
  have hheld : (s.arrived k p).keepRefused p = held := State.keepRefused_arrived k
  rw [State.arriveRed_arrived_refuse k hkey hfull]
  refine ⟨fun hplace hctx => ?_, fun a hplace hctx hs hregions hat => ?_, fun hplace => ?_⟩
  · exact (State.refuseRed_here (by rwa [hslot, hplaces]) (by rwa [hcore])).trans hheld
  · rw [State.refuseRed_away (by rwa [hslot, hplaces]) (by rwa [hcore]), hslot, hheld]
    obtain ⟨l2, hl2⟩ := State.meetRed_free (errorFree_of_sound hs) p
    have hsame : Sound held ∧ held.regions = [] := by
      simp only [held, hl2]
      exact ⟨hs, hregions⟩
    exact State.putRetry_free hsame.1 hsame.2 hat
  · rw [State.refuseRed_full (by rwa [hslot, hplaces]), hheld]

end

/-! ### O43 -/

/-- Settles O43: each clause is the lemma on its event; what an arrival reads leaves errors and slices alone, so that what is added, parked or refused
is worked out on the state before it. -/
theorem theInfusersAccumulate : Obligations.TheInfusersAccumulate := by
  unfold Obligations.TheInfusersAccumulate
  refine ⟨?_, ?_, fun s c i r hr hctx hhalt hs => exec_retryResend hs hr hctx hhalt, ?_,
    fun s k a v key hready hnet hs hparks => answers_homeAccInit hs hready hnet hparks,
    fun s k a p hready hnet hs => answers_homeDetNext hs hready hnet, ?_⟩
  · intro s k p hnet hwf hhalt hawake hlen _ hwait
    have hadd := State.added_arrived k hwf hlen
    refine ⟨fun hord hkey hparks => answers_ordered hnet hhalt hawake hwait hord ?_,
      fun hord hkey hs hlive => answers_ordered hnet hhalt hawake hwait hord ?_,
      fun r hr hord hkey hpa hnext hrlen honly hs hlive => answers_ordered hnet hhalt hawake hwait hord ?_,
      fun hord hkey hroom => answers_ordered hnet hhalt hawake hwait hord ?_, fun hord hkey hfull => ?_,
      fun hord hlast => answers_free hnet hhalt hawake hwait hord hlast ?_⟩
    · rw [State.arriveRed_alone k hwf hlen hkey hparks]
      exact ⟨⟨hadd.words, hadd.byte, State.awaited_keyOf k hwf hlen, hadd.net, hadd.threads, hadd.parks⟩, State.keyOf_setKey_self ..⟩
    · obtain ⟨hfree, hctxs, hparks⟩ := State.awaited_free k (p := p) (errorFree_of_sound hs)
      rw [State.arriveRed_arrived k hkey]
      refine State.applyParked_exhausts _ hfree (fun r hr hpa => ?_) (by rw [hparks])
      rw [State.halted, State.ctxOf, hctxs]
      exact hlive r (hparks ▸ hr) hpa
    · rw [State.arriveRed_pair k (errorFree_of_sound hs) hkey hr hpa hnext honly hlive]
      exact State.followRed_awaited k hwf hlen hpa hrlen
    · obtain ⟨n, hn, hown, heq⟩ := State.arriveRed_arrived_park k hkey hroom
      exact ⟨⟨n, hn, hown, State.parks_of_besideErrors heq⟩, State.net_of_besideErrors heq, (State.mem_of_besideErrors heq :),
        (State.nextKey_of_besideErrors heq :), (State.threads_of_besideErrors heq :)⟩
    · obtain ⟨hhere, haway, hlost⟩ := State.arriveRed_arrived_refused k hkey hfull
      exact ⟨fun hplace hctx => answers_ordered hnet hhalt hawake hwait hord (hhere hplace hctx),
        fun a hplace hctx hs hregions hat => answers_ordered hnet hhalt hawake hwait hord (haway a hplace hctx hs hregions hat),
        fun hplace => answers_ordered hnet hhalt hawake hwait hord (hlost hplace)⟩
    · exact ⟨⟨hadd.words, hadd.byte, fun l _ => hadd.keyOf l, hadd.net, hadd.threads, hadd.parks⟩, hadd.keyOf p.pa⟩
  · intro s k id g t hnet hg hctr hthreads hpour hrun
    refine ⟨fun hleft => ⟨_, exec_reductionAck_last hnet hg hctr hthreads hpour hleft hrun, ?_⟩, exec_reductionAck_part hnet hg⟩
    exact ⟨State.thread_modThread .., rfl, rfl, rfl, fun v hv => State.thread_setThread_ne _ _ hv⟩
  · intro s line
    have heq := besideErrors_accLineEvict s line
    refine ⟨_, rfl, State.mem_of_besideErrors heq, State.nextKey_of_besideErrors heq, State.parks_of_besideErrors heq,
      State.detRec_of_besideErrors heq, State.threads_of_besideErrors heq, State.net_of_besideErrors heq, fun hs => ?_⟩
    obtain ⟨l2, hl2, hgone⟩ := accLineEvict_free (errorFree_of_sound hs) line
    rw [hl2]
    exact ⟨rfl, hgone⟩
  · intro s k ls es sc f clr hready hnet hs hparks
    obtain ⟨hrow, hthreads, hkept, hzero⟩ := State.homeDrainRow_row (errorFree_of_sound hs) k hparks f clr es sc
    rw [drainBytes_eq] at hrow
    refine ⟨_, exec_homeAccess_drainRow hready hnet, hrow, hthreads, hkept, fun hclr hwf => ?_⟩
    have hz := hzero hclr hwf
    exact ⟨fun l hl => ⟨hz.keyAt l hl, hz.byteAt l hl⟩, hz.out⟩

end Sys2Proof.Machine
end
